-- ==== Sys2Proof/Word.lean ====
section
/-! DEFINITION. Words, bytes and byte strings, and their plainest arithmetic. -/

namespace Sys2Proof

abbrev Byte := BitVec 8
abbrev Half := BitVec 16
abbrev Word := BitVec 32
abbrev DWord := BitVec 64

/-- A byte string, byte 0 first. -/
abbrev Bytes := List Byte

/-- A unit number of R66: kind code in bits [15:12], index in bits [11:0]. -/
abbrev UnitNo := Nat

/-- A context number, 0 to 15 (R382, R465). -/
abbrev CtxNo := Nat

/-- A zero byte string of `n` bytes. -/
def zeros (n : Nat) : Bytes := List.replicate n 0

/-- Serial-number comparison of R18: `a` is later than `b`. -/
def laterThan {n : Nat} (a b : BitVec n) : Bool :=
  let d := (a - b).toNat
  decide (1 ≤ d ∧ d ≤ 2 ^ (n - 1) - 1)

/-- Serial-number comparison of R18: the two values are not ordered. -/
def unordered {n : Nat} (a b : BitVec n) : Bool :=
  decide (0 < n ∧ (a - b).toNat = 2 ^ (n - 1))

end Sys2Proof
end

