-- ==== Sys2Proof/Syntax.lean ====
section
/-! DEFINITION. The cues of chapter 3, the operands of the commands, and the ONE inductive of the commands:
one constructor per row of spec/opcode_table.json. -/

namespace Sys2Proof

/-- The kinds of unit that run cue streams (R66, Table 3-1), in the order of their kind codes 0x0 to 0xB. -/
inductive UnitKind where
  | facet | edge | garland | cabochon | mover | channel | scatter | charm | pavilion | clasp | fabric | host
deriving DecidableEq, Repr

/-- The number formats of Table 2-2 and of the integers (R45, R44). -/
inductive Fmt where
  | int4 | int8 | int32 | e4m3 | e5m2 | bf16 | fp32
deriving DecidableEq, Repr

/-- The predicate part of a cue header (R75, Table 3-4). -/
structure Pred where
  pen : BitVec 1
  ppol : BitVec 1
  preg : BitVec 3
  pbit : BitVec 5
deriving DecidableEq, Repr

/-- MAC and MAC_CLR fields (R79, Table 3-6). -/
structure MacFields where
  fmtA : BitVec 3
  fmtB : BitVec 3
  w : BitVec 9
  rmen : BitVec 1
  rmreg : BitVec 3
  aBase : BitVec 18
  aStr : BitVec 6
  bBase : BitVec 18
  bStr : BitVec 6
deriving DecidableEq, Repr

/-- ROUND fields (R82, Table 3-7). -/
structure RoundFields where
  fmtOut : BitVec 3
  w : BitVec 9
  eOut : BitVec 8
  sat : BitVec 1
  rmen : BitVec 1
  rmreg : BitVec 3
  dBase : BitVec 18
  dStr : BitVec 6
  sten : BitVec 1
  sBase : BitVec 18
  sStr : BitVec 6
deriving DecidableEq, Repr

/-- LSUM_OUT fields (R83). -/
structure LsumOutFields where
  dBase : BitVec 18
  dStr : BitVec 6
  rmen : BitVec 1
  rmreg : BitVec 3
deriving DecidableEq, Repr

/-- LSUM_IN fields (R83). -/
structure LsumInFields where
  w : BitVec 9
  sBase : BitVec 18
  sStr : BitVec 6
  rmen : BitVec 1
  rmreg : BitVec 3
deriving DecidableEq, Repr

/-- COPY and FILL fields (R84, Table 3-8). -/
structure MoveFields where
  src : BitVec 40
  dst : BitVec 40
  srcStr : BitVec 6
  dstStr : BitVec 6
  len : BitVec 5
  slot : BitVec 10
deriving DecidableEq, Repr

/-- READ and WRITE fields (R86, Table 3-9). -/
structure MemFields where
  laddr : BitVec 40
  saddr : BitVec 40
  lStr : BitVec 6
  sStr : BitVec 6
  slot : BitVec 10
deriving DecidableEq, Repr

/-- The vector operations of R88, Table 3-11, in the order of their codes 0x00 to 0x23. -/
inductive VOp where
  | add | sub | mul | fma | min | max | abs | neg | cmpEq | cmpLt | cmpLe
  | rcp | rsqrt | sqrt | exp2 | log2 | sin2pi | cos2pi
  | cvtFromI32 | cvtToI32
  | fromBf16 | fromE4m3 | fromE5m2 | fromI8 | fromI4
  | toBf16 | toE4m3 | toE5m2 | toI8 | toI4
  | copy | pick | tadd | tmin | tmax | pack
deriving DecidableEq, Repr

/-- VEC fields but for the operation (R87, Table 3-10). -/
structure VecFields where
  n : BitVec 4
  lmen : BitVec 1
  lmreg : BitVec 3
  aOff : BitVec 16
  aStr : BitVec 6
  bOff : BitVec 16
  bStr : BitVec 6
  cOff : BitVec 16
  cStr : BitVec 6
  dOff : BitVec 16
  dStr : BitVec 6
deriving DecidableEq, Repr

/-- ENG fields (R89, Table 3-12). -/
structure EngFields where
  eop : BitVec 6
  desc : BitVec 20
  descStr : BitVec 6
  opnd : BitVec 40
  opndStr : BitVec 6
  slot : BitVec 10
  param : BitVec 22
deriving DecidableEq, Repr

/-- PORT fields (R90, Table 3-13). -/
structure PortFields where
  pop : BitVec 6
  loff : BitVec 20
  lstr : BitVec 6
  len : BitVec 5
  rmod : BitVec 12
  raddr : BitVec 40
  rstr : BitVec 6
  param : BitVec 15
deriving DecidableEq, Repr

/-- A cue without its predicate: the classes and operations of R76, Table 3-5. -/
inductive Cue where
  | idle
  | idleLoad (level : BitVec 4)
  | mac (f : MacFields)
  | macClr (f : MacFields)
  | round (f : RoundFields)
  | lsumOut (f : LsumOutFields)
  | lsumIn (f : LsumInFields)
  | clear
  | copy (f : MoveFields)
  | fill (f : MoveFields)
  | read (f : MemFields)
  | write (f : MemFields)
  | vec (op : VOp) (f : VecFields)
  | eng (f : EngFields)
  | port (f : PortFields)
  | loop (body : BitVec 11) (trips : BitVec 16)
  | arms (arm1 : BitVec 8) (arm2 : BitVec 8) (spol : BitVec 1) (sreg : BitVec 3) (sbit : BitVec 5)
  | mload (mreg : BitVec 3) (off : BitVec 20) (str : BitVec 6) (bind : BitVec 1) (live : BitVec 8)
  | mlogic (dreg : BitVec 3) (areg : BitVec 3) (breg : BitVec 3) (fn : BitVec 2)
  | mset (mreg : BitVec 3) (value : BitVec 32)
deriving DecidableEq, Repr

/-- A cue with its header predicate. -/
structure CueWord where
  pred : Pred
  cue : Cue
deriving DecidableEq, Repr

/-! ## Operands of the commands -/

/-- What host memory answers to a ring fetch (R438): the 64-byte entry and its 16-byte tag, or a poisoned
completion. -/
inductive FetchReply where
  | entry (data : Bytes) (tag : Bytes)
  | poisoned
deriving DecidableEq, Repr

/-- A block of a 64b/66b line (R252): its sync header and its 64 payload bits as they stand on the line, the bit sent first
in bit 0. -/
structure LineBlock where
  header : BitVec 2
  payload : BitVec 64
deriving DecidableEq, Repr

/-- An inbound Clasp frame as it comes over the line (R252 to R265). -/
structure ClaspArrival where
  /-- The 58 payload bits that came before the first block, the oldest in bit 0. -/
  history : BitVec 58
  /-- The blocks from START to TERMINATE. -/
  blocks : List LineBlock
  /-- `E_P` minus the boundary of bead D − 1 of the present rotation, in tenths of a symbol time (R265). -/
  arrTenths : Int
deriving DecidableEq, Repr

/-- What alignment measured (R268): the end instants of 64 periods in symbol times relative to the boundary of bead D − 1,
PERIOD_LO of the last frame, and the arrival offsets of one lag cycle after the slew, in symbol times. -/
structure AlignMeasure where
  es : List Int
  periodLo : Half
  arrs : List Int
deriving DecidableEq, Repr

/-- The kinds of relayed or latched inputs (R295, R325): the Cast type and payload of Table 10-5. -/
structure RelayedInput where
  latchBead : Nat
  castType : Byte
  source : Nat
  suborder : Nat
  ctx : CtxNo
  payload : Bytes
deriving DecidableEq, Repr

/-- A Signet as a SIGNET item carries it (Table 11-3). -/
structure SignetItem where
  ctx : CtxNo
  kind : Byte
  port : Byte
  index : DWord
  signet : Bytes
deriving DecidableEq, Repr

/-- The grant record of an ADMIT item (R326): image and configuration record as relayed, segment bases,
partition bases and live words. -/
structure GrantRecord where
  ctx : CtxNo
  image : Bytes
  record : Bytes
  segBases : List (Nat × Nat)
  partBases : List (Nat × Nat)
deriving DecidableEq, Repr

/-- What a clock monitor window found of each source (R354, Table 12-2). -/
structure MonitorWindow where
  /-- crystal: no edge for 200 ns -/
  xtalNoEdge : Bool
  /-- crystal more than 1 % off the count learned at start-up -/
  xtalOff : Bool
  /-- internal oscillator outside ±3 % -/
  oscOff : Bool
  /-- the root PLL's lock detector dropped -/
  rootLockDropped : Bool
  /-- Clasp ports 0 to 3: more than 300 ppm from the root -/
  claspOff : List Bool
  /-- Clasp ports 0 to 3: within ±200 ppm of the crystal -/
  claspNear : List Bool
  /-- the twin link: lock lost or off -/
  twinOff : Bool
  /-- root within 0.1 ppm of its reference -/
  rootNear : Bool
  /-- root offset from the crystal in 0.01 ppm -/
  offset : BitVec 16
deriving DecidableEq, Repr

/-- What the pair hears while it listens at start-up (R319). -/
inductive PairHeard where
  | leadCells | startingPartner (slot : Nat) | nothing
deriving DecidableEq, Repr

/-- The client side of a management connection: the address and TCP port that it asks for (R408, R409, R410). -/
structure ConnectReq where
  dest : Bytes
  port : Half
  tls13 : Bool
  suite : Half
  scheme : Half
  chain : Nat
  selfSignedKey : Bytes
deriving DecidableEq, Repr

/-- The network settings of the management port, as the settings region holds them (R408): a static IPv4 address with its prefix
and gateway, the link-local and one static IPv6 address of 16 bytes. -/
structure NetSettings where
  ipv4 : Word
  prefix_ : Nat
  gateway : Word
  linkLocal : Bytes
  ipv6 : Bytes
deriving DecidableEq, Repr

/-- What start-up reads from flash: the loader region and the settings region's network settings (R378, R408). -/
structure LoadedRegions where
  loader : Bytes
  net : NetSettings
deriving DecidableEq, Repr

/-- The certificates of the partner's Locket (R392): its chain, and its DIK-S and DIK-E public keys as 64 bytes `x ‖ y`. -/
structure PairCert where
  chain : Bytes
  signKey : Bytes
  kxKey : Bytes
deriving DecidableEq, Repr

/-- What the partner's Locket brings to the key exchange of a pair (R392): its ephemeral point, and its confirmation value, S_B
from a responder and S_A from an initiator. -/
structure PairShare where
  point : Bytes
  confirm : Bytes
deriving DecidableEq, Repr

/-- A host access to BAR0 (R460): the offset of its first byte, and its width in bytes. -/
structure RegAccess where
  offset : Nat
  width : Nat
deriving DecidableEq, Repr

/-- The discrete inputs that can chatter (R446). -/
inductive PinName where
  | traySeat | coolOk | quiesce
deriving DecidableEq, Repr

/-- The sensors' raw samples (R367), in 1/16 °C, and the input power of the last rotation in W (R363). -/
structure SensorSamples where
  temps : List Int
  pMeas : Nat
  vin : Half
  iin : Half
deriving DecidableEq, Repr

/-- The settings that firmware writes at start-up step 12 (R449): BAR0 offset and value of each RWL register. -/
abbrev Settings := List (Nat × Word)

/-- The commands: one constructor per row of spec/opcode_table.json, in its order. -/
inductive Instr where
  | beadBoundary
  | rotationBoundary
  | admissionTakesEffect (ctx : CtxNo)
  | releaseTakesEffect (ctx : CtxNo)
  | contextKeyDestroy (ctx : CtxNo)
  | scrubWrite (ch : Nat)
  | scrubCompletion (ctx : CtxNo)
  | idle (u : UnitNo)
  | idleLoad (u : UnitNo)
  | mac (u : UnitNo)
  | macClr (u : UnitNo)
  | round (u : UnitNo)
  | lsumOut (u : UnitNo)
  | lsumIn (u : UnitNo)
  | clear (u : UnitNo)
  | copy (u : UnitNo)
  | fill (u : UnitNo)
  | read (u : UnitNo)
  | write (u : UnitNo)
  | add (u : UnitNo)
  | sub (u : UnitNo)
  | mul (u : UnitNo)
  | fma (u : UnitNo)
  | min (u : UnitNo)
  | max (u : UnitNo)
  | abs (u : UnitNo)
  | neg (u : UnitNo)
  | cmpEq (u : UnitNo)
  | cmpLt (u : UnitNo)
  | cmpLe (u : UnitNo)
  | rcp (u : UnitNo)
  | rsqrt (u : UnitNo)
  | sqrt (u : UnitNo)
  | exp2 (u : UnitNo)
  | log2 (u : UnitNo)
  | sin2pi (u : UnitNo)
  | cos2pi (u : UnitNo)
  | cvtFromI32 (u : UnitNo)
  | cvtToI32 (u : UnitNo)
  | fromBf16 (u : UnitNo)
  | fromE4m3 (u : UnitNo)
  | fromE5m2 (u : UnitNo)
  | fromI8 (u : UnitNo)
  | fromI4 (u : UnitNo)
  | toBf16 (u : UnitNo)
  | toE4m3 (u : UnitNo)
  | toE5m2 (u : UnitNo)
  | toI8 (u : UnitNo)
  | toI4 (u : UnitNo)
  | vecCopy (u : UnitNo)
  | pick (u : UnitNo)
  | tadd (u : UnitNo)
  | tmin (u : UnitNo)
  | tmax (u : UnitNo)
  | pack (u : UnitNo)
  | loop (u : UnitNo)
  | arms (u : UnitNo)
  | mload (u : UnitNo)
  | mlogic (u : UnitNo)
  | mset (u : UnitNo)
  | hold (u : UnitNo)
  | attn (u : UnitNo)
  | merge (u : UnitNo)
  | bwd (u : UnitNo)
  | init (u : UnitNo)
  | select (u : UnitNo)
  | writeKv (u : UnitNo)
  | group (u : UnitNo)
  | fetch (u : UnitNo)
  | walk (u : UnitNo)
  | insert (u : UnitNo)
  | conv (u : UnitNo)
  | reform (u : UnitNo)
  | fsend (u : UnitNo)
  | frecv (u : UnitNo)
  | fxch (u : UnitNo)
  | fabricPacketReceive (port : Nat) (packet : Bytes) (transit : Nat)
  | rqTake (u : UnitNo)
  | srecPut (u : UnitNo)
  | liveSet (u : UnitNo)
  | liveClr (u : UnitNo)
  | stateGet (u : UnitNo)
  | crecv (u : UnitNo)
  | csend (u : UnitNo)
  | stepRecordDelivery (ctx : CtxNo)
  | rqTailWrite (ctx : CtxNo) (value : Word)
  | requestFetch (ctx : CtxNo) (reply : FetchReply)
  | requestLatch (ctx : CtxNo)
  | cancel (ctx : CtxNo) (hi : Word)
  | srTailWrite (ctx : CtxNo) (value : Word)
  | apertureWrite (offset : Nat) (data : Bytes) (poisoned : Bool)
  | apertureRead (offset : Nat) (len : Nat)
  | hostSlotAccess (ch : Nat)
  | patrol (ch : Nat)
  | patrolStarved (ch : Nat)
  | ueLineRepair (ch : Nat) (plain : Bytes)
  | mr4Read (ch : Nat) (code : BitVec 3)
  | claspFrameReceive (port : Nat) (frame : ClaspArrival)
  | blockLockGain (port : Nat) (headers : List (BitVec 2))
  | blockLockLoss (port : Nat) (headers : List (BitVec 2))
  | claspLatch (port : Nat)
  | claspFrameDecision (port : Nat)
  | claspFrameSend (port : Nat)
  | claspAlignment (port : Nat)
  | claspAlignComplete (port : Nat) (m : AlignMeasure)
  | claspRelease (port : Nat)
  | signetComplete (engine : Nat)
  | signetRequest (value : Word)
  | castLineWrite
  | castEnWrite (value : Word)
  | castFreeze
  | castFreezeComplete
  | replayRingRead
  | replayFeed
  | twinCellReceive (cell : Bytes)
  | twinInput (item : RelayedInput)
  | twinSignet (item : SignetItem)
  | signetMissing (ctx : CtxNo)
  | faultHuntDone (ctx : CtxNo) (leadFault : Bool)
  | twinCommit (ctx : CtxNo) (step : DWord) (srHead : Word)
  | twinAdmit (boundary : Word) (grant : GrantRecord)
  | twinRelease (boundary : Word) (ctx : CtxNo)
  | twinForcedRelease (boundary : Word) (ctx : CtxNo)
  | twinKeys (ctx : CtxNo) (keys : Bytes)
  | twinRoleSwap (boundary : Word)
  | roleExchange
  | twinReady (period : Word)
  | twinWithheld (ctx : CtxNo) (period : Word) (code : Half)
  | twinDirty (granules : List Nat)
  | twinSync (ctx : CtxNo) (granule : Nat) (data : Bytes)
  | twinReport (report : Bytes)
  | twinReportSend
  | missedHeartbeat
  | promotionComplete
  | epochBeat
  | promotionConfirm
  | detachedRetake
  | epochRaise
  | pairListenEnd (heard : PairHeard)
  | selftestSubstitution
  | seaSplit (member : Nat)
  | joinLinkTrained (cert : PairCert) (share : PairShare) (levels : List Half)
  | counterAdopt (bead : DWord) (period : Word)
  | shadowAdmission (grants : List GrantRecord)
  | granuleCopy
  | joinConverge
  | resyncStalled
  | traySeatChange (asserted : Bool)
  | coolOkChange (asserted : Bool)
  | quiesceNChange (asserted : Bool)
  | pairSlotChange (value : BitVec 3)
  | chatterEnd (pin : PinName)
  | clockMonitorWindow (w : MonitorWindow)
  | referenceChange
  | referenceLock
  | oppRequest (value : Word)
  | oppChange
  | sscStart
  | sensorSample (x : SensorSamples)
  | spareSwap (die : Nat)
  | spareStarved (die : Nat)
  | channelStop (pkg : Nat)
  | channelRestart (pkg : Nat)
  | tripClear
  | getCert (ctx : CtxNo)
  | kxBegin (ctx : CtxNo)
  | kxFinish (ctx : CtxNo)
  | report (ctx : CtxNo)
  | package (ctx : CtxNo)
  | end_ (ctx : CtxNo)
  | mgmtConnect (req : ConnectReq)
  | mgmtIdleClose (conn : Nat)
  | status (conn : Nat)
  | eventsRead (conn : Nat) (index : Nat)
  | logRead (conn : Nat) (index : Nat)
  | healthClear (conn : Nat)
  | mgmtAdmit (conn : Nat) (arg : Bytes) (record : Bytes)
  | release (conn : Nat) (ctx : CtxNo) (forced : Bool)
  | imgPiece (conn : Nat) (offset : Nat) (data : Bytes)
  | token (conn : Nat) (kind : Nat) (action : Nat) (serial : Word) (lease : Nat)
  | tokenLeaseExpiry (kind : Nat)
  | debugToken (conn : Nat) (data : Bytes)
  | hmPiece (conn : Nat) (index : Nat) (data : Bytes)
  | hmStatus (conn : Nat)
  | hmArm (conn : Nat)
  | hmDisarm (conn : Nat)
  | hmConfirm (conn : Nat)
  | hmAutoConfirm
  | roleSwap (conn : Nat) (boundary : Word)
  | reset (conn : Nat)
  | moduleReset
  | castExport (conn : Nat) (offset : Nat)
  | castImport (conn : Nat) (offset : Nat) (data : Bytes)
  | rootSet (conn : Nat) (operatorRoot : Bytes) (observerRoot : Bytes) (signature : Bytes)
  | replaceRequest
  | healthLogWrite
  | strAdmit (fetched : Option (Bytes × Bytes))
  | strRelease (ctx : CtxNo)
  | strForcedRelease (ctx : CtxNo)
  | form
  | seaFormationComplete (locked : Bool) (moved : Bool) (transits : List Nat)
  | leave
  | evtPendClear (g : Nat) (value : Word)
  | eventMsi
  | loupeCtlWrite (value : Word)
  | jtagInstruction (codes : List Byte)
  | pcieLinkDown
  | registerWrite (offset : Nat) (width : Nat) (value : DWord)
  | powerGood (clockWord : Word)
  | crystalStable (windows : List Nat)
  | crystalFallback (firstEdge : Bool) (window : Nat)
  | rootPllLock (straps : BitVec 3) (seat : Bool) (cool : Bool) (quiesce : Bool)
  | loaderStart (trngOk : Bool) (regions : LoadedRegions)
  | traySeatHold
  | lp4xTrainingComplete (attempts : List Nat)
  | alignmentEdge
  | alignmentCheckDone (pass : Bool)
  | facetTestComplete (failed : List Nat)
  | startupReady (settings : Settings) (eBase : Nat)
  | verificationComplete (ctx : CtxNo)
  | pcieLinkUp
  | powerLoss
  | lowHalfRead (access : RegAccess)
deriving DecidableEq, Repr

end Sys2Proof
end

