-- ==== Sys2Proof/Decode.lean ====
section
/-! DEFINITION. The words: `decodeTableWord` over the rows of the table (no row gives bits), and the 128-bit cue
words of chapter 3 with their encoder. -/

namespace Sys2Proof

/-- No row of spec/opcode_table.json gives bits (its commands are events), so no word spells a command. -/
def decodeTableWord (_nbits _w : Nat) : Option Instr := none

/-! ## Fields -/

/-- The fields of a number, least significant first, by their widths. -/
def unpack : List Nat → Nat → List Nat
  | [], _ => []
  | w :: ws, v => v % 2 ^ w :: unpack ws (v / 2 ^ w)

/-- The number whose fields are given, least significant first, as pairs of width and value. -/
def pack : List (Nat × Nat) → Nat
  | [] => 0
  | (w, x) :: r => x % 2 ^ w + 2 ^ w * pack r

/-- The vector operations in the order of their codes 0x00 to 0x23 (Table 3-11). -/
def vopList : List VOp :=
  [.add, .sub, .mul, .fma, .min, .max, .abs, .neg, .cmpEq, .cmpLt, .cmpLe, .rcp, .rsqrt, .sqrt, .exp2, .log2,
    .sin2pi, .cos2pi, .cvtFromI32, .cvtToI32, .fromBf16, .fromE4m3, .fromE5m2, .fromI8, .fromI4,
    .toBf16, .toE4m3, .toE5m2, .toI8, .toI4, .copy, .pick, .tadd, .tmin, .tmax, .pack]

/-- The code of a vector operation. -/
def VOp.code (v : VOp) : Nat := vopList.idxOf v

/-! ## Cues (R75 to R94): the widths of each field map, from bit 0 up -/

def widthsHeader : List Nat := [110, 5, 3, 1, 1, 4, 4]
def widthsLevel : List Nat := [106, 4]
def widthsMac : List Nat := [43, 6, 18, 6, 18, 3, 1, 9, 3, 3]
def widthsRound : List Nat := [36, 6, 18, 1, 6, 18, 3, 1, 1, 8, 9, 3]
def widthsLsumOut : List Nat := [82, 3, 1, 6, 18]
def widthsLsumIn : List Nat := [73, 3, 1, 6, 18, 9]
def widthsMove : List Nat := [3, 10, 5, 6, 6, 40, 40]
def widthsMem : List Nat := [8, 10, 6, 6, 40, 40]
def widthsVec : List Nat := [8, 6, 16, 6, 16, 6, 16, 6, 16, 3, 1, 4, 6]
def widthsEng : List Nat := [22, 10, 6, 40, 6, 20, 6]
def widthsPort : List Nat := [15, 6, 40, 12, 5, 6, 20, 6]
def widthsLoop : List Nat := [83, 16, 11]
def widthsArms : List Nat := [85, 5, 3, 1, 8, 8]
def widthsMload : List Nat := [72, 8, 1, 6, 20, 3]
def widthsMlogic : List Nat := [99, 2, 3, 3, 3]
def widthsMset : List Nat := [75, 32, 3]

/-- A bit field from a number. -/
abbrev fld (n v : Nat) : BitVec n := BitVec.ofNat n v

def decodeMac (b : Nat) : Option MacFields :=
  match unpack widthsMac b with
  | [r, bs, bb, as_, ab, rr, re, w, fb, fa] =>
    if r = 0 ∧ fb ≤ 4 ∧ fa ≤ 4 then
      some { fmtA := fld _ fa, fmtB := fld _ fb, w := fld _ w, rmen := fld _ re, rmreg := fld _ rr, aBase := fld _ ab,
             aStr := fld _ as_, bBase := fld _ bb, bStr := fld _ bs }
    else none
  | _ => none

def decodeRound (b : Nat) : Option RoundFields :=
  match unpack widthsRound b with
  | [r, ss, sb, se, ds, db, rr, re, sat, e, w, f] =>
    if r = 0 ∧ f ≤ 6 then
      some { fmtOut := fld _ f, w := fld _ w, eOut := fld _ e, sat := fld _ sat, rmen := fld _ re, rmreg := fld _ rr,
             dBase := fld _ db, dStr := fld _ ds, sten := fld _ se, sBase := fld _ sb, sStr := fld _ ss }
    else none
  | _ => none

def decodeMove (b : Nat) : Option MoveFields :=
  match unpack widthsMove b with
  | [r, sl, l, ds, ss, d, s] =>
    if r = 0 then some { src := fld _ s, dst := fld _ d, srcStr := fld _ ss, dstStr := fld _ ds, len := fld _ l, slot := fld _ sl }
    else none
  | _ => none

def decodeMem (b : Nat) : Option MemFields :=
  match unpack widthsMem b with
  | [r, sl, ss, ls, sa, la] =>
    if r = 0 then some { laddr := fld _ la, saddr := fld _ sa, lStr := fld _ ls, sStr := fld _ ss, slot := fld _ sl }
    else none
  | _ => none

def decodeVec (b : Nat) : Option Cue :=
  match unpack widthsVec b with
  | [r, ds, d, cs, c, bs, bb, as_, a, lr, le, n, op] =>
    match vopList[op]? with
    | some v =>
      if r = 0 then
        some (.vec v { n := fld _ n, lmen := fld _ le, lmreg := fld _ lr, aOff := fld _ a, aStr := fld _ as_, bOff := fld _ bb,
                       bStr := fld _ bs, cOff := fld _ c, cStr := fld _ cs, dOff := fld _ d, dStr := fld _ ds })
      else none
    | none => none
  | _ => none

def decodeEng (b : Nat) : Option Cue :=
  match unpack widthsEng b with
  | [p, sl, os, o, ds, d, e] =>
    if e = 0 then none
    else some (.eng { eop := fld _ e, desc := fld _ d, descStr := fld _ ds, opnd := fld _ o, opndStr := fld _ os,
                      slot := fld _ sl, param := fld _ p })
  | _ => none

def decodePort (b : Nat) : Option Cue :=
  match unpack widthsPort b with
  | [p, rs, ra, rm, l, ls, lo, o] =>
    if o = 0 then none
    else some (.port { pop := fld _ o, loff := fld _ lo, lstr := fld _ ls, len := fld _ l, rmod := fld _ rm, raddr := fld _ ra,
                       rstr := fld _ rs, param := fld _ p })
  | _ => none

/-- The class fields of a cue, by CLASS and OP (Table 3-5): none for a reserved CLASS, OP, VOP, EOP, POP or format
code, or a reserved bit that is 1. -/
def decodeBody (cls op b : Nat) : Option Cue :=
  match cls, op with
  | 0, 0 => if b = 0 then some .idle else none
  | 0, 1 =>
    match unpack widthsLevel b with
    | [r, l] => if r = 0 then some (.idleLoad (fld _ l)) else none
    | _ => none
  | 1, 0 => (decodeMac b).map .mac
  | 1, 1 => (decodeMac b).map .macClr
  | 1, 2 => (decodeRound b).map .round
  | 1, 3 =>
    match unpack widthsLsumOut b with
    | [r, rr, re, ds, d] =>
      if r = 0 then some (.lsumOut { dBase := fld _ d, dStr := fld _ ds, rmen := fld _ re, rmreg := fld _ rr }) else none
    | _ => none
  | 1, 4 =>
    match unpack widthsLsumIn b with
    | [r, rr, re, ss, sb, w] =>
      if r = 0 then some (.lsumIn { w := fld _ w, sBase := fld _ sb, sStr := fld _ ss, rmen := fld _ re, rmreg := fld _ rr })
      else none
    | _ => none
  | 1, 5 => if b = 0 then some .clear else none
  | 2, 0 => (decodeMove b).map .copy
  | 2, 1 => (decodeMove b).map .fill
  | 3, 0 => (decodeMem b).map .read
  | 3, 1 => (decodeMem b).map .write
  | 4, 0 => decodeVec b
  | 5, 0 => decodeEng b
  | 6, 0 => decodePort b
  | 7, 0 =>
    match unpack widthsLoop b with
    | [r, t, n] => if r = 0 then some (.loop (fld _ n) (fld _ t)) else none
    | _ => none
  | 8, 0 =>
    match unpack widthsArms b with
    | [r, sb, sr, sp, a2, a1] => if r = 0 then some (.arms (fld _ a1) (fld _ a2) (fld _ sp) (fld _ sr) (fld _ sb)) else none
    | _ => none
  | 8, 1 =>
    match unpack widthsMload b with
    | [r, lv, bd, st, off, m] => if r = 0 then some (.mload (fld _ m) (fld _ off) (fld _ st) (fld _ bd) (fld _ lv)) else none
    | _ => none
  | 8, 2 =>
    match unpack widthsMlogic b with
    | [r, fn, rb, ra, rd] => if r = 0 then some (.mlogic (fld _ rd) (fld _ ra) (fld _ rb) (fld _ fn)) else none
    | _ => none
  | 8, 3 =>
    match unpack widthsMset b with
    | [r, v, m] => if r = 0 then some (.mset (fld _ m) (fld _ v)) else none
    | _ => none
  | _, _ => none

/-- The cue that a 128-bit word holds (R75, R76); none where a decoding check of R473 that needs no unit fails. -/
def decodeCue (w : BitVec 128) : Option CueWord :=
  match unpack widthsHeader w.toNat with
  | [b, pb, pr, pp, pe, op, cls] =>
    (decodeBody cls op b).map fun c => { pred := { pen := fld _ pe, ppol := fld _ pp, preg := fld _ pr, pbit := fld _ pb }, cue := c }
  | _ => none

/-- CLASS of a cue word. -/
def cueClass (w : BitVec 128) : Nat := w.toNat / 2 ^ 124 % 16

/-- The pairs of width and value of a body, from bit 0 up. -/
def fields (ws vs : List Nat) : Nat := pack (ws.zip vs)

def encodeMac (f : MacFields) : Nat :=
  fields widthsMac [0, f.bStr.toNat, f.bBase.toNat, f.aStr.toNat, f.aBase.toNat, f.rmreg.toNat, f.rmen.toNat, f.w.toNat,
    f.fmtB.toNat, f.fmtA.toNat]

def encodeMove (f : MoveFields) : Nat :=
  fields widthsMove [0, f.slot.toNat, f.len.toNat, f.dstStr.toNat, f.srcStr.toNat, f.dst.toNat, f.src.toNat]

def encodeMem (f : MemFields) : Nat :=
  fields widthsMem [0, f.slot.toNat, f.sStr.toNat, f.lStr.toNat, f.saddr.toNat, f.laddr.toNat]

/-- CLASS, OP and bits [109:0] of a cue. -/
def encodeBody : Cue → Nat × Nat × Nat
  | .idle => (0, 0, 0)
  | .idleLoad l => (0, 1, fields widthsLevel [0, l.toNat])
  | .mac f => (1, 0, encodeMac f)
  | .macClr f => (1, 1, encodeMac f)
  | .round f => (1, 2, fields widthsRound [0, f.sStr.toNat, f.sBase.toNat, f.sten.toNat, f.dStr.toNat, f.dBase.toNat,
      f.rmreg.toNat, f.rmen.toNat, f.sat.toNat, f.eOut.toNat, f.w.toNat, f.fmtOut.toNat])
  | .lsumOut f => (1, 3, fields widthsLsumOut [0, f.rmreg.toNat, f.rmen.toNat, f.dStr.toNat, f.dBase.toNat])
  | .lsumIn f => (1, 4, fields widthsLsumIn [0, f.rmreg.toNat, f.rmen.toNat, f.sStr.toNat, f.sBase.toNat, f.w.toNat])
  | .clear => (1, 5, 0)
  | .copy f => (2, 0, encodeMove f)
  | .fill f => (2, 1, encodeMove f)
  | .read f => (3, 0, encodeMem f)
  | .write f => (3, 1, encodeMem f)
  | .vec op f => (4, 0, fields widthsVec [0, f.dStr.toNat, f.dOff.toNat, f.cStr.toNat, f.cOff.toNat, f.bStr.toNat, f.bOff.toNat,
      f.aStr.toNat, f.aOff.toNat, f.lmreg.toNat, f.lmen.toNat, f.n.toNat, op.code])
  | .eng f => (5, 0, fields widthsEng [f.param.toNat, f.slot.toNat, f.opndStr.toNat, f.opnd.toNat, f.descStr.toNat,
      f.desc.toNat, f.eop.toNat])
  | .port f => (6, 0, fields widthsPort [f.param.toNat, f.rstr.toNat, f.raddr.toNat, f.rmod.toNat, f.len.toNat, f.lstr.toNat,
      f.loff.toNat, f.pop.toNat])
  | .loop n t => (7, 0, fields widthsLoop [0, t.toNat, n.toNat])
  | .arms a1 a2 sp sr sb => (8, 0, fields widthsArms [0, sb.toNat, sr.toNat, sp.toNat, a2.toNat, a1.toNat])
  | .mload m off st bd lv => (8, 1, fields widthsMload [0, lv.toNat, bd.toNat, st.toNat, off.toNat, m.toNat])
  | .mlogic d a b fn => (8, 2, fields widthsMlogic [0, fn.toNat, b.toNat, a.toNat, d.toNat])
  | .mset m v => (8, 3, fields widthsMset [0, v.toNat, m.toNat])

/-- The 128-bit word of a cue. -/
def encodeCue (c : CueWord) : BitVec 128 :=
  let b := encodeBody c.cue
  BitVec.ofNat 128 (fields widthsHeader [b.2.2, c.pred.pbit.toNat, c.pred.preg.toNat, c.pred.ppol.toNat, c.pred.pen.toNat,
    b.2.1, b.1])

/-- A cue that some word spells: its format codes, EOP and POP are none of the reserved ones (Tables 3-6, 3-7, 3-12, 3-13). -/
def Cue.spelled (c : Cue) : Bool :=
  match c with
  | .mac f | .macClr f => decide (f.fmtA.toNat ≤ 4 ∧ f.fmtB.toNat ≤ 4)
  | .round f => decide (f.fmtOut.toNat ≤ 6)
  | .eng f => decide (f.eop ≠ 0)
  | .port f => decide (f.pop ≠ 0)
  | _ => true

end Sys2Proof
end

