-- ==== Sys2Proof/Machine/Bits.lean ====
section
/-! DEFINITION. Byte order, bit fields, sign extension and small list helpers. -/

namespace Sys2Proof.Machine

/-- Little-endian bytes of a number (R13): `n` bytes, least significant first. -/
def leBytes : Nat → Nat → Bytes
  | 0, _ => []
  | n + 1, v => BitVec.ofNat 8 v :: leBytes n (v / 256)

/-- The number little-endian bytes hold (R13). -/
def leNat : Bytes → Nat
  | [] => 0
  | b :: bs => b.toNat + 256 * leNat bs

/-- Big-endian bytes of a number: digests and signatures keep their standard's order (R13). -/
def beBytes (n v : Nat) : Bytes := (leBytes n v).reverse

/-- The number big-endian bytes hold. -/
def beNat (bs : Bytes) : Nat := leNat bs.reverse

/-- The bytes at offset `off`, `n` of them; bytes beyond the end read 0. -/
def slice (bs : Bytes) (off n : Nat) : Bytes :=
  let t := (bs.drop off).take n
  t ++ zeros (n - t.length)

/-- The little-endian number of `n` bytes at offset `off`. -/
def leAt (bs : Bytes) (off n : Nat) : Nat := leNat (slice bs off n)

/-- Bits `[lo + len - 1 : lo]` of a number (R12). -/
def bits (v lo len : Nat) : Nat := v / 2 ^ lo % 2 ^ len

/-- Two's complement reading of the low `n` bits. -/
def signed (n v : Nat) : Int :=
  let u := v % 2 ^ n
  if 2 ^ (n - 1) ≤ u ∧ 0 < n then (u : Int) - (2 ^ n : Nat) else u

/-- The low `n` bits of an integer, as a two's complement word. -/
def wrap (n : Nat) (i : Int) : Nat := (i % ((2 ^ n : Nat) : Int)).toNat

/-- The bytes `new` put over `old` at offset `off`; the length of `old` is kept. -/
def overlay (old : Bytes) (off : Nat) (new : Bytes) : Bytes :=
  (old.take off ++ new ++ old.drop (off + new.length)).take old.length

/-- `bs` padded with zeros to a multiple of `m` bytes. -/
def padTo (m : Nat) (bs : Bytes) : Bytes := bs ++ zeros ((m - bs.length % m) % m)

/-- Exclusive or of two byte strings, to the length of the shorter. -/
def xorBytes (a b : Bytes) : Bytes := List.zipWith (· ^^^ ·) a b

/-- Ceiling division. -/
def cdiv (a b : Nat) : Nat := (a + b - 1) / b

/-- `k` pieces of `n` entries each off the front of a list. -/
def cuts {α : Type} (n : Nat) : Nat → List α → List (List α)
  | 0, _ => []
  | k + 1, l => l.take n :: cuts n k (l.drop n)

/-- A list cut into pieces of `n` entries. -/
def chunks {α : Type} (n : Nat) (l : List α) : List (List α) := cuts n (cdiv l.length n) l

/-- The entry under key `k` of an association list. -/
def assoc {α : Type} (k : Nat) : List (Nat × α) → Option α
  | [] => none
  | (j, a) :: r => if j = k then some a else assoc k r

/-- Puts `a` under key `k` of a list kept in rising key order. -/
def assocSet {α : Type} (k : Nat) (a : α) : List (Nat × α) → List (Nat × α)
  | [] => [(k, a)]
  | (j, b) :: r =>
    if k < j then (k, a) :: (j, b) :: r
    else if k = j then (k, a) :: r
    else (j, b) :: assocSet k a r

/-- Removes key `k`. -/
def assocDel {α : Type} (k : Nat) (l : List (Nat × α)) : List (Nat × α) := l.filter fun p => p.1 ≠ k

/-- The list with place `i` replaced by `f` of it. -/
def modifyAt {α : Type} (f : α → α) : Nat → List α → List α
  | _, [] => []
  | 0, a :: r => f a :: r
  | i + 1, a :: r => a :: modifyAt f i r

/-- Insertion into a list ordered by `le`, after the entries that are not greater. -/
def insertSorted {α : Type} (le : α → α → Bool) (a : α) : List α → List α
  | [] => [a]
  | b :: r => if le b a then b :: insertSorted le a r else a :: b :: r

/-- A stable sort by `le`. -/
def sortBy {α : Type} (le : α → α → Bool) (l : List α) : List α := l.foldl (fun acc a => insertSorted le a acc) []

/-- The numbers `lo` to `hi - 1`. -/
def span (lo hi : Nat) : List Nat := (List.range (hi - lo)).map (· + lo)

/-- Bit `i` of a word as a Bool. -/
def bit {n : Nat} (w : BitVec n) (i : Nat) : Bool := w.getLsbD i

/-- A Bool as a number. -/
def b2n (b : Bool) : Nat := if b then 1 else 0

/-- The least common multiple of a list. -/
def lcmAll (l : List Nat) : Nat := l.foldl Nat.lcm 1

end Sys2Proof.Machine
end

