-- ==== Sys2Proof/Config.lean ====
section
/-! DEFINITION. What the manual leaves open: constants with no body, so that no proof can see a value. -/

namespace Sys2Proof.Config

/-- The words the Locket draws from its TRNG (R379, R381), by draw number; 128 bits each.
The manual fixes no bit of them. Log entry 7. -/
opaque trng : Nat → BitVec 128

/-- A cell's accumulator where the manual calls it undefined (R57, R71): by the number of the
undefining event and the cell's place. Log entry 8. -/
opaque freeAcc : Nat → Nat → BitVec 96

/-- A cell's six sticky flags where the manual calls them undefined (R57, R71). Log entry 8. -/
opaque freeFlags : Nat → Nat → BitVec 6

/-- A byte whose value the manual does not state, by the free-value counter and a place. Log entry 7. -/
opaque freeByte : Nat → Nat → Byte

/-- A number whose value the manual does not state, by the free-value counter. Log entry 7. -/
opaque freeNat : Nat → Nat

/-- The energy of one cue in picojoules, by unit kind code and cue class: calibrated at manufacture and held in firmware (R363);
the manual does not give them. Log entry 7. -/
opaque cueEnergy : Nat → Nat → Nat

/-- The zone, 0 to 15, beside whose Facets an engine of a Setting die is placed (Table 12-5), by unit number: the manual does
not give it. Log entry 7. -/
opaque engineZone : Nat → Nat

/-- The draw at which the continuous tests of the TRNG fail, if they do (R379), by the free-value counter. Log entry 7. -/
opaque rngLife : Nat → Option Nat

/-- A certificate chain certifies two public keys, DIK-S and DIK-E, to the root of a digest: the checks of X.509, which the
manual takes as given (R380, R392). Log entry 7. -/
opaque certifies : List Byte → List Byte → List Byte → List Byte → Bool

/-- The MGMT record of a discrete input change, by pin and value: the manual does not give its code and argument (R299).
Log entry 7. -/
opaque pinRecord : Nat → Nat → Byte

/-- The 256-bit device secret fused at manufacture (R380, Table 13-1). -/
opaque dus : Nat → Byte

/-- The Hallmark key fused into the Locket (R425). -/
opaque hallmarkKey : BitVec 128

/-- The SM2 public keys of the debug authority and of the firmware signer (R405, R425), as the 64 bytes
`x ‖ y`; their SM3 digests are fused. -/
opaque debugAuthority : Nat → Byte

/-- The SM2 public key, as 64 bytes, whose SM3 digest is the given one. The manual gives the Locket the digest and does
not say how it comes to hold the key (R395). Log entry 7. -/
opaque keyOfDigest : List Byte → Nat → Byte

/-- See `debugAuthority`. -/
opaque firmwareSigner : Nat → Byte

/-- The payload of a self-test: whether a unit's known answers come out right (R331), by unit number and
test count. The sequences are fixed in the firmware image, which the manual does not give. -/
opaque selftestPass : Nat → Nat → Bool

/-- The boundary-scan opcodes of IDCODE (0) and SAMPLE/PRELOAD (1), which the manual does not give (R456). -/
opaque jtagOpcode : Nat → Byte

end Sys2Proof.Config
end

