-- ==== Sys2Proof/Machine/Parts.lean ====
section
/-! DEFINITION. The parts of the state, as plain data. -/

namespace Sys2Proof.Machine

/-! ## Cells, units and effects -/

/-- One cell of a Facet's array (R48): the 96-bit accumulator and its six sticky flags. -/
structure Cell where
  acc : BitVec 96
  satPos : Bool
  satNeg : Bool
  infPos : Bool
  infNeg : Bool
  nan : Bool
  trunc : Bool
deriving DecidableEq, Repr

/-- The cleared cell (R48). -/
def Cell.zero : Cell := ⟨0, false, false, false, false, false, false⟩

/-- The cell arrays of all Facets (R48). A Facet not listed holds the array of `undef`: the cleared one, or the
free values of an undefining event (R57). -/
structure CellArrays where
  undef : Option Nat
  arrays : List (Nat × List Cell)
deriving DecidableEq, Repr

/-- A mask register and its binding to a live word (R94, R95). -/
structure MaskReg where
  value : Word
  bound : Option (BitVec 8)
deriving DecidableEq, Repr

/-- One level of the expansion of R92: a loop body or a select arm, by cue positions within the window. -/
structure SeqFrame where
  isLoop : Bool
  first : Nat
  last : Nat
  ret : Nat
  trips : Nat
  idx : Nat
  live : Bool
deriving DecidableEq, Repr

/-- A cue begun in the present bead (R98 step 3), with what it took at the boundary. -/
structure Issue where
  ctx : CtxNo
  win : Nat
  pos : Nat
  cue : Cue
  masks : List Word
  idx : List Nat
deriving DecidableEq, Repr

/-- A unit's sequencer (R71, R91 to R95, R473). -/
structure Seq where
  /-- context of the last window that ran here (R385) -/
  lastCtx : CtxNo
  /-- directory index of the window that runs, with its context -/
  win : Option (CtxNo × Nat)
  pc : Nat
  frames : List SeqFrame
  left : Nat
  /-- CUE_INVALID already logged for this window's expansion -/
  cut : Bool
  masks : List MaskReg
  issue : Option Issue
deriving DecidableEq, Repr

/-- What an effect in flight does when it becomes visible (R96). -/
inductive EffKind where
  /-- bytes into spaces 1, 2 and 4, by store key -/
  | bytes (writes : List (Nat × Bytes))
  /-- a line into LP4X as stored: channel, usable line, payload, check bytes -/
  | line (ch u : Nat) (pay chk : Bytes)
  /-- bytes into control registers (space 3) -/
  | regs (offset : Nat) (data : Bytes)
  /-- rows that become live: live word, then (bit, SEQ_ID) -/
  | liveSet (word : Nat) (rows : List (Nat × DWord))
  /-- rows that end: live word and mask -/
  | liveClr (word : Nat) (mask : Word)
  /-- MEM_UE raised at the visibility bead (R164): segment, offset, and physical place -/
  | memUe (seg off ch rank bank row : Nat)
  /-- a host write latched at its visibility bead (R163): window, offset, plain bytes, lines to store as channel, line,
  payload and check bytes, and its place in the order of arrival -/
  | hostWrite (window off : Nat) (data : Bytes) (lines : List (Nat × Nat × Bytes × Bytes)) (seq : Nat)
deriving DecidableEq, Repr

/-- An effect in flight (R96 to R100). -/
structure Effect where
  due : Nat
  began : Nat
  unit : UnitNo
  ctx : CtxNo
  kind : EffKind
deriving DecidableEq, Repr

/-- A drive of a Chain slot by a cue that began in bead `began`, in beads `since` to `until_`; package slots stand
under die 255. -/
structure Drive where
  die : Nat
  slot : Nat
  unit : UnitNo
  ctx : CtxNo
  since : Nat
  until_ : Nat
  began : Nat
deriving DecidableEq, Repr

/-- A line table entry (R185): its index, direction, kind, byte [55:48], slot start bead counted from the step's first
bead, and line. -/
structure LineReq where
  idx : Nat
  wr : Bool
  kind : Nat
  buf : Nat
  bead : Int
  line : Nat
deriving DecidableEq, Repr

/-- An engine step in progress (R89, R172). -/
structure EngStep where
  ctx : CtxNo
  began : Nat
  len : Nat
  eop : Nat
  desc : Bytes
  /-- OPND: segment and effective offset -/
  seg : Nat
  off : Int
  /-- rows that have a query, as the mask register read in the first bead -/
  mask : Word
  plan : List LineReq
  /-- lines captured in their slots, by index in the line table -/
  lines : List (Nat × Bytes)
  /-- the operand bytes that OPND names, as read in the first bead -/
  ref : Bytes
  /-- lines the step has formed and has still to write, by index in the line table -/
  outLines : List (Nat × Bytes)
  formed : Bool
  /-- last bead in which a cue of the step executed -/
  seen : Nat
  cut : Bool
deriving DecidableEq, Repr

/-- The model's own: a line as it stood before the effect that replaced it in `bead` (R198). -/
structure OldLine where
  bead : Nat
  ch : Nat
  line : Nat
  pay : Bytes
  chk : Bytes
deriving DecidableEq, Repr

/-! ## Strands and contexts -/

/-- A stream directory entry (R70, Table 3-3). -/
structure DirEntry where
  unit : UnitNo
  firstRot : Nat
  firstBead : Nat
  beads : Nat
  cueIndex : Nat
  cues : Nat
  strideIndex : Nat
  strideSets : Nat
deriving DecidableEq, Repr

/-- A segment request (R134, Table 5-4). -/
structure SegReq where
  seg : Nat
  space : Nat
  access : Nat
  stripe : Nat
  chBase : Nat
  group : Nat
  base : Nat
  sizeKib : Nat
deriving DecidableEq, Repr

/-- An initial-load record (R73). -/
structure InitLoad where
  dest : Nat
  bytes : Bytes
deriving DecidableEq, Repr

/-- A Strand image, read (R69 to R73). -/
structure Strand where
  raw : Bytes
  ifaceLevel : Nat
  grade : Nat
  rateKhz : Nat
  realtime : Bool
  movable : Bool
  periodRot : Nat
  scratchBytes : Nat
  dir : List DirEntry
  cues : List (BitVec 128)
  strides : List (List Int)
  inits : List InitLoad
  segs : List SegReq
  digest : Bytes
deriving DecidableEq, Repr

/-- A configuration record (R382, Table 13-2). -/
structure Record where
  raw : Bytes
  ctx : CtxNo
  confidential : Bool
  cast : Bool
  apertureOpen : Bool
  sea : Bool
  claspPorts : Nat
  apertureSession : Bool
  apertureSeg : Nat
  apertureWin : Nat
  rateKhz : Nat
  hostSlots : Nat
  castSlots : Nat
  owner : Bytes
  signer : Bytes
  weights : Bytes
  charms : Bytes
deriving DecidableEq, Repr

/-- A segment entry (R132, Table 5-3). -/
structure SegEntry where
  rd : Bool
  wr : Bool
  fab : Bool
  space : Nat
  stripe : Nat
  chBase : Nat
  /-- size in KiB -/
  size : Nat
  base : Nat
  group : Nat
deriving DecidableEq, Repr

/-- The states of a context (R465, Table 16-10): codes 0 to 4. -/
inductive CtxPhase where
  | free | pending | admitted | releasing | scrubbing
deriving DecidableEq, Repr

/-- An active protected session (R388, R389): keys and message counters. -/
structure Session where
  hmEnc : BitVec 128
  mhEnc : BitVec 128
  hmMac : BitVec 128
  mhMac : BitVec 128
  mbHm : Nat
  mbMh : Nat
  rqIdx : Nat
  srIdx : Nat
deriving DecidableEq, Repr

/-- A key exchange begun and not finished (R388): the 64 bytes of K and the S_A that will be accepted. -/
structure Exchange where
  k : Bytes
  sA : Bytes
deriving DecidableEq, Repr

/-- A sealed load in progress (R396). -/
structure SealedLoad where
  kind : Nat
  target : Nat
  bodyBytes : Nat
  next : Nat
  key1 : BitVec 128
  key2 : BitVec 128
  setDigest : Bytes
  plain : Bytes
deriving DecidableEq, Repr

/-- What the Locket and Addaso keep of one context's security (chapter 13). -/
structure Sec where
  session : Option Session
  exchange : Option Exchange
  seaKey : Option (BitVec 128)
  mStrand : Bytes
  mConfig : Bytes
  mWeights : Bytes
  mCharms : Bytes
  load : Option SealedLoad
  /-- MODULE_IDs of the member tables of the packages loaded (R399) -/
  members : List (List Bytes)
  rqTagLo : Word
  rqTagHi : Word
deriving DecidableEq, Repr

/-- Mailbox n (R406, Table 13-10). -/
structure Mailbox where
  busy : Bool
  done : Bool
  err : Bool
  code : Byte
  len : Nat
  rlen : Nat
  tag : Bytes
  data : Bytes
deriving DecidableEq, Repr

/-- A scrub in progress (R400, R401): lines left on each channel and the beads of its milestones. -/
structure Scrub where
  began : Nat
  keyLoaded : Bool
  lines : List (Nat × Nat)
  otherDone : Bool
deriving DecidableEq, Repr

/-- One context (R465, R73, R132, R136, R382). -/
structure Ctx where
  phase : CtxPhase
  strand : Option Strand
  record : Option Record
  segs : List (Nat × SegEntry)
  parts : List (Nat × Nat)
  /-- rotations since the admission rotation, which is 0 -/
  rot : Nat
  admitBead : Nat
  admitPeriod : Word
  withheld : Bool
  withheldCount : Word
  lastEvt : Half
  /-- a forced release is due at the next rotation boundary (R109) -/
  forceDue : Bool
  /-- an ordinary release is due at the end of the Strand period (R109) -/
  releaseDue : Bool
  /-- Cast records this context (R297) -/
  castOn : Bool
  /-- damaged cue store entries (R68, R473), by window × 2048 + place: a window's entries stand in its unit's cue store; the
  present word -/
  damage : List (Nat × BitVec 128)
  sec : Sec
  mailbox : Mailbox
  scrub : Option Scrub
deriving DecidableEq, Repr

/-- Where a pending admission came from (R463, R423, R326). -/
inductive Via where
  | strBlock | mgmt (conn : Nat) | twin
deriving DecidableEq, Repr

/-- An admission under way (R108, R111, R464). -/
structure Pending where
  ctx : CtxNo
  via : Via
  image : Bytes
  record : Bytes
  /-- verification has passed -/
  verified : Bool
  /-- the period counter of the boundary an ADMIT item names (R326) -/
  boundary : Option Word
  /-- the period counter modulo 4 that a replay admission waits for, and the anchor's first bead (R422) -/
  replay : Option (Nat × Nat)
  grants : Option (List (Nat × Nat) × List (Nat × Nat))
deriving DecidableEq, Repr

/-- Admission and release (R463 to R465, Tables 16-6 to 16-8). -/
structure StrandBlock where
  hostEn : Bool
  busy : Bool
  /-- an admission has been commanded by a register write, and host memory has not answered yet -/
  fetching : Bool
  done : Bool
  reject : Bool
  context : Nat
  reason : Nat
  imgLo : Word
  imgHi : Word
  imgLen : Word
  cfgLo : Word
  cfgHi : Word
  ifaceMin : Nat
  ifaceMax : Nat
  pendings : List Pending
  /-- releases latched by the STRAND block or management: context and whether it is the block's command -/
  releases : List (CtxNo × Via)
  /-- releases named by ADMIT items: boundary, context, forced -/
  twinReleases : List (Word × CtxNo × Bool)
deriving DecidableEq, Repr

/-! ## Events, outputs and inputs -/

/-- An event record (R467, Table 16-12). -/
structure EventRec where
  code : Nat
  nonmaskable : Bool
  withhold : Bool
  located : Bool
  ctx : Nat
  unit : Nat
  unit2 : Nat
  bead : Nat
  period : Word
  arg : Bytes
deriving DecidableEq, Repr

/-- The EVENT block (R471, R472, Table 16-15) and the event log (R419), newest record first. -/
structure Events where
  ctl : Word
  log : List EventRec
  head : Nat
  mask : List (Nat × Word)
  pend : List (Nat × Word)
  /-- bits of the records written in the present bead: a W1C write leaves them (R472) -/
  pendNow : List (Nat × Word)
  lastMsi : Option Nat
  /-- an unmasked record was written since the last message -/
  unmaskedNew : Bool
deriving DecidableEq, Repr

/-- What leaves the module (R28). -/
inductive Output where
  | hostWrite (addr : Nat) (data : Bytes)
  | msix (vector : Nat)
  | hostReadDone (offset : Nat) (data : Bytes)
  | claspFrame (port : Nat) (period : Word) (body : Bytes) (startTenths : Int) (line : List LineBlock)
  | claspIdle (port : Nat)
  | fabricPacket (port : Nat) (bytes : Bytes)
  /-- a codeword on the lanes of a link, and the alignment marker of a link (R439); the twin link is number 4 -/
  | lanes (link : Nat) (symbols : List (List Nat))
  | marker (link : Nat)
  /-- a read of host memory: a ring entry, a tag, an image or a configuration record (R206, R390, R463) -/
  | ringFetch (addr len : Nat)
  /-- what a failed sea formation reports: longest transits and the difference of period counters (R119, R269) -/
  | formationReport (transits : List Nat) (difference : Word)
  | twinCell (bytes : Bytes)
  | mgmt (conn : Nat) (code : Nat) (status : Nat) (payload : Bytes)
  | notice (conn : Nat) (record : Bytes)
  | regRead (offset : Nat) (value : Word)
  | jtag (dr : List (Nat × Byte))
  | loupe (group : Nat) (driven : Bool)
  /-- the 16 signals of a group in one bead (R454, R455) -/
  | loupeSignals (group : Nat) (signals : Half)
  | aerUncorrectable
deriving DecidableEq, Repr

/-- A latched external input (R294, R295). -/
inductive InputKind where
  | cancel (ctx : CtxNo) (seqId : DWord)
  | request (ctx : CtxNo) (entry : Bytes)
  | index (offset : Nat) (value : Word)
  | sigReq (regs : Bytes)
  | strCmd (op : Nat) (ctx : CtxNo) (image record : Bytes)
  | mgmtAdmit (conn : Nat) (arg record : Bytes) (image : Option Bytes)
  | mgmtRelease (conn : Nat) (ctx : CtxNo) (forced : Bool)
  | mgmtToken (conn : Nat) (kind action : Nat) (serial : Word) (lease : Nat)
  | mgmtSwap (conn : Nat) (boundary : Word)
  /-- the 16-byte MGMT record of the lead's input (R325) -/
  | relayed (record : Bytes)
  | pin (name : PinName) (asserted : Bool)
deriving DecidableEq, Repr

/-- An input waiting for its boundary. -/
structure Input where
  latch : Nat
  source : Nat
  kind : InputKind
  /-- its place in the order in which inputs passed their synchronisers -/
  seq : Nat
  /-- relayed by the lead or fed from a recording: its recorded suborder (R303, R325) -/
  suborder : Option Nat
deriving DecidableEq, Repr

/-! ## Memory system -/

/-- Channel n (R146, R157, R158, R166, R167, Table 5-8). -/
structure Channel where
  state : Nat
  temp : BitVec 3
  /-- rotation of the last MR4 reading -/
  mr4Rot : Option Nat
  rankCode0 : BitVec 3
  rankCode1 : BitVec 3
  nextRank : Nat
  patrolStarved : Bool
  patrolAt : Nat
  patrolFix : Option Nat
  /-- rotations in a row without a patrol slot, and whether the present one has had one -/
  noPatrol : Nat
  patrolled : Bool
  /-- beads of the corrected errors of the last 24 h (R157, Table 14-5) -/
  ce : List Nat
  ue : Nat
  /-- beads of the uncorrectable errors of the last 24 h (R166) -/
  ueBeads : List Nat
  /-- lines that await repair (R166) -/
  repair : List Nat
  /-- slot starts taken in the present bead by host, scrub or patrol -/
  taken : Option Nat
deriving DecidableEq, Repr

/-- A host line access waiting for its slot (R162, R163). -/
inductive HostAccess where
  /-- window, window offset, plain bytes of one line; the line as the first slot of a partial write read it -/
  | write (window off : Nat) (data : Bytes) (posted : Nat) (readBack : Option Bytes) (notBefore : Nat)
  | read (window off len : Nat) (posted : Nat)
deriving DecidableEq, Repr

/-- APERTURE_n (R168, Table 5-9). -/
structure Aperture where
  open_ : Bool
  seg : Nat
  win : Nat
deriving DecidableEq, Repr

/-- The BEZEL block and the host's accesses (R162, R168). -/
structure Bezel where
  patrolEn : Bool
  hostSlots : Nat
  channels : List Channel
  apertures : List Aperture
  queue : List (Nat × HostAccess)
  /-- inputs that have passed their synchronisers -/
  posted : Nat
  /-- key slots of every channel controller, by context (R160) -/
  keys : List (Nat × (BitVec 128 × BitVec 128))
deriving DecidableEq, Repr

/-! ## Serving -/

/-- Roster row entry (R202). -/
structure Row where
  seqId : DWord
  owner : CtxNo
deriving DecidableEq, Repr

/-- A live word with its CXL and REP bits (R202). -/
structure LiveWord where
  live : Word
  cxl : Word
  rep : Word
deriving DecidableEq, Repr

/-- A committed step record that waits for its Signet and its ring (R212, R312). -/
structure Committed where
  bead : Nat
  step : Nat
  record : Bytes
  /-- the host chain after the commit (R309) -/
  inputs : Bytes
  signet : Option Bytes
  delivered : Bool
  lost : Bool
  /-- records lost since the last delivered one (GAP) -/
  gap : Word
deriving DecidableEq, Repr

/-- Ring group n (R235, Tables 7-9 to 7-11) with the host port's state for context n. -/
structure Ring where
  rqBaseLo : Word
  rqBaseHi : Word
  rqCtl : Word
  rqTail : Word
  rqHead : Word
  cancelLo : Word
  srBaseLo : Word
  srBaseHi : Word
  srCtl : Word
  srHead : Word
  srTail : Word
  srGap : Word
  gap : Word
  fails : Nat
  /-- posted aperture writes at the last doorbell (R206) -/
  doorbell : Nat
  fetched : List (Bytes × Nat)
  queue : List Bytes
  gather : Option Bytes
  committed : List Committed
  /-- host chain and inputs assigned to its next event (R309) -/
  chain : Bytes
  /-- cancels carry true: they wait for a commit (R309) -/
  assigned : List (Bool × Bytes)
  requests : Nat
  authStop : Bool
deriving DecidableEq, Repr

/-! ## Clasp -/

/-- Clasp port states (R279): codes 0 to 3. -/
inductive ClaspState where
  | disabled | training | up | held
deriving DecidableEq, Repr

/-- What a port decided to send (R266). -/
inductive ClaspDecision where
  | train | beacon (ready : Bool) | result | hold
deriving DecidableEq, Repr

/-- Clasp port n (chapter 9). -/
structure Clasp where
  due : Nat
  sig16 : Bool
  mode : Nat
  state : ClaspState
  blockLock : Bool
  aligned : Bool
  lockSrc : Bool
  badRun : Nat
  goodRun : Nat
  arr : BitVec 16
  slip : Nat
  good : Word
  bad : Word
  gap : Word
  /-- SEQ of the last good frame since TRAINING began -/
  lastSeq : Option Half
  /-- EPOCH last reported in a good frame -/
  epochSeen : Option Word
  txSeq : Half
  /-- this period's good frame and its arrival offset in tenths of a symbol -/
  frame : Option (Bytes × Int)
  lastArr : Option Int
  /-- periods since the last good frame -/
  sinceGood : Nat
  /-- phase of the transmit block grid before R270 relates it, in tenths of a symbol (R262) -/
  grid : Nat
  latched : Bool
  entry : Bytes
  entryGood : Bool
  crecvDone : Bool
  csend : Option Bytes
  decision : Option ClaspDecision
  /-- the decided frame has been sent -/
  sent : Bool
  decidedPeriod : Word
  sentSigPrev : Bool
  sentSigCur : Bool
  /-- periods of the transitions (R280), newest first, by the port's own period count -/
  transitions : List Nat
  periods : Nat
  /-- Signet chain C(k) (R308), the rotation count k, and the last Signet -/
  chain : Bytes
  /-- the Signet of the period before, for this period's frame (R259) -/
  signetPrev : Option Bytes
  /-- the Signet being computed, its rotation k and its context -/
  signetDue : Option (Bytes × Nat × CtxNo)
  signet : Bytes
  agree : Bool
  aligning : Bool
  /-- alignment has failed, until the lock is lost and regained (R268) -/
  alignFailed : Bool
  /-- RELEASE has been written; the state changes at the latch (R279, R280) -/
  releaseDue : Bool
  leaving : Bool
  /-- monitor windows in a row within ±200 ppm (R352), and off by more than 300 ppm (R354) -/
  nearWindows : Nat
  offWindows : Nat
deriving DecidableEq, Repr

/-! ## Cast and Signets -/

/-- Cast (R297 to R303, Tables 10-8 to 10-10). -/
structure Cast where
  replay : Bool
  slots : Nat
  stripe : Nat
  chBase : Nat
  sizeGib : Nat
  en : Bool
  fabFull : Bool
  freezeOnEvent : Bool
  frozen : Bool
  wrapped : Bool
  ctxMask : Half
  post : Word
  head : Word
  count : Word
  lost : Word
  /-- staged bytes, oldest first -/
  staging : Bytes
  /-- lines of earlier recordings still to be written, with the ring offset of the first (R301) -/
  tails : List (Nat × Bytes)
  /-- records dropped since the last GAP, with the first and last lost bead -/
  dropped : Option (Nat × Nat × Nat)
  freezeAt : Option Nat
  /-- ring byte offset of the next line to write -/
  lineAt : Nat
  /-- first byte of the ring on each of its channels -/
  ringBase : Nat
  /-- records read ahead in replay: latch bead and record bytes -/
  feed : List (Nat × Bytes)
  /-- ring offset of the next line to read, lines left, and bytes of it that stand before the anchor -/
  readAt : Nat
  readLeft : Nat
  readSkip : Nat
  /-- COUNT of the records read -/
  seen : List Nat
  /-- by replayed context: Δ and the anchor's first bead (R303) -/
  deltas : List (CtxNo × Int × Nat)
  replayStopped : Bool
deriving DecidableEq, Repr

/-- An on-request Signet being read (R310): context, address of the next line, lines left, bytes read, INDEX and
INPUTS. -/
structure SigRequest where
  ctx : CtxNo
  addr : Nat
  left : Nat
  bytes : Bytes
  index : Nat
  inputs : Bytes
  /-- latch bead (R312) -/
  latched : Nat
deriving DecidableEq, Repr

/-- The SIGNET block and its request (R310, R315, Tables 10-11, 10-12). -/
structure Signets where
  addrLo : Word
  addrHi : Word
  len : Word
  busy : Bool
  done : Bool
  fault : Bool
  requests : Nat
  out : Bytes
  resultDigest : Bytes
  inputChain : Bytes
  req : Option SigRequest
deriving DecidableEq, Repr

/-! ## Pair and sea -/

/-- Roles (R317, Table 11-1): codes 0 to 3. -/
inductive Role where
  | unpaired | lead | pendant | joining
deriving DecidableEq, Repr

/-- Pair states (Table 11-10): codes 0 to 6. -/
inductive PairState where
  | none | lockstep | alone | acting | detached | fenced | copy
deriving DecidableEq, Repr

/-- A fault hunt for a context (R330): bead of the mismatch, and whether a local fault was found. -/
structure Hunt where
  ctx : CtxNo
  rotation : Nat
  localFault : Bool
deriving DecidableEq, Repr

/-- A twin item waiting to be sent (R322): type, context, payload, copies left. -/
structure TwinItem where
  kind : Byte
  ctx : Byte
  payload : Bytes
  copies : Nat
deriving DecidableEq, Repr

/-- TWIN registers and the member's role (R348, Tables 11-8 to 11-10). -/
structure TwinRegs where
  pairEn : Bool
  confirm : Nat
  beat : Nat
  silentEn : Bool
  role : Role
  state : PairState
  token : Bool
  lane0 : Bool
  lane1 : Bool
  partnerSlot : Nat
  epoch : Word
  eh : Option Word
  missed : Word
  diverge : Word
  evidence : Nat
deriving DecidableEq, Repr

/-- A local fault (R330): context, rotation, and the physical Facet that it lies in, as die and place. -/
structure LocalFault where
  ctx : CtxNo
  rot : Nat
  facet : Option (Nat × Nat)
deriving DecidableEq, Repr

/-- What the member knows of its partner, and what it has to send (R321 to R335). -/
structure TwinLink where
  missRun : Nat
  goodRun : Nat
  /-- a good cell was taken for the present boundary -/
  cellNow : Bool
  partnerRole : Nat
  partnerHealth : Nat
  partnerEpoch : Word
  partnerId : Bytes
  pairKey : Option (BitVec 128)
  items : List TwinItem
  seenInputs : List RelayedInput
  /-- READY period of the pendant (R326) -/
  readyPeriod : Option Word
  commits : List (CtxNo × DWord × Word)
  setFault : Bool
  leaving : Bool
  splitSeen : Bool
  lastReport : Bytes
  reportBead : Nat
  /-- the lead's FAULT or LEAVING cell taken in this bead: the bead in which it was sent -/
  lost : Option Nat
  /-- items of the last good cell, in plain (R392) -/
  heard : Bytes
  /-- the last KEYS record by context, with the bead in which it came (R323, R393) -/
  keysSeen : List (CtxNo × Bytes × Nat)
deriving DecidableEq, Repr

/-- A withholding event of a lockstep context (R328): its bead, context and code, and whether the partner reports it too. -/
structure Withheld where
  bead : Nat
  ctx : CtxNo
  code : Nat
  shared : Bool
deriving DecidableEq, Repr

/-- Comparison and fault hunting (R329 to R331). -/
structure TwinCompare where
  own : List (SignetItem × Nat)
  theirs : List SignetItem
  diverged : List CtxNo
  /-- beads at which unexplained mismatches of the last 24 h were settled -/
  mismatches : List Nat
  hunts : List Hunt
  localFaults : List LocalFault
  /-- Clasp Signets that equalled the lead's: port and INDEX (R329) -/
  agreed : List (Nat × Nat)
  /-- the withholding events of the last beads -/
  withheld : List Withheld
  selftestRot : Nat
  selftests : Nat
  /-- the logical Facet that the next self-test substitution takes out -/
  turn : Nat
  /-- physical Facets self-tested, by die × 512 + place, with the rotation of the last test -/
  covered : List (Nat × Nat)
deriving DecidableEq, Repr

/-- Take-over, split brain and role exchange (R333 to R341, R432). -/
structure TwinOver where
  /-- rotation count at which the beat last raised the epoch -/
  beatSince : Option Nat
  /-- epoch raise due at the next rotation boundary -/
  raiseDue : Nat
  /-- rotation count from which confirmation or detachment is counted, with EH then -/
  confirmSince : Option (Nat × Option Word)
  lossBead : Option Nat
  swapAt : Option Word
  listening : Bool
deriving DecidableEq, Repr

/-- A join (R343 to R346, Table 11-6): step, granules to copy and dirty, start and convergence rotations. -/
structure Join where
  step : Nat
  toCopy : List Nat
  dirty : List Nat
  since : Option Nat
  converged : Option Nat
  /-- mover cues of context 0 that the copy has used in a bead -/
  moved : Nat × Nat
  /-- 1 KiB pieces of the first granule that have been copied -/
  part : Nat
  /-- the rotation at whose start every granule had been copied and none was dirty -/
  cleanAt : Option Nat
  /-- granules that the lead has written since that start -/
  late : List Nat
  /-- SYNC data that wait for a context-0 resource: context, address, bytes -/
  waiting : List (CtxNo × Nat × Bytes)
deriving DecidableEq, Repr

/-- The pair (chapter 11). -/
structure Pair where
  regs : TwinRegs
  link : TwinLink
  cmp : TwinCompare
  takeover : TwinOver
  join : Join
deriving DecidableEq, Repr

/-- A packet held by a fabric port (R125). -/
structure HeldPacket where
  due : Nat
  bytes : Bytes
  transit : Nat
deriving DecidableEq, Repr

/-- Sea states (Table 16-11): codes 0 to 3. -/
inductive SeaState where
  | none | forming | locked | failed
deriving DecidableEq, Repr

/-- Rotations in a row without a packet that a member's Strands expect, and what the present rotation has shown
(R342). -/
structure Silence where
  count : Nat
  missed : Bool
  got : Bool
deriving DecidableEq, Repr

/-- The FABRIC block and the sea (R119 to R125, R466). -/
structure Fabric where
  latency : Nat
  modNo : Nat
  state : SeaState
  firstMod : Nat
  transits : List Nat
  members : List (Nat × Word)
  held : List (Nat × HeldPacket)
  formedRot : Nat
  /-- by member -/
  silent : List (Nat × Silence)
  /-- probes taken while the sea forms: member, and by how much its period counter is ahead (R119) -/
  probes : List (Nat × Word)
  split : Bool
  /-- wraps of the period counter since the sea formed (R398) -/
  wraps : Nat
deriving DecidableEq, Repr

/-- A token (R416). -/
structure Token where
  held : Bool
  serial : Option Word
  lease : Nat
deriving DecidableEq, Repr

/-! ## Clocks, power, heat -/

/-- The root's reference (Table 12-8 REF): codes 0 to 4. -/
inductive Ref where
  | oscillator | crystal | clasp | twin | holdover
deriving DecidableEq, Repr

/-- The CLOCK block, the sequencer and the monitor (R350 to R360). -/
structure Clock where
  sscEn : Bool
  sscDepth : Nat
  sscRate : Nat
  src : Nat
  lockPort : Nat
  ref : Ref
  /-- the reference a slew moves toward -/
  toward : Option Ref
  nearWindows : Nat
  rootLock : Bool
  xtalFailed : Bool
  oscFault : Bool
  sscActive : Bool
  bootFallback : Bool
  opp : Nat
  oppBusy : Bool
  oppTarget : Nat
  oppNext : Option Nat
  /-- requests that arrived during a change, oldest first (R358) -/
  oppWaiting : List Nat
  /-- the change to P-nominal is forced: it waits for the first boundary that allows it (R357) -/
  oppForced : Bool
  /-- on CX-4, the bead from which the divider moves (R359) -/
  oppSince : Option Nat
  /-- a context other than 0 has owned a unit in the last three beads of the present rotation (R359) -/
  tailUsed : Bool
  /-- 1,024 windows have passed without a stable judgement, and the wait of the fall-back path in ms (R351) -/
  judged : Bool
  delayMs : Nat
  offset : BitVec 16
  clockWord : Word
  xtalOff : Nat
  oscOff : Nat
  twinOff : Nat
deriving DecidableEq, Repr

/-- Idle load on a unit (R365): how many of context 0's beads of a rotation are filled, lowest first, and LEVEL. -/
structure IdleUnit where
  unit : UnitNo
  beads : Nat
  level : Nat
deriving DecidableEq, Repr

/-- Idle load in the beads of a Strand that is to come or has gone (R366): its context, the rotation of its period that the
present rotation is, its power in microwatts, and LEVEL. -/
structure IdleBlock where
  ctx : CtxNo
  strand : Strand
  rot : Nat
  power : Nat
  level : Nat
  gone : Bool
deriving DecidableEq, Repr

/-- The POWER_THERMAL block's power part (R363 to R366). The target is in nanowatts, E_base and the estimates are in
microwatts, the rest in watts. -/
structure Power where
  setW : Nat
  bandPct : Nat
  rampWps : Nat
  pMeas : Nat
  target : Nat
  idleW : Nat
  bandLow : Bool
  bandHigh : Bool
  vin : Half
  iin : Half
  eBase : Nat
  estimates : List (CtxNo × Nat)
  idle : List IdleUnit
  blocks : List IdleBlock
  withdrawn : Bool
deriving DecidableEq, Repr

/-- Sensor n (R367). -/
structure Sensor where
  samples : List Int
  level : Nat
  filtered : Int
  below : Option Nat
deriving DecidableEq, Repr

/-- The sensors and thermal actions (R367 to R373). -/
structure Thermal where
  sensors : List (Nat × Sensor)
  tripped : Bool
  /-- the Setting dies' clocks are gated (R371) -/
  gated : Bool
  coolDegraded : Bool
  coolBadSince : Option Nat
  coolGoodSince : Option Nat
  zonesIdle : List Nat
  hot : List (Nat × Option Nat)
  /-- packages whose channels are stopped or to be stopped, with the sample since which they have been below 90 °C -/
  stoppedPkgs : List (Nat × Option Nat)
  samplesTaken : Nat
  /-- non-IDLE cue beads of the logical Facets in the present rotation, and by rotation over the last 2^16 (R370) -/
  useNow : List (Nat × Nat)
  use : List (Nat × List (Nat × Nat))
deriving DecidableEq, Repr

/-- A copy to a spare (R370): logical Facet, incoming physical Facet, the rotation in which it began, and the words of each
bank that are left. -/
structure SpareCopy where
  logical : Nat
  spare : Nat
  began : Nat
  left : Nat
deriving DecidableEq, Repr

/-- Spares of a Setting die (R34, R36, R370, Table 12-15). -/
structure SpareDie where
  map : List Nat
  resting : List Nat
  retired : List Nat
  subst : Nat
  copying : Option SpareCopy
  /-- logical Facets whose substitution has been triggered and waits -/
  waits : List Nat
  /-- the last substitution: the rotation that it ended, the logical Facet, the physical Facet it took out -/
  swapped : Option (Nat × Nat × Nat)
deriving DecidableEq, Repr

/-! ## Management, start-up, debug -/

/-- The health states (R413): codes 0 to 3. -/
inductive Health where
  | good | degraded | replace | failed
deriving DecidableEq, Repr

/-- The contributions of Table 14-2. -/
structure HealthSources where
  slotGuard : Bool
  unexplained : Bool
  coolLost : Bool
  ueRate : Bool
  lp4xHot : Bool
  failedUnit : Bool
  tripped : Bool
  fatal : Bool
  now : Health
deriving DecidableEq, Repr

/-- An open management connection (R409). -/
structure Conn where
  id : Nat
  operator : Bool
  bootstrap : Bool
  key : Bytes
  /-- bead of the last command -/
  last : Nat
deriving DecidableEq, Repr

/-- States of a Hallmark delivery (R428). -/
inductive HmState where
  | empty | receiving | ready | armed | installing
deriving DecidableEq, Repr

/-- Hallmark delivery and the running image (R424 to R431). -/
structure Hallmark where
  staged : List (Nat × Bytes)
  checked : List Nat
  installing : Bool
  armed : Bool
  running : List (Nat × Bytes)
  generation : Nat
  floorMin : Nat
  confirmed : Bool
  readySince : Option Nat
  failedStarts : Nat
  recovery : Bool
  hmPieces : Nat
  rateWindow : Nat
  /-- settings areas: the format of each, the one confirmed last, the one in use, and the roots that the others hold (R430) -/
  areaFormat : List (Nat × Nat)
  confirmedArea : Nat
  areaUsed : Nat
  areaRoots : List (Nat × Bytes × Bytes)
deriving DecidableEq, Repr

/-- The management port (R408 to R423). -/
structure Mgmt where
  up : Bool
  net : NetSettings
  conns : List Conn
  nextConn : Nat
  operatorRoot : Bytes
  observerRoot : Bytes
  notices : List Bytes
  /-- bead of the last replace request while the state is REPLACE (R415) -/
  replaceAt : Option Nat
  /-- every health report ever logged, newest first, and the bead of the last -/
  healthLog : List Bytes
  healthLogAt : Nat
  image : List (Nat × Bytes)
  imageBase : Option Nat
  /-- bead of the reset that a RESET has ordered (R411) -/
  resetDue : Option Nat
  pairToken : Token
  seaToken : Token
  hm : Hallmark
deriving DecidableEq, Repr

/-- The Locket (R377 to R381, R426). -/
structure Locket where
  romVersion : Word
  loader : Bytes
  firmware : Bytes
  debug : Bytes
  debugOn : Bool
  loupeReady : Bool
  rngOk : Bool
  rngFailed : Bool
  draws : Nat
  /-- the draw whose continuous test fails, where one will (R379) -/
  rngLife : Option Nat
  floors : List Nat
  certChain : Bytes
  rootDigest : Bytes
deriving DecidableEq, Repr

/-- A discrete input (R445, R446). -/
structure Pin where
  used : Bool
  filtered : Bool
  changes : List Nat
  chatter : Bool
deriving DecidableEq, Repr

/-- MODULE_STATE and what surrounds it (R449, R457, Table 15-8). -/
structure Startup where
  ready : Bool
  step : Nat
  quiesced : Bool
  slot : Nat
  seat : Pin
  cool : Pin
  quiesce : Pin
  straps : BitVec 3
  alignTries : Nat
  /-- the seat hold of R450 has passed -/
  holdDone : Bool
  /-- the alignment edge has been taken: the bead counter runs (R292) -/
  counting : Bool
  facetsReleased : Bool
  powered : Bool
  stopped : Bool
deriving DecidableEq, Repr

/-- PCIe, Loupe and boundary scan (R436, R437, R454, R456). -/
structure Ports where
  linkUp : Bool
  msixEn : Bool
  loupeEn : Bool
  loupeDiv : Nat
  loupeGroup : Nat
  /-- CLASS, OP and execution of the cue that the observed unit began (R455) -/
  loupeCue : Nat
  jtag : List Byte
  /-- codewords sent since the last alignment marker, fabric ports 0 to 3 and the twin link (R439) -/
  codewords : List Nat
deriving DecidableEq, Repr

end Sys2Proof.Machine
end

