-- ==== Sys2Proof/Machine/State.lean ====
section
/-! DEFINITION. The state of one module, as plain data, and the module right after reset. -/

namespace Sys2Proof.Machine

/-- Why a step can stop with a fault. The block has no exception entry: errors are events and withheld outputs
(R116, R468). -/
inductive Fault where
  /-- Raised by no meaning of the model; the type has a constructor so that a statement can name it. Safe. -/
  | never
deriving DecidableEq, Repr

/-- Why a step can refuse a command. -/
inductive Refusal where
  /-- Raised only by an arm of `exec` whose command has no meaning yet. Safe. -/
  | notModelled (mnemonic : String)
deriving DecidableEq, Repr

/-- One module. -/
structure State where
  /-- grade 4, 2 or 1 (R5, R7) -/
  grade : Nat
  /-- die steppings of Crown, Bezel and Setting (R462) -/
  steppings : List (BitVec 4)
  /-- the seal (R15) -/
  sealed : Bool
  /-- bead counter (R65) -/
  bead : Nat
  /-- bead within the rotation (R118) -/
  beadInRot : Nat
  /-- length of the present rotation, with its alignment extension (R260, R268) -/
  rotLen : Nat
  /-- period counter (R260) -/
  period : Word
  /-- rotations since the alignment edge -/
  rotCount : Nat
  /-- the work of the rotation boundary that comes next has been done (R35) -/
  rotDone : Bool
  /-- shadows of the high halves (R461): bead counter, EVT_HEAD -/
  beadShadow : Option Word
  headShadow : Option Word
  spares : List SpareDie
  cells : CellArrays
  seqs : List (UnitNo × Seq)
  engines : List (UnitNo × EngStep)
  /-- Garland row-statistics stores (Table 6-1): running m and l by head × 32 + row -/
  rowStats : List (UnitNo × List (Word × Word))
  effects : List Effect
  drives : List Drive
  ctxs : List Ctx
  strands : StrandBlock
  /-- spaces 1, 2 and 4, by space × 2^48 + offset (R130) -/
  store : List Host.Cell
  /-- LP4X payload as stored, by channel × 2^34 + offset (R146) -/
  lp4x : List Host.Cell
  /-- LP4X check bytes, by line × 64 + place, a line being channel × 2^24 + usable line (R147, R155) -/
  lp4xCheck : List Host.Cell
  /-- the model's own: lines replaced lately, newest first (R198, log entry 21) -/
  replaced : List OldLine
  /-- 64-bit words of `store` with an error that SEC-DED cannot correct (R140), by key ÷ 8 -/
  bad : List Nat
  bezel : Bezel
  rows : List (Nat × Row)
  live : List (Nat × LiveWord)
  rings : List Ring
  /-- packets that the sends of the present bead have formed: context, port and packet; they leave at its end (R115, R121) -/
  sends : List (CtxNo × Nat × Bytes)
  claspRate : Nat
  clasps : List Clasp
  cast : Cast
  signets : Signets
  pair : Pair
  fabric : Fabric
  clock : Clock
  power : Power
  thermal : Thermal
  locket : Locket
  mgmt : Mgmt
  health : HealthSources
  events : Events
  startup : Startup
  ports : Ports
  inbox : List Input
  /-- the model's own: what has left the module, newest first (R28) -/
  out : List Output
  /-- the model's own: how many free values have been taken (log entry 7) -/
  free : Nat
  /-- the commands that wait, first in first out -/
  pending : List Instr
deriving DecidableEq, Repr

/-! ## Reset values of the parts -/

def Sec.reset : Sec :=
  { session := none, exchange := none, seaKey := none, mStrand := zeros 32, mConfig := zeros 32,
    mWeights := zeros 32, mCharms := zeros 32, load := none, members := [], rqTagLo := 0, rqTagHi := 0 }

def Mailbox.reset : Mailbox :=
  { busy := false, done := false, err := false, code := 0, len := 0, rlen := 0, tag := zeros 16, data := zeros 4032 }

def Ctx.reset : Ctx :=
  { phase := .free, strand := none, record := none, segs := [], parts := [], rot := 0, admitBead := 0, admitPeriod := 0,
    withheld := false, withheldCount := 0, lastEvt := 0, forceDue := false, releaseDue := false, castOn := false,
    damage := [], sec := Sec.reset, mailbox := Mailbox.reset, scrub := none }

/-- Context 0 is firmware and always admitted (R382, R465). -/
def Ctx.zero : Ctx := { Ctx.reset with phase := .admitted }

def StrandBlock.reset : StrandBlock :=
  { hostEn := false, busy := false, fetching := false, done := false, reject := false, context := 0, reason := 0, imgLo := 0, imgHi := 0,
    imgLen := 0, cfgLo := 0, cfgHi := 0, ifaceMin := 1, ifaceMax := 1, pendings := [], releases := [], twinReleases := [] }

def Channel.reset : Channel :=
  { state := 0, temp := 0, mr4Rot := none, rankCode0 := 0, rankCode1 := 0, nextRank := 0, patrolStarved := false, patrolAt := 0,
    patrolFix := none, noPatrol := 0, patrolled := false, ce := [], ue := 0, ueBeads := [], repair := [], taken := none }

def Bezel.reset : Bezel :=
  { patrolEn := true, hostSlots := 1, channels := List.replicate 48 Channel.reset,
    apertures := List.replicate 16 ⟨false, 0, 0⟩, queue := [], posted := 0, keys := [] }

def Ring.reset : Ring :=
  { rqBaseLo := 0, rqBaseHi := 0, rqCtl := 0, rqTail := 0, rqHead := 0, cancelLo := 0, srBaseLo := 0, srBaseHi := 0,
    srCtl := 0, srHead := 0, srTail := 0, srGap := 0, gap := 0, fails := 0, doorbell := 0, fetched := [], queue := [],
    gather := none, committed := [], chain := zeros 32, assigned := [], requests := 0, authStop := false }

def Clasp.reset : Clasp :=
  { due := 0, sig16 := false, mode := 0, state := .disabled, blockLock := false, aligned := false, lockSrc := false,
    badRun := 0, goodRun := 0, arr := 0x8000, slip := 0, good := 0, bad := 0, gap := 0, lastSeq := none,
    epochSeen := none, txSeq := 0, frame := none, lastArr := none, sinceGood := 0, grid := 0, latched := false, entry := zeros 2080,
    entryGood := false, crecvDone := false, csend := none, decision := none, sent := false, decidedPeriod := 0, sentSigPrev := false,
    sentSigCur := false, transitions := [], periods := 0, chain := zeros 32, signetPrev := none, signetDue := none,
    signet := zeros 32, agree := false, aligning := false, alignFailed := false, releaseDue := false, leaving := false, nearWindows := 0, offWindows := 0 }

def Cast.reset : Cast :=
  { replay := false, slots := 0, stripe := 0, chBase := 0, sizeGib := 0, en := false, fabFull := false,
    freezeOnEvent := false, frozen := false, wrapped := false, ctxMask := 0, post := 0, head := 0, count := 0, lost := 0,
    staging := [], tails := [], dropped := none, freezeAt := none, lineAt := 0, ringBase := 0, feed := [], readAt := 0, readLeft := 0, readSkip := 0,
    seen := [], deltas := [],
    replayStopped := false }

def Signets.reset : Signets :=
  { addrLo := 0, addrHi := 0, len := 0, busy := false, done := false, fault := false, requests := 0, out := zeros 32,
    resultDigest := zeros 32, inputChain := zeros 32, req := none }

def Join.reset : Join :=
  { step := 0, toCopy := [], dirty := [], since := none, converged := none, moved := (0, 0), part := 0, cleanAt := none, late := [],
    waiting := [] }

def Pair.reset : Pair :=
  { regs :=
      { pairEn := false, confirm := 13, beat := 12, silentEn := true, role := .unpaired, state := .none, token := false,
        lane0 := false, lane1 := false, partnerSlot := 0, epoch := 0, eh := none, missed := 0, diverge := 0,
        evidence := 0 }
    link :=
      { missRun := 0, goodRun := 0, cellNow := false, partnerRole := 0, partnerHealth := 0, partnerEpoch := 0,
        partnerId := zeros 32, pairKey := none, items := [], seenInputs := [], readyPeriod := none, commits := [],
        setFault := false, leaving := false, splitSeen := false, lastReport := [], reportBead := 0, lost := none, heard := [], keysSeen := [] }
    cmp :=
      { own := [], theirs := [], diverged := [], mismatches := [], hunts := [], localFaults := [], agreed := [], withheld := [], selftestRot := 0,
        selftests := 0, turn := 0, covered := [] }
    takeover :=
      { beatSince := none, raiseDue := 0, confirmSince := none, lossBead := none, swapAt := none, listening := false }
    join := Join.reset }

def Fabric.reset : Fabric :=
  { latency := 0, modNo := 0, state := .none, firstMod := 0, transits := [0, 0, 0, 0], members := [], held := [],
    formedRot := 0, silent := [], probes := [], split := false, wraps := 0 }

def Clock.reset : Clock :=
  { sscEn := false, sscDepth := 0, sscRate := 0, src := 0, lockPort := 0, ref := .oscillator, toward := none,
    nearWindows := 0, rootLock := false, xtalFailed := false, oscFault := false, sscActive := false,
    bootFallback := false, opp := 0, oppBusy := false, oppTarget := 0, oppNext := none, oppWaiting := [], oppForced := false, oppSince := none,
    tailUsed := false, judged := false, delayMs := 64, offset := 0,
    clockWord := 0xFFFFFFFF, xtalOff := 0, oscOff := 0, twinOff := 0 }

def Power.reset : Power :=
  { setW := 0, bandPct := 10, rampWps := 25, pMeas := 0, target := 0, idleW := 0, bandLow := false, bandHigh := false,
    vin := 0, iin := 0, eBase := 0, estimates := [], idle := [], blocks := [], withdrawn := false }

def Thermal.reset : Thermal :=
  { sensors := [], tripped := false, gated := false, coolDegraded := false, coolBadSince := none, coolGoodSince := none, zonesIdle := [],
    hot := [], stoppedPkgs := [], samplesTaken := 0, useNow := [], use := [] }

/-- The spare map at reset: logical Facet j on physical Facet j (log entry 6). -/
def SpareDie.reset : SpareDie :=
  { map := List.range 256, resting := [], retired := [], subst := 0, copying := none, waits := [], swapped := none }

def HealthSources.reset : HealthSources :=
  { slotGuard := false, unexplained := false, coolLost := false, ueRate := false, lp4xHot := false, failedUnit := false,
    tripped := false, fatal := false, now := .good }

def Hallmark.reset : Hallmark :=
  { staged := [], checked := [], installing := false, armed := false, running := [], generation := 0, floorMin := 0,
    confirmed := true, readySince := none, failedStarts := 0, recovery := false, hmPieces := 0, rateWindow := 0,
    areaFormat := [], confirmedArea := 0, areaUsed := 0, areaRoots := [] }

def Token.reset : Token := { held := false, serial := none, lease := 0 }

/-- No network settings have been written (log entry 6). -/
def NetSettings.reset : NetSettings := { ipv4 := 0, prefix_ := 0, gateway := 0, linkLocal := zeros 16, ipv6 := zeros 16 }

def Mgmt.reset : Mgmt :=
  { up := false, net := NetSettings.reset, conns := [], nextConn := 0, operatorRoot := [], observerRoot := [], notices := [], replaceAt := none, healthLog := [],
    healthLogAt := 0,
    image := [], imageBase := none, resetDue := none, pairToken := Token.reset, seaToken := Token.reset,
    hm := Hallmark.reset }

def Locket.reset : Locket :=
  { romVersion := 0, loader := zeros 32, firmware := zeros 32, debug := zeros 32, debugOn := false, loupeReady := false,
    rngOk := false, rngFailed := false, draws := 0, rngLife := none, floors := [], certChain := [], rootDigest := zeros 32 }

def Events.reset : Events :=
  { ctl := 0, log := [], head := 0, mask := [], pend := [], pendNow := [], lastMsi := none, unmaskedNew := false }

/-- A discrete input whose contact is open (Table 15-5): no input is asserted. -/
def Pin.open_ : Pin := { used := false, filtered := false, changes := [], chatter := false }

def Startup.reset : Startup :=
  { ready := false, step := 0, quiesced := false, slot := 0, seat := Pin.open_, cool := Pin.open_, quiesce := Pin.open_,
    straps := 7, alignTries := 0, holdDone := false, counting := false, facetsReleased := false, powered := false, stopped := false }

def Ports.reset : Ports :=
  { linkUp := false, msixEn := false, loupeEn := false, loupeDiv := 1, loupeGroup := 0, loupeCue := 0, jtag := List.replicate 8 0xFF,
    codewords := List.replicate 5 0 }

/-- The module right after reset: before power-good, every register at the value the manual states, or at the one log
entry 6 names. -/
def State.reset : State :=
  { grade := 4, steppings := [1, 1, 1], sealed := false, bead := 0, beadInRot := 0, rotLen := 625, period := 0,
    rotCount := 0, rotDone := false, beadShadow := none, headShadow := none, spares := List.replicate 4 SpareDie.reset,
    cells := ⟨none, []⟩, seqs := [], engines := [], rowStats := [], effects := [], drives := [],
    ctxs := Ctx.zero :: List.replicate 15 Ctx.reset, strands := StrandBlock.reset, store := [], lp4x := [],
    lp4xCheck := [], replaced := [], bad := [], bezel := Bezel.reset, rows := [], live := [], rings := List.replicate 16 Ring.reset, sends := [],
    claspRate := 40, clasps := List.replicate 4 Clasp.reset, cast := Cast.reset, signets := Signets.reset,
    pair := Pair.reset, fabric := Fabric.reset, clock := Clock.reset, power := Power.reset, thermal := Thermal.reset,
    locket := Locket.reset, mgmt := Mgmt.reset, health := HealthSources.reset, events := Events.reset,
    startup := Startup.reset, ports := Ports.reset, inbox := [], out := [], free := 0, pending := [] }

end Sys2Proof.Machine
end

