-- ==== Sys2Proof/Machine/Ops.lean ====
section
/-! DEFINITION. The named operations over memory, contexts, units, rings, ports and channels. -/

namespace Sys2Proof.Machine

/-! ## Outcomes -/

/-- Every command goes on: errors are events and withheld outputs (R116, R468). -/
abbrev ok (s : State) : Host.Outcome State Fault Refusal := .next s

/-- A command whose event cannot happen in `s` changes nothing (log entry 1). -/
def when_ (p : Bool) (f : State → State) (s : State) : State := if p then f s else s

/-! ## Memory: canonical lists of address and byte; an unlisted address reads 0 (log entry 5) -/

/-- The canonical form: addresses strictly rising, no entry that reads as an unlisted one. -/
def memWf : List Host.Cell → Bool
  | [] => true
  | [c] => decide (c.2 ≠ 0)
  | c :: d :: r => decide (c.2 ≠ 0) && decide (c.1 < d.1) && memWf (d :: r)

/-- One byte. -/
def memGet (m : List Host.Cell) (a : Nat) : Byte :=
  match m.find? fun c => c.1 = a with
  | some c => c.2
  | none => 0

/-- `n` bytes from address `a`. -/
def memRead (m : List Host.Cell) (a n : Nat) : Bytes :=
  let w := m.filter fun c => a ≤ c.1 ∧ c.1 < a + n
  (List.range n).map fun i => memGet w (a + i)

/-- The entries that bytes from address `a` list: none for a zero byte. -/
def memCells (a : Nat) : Bytes → List Host.Cell
  | [] => []
  | b :: bs => if b = 0 then memCells (a + 1) bs else (a, b) :: memCells (a + 1) bs

/-- The bytes `bs` written from address `a`. -/
def memWrite (m : List Host.Cell) (a : Nat) (bs : Bytes) : List Host.Cell :=
  m.filter (fun c => c.1 < a) ++ memCells a bs ++ m.filter fun c => a + bs.length ≤ c.1

/-- `n` bytes from address `a` written with zeros. -/
def memClear (m : List Host.Cell) (a n : Nat) : List Host.Cell := m.filter fun c => decide (c.1 < a ∨ a + n ≤ c.1)

/-! ## Grades and units (R5, R22, R66) -/

def settingDies (g : Nat) : Nat := g
def bezelDies (g : Nat) : Nat := if g = 4 then 3 else g
def channelCount (g : Nat) : Nat := 16 * bezelDies g
def facetCount (g : Nat) : Nat := 256 * settingDies g

/-- Unit kinds by kind code (Table 3-1). -/
def kindList : List UnitKind :=
  [.facet, .edge, .garland, .cabochon, .mover, .channel, .scatter, .charm, .pavilion, .clasp, .fabric, .host]

/-- How many units of a kind a grade has (Table 3-1). -/
def unitCount (g : Nat) : UnitKind → Nat
  | .facet => facetCount g
  | .edge => facetCount g
  | .garland => 8 * settingDies g
  | .cabochon => 2 * settingDies g
  | .mover => 4 * settingDies g
  | .channel => channelCount g
  | .scatter => 4 * bezelDies g
  | .charm => 2 * bezelDies g
  | .pavilion => bezelDies g
  | .clasp => 4
  | .fabric => 4
  | .host => 1

/-- The kind of a unit number. -/
def unitKind (u : UnitNo) : Option UnitKind := kindList[u / 4096]?

/-- The index of a unit number. -/
def unitIdx (u : UnitNo) : Nat := u % 4096

/-- The unit number of a kind and index. -/
def unitNo (k : UnitKind) (i : Nat) : UnitNo := kindList.idxOf k * 4096 + i

/-- The unit exists on the grade. -/
def unitExists (g : Nat) (u : UnitNo) : Bool :=
  match unitKind u with
  | some k => decide (unitIdx u < unitCount g k)
  | none => false

/-- The Setting die of a unit that lies on one. -/
def unitDie (u : UnitNo) : Option Nat :=
  match unitKind u with
  | some .facet => some (unitIdx u / 256)
  | some .edge => some (unitIdx u / 256)
  | some .garland => some (unitIdx u / 8)
  | some .cabochon => some (unitIdx u / 2)
  | some .mover => some (unitIdx u / 4)
  | _ => none

/-! ## Contexts -/

def State.ctx (s : State) (c : CtxNo) : Ctx := s.ctxs.getD c Ctx.reset

def State.modCtx (f : Ctx → Ctx) (c : CtxNo) (s : State) : State := { s with ctxs := modifyAt f c s.ctxs }

/-- Admitted contexts other than context 0, in rising order. -/
def State.admitted (s : State) : List CtxNo :=
  (span 1 16).filter fun c => decide ((s.ctx c).phase = .admitted ∨ (s.ctx c).phase = .releasing)

/-- The context runs cues: admitted, or admitted and waiting for its release. -/
def State.running (s : State) (c : CtxNo) : Bool :=
  decide ((s.ctx c).phase = .admitted ∨ (s.ctx c).phase = .releasing)

/-! ## Sequencers -/

/-- Mask registers at the start of a window (R71). -/
def freshMasks : List MaskReg := List.replicate 8 ⟨0xFFFFFFFF, none⟩

def Seq.reset : Seq :=
  { lastCtx := 0, win := none, pc := 0, frames := [], left := 0, cut := false, masks := freshMasks, issue := none }

def State.seq (s : State) (u : UnitNo) : Seq := (assoc u s.seqs).getD Seq.reset

def State.setSeq (u : UnitNo) (q : Seq) (s : State) : State := { s with seqs := assocSet u q s.seqs }

/-- Mask register `r` of a unit. -/
def Seq.mask (q : Seq) (r : Nat) : Word := (q.masks.getD r ⟨0xFFFFFFFF, none⟩).value

/-- The context that owns a unit in the present bead (R106). -/
def State.owner (s : State) (u : UnitNo) : CtxNo :=
  match (s.seq u).win with
  | some (c, _) => c
  | none => 0

/-! ## Effects in flight -/

/-- An effect of a cue begun in the present bead that becomes visible `d` beads later (R96). -/
def State.later (s : State) (d : Nat) (u : UnitNo) (c : CtxNo) (k : EffKind) : State :=
  { s with effects := { due := s.bead + d, began := s.bead, unit := u, ctx := c, kind := k } :: s.effects }

/-! ## Ports, rings, channels -/

def State.ring (s : State) (c : CtxNo) : Ring := s.rings.getD c Ring.reset
def State.modRing (f : Ring → Ring) (c : CtxNo) (s : State) : State := { s with rings := modifyAt f c s.rings }
def State.clasp (s : State) (p : Nat) : Clasp := s.clasps.getD p Clasp.reset
def State.modClasp (f : Clasp → Clasp) (p : Nat) (s : State) : State := { s with clasps := modifyAt f p s.clasps }
def State.chan (s : State) (ch : Nat) : Channel := s.bezel.channels.getD ch Channel.reset
def State.modChan (f : Channel → Channel) (ch : Nat) (s : State) : State :=
  { s with bezel := { s.bezel with channels := modifyAt f ch s.bezel.channels } }

def State.modSec (f : Sec → Sec) (c : CtxNo) (s : State) : State := s.modCtx (fun x => { x with sec := f x.sec }) c

def State.modBox (f : Mailbox → Mailbox) (c : CtxNo) (s : State) : State :=
  s.modCtx (fun x => { x with mailbox := f x.mailbox }) c

/-! ## The module's other parts, updated by a function -/

def State.modClock (f : Clock → Clock) (s : State) : State := { s with clock := f s.clock }
def State.modPower (f : Power → Power) (s : State) : State := { s with power := f s.power }
def State.modThermal (f : Thermal → Thermal) (s : State) : State := { s with thermal := f s.thermal }
def State.modLocket (f : Locket → Locket) (s : State) : State := { s with locket := f s.locket }
def State.modMgmt (f : Mgmt → Mgmt) (s : State) : State := { s with mgmt := f s.mgmt }
def State.modHm (f : Hallmark → Hallmark) (s : State) : State := s.modMgmt fun m => { m with hm := f m.hm }
def State.modStartup (f : Startup → Startup) (s : State) : State := { s with startup := f s.startup }
def State.modPorts (f : Ports → Ports) (s : State) : State := { s with ports := f s.ports }
def State.modCast (f : Cast → Cast) (s : State) : State := { s with cast := f s.cast }
def State.modSig (f : Signets → Signets) (s : State) : State := { s with signets := f s.signets }
def State.modFabric (f : Fabric → Fabric) (s : State) : State := { s with fabric := f s.fabric }
def State.modStr (f : StrandBlock → StrandBlock) (s : State) : State := { s with strands := f s.strands }
def State.modEvents (f : Events → Events) (s : State) : State := { s with events := f s.events }
def State.modBezel (f : Bezel → Bezel) (s : State) : State := { s with bezel := f s.bezel }
def State.modTwin (f : TwinRegs → TwinRegs) (s : State) : State :=
  { s with pair := { s.pair with regs := f s.pair.regs } }
def State.modLink (f : TwinLink → TwinLink) (s : State) : State :=
  { s with pair := { s.pair with link := f s.pair.link } }
def State.modCmp (f : TwinCompare → TwinCompare) (s : State) : State :=
  { s with pair := { s.pair with cmp := f s.pair.cmp } }
def State.modOver (f : TwinOver → TwinOver) (s : State) : State :=
  { s with pair := { s.pair with takeover := f s.pair.takeover } }
def State.modJoin (f : Join → Join) (s : State) : State :=
  { s with pair := { s.pair with join := f s.pair.join } }

/-- Something leaves the module (R28). -/
def State.emit (o : Output) (s : State) : State := { s with out := o :: s.out }

/-- A fresh free value (log entry 7): its number, and the counter advanced. -/
def State.fresh (s : State) : Nat × State := (s.free, { s with free := s.free + 1 })

/-! ## The live words of the SERVE block (R202) -/

def State.liveWord (s : State) (w : Nat) : LiveWord := (assoc w s.live).getD ⟨0, 0, 0⟩
def State.setLive (w : Nat) (l : LiveWord) (s : State) : State := { s with live := assocSet w l s.live }

/-! ## Roles -/

/-- PAIR_EN as it acts: a module in replay mode is unpaired (R303). -/
def State.paired (s : State) : Bool := s.pair.regs.pairEn && !s.cast.replay

/-- The module is PENDANT or JOINING (R317). -/
def State.follows (s : State) : Bool := decide (s.pair.regs.role = .pendant ∨ s.pair.regs.role = .joining)

/-- The module is LEAD or UNPAIRED. -/
def State.leads (s : State) : Bool := !s.follows

/-- The module's own number (R131). -/
def State.ownModule (s : State) : Nat := if s.fabric.state = .locked then s.fabric.modNo else 0

end Sys2Proof.Machine
end

