-- ==== Sys2Proof/Machine/Log.lean ====
section
/-! DEFINITION. Events, withheld outputs, health, notices and Cast records (R115, R116, R297 to R302, R413 to R415,
R467 to R472). -/

namespace Sys2Proof.Machine

/-! ## Event codes (Table 16-13) -/

abbrev evHealthChange : Nat := 0x0000
abbrev evReplaceRequest : Nat := 0x0001
abbrev evCueInvalid : Nat := 0x0002
abbrev evSlotGuard : Nat := 0x0003
abbrev evSegmentFault : Nat := 0x0100
abbrev evMemUe : Nat := 0x0101
abbrev evHostAperture : Nat := 0x0102
abbrev evKvHeader : Nat := 0x0200
abbrev evKvHeadroom : Nat := 0x0201
abbrev evKvPosition : Nat := 0x0202
abbrev evCharmOverflow : Nat := 0x0203
abbrev evSrecFormat : Nat := 0x0204
abbrev evRqCancelLost : Nat := 0x0205
abbrev evFabricCollision : Nat := 0x0300
abbrev evFabricMiss : Nat := 0x0301
abbrev evFabricOverrun : Nat := 0x0302
abbrev evFabricUnclaimed : Nat := 0x0303
abbrev evFabricMargin : Nat := 0x0304
abbrev evClaspUp : Nat := 0x0400
abbrev evClaspDown : Nat := 0x0401
abbrev evClaspFlap : Nat := 0x0402
abbrev evClaspMargin : Nat := 0x0403
abbrev evClaspWiring : Nat := 0x0404
abbrev evClaspAlign : Nat := 0x0405
abbrev evFiligreeAlign : Nat := 0x0500
abbrev evCastOverflow : Nat := 0x0501
abbrev evCastFrozen : Nat := 0x0502
abbrev evReplayLate : Nat := 0x0503
abbrev evReplayDiverge : Nat := 0x0504
abbrev evSignetReqFault : Nat := 0x0505
abbrev evTwinDivergence : Nat := 0x0600
abbrev evTwinLost : Nat := 0x0601
abbrev evPairPromoted : Nat := 0x0602
abbrev evPairSplit : Nat := 0x0603
abbrev evPairFenced : Nat := 0x0604
abbrev evPairAlone : Nat := 0x0605
abbrev evPairWiring : Nat := 0x0606
abbrev evPairLevel : Nat := 0x0607
abbrev evSelftestFail : Nat := 0x0608
abbrev evResyncDone : Nat := 0x0609
abbrev evResyncStalled : Nat := 0x060A
abbrev evResyncRetry : Nat := 0x060B
abbrev evSeaSplit : Nat := 0x060C
abbrev evClockSourceLost : Nat := 0x0700
abbrev evClockMonitorFault : Nat := 0x0701
abbrev evLockSourceLost : Nat := 0x0702
abbrev evOppRefused : Nat := 0x0703
abbrev evOppForced : Nat := 0x0704
abbrev evPowerBand : Nat := 0x0705
abbrev evThermalWarn : Nat := 0x0706
abbrev evThermalTrip : Nat := 0x0707
abbrev evSpareStarved : Nat := 0x0708
abbrev evLp4xWarn : Nat := 0x0709
abbrev evLp4xHot : Nat := 0x070A
abbrev evLp4xStop : Nat := 0x070B
abbrev evCoolDegraded : Nat := 0x070C
abbrev evCoolLost : Nat := 0x070D
abbrev evSessionUp : Nat := 0x0800
abbrev evSessionAuth : Nat := 0x0801
abbrev evKxFail : Nat := 0x0802
abbrev evPackageFail : Nat := 0x0803
abbrev evSetRefused : Nat := 0x0804
abbrev evScrubDone : Nat := 0x0805
abbrev evLocketRng : Nat := 0x0806
abbrev evDebugEnabled : Nat := 0x0807
abbrev evFloorFull : Nat := 0x0900
abbrev evHmInstallFail : Nat := 0x0901
abbrev evPcieDown : Nat := 0x0902
abbrev evInputChatter : Nat := 0x0903
abbrev evStrapChanged : Nat := 0x0904
abbrev evQuiesced : Nat := 0x0905

/-- How many codes each group assigns (Table 16-13). -/
def evGroupSizes : List Nat := [4, 3, 6, 5, 6, 6, 13, 14, 8, 6]

/-- The non-maskable events (Table 16-13). -/
def evNonMaskable (code : Nat) : Bool :=
  decide (code = evSlotGuard ∨ code = evTwinDivergence ∨ code = evClockSourceLost ∨ code = evThermalTrip)

/-- The bits of EVT_MASK_g that can be written: assigned codes that are maskable (Table 16-15). -/
def evMaskable (g : Nat) : Word :=
  BitVec.ofNat 32 (((List.range (evGroupSizes.getD g 0)).filter fun b => !evNonMaskable (g * 256 + b)).foldl
    (fun a b => a + 2 ^ b) 0)

/-- The event records that go out as notices (R415). -/
def evNotice (code : Nat) : Bool :=
  decide (code = evHealthChange ∨ code = evReplaceRequest ∨ code = evCoolDegraded ∨ code = evCoolLost ∨ code = evLp4xWarn
    ∨ code = evPowerBand ∨ code / 256 = 6)

/-- The 32 bytes of an event record (Table 16-12). -/
def EventRec.bytes (r : EventRec) : Bytes :=
  leBytes 2 r.code
    ++ [BitVec.ofNat 8 (b2n r.nonmaskable + 2 * b2n r.withhold + 4 * b2n r.located), BitVec.ofNat 8 r.ctx]
    ++ leBytes 2 r.unit ++ leBytes 2 r.unit2 ++ leBytes 8 r.bead ++ leBytes 4 r.period.toNat ++ slice r.arg 0 12

/-- The copy in the host window: no physical locations (R470). -/
def EventRec.hostView (r : EventRec) : EventRec :=
  if r.located then { r with located := false, arg := slice r.arg 0 6 ++ zeros 6 } else r

/-! ## CRC-32 (R122) -/

/-- One bit of the reflected CRC. -/
def crcBit (c : Nat) : Nat := if c % 2 = 1 then (c / 2) ^^^ 0xEDB88320 else c / 2

/-- `n` bits of the CRC. -/
def crcBits : Nat → Nat → Nat
  | 0, c => c
  | n + 1, c => crcBits n (crcBit c)

/-- CRC-32: polynomial 0x04C1_1DB7 reflected, initial value and final inversion all ones. -/
def crc32 (bs : Bytes) : Nat :=
  (bs.foldl (fun c b => crcBits 8 (c ^^^ b.toNat)) 0xFFFFFFFF) ^^^ 0xFFFFFFFF

/-! ## Cast (R297 to R302) -/

/-- Every field of CAST_CFG allows recording (R300). -/
def castAble (s : State) : Bool :=
  decide (s.cast.sizeGib ≠ 0 ∧ s.cast.slots ≠ 0 ∧ s.cast.chBase + 2 ^ s.cast.stripe ≤ channelCount s.grade)

/-- Cast takes records now. -/
def castOn (s : State) : Bool := s.cast.en && castAble s && !s.cast.frozen

/-- Bytes of the ring. -/
def castRingBytes (c : Cast) : Nat := c.sizeGib * 2 ^ 30

/-- Bytes of the staging buffer (R301). -/
def castStageBytes : Nat := 4 * 2 ^ 20

/-- A Cast record (Table 10-4). -/
def castRecord (type source ctx : Nat) (flags : Nat) (bead : Nat) (period count : Word) (sub : Nat) (payload : Bytes) : Bytes :=
  let h := [BitVec.ofNat 8 type, BitVec.ofNat 8 source, BitVec.ofNat 8 ctx, BitVec.ofNat 8 flags]
    ++ leBytes 4 payload.length ++ leBytes 8 bead ++ leBytes 4 period.toNat ++ leBytes 4 count.toNat ++ leBytes 2 sub
    ++ [0, 0]
  h ++ leBytes 4 (crc32 (h ++ payload)) ++ padTo 32 payload

/-- Bytes that stand in the staging buffer. -/
def castStaged (c : Cast) : Nat := c.staging.length + (c.tails.map fun t => t.2.length).sum

/-- A record that fits into staging. -/
def castPush (r : Bytes) (c : Cast) : Cast :=
  let n := castRingBytes c / 32
  let h := c.head.toNat + r.length / 32
  { c with staging := c.staging ++ r, count := c.count + 1, head := BitVec.ofNat 32 (if n ≤ h then h - n else h),
           wrapped := c.wrapped || decide (n ≤ h) }

/-- The event log's next record, with its pending bit (R471, R472). -/
def logRecord (r : EventRec) (e : Events) : Events :=
  let g := r.code / 256
  let b : Word := BitVec.ofNat 32 (2 ^ (r.code % 256))
  { e with log := r :: e.log, head := e.head + 1, pend := assocSet g ((assoc g e.pend).getD 0 ||| b) e.pend,
           pendNow := assocSet g ((assoc g e.pendNow).getD 0 ||| b) e.pendNow,
           unmaskedNew := e.unmaskedNew || (((assoc g e.mask).getD 0 &&& b) == 0) }

/-- A notice to every open connection, or into the queue of 256 (R415). -/
def pushNotice (bs : Bytes) (s : State) : State :=
  if s.mgmt.conns.isEmpty then
    s.modMgmt fun m => { m with notices := (m.notices ++ [bs]).drop (m.notices.length + 1 - 256) }
  else s.mgmt.conns.foldl (fun t c => t.emit (.notice c.id bs)) s

/-- Starts the freeze of Cast (R302): only while EN reads 1 and no freeze is in progress or complete. -/
def startFreeze (s : State) : State :=
  when_ (s.cast.en && castAble s && !s.cast.frozen && s.cast.freezeAt.isNone)
    (fun t => t.modCast fun c => { c with freezeAt := some (t.bead + c.post.toNat) }) s

/-- Payload bytes that one item can carry: the cell's 732 bytes of items less the header (R321, R322). -/
def itemBytes : Nat := 728

/-- The items of a payload: all but the last have MORE set (R322). -/
def itemsOf (kind ctx copies : Nat) : List Bytes → List TwinItem
  | [] => []
  | [p] => [{ kind := BitVec.ofNat 8 kind, ctx := BitVec.ofNat 8 ctx, payload := p, copies := copies }]
  | p :: q :: r =>
    { kind := BitVec.ofNat 8 (kind + 128), ctx := BitVec.ofNat 8 ctx, payload := p, copies := copies } :: itemsOf kind ctx copies (q :: r)

/-- Which items go first: those that must leave in a given bead, then the Signets and the other short ones, then the rest (R325,
R329). -/
def itemRank (kind : Nat) : Nat :=
  match kind % 128 with
  | 1 | 4 | 6 => 0
  | 2 | 3 | 5 => 1
  | _ => 2

/-- Items queue behind those that do not go after them. -/
def queueItems (new : List TwinItem) (l : List TwinItem) : List TwinItem :=
  match new with
  | [] => l
  | i :: _ =>
    let before := fun (x : TwinItem) => decide (itemRank x.kind.toNat ≤ itemRank i.kind.toNat)
    l.takeWhile before ++ new ++ l.dropWhile before

/-- An item for the twin cells (R322, R323): INPUT, ADMIT and WITHHELD items go out in two consecutive cells. -/
def sendItem (kind ctx : Nat) (payload : Bytes) (s : State) : State :=
  let new := itemsOf kind ctx (if itemRank kind = 0 then 2 else 1) (if payload = [] then [[]] else chunks itemBytes payload)
  s.modLink fun l => { l with items := queueItems new l.items }

/-- The outputs of a context are withheld for the rest of the rotation (R116). -/
def withhold (c : CtxNo) (s : State) : State :=
  s.modCtx (fun x => if x.withheld then x else { x with withheld := true, withheldCount := x.withheldCount + 1 }) c

/-- An event is raised (R467 to R472): its record is logged, its pending bit set, and the notice and the freeze that
it causes follow; `hold` withholds the outputs of its context. -/
def raiseAt (code : Nat) (ctx : Option CtxNo) (unit unit2 : Nat) (hold located : Bool) (arg : Bytes) (s : State) : State :=
  let nm := evNonMaskable code
  let r : EventRec :=
    { code := code, nonmaskable := nm, withhold := hold, located := located, ctx := ctx.getD 0xFF, unit := unit,
      unit2 := unit2, bead := s.bead, period := s.period, arg := slice arg 0 12 }
  let masked := decide ((((assoc (code / 256) s.events.mask).getD 0) &&& BitVec.ofNat 32 (2 ^ (code % 256))) ≠ 0)
  let s := s.modEvents (logRecord r)
  let s := match ctx with
    | some c => s.modCtx (fun x => { x with lastEvt := BitVec.ofNat 16 code }) c
    | none => s
  let s := match ctx with
    | some c =>
      if hold then
        let s := withhold c s
        if s.pair.regs.state = .lockstep ∧ s.pair.cmp.diverged.contains c = false then
          (sendItem 6 c (leBytes 4 s.period.toNat ++ leBytes 4 code) s).modCmp fun m => { m with withheld := m.withheld ++ [⟨s.bead, c, code, false⟩] }
        else s
      else s
    | none => s
  let s := if evNotice code ∧ (nm ∨ masked = false) then pushNotice r.bytes s else s
  if nm ∧ s.cast.freezeOnEvent then startFreeze s else s

/-- An event of the module as a whole, with no unit. -/
def raise (code : Nat) (arg : Bytes) (s : State) : State := raiseAt code none 0xFFFF 0xFFFF false false arg s

/-- An event raised to a context, which withholds its outputs. -/
def raiseCtx (code : Nat) (c : CtxNo) (unit : Nat) (arg : Bytes) (s : State) : State :=
  raiseAt code (some c) unit 0xFFFF true false arg s

/-- A record enters staging; one that finds no room is dropped whole, and a GAP record stands before the next
(R301). -/
def castPut (type source ctx flags bead sub : Nat) (period : Word) (payload : Bytes) (s : State) : State :=
  if castOn s = false then s
  else
    let gapped := match s.cast.dropped with
      | some (n, first, last) =>
        let g := castRecord 0x7F 0xFF 0xFF 0 s.bead s.period s.cast.count 0
          (leBytes 4 n ++ zeros 4 ++ leBytes 8 first ++ leBytes 8 last)
        if castStaged s.cast + g.length ≤ castStageBytes then
          s.modCast fun c => castPush g { c with dropped := none }
        else s
      | none => s
    let r := castRecord type source ctx flags bead period gapped.cast.count sub payload
    if gapped.cast.dropped.isNone ∧ castStaged gapped.cast + r.length ≤ castStageBytes then
      gapped.modCast (castPush r)
    else
      let fresh := gapped.cast.dropped.isNone
      let t := gapped.modCast fun c =>
        { c with lost := c.lost + 1,
                 dropped := match c.dropped with
                   | some (n, f, _) => some (n + 1, f, bead)
                   | none => some (1, bead, bead) }
      if fresh then raise evCastOverflow [] t else t

/-- A record of an input latched for a context (R297): only for a recorded context. -/
def castInput (type source : Nat) (ctx : CtxNo) (sub : Nat) (payload : Bytes) (s : State) : State :=
  if (s.ctx ctx).castOn then castPut type source ctx 0 s.bead sub s.period payload s else s

/-! ## Health (R36, R413, R414) -/

def Health.code : Health → Nat
  | .good => 0 | .degraded => 1 | .replace => 2 | .failed => 3

/-- The worse of two states. -/
def Health.worse (a b : Health) : Health := if a.code < b.code then b else a

/-- Retired Facets leave 272 less their number healthy; 16 of the healthy ones are spares (R22, R36). -/
def usableSpares (d : SpareDie) : Nat := 16 - d.retired.length

/-- The contribution of a die's spare count (Table 1-4). -/
def spareHealth (d : SpareDie) : Health :=
  if 16 < d.retired.length then .failed
  else if usableSpares d = 0 then .replace
  else if usableSpares d ≤ 3 then .degraded
  else .good

/-- The worst contribution of any source (R413, Table 14-2). -/
def healthNow (s : State) : Health :=
  let h := s.health
  let f := fun (b : Bool) (x : Health) => if b then x else .good
  ((s.spares.take (settingDies s.grade)).map spareHealth).foldl Health.worse
    ((f (h.slotGuard || h.unexplained || h.coolLost) .degraded).worse
      ((f (h.ueRate || h.lp4xHot || h.failedUnit) .replace).worse (f (h.tripped || h.fatal) .failed)))

/-- A context is to be released by force at the next rotation boundary (R109). -/
def forceRelease (c : CtxNo) (s : State) : State :=
  s.modCtx (fun x => { x with forceDue := true, phase := if x.phase = .admitted then .releasing else x.phase }) c

/-- Every admitted context is to be released by force at the next rotation boundary (R109, R371, R414). -/
def forceAll (s : State) : State := s.admitted.foldl (fun t c => forceRelease c t) s

/-- Health is judged again after an event of the given code: a change is an event, REPLACE sends the replace request,
and FAILED releases every context and makes a lead set FAULT (R413 to R415). -/
def judgeHealth (code : Nat) (s : State) : State :=
  let h := healthNow s
  if h = s.health.now then s
  else
    let s' := raise evHealthChange ([BitVec.ofNat 8 s.health.now.code, BitVec.ofNat 8 h.code] ++ leBytes 2 code)
      { s with health := { s.health with now := h } }
    let s' := s'.modMgmt fun m => { m with replaceAt := if h = .replace then some s'.bead else none }
    if h = .replace then raise evReplaceRequest [BitVec.ofNat 8 h.code] s'
    else if h = .failed then
      let t := forceAll (s'.modHm fun m => { m with readySince := none })
      if t.pair.regs.role = .lead then t.modLink fun l => { l with setFault := true } else t
    else s'

/-- A contribution is changed and health judged again. -/
def setHealth (f : HealthSources → HealthSources) (code : Nat) (s : State) : State :=
  judgeHealth code { s with health := f s.health }

end Sys2Proof.Machine
end

