-- ==== Sys2Proof/Machine/Compare.lean ====
section
/-! DEFINITION. Divergence and the comparison of Signets in a pair (R328 to R330, R346). -/

namespace Sys2Proof.Machine

/-- The context runs in lockstep with the partner. -/
def lockstepCtx (s : State) (c : CtxNo) : Bool :=
  decide (s.pair.regs.state = .lockstep) && !(s.pair.cmp.diverged.contains c)

/-- A context is diverged (R328): its comparisons are off. -/
def diverge (c : CtxNo) (s : State) : State :=
  s.modCmp fun x => if x.diverged.contains c then x else { x with diverged := x.diverged ++ [c] }

/-- An input of a lockstep context is missing here; whether the partner has it does not show: free (R323, R328, log entry 38). -/
def mayDiverge (c : CtxNo) (s : State) : State :=
  if lockstepCtx s c then
    let x := s.fresh
    if Config.freeNat x.1 % 2 = 1 then diverge c x.2 else x.2
  else s

/-! ## Granules that a copy has to send again (R345) -/

/-- Address of the granule of a context's live words, rows, rings, chains and anchor (log entry 31). -/
def ctxGranule (c : CtxNo) : Nat := 2 ^ 52 + c

/-- A copy is under way. -/
def copying (s : State) : Bool := s.pair.join.since.isSome

/-- The join begins again at a step of Table 11-6, with nothing copied. -/
def joinFrom (step : Nat) (s : State) : State := s.modJoin fun j => { Join.reset with step := step, moved := j.moved }

/-- Granules to copy again, once each. -/
def addDirty (gs : List Nat) (l : List Nat) : List Nat := l ++ (gs.filter fun g => !l.contains g).eraseDups

/-- Written granules become dirty: a lead notes its own, a joining member reports them. Between a boundary at which all was clean
and the lead's judgement of it, its own writes are kept apart (R346). -/
def markDirty (gs : List Nat) (s : State) : State :=
  if copying s = false ∨ gs = [] then s
  else if s.follows then sendItem 7 0 ((gs.eraseDups.map fun g => leBytes 8 g).flatten) s
  else s.modJoin fun j =>
    let new := gs.filter fun g => !(if j.part = 0 then j.toCopy else j.toCopy.tail).contains g
    if j.cleanAt = some s.rotCount ∧ s.beadInRot ≤ 8 then { j with late := addDirty new j.late } else { j with dirty := addDirty new j.dirty }

/-- A context's own granule becomes dirty. -/
def chainDirty (c : CtxNo) (s : State) : State := markDirty [ctxGranule c] s

/-- A change of a context's ring positions or host chain. -/
def setRing (f : Ring → Ring) (c : CtxNo) (s : State) : State := chainDirty c (s.modRing f c)

/-- A local fault of a context, with the physical Facet that it lies in (R330): it is kept for the hunts of the next 1,024
rotations, and answers those under way. -/
def noteFault (c : CtxNo) (facet : Option (Nat × Nat)) (s : State) : State :=
  s.modCmp fun x =>
    { x with localFaults := ⟨c, s.rotCount, facet⟩ :: x.localFaults.filter fun f => decide (s.rotCount < f.rot + 1041),
             hunts := x.hunts.map fun h => if h.ctx = c then { h with localFault := true } else h }

/-- A local fault in no Facet. -/
def noteLocalFault (c : CtxNo) (s : State) : State := noteFault c none s

/-- A local fault of the context over the 1,024 rotations before now. -/
def faultBefore (s : State) (c : CtxNo) : Bool :=
  s.pair.cmp.localFaults.any fun f => decide (f.ctx = c ∧ s.rotCount ≤ f.rot + 1024)

/-- The physical Facets in which the context's local faults lie. -/
def faultFacets (s : State) (c : CtxNo) : List (Nat × Nat) :=
  (s.pair.cmp.localFaults.filter fun f => decide (f.ctx = c)).filterMap (·.facet)

/-- A lead at fault sets FAULT (R334). -/
def leadFault (s : State) : State := if s.pair.regs.role = .lead then s.modLink fun l => { l with setFault := true } else s

/-- Beads after which a withholding event that the partner has not reported counts as not shared: both copies of its
WITHHELD item would have come (R321, R323). -/
def shareBeads : Nat := 10

/-- An event that a fault of the member itself causes (R334). -/
def Withheld.isLocal (x : Withheld) : Bool := decide (x.code = evMemUe ∨ x.code = evSlotGuard)

/-- The FAULT flag of the present cell (R334): a lead's local fault shows at once, and goes again when the partner reports
the same event (log entry 40). -/
def faultFlag (s : State) : Bool :=
  s.pair.link.setFault || (decide (s.pair.regs.role = .lead) && s.pair.cmp.withheld.any fun x => x.isLocal && !x.shared)

/-- A FAULT cell of bead `b` answers an event that this member shares. -/
def faultShared (s : State) (b : Nat) : Bool := s.pair.cmp.withheld.any fun x => x.isLocal && decide (b ≤ x.bead + shareBeads)

/-- A withholding event that the partner does not share: the context is diverged, and a lead sets FAULT (R328, R334). -/
def notShared (x : Withheld) (s : State) : State := if lockstepCtx s x.ctx then leadFault (diverge x.ctx s) else s

/-- The events that have waited long enough; they are kept as long again. -/
def shareDue (s : State) : State :=
  let l := s.pair.cmp.withheld
  (l.filter fun x => !x.shared && decide (x.bead + shareBeads ≤ s.bead)).foldl (fun t x => notShared x t)
    (s.modCmp fun m => { m with withheld := l.filter fun x => decide (s.bead < x.bead + shareBeads) || x.shared && decide (s.bead < x.bead + 2 * shareBeads) })

/-- The list with the first event of a context and code that waits marked as shared. -/
def shareFirst (c : CtxNo) (code : Nat) : List Withheld → Option (List Withheld)
  | [] => none
  | x :: r => if x.ctx = c ∧ x.code = code ∧ x.shared = false then some ({ x with shared := true } :: r) else (shareFirst c code r).map (x :: ·)

/-- The partner reports a withholding event: shared, or the partner's alone. -/
def partnerWithheld (c : CtxNo) (code : Nat) (s : State) : State :=
  match shareFirst c code s.pair.cmp.withheld with
  | some l => s.modCmp fun m => { m with withheld := l }
  | none => diverge c s

/-- A mismatch of a context (R330): the event, the forwarded item and the hunt; soon after convergence the join begins
again at step 4 (R346). -/
def mismatch (c : CtxNo) (kind port : Nat) (index : DWord) (s : State) : State :=
  let s := s.modTwin fun t => { t with diverge := t.diverge + 1 }
  let s := raiseAt evTwinDivergence (some c) 0xFFFF 0xFFFF false false ([BitVec.ofNat 8 kind, BitVec.ofNat 8 port, 0, 0] ++ leBytes 8 index.toNat) s
  let s := sendItem 6 c (leBytes 4 s.period.toNat ++ leBytes 4 evTwinDivergence) s
  let s := s.modCmp fun x =>
    { x with hunts := x.hunts ++ [{ ctx := c, rotation := s.rotCount,
                                    localFault := faultBefore s c }] }
  let s := diverge c s
  match s.pair.join.converged with
  | some r =>
    if s.rotCount ≤ r + 1024 then
      raise evResyncRetry [] (joinFrom 4 s)
    else s
  | none => s

/-- The two members' Signets, compared: equal Clasp Signets are noted for AGREE (R329). -/
def compareSignets (own other : SignetItem) (s : State) : State :=
  if other.signet ≠ own.signet then mismatch own.ctx own.kind.toNat own.port.toNat own.index s
  else if own.kind = 1 then
    s.modCmp fun m => { m with agreed := (own.port.toNat, own.index.toNat) :: m.agreed.filter fun a => a.1 ≠ own.port.toNat }
  else s

/-- Two Signet items name the same Signet. -/
def sameSignet (a b : SignetItem) : Bool := decide (a.ctx = b.ctx ∧ a.kind = b.kind ∧ a.port = b.port ∧ a.index = b.index)

/-- The member's own Signet is complete (R329): it is sent, and a pendant compares it with the lead's. -/
def ownSignet (x : SignetItem) (s : State) : State :=
  if lockstepCtx s x.ctx then
    let s := sendItem 2 x.ctx ([x.kind, x.port] ++ zeros 6 ++ leBytes 8 x.index.toNat ++ x.signet) s
    if s.pair.regs.role = .pendant then
      match s.pair.cmp.theirs.find? (sameSignet x) with
      | some y =>
        compareSignets x y (s.modCmp fun m => { m with theirs := m.theirs.filter fun z => !sameSignet x z })
      | none => s.modCmp fun m => { m with own := m.own ++ [(x, s.bead)] }
    else s
  else s

/-- The partner's Signet arrives (R329). -/
def theirSignet (x : SignetItem) (s : State) : State :=
  if lockstepCtx s x.ctx ∧ s.pair.regs.role = .pendant then
    match s.pair.cmp.own.find? fun y => sameSignet x y.1 with
    | some y =>
      compareSignets y.1 x (s.modCmp fun m => { m with own := m.own.filter fun z => !sameSignet x z.1 })
    | none => s.modCmp fun m => { m with theirs := m.theirs ++ [x] }
  else s

end Sys2Proof.Machine
end

