-- ==== Sys2Proof/Machine/Inputs.lean ====
section
/-! DEFINITION. External inputs on their way to a bead boundary: latch beads, relay, and their Cast form (R294, R295,
R299, R325). -/

namespace Sys2Proof.Machine

/-- The lead has a partner to which it relays inputs (R325); after a take-over, once the former lead is PENDANT (R334): it has
kept the pair key. -/
def relays (s : State) : Bool :=
  decide (s.pair.regs.role = .lead ∧ (s.pair.regs.state = .lockstep ∨ s.pair.regs.state = .copy
      ∨ (s.pair.regs.state = .alone ∧ s.pair.link.pairKey.isSome)))
    && (s.pair.takeover.lossBead.isNone || decide (s.pair.link.partnerRole = 2))

/-- The latch bead of an input that passes its synchroniser now (R294, R325). -/
def latchBead (s : State) : Nat := s.bead + if relays s then 16 else 1

/-- Offset of the ring group of a context (R235). -/
def ringOffset (c : CtxNo) : Nat := 0x701000 + 0x40 * c

/-- The number of a discrete input. -/
def pinNo : PinName → Nat
  | .traySeat => 0 | .coolOk => 1 | .quiesce => 2

/-- A MGMT payload: command code and argument (Table 10-5). -/
def mgmtBytes (code : Nat) (arg : Bytes) : Bytes := leBytes 4 code ++ slice arg 0 12

/-- The MGMT record of a management input. The places of the argument's fields in RELEASE, TOKEN and ROLE_SWAP are the model's
(log entry 18); the record of a discrete input is open. -/
def mgmtRecord : InputKind → Option Bytes
  | .mgmtAdmit _ arg record _ => some (mgmtBytes 0x10 (slice arg 0 8 ++ leBytes 4 record.length))
  | .mgmtRelease _ c forced => some (mgmtBytes 0x11 [BitVec.ofNat 8 c, BitVec.ofNat 8 (b2n forced)])
  | .mgmtToken _ kind action serial lease =>
    some (mgmtBytes 0x20 ([BitVec.ofNat 8 kind, BitVec.ofNat 8 action] ++ leBytes 4 serial.toNat ++ leBytes 2 lease))
  | .mgmtSwap _ p => some (mgmtBytes 0x40 (leBytes 4 p.toNat))
  | .pin n asserted => some ((List.range 16).map (Config.pinRecord (2 * pinNo n + b2n asserted)))
  | .relayed r => some (slice r 0 16)
  | _ => none

/-- The Cast type, payload and context of an input that the lead relays (Table 10-5): context 0xFF for a management input, which
concerns the module. A command of the STRAND block has no Cast type: its effect goes out in ADMIT items (R326). A TOKEN is not
relayed (R412). -/
def inputCast : InputKind → Option (Nat × Bytes × CtxNo)
  | .cancel c q => some (0x41, leBytes 8 q.toNat, c)
  | .request c e => some (0x40, slice e 0 64, c)
  | .index o v => some (0x43, leBytes 4 o ++ leBytes 4 v.toNat, (o - 0x701000) / 0x40)
  | .sigReq r => some (0x44, slice r 0 16, leAt r 12 4 % 16)
  | .mgmtToken .. => none
  | k => (mgmtRecord k).map fun p => (0x50, p, 0xFF)

/-- An input that arrives: it waits for its boundary, and the lead relays it (R325). -/
def pushInput (src : Nat) (k : InputKind) (s : State) : State :=
  let l := latchBead s
  let sub := (s.inbox.filter fun i => decide (i.latch = l ∧ i.source = src)).length
  let s' := { s.modBezel (fun b => { b with posted := b.posted + 1 }) with
    inbox := s.inbox ++ [{ latch := l, source := src, kind := k, seq := s.bezel.posted, suborder := if relays s then some sub else none }] }
  match inputCast k with
  | some (t, p, c) =>
    if relays s then
      sendItem 1 c (leBytes 8 l ++ [BitVec.ofNat 8 t, BitVec.ofNat 8 src] ++ leBytes 2 sub ++ p) s'
    else s'
  | none => s'

/-- An input with its latch bead, source and suborder given: relayed or fed. -/
def placeInput (latch src sub : Nat) (k : InputKind) (s : State) : State :=
  { s.modBezel (fun b => { b with posted := b.posted + 1 }) with
    inbox := s.inbox ++ [{ latch := latch, source := src, kind := k, seq := s.bezel.posted, suborder := some sub }] }

/-- The input that a Cast type and payload name (Table 10-5), for a context. -/
def castKind (t : Nat) (c : CtxNo) (p : Bytes) : Option InputKind :=
  match t with
  | 0x40 => some (.request c (slice p 0 64))
  | 0x41 => some (.cancel c (BitVec.ofNat 64 (leAt p 0 8)))
  | 0x43 => some (.index (leAt p 0 4) (BitVec.ofNat 32 (leAt p 4 4)))
  | 0x44 => some (.sigReq (slice p 0 16))
  | 0x50 => some (.relayed (slice p 0 16))
  | _ => none

end Sys2Proof.Machine
end

