-- ==== Sys2Proof/Machine/Crypto.lean ====
section
/-! DEFINITION. The named standards the manual cites: SM3 (GB/T 32905), SM4 (GB/T 32907), XTS (IEEE 1619), CTR, HMAC
and SM2, and the Reed–Solomon code of R155. The standards' own texts are not in the manual: log entry 10. -/

namespace Sys2Proof.Machine

/-! ## Byte order: digests and ciphers keep their standards' big-endian words (R13) -/

/-- A word from four bytes, most significant first. -/
def beWord (bs : Bytes) : Word := BitVec.ofNat 32 (beNat bs)

/-- The big-endian 32-bit words of a byte string. -/
def beWords (bs : Bytes) : List Word := (chunks 4 bs).map beWord

/-- The bytes of words, most significant first. -/
def wordBytes (ws : List Word) : Bytes := (ws.map fun w => beBytes 4 w.toNat).flatten

/-! ## SM3 -/

def sm3Iv : List Word :=
  [0x7380166F, 0x4914B2B9, 0x172442D7, 0xDA8A0600, 0xA96F30BC, 0x163138AA, 0xE38DEE4D, 0xB0FB0E4E]

def sm3P0 (x : Word) : Word := x ^^^ x.rotateLeft 9 ^^^ x.rotateLeft 17
def sm3P1 (x : Word) : Word := x ^^^ x.rotateLeft 15 ^^^ x.rotateLeft 23

/-- `n` more words of the message expansion; the list runs from the latest word back. -/
def sm3Expand : Nat → List Word → List Word
  | 0, l => l
  | n + 1, l =>
    let g := fun i => l.getD (i - 1) 0
    sm3Expand n ((sm3P1 (g 16 ^^^ g 9 ^^^ (g 3).rotateLeft 15) ^^^ (g 13).rotateLeft 7 ^^^ g 6) :: l)

/-- One round, for the j-th words W and W'. -/
def sm3Round (j : Nat) (w w' : Word) (v : List Word) : List Word :=
  match v with
  | [a, b, c, d, e, f, g, h] =>
    let t : Word := if j < 16 then 0x79CC4519 else 0x7A879D8A
    let ss1 := (a.rotateLeft 12 + e + t.rotateLeft (j % 32)).rotateLeft 7
    let ss2 := ss1 ^^^ a.rotateLeft 12
    let ff := if j < 16 then a ^^^ b ^^^ c else (a &&& b) ||| (a &&& c) ||| (b &&& c)
    let gg := if j < 16 then e ^^^ f ^^^ g else (e &&& f) ||| (~~~e &&& g)
    [ff + d + ss2 + w', a, b.rotateLeft 9, c, sm3P0 (gg + h + ss1 + w), e, f.rotateLeft 19, g]
  | v => v

/-- The rounds from the j-th on, over the remaining words. -/
def sm3Rounds : Nat → Nat → List Word → List Word → List Word
  | 0, _, _, v => v
  | n + 1, j, ws, v =>
    match ws with
    | w :: r => sm3Rounds n (j + 1) r (sm3Round j w (w ^^^ r.getD 3 0) v)
    | [] => v

/-- The compression function over one 64-byte block. -/
def sm3Block (v : List Word) (b : Bytes) : List Word :=
  let ws := (sm3Expand 52 (beWords b).reverse).reverse
  List.zipWith (· ^^^ ·) v (sm3Rounds 64 0 ws v)

/-- The padding: a 1 bit, zeros, and the bit length in 64 bits. -/
def sm3Pad (m : Bytes) : Bytes :=
  m ++ [0x80] ++ zeros ((64 - (m.length + 9) % 64) % 64) ++ beBytes 8 (8 * m.length)

/-- The SM3 digest. -/
def sm3 (m : Bytes) : Bytes := wordBytes ((chunks 64 (sm3Pad m)).foldl sm3Block sm3Iv)

/-- HMAC with SM3. -/
def hmacSm3 (key m : Bytes) : Bytes :=
  let k := slice (if 64 < key.length then sm3 key else key) 0 64
  sm3 (k.map (· ^^^ 0x5C) ++ sm3 (k.map (· ^^^ 0x36) ++ m))

/-! ## SM4 -/

def sm4BoxLo : Nat := 0xD690E9FECCE13DB716B614C228FB2C052B679A762ABE04C3AA441326498606999C4250F491EF987A33540B43EDCFAC62E4B31CA9C908E89580DF94FA758F3FA64707A7FCF37317BA83593C19E6854FA8686B81B27164DA8BF8EB0F4B70569D351E240E5E6358D1A225227C3B01217887D40046579FD327524C3602E7A0C4C89E
def sm4BoxHi : Nat := 0xEABF8AD240C738B5A3F7F2CEF96115A1E0AE5DA49B341A55AD933230F58CB1E31DF6E22E8266CA60C02923AB0D534E6FD5DB3745DEFD8E2F03FF6A726D6C5B518D1BAF92BBDDBC7F11D95C411F105AD80AC13188A5CD7BBD2D74D012B8E5B4B08969974A0C96777E65B9F109C56EC68418F07DEC3ADC4D2079EE5F3ED7CB3948

/-- The S-box. -/
def sm4Box (x : Nat) : Nat :=
  if x < 128 then sm4BoxLo / 256 ^ (127 - x) % 256 else sm4BoxHi / 256 ^ (255 - x) % 256

/-- The S-box as an array: the same values. -/
def sm4Table : Array Nat := ((List.range 256).map sm4Box).toArray

/-- The S-box on each byte of a word. -/
def sm4Tau (x : Word) : Word :=
  let v := x.toNat
  let f := fun k => sm4Table.getD (v / 256 ^ k % 256) 0 * 256 ^ k
  BitVec.ofNat 32 (f 0 + f 1 + f 2 + f 3)

def sm4T (x : Word) : Word :=
  let b := sm4Tau x
  b ^^^ b.rotateLeft 2 ^^^ b.rotateLeft 10 ^^^ b.rotateLeft 18 ^^^ b.rotateLeft 24

def sm4TKey (x : Word) : Word :=
  let b := sm4Tau x
  b ^^^ b.rotateLeft 13 ^^^ b.rotateLeft 23

/-- CK of round i. -/
def sm4Ck (i : Nat) : Word := beWord ((List.range 4).map fun j => BitVec.ofNat 8 ((4 * i + j) * 7))

/-- `n` rounds of a four-word Feistel step, from round `i`. -/
def sm4Steps (f : Nat → Word → Word → Word → Word → Word) : Nat → Nat → Word × Word × Word × Word → Word × Word × Word × Word
  | 0, _, x => x
  | n + 1, i, (a, b, c, d) => sm4Steps f n (i + 1) (b, c, d, f i a b c d)

/-- The round keys in order. -/
def sm4Keys : Nat → Nat → Word → Word → Word → Word → List Word
  | 0, _, _, _, _, _ => []
  | n + 1, i, a, b, c, d =>
    let k := a ^^^ sm4TKey (b ^^^ c ^^^ d ^^^ sm4Ck i)
    k :: sm4Keys n (i + 1) b c d k

def sm4Schedule (key : BitVec 128) : List Word :=
  let w := fun i => BitVec.ofNat 32 (key.toNat / 2 ^ (96 - 32 * i))
  sm4Keys 32 0 (w 0 ^^^ 0xA3B1BAC6) (w 1 ^^^ 0x56AA3350) (w 2 ^^^ 0x677D9197) (w 3 ^^^ 0xB27022DC)

/-- The 32 rounds over a block. -/
def sm4Run : List Word → Word → Word → Word → Word → List Word
  | [], a, b, c, d => [d, c, b, a]
  | k :: ks, a, b, c, d => sm4Run ks b c d (a ^^^ sm4T (b ^^^ c ^^^ d ^^^ k))

/-- One block under a key schedule. -/
def sm4Block (ks : List Word) (b : Bytes) : Bytes :=
  match beWords b with
  | [x, y, z, w] => wordBytes (sm4Run ks x y z w)
  | _ => b

def sm4Enc (key : BitVec 128) (b : Bytes) : Bytes := sm4Block (sm4Schedule key) b
def sm4Dec (key : BitVec 128) (b : Bytes) : Bytes := sm4Block (sm4Schedule key).reverse b

/-- A 128-bit key from 16 bytes. -/
def keyOf (bs : Bytes) : BitVec 128 := BitVec.ofNat 128 (beNat (slice bs 0 16))

/-- The 16 bytes of a 128-bit key. -/
def keyBytes (k : BitVec 128) : Bytes := beBytes 16 k.toNat

/-! ## XTS over whole blocks -/

/-- Multiplication of the little-endian tweak by α. -/
def xtsNext (t : Nat) : Nat := if 2 ^ 127 ≤ t then (2 * t - 2 ^ 128) ^^^ 0x87 else 2 * t

/-- The blocks of a data unit, from tweak value `t`. -/
def xtsBlocks (f : Bytes → Bytes) : Nat → List Bytes → List Bytes
  | _, [] => []
  | t, b :: r =>
    let m := leBytes 16 t
    xorBytes (f (xorBytes b m)) m :: xtsBlocks f (xtsNext t) r

/-- XTS with the data key's block function; `tweak` is the data unit's number, little-endian. -/
def xts (enc : Bool) (key1 key2 : BitVec 128) (tweak : Nat) (data : Bytes) : Bytes :=
  let t := leNat (sm4Enc key2 (leBytes 16 tweak))
  let ks := sm4Schedule key1
  let f := sm4Block (if enc then ks else ks.reverse)
  (xtsBlocks f t (chunks 16 data)).flatten

/-! ## CTR over counter blocks that end in a little-endian block number (R389, R392, R398) -/

/-- Counter mode: counter block i is `pre` followed by i in `n` little-endian bytes. -/
def ctrBlocks (key : BitVec 128) (pre : Bytes) (n : Nat) (data : Bytes) : Bytes :=
  let ks := sm4Schedule key
  xorBytes data (((List.range (cdiv data.length 16)).map fun i => sm4Block ks (slice (pre ++ leBytes n i) 0 16)).flatten)

/-- The key derivation function of GB/T 32918: `n` bytes from SM3 over the input and a counter from 1. -/
def kdf (z : Bytes) (n : Nat) : Bytes :=
  (((List.range (cdiv n 32)).map fun i => sm3 (z ++ beBytes 4 (i + 1))).flatten).take n

/-! ## SM2 over its recommended curve, in affine coordinates -/

def sm2P : Nat := 0xFFFFFFFEFFFFFFFFFFFFFFFFFFFFFFFFFFFFFFFF00000000FFFFFFFFFFFFFFFF
def sm2A : Nat := 0xFFFFFFFEFFFFFFFFFFFFFFFFFFFFFFFFFFFFFFFF00000000FFFFFFFFFFFFFFFC
def sm2B : Nat := 0x28E9FA9E9D9F5E344D5A9E4BCF6509A7F39789F515AB8F92DDBCBD414D940E93
def sm2N : Nat := 0xFFFFFFFEFFFFFFFFFFFFFFFFFFFFFFFF7203DF6B21C6052B53BBF40939D54123
def sm2Gx : Nat := 0x32C4AE2C1F1981195F9904466A39C9948FE30BBFF2660BE1715A4589334C74C7
def sm2Gy : Nat := 0xBC3736A2F4F6779C59BDCEE36B692153D0A9877CC62A474002DF32E52139F0A0

/-- `b^e mod m` by squaring over the low `n` bits of `e`. -/
def powMod : Nat → Nat → Nat → Nat → Nat
  | 0, _, _, m => 1 % m
  | n + 1, b, e, m =>
    let h := powMod n (b * b % m) (e / 2) m
    if e % 2 = 1 then h * b % m else h

/-- The inverse modulo a prime. -/
def invMod (a m : Nat) : Nat := powMod 256 (a % m) (m - 2) m

/-- Point addition; none is the point at infinity. -/
def sm2Add : Option (Nat × Nat) → Option (Nat × Nat) → Option (Nat × Nat)
  | none, q => q
  | p, none => p
  | some (x1, y1), some (x2, y2) =>
    let p := sm2P
    if x1 = x2 ∧ (y1 + y2) % p = 0 then none
    else
      let l := if x1 = x2 then (3 * x1 * x1 + sm2A) * invMod (2 * y1) p % p
        else (y2 + p - y1) * invMod (x2 + p - x1) p % p
      let x3 := (l * l + 2 * p - x1 - x2) % p
      some (x3, (l * (x1 + p - x3) + p - y1) % p)

/-- Scalar multiple, over the low `n` bits of `k`. -/
def sm2Mul : Nat → Nat → Option (Nat × Nat) → Option (Nat × Nat)
  | 0, _, _ => none
  | n + 1, k, q =>
    let h := sm2Mul n (k / 2) (sm2Add q q)
    if k % 2 = 1 then sm2Add h q else h

/-- The point is on the curve. -/
def sm2On (x y : Nat) : Bool :=
  decide (x < sm2P ∧ y < sm2P ∧ y * y % sm2P = (x * x % sm2P * x + sm2A * x + sm2B) % sm2P)

/-- The standard's default identity, "1234567812345678". -/
def sm2Id : Bytes := [0x31, 0x32, 0x33, 0x34, 0x35, 0x36, 0x37, 0x38, 0x31, 0x32, 0x33, 0x34, 0x35, 0x36, 0x37, 0x38]

/-- Z of an identity and a public key. -/
def sm2Z (ident pub : Bytes) : Bytes :=
  sm3 (beBytes 2 (8 * ident.length) ++ ident ++ beBytes 32 sm2A ++ beBytes 32 sm2B ++ beBytes 32 sm2Gx ++ beBytes 32 sm2Gy ++ slice pub 0 64)

/-- The number a signature is over: SM3 of Z and the message. -/
def sm2Hash (ident pub m : Bytes) : Nat := beNat (sm3 (sm2Z ident pub ++ m))

/-- A signature `r ‖ s` over a message verifies under an identity and a 64-byte public key `x ‖ y`. -/
def sm2Verify (ident pub m sig : Bytes) : Bool :=
  let x := beNat (slice pub 0 32)
  let y := beNat (slice pub 32 32)
  let r := beNat (slice sig 0 32)
  let s := beNat (slice sig 32 32)
  let t := (r + s) % sm2N
  if sm2On x y ∧ 0 < r ∧ r < sm2N ∧ 0 < s ∧ s < sm2N ∧ t ≠ 0 then
    match sm2Add (sm2Mul 256 s (some (sm2Gx, sm2Gy))) (sm2Mul 256 t (some (x, y))) with
    | some (x1, _) => decide ((sm2Hash ident pub m + x1) % sm2N = r)
    | none => false
  else false

/-- The public key of a private number. -/
def sm2Pub (d : Nat) : Bytes :=
  match sm2Mul 256 d (some (sm2Gx, sm2Gy)) with
  | some (x, y) => beBytes 32 x ++ beBytes 32 y
  | none => zeros 64

/-- The signature of a message with private number `d` and per-message number `k`. -/
def sm2Sign (ident : Bytes) (d k : Nat) (m : Bytes) : Bytes :=
  match sm2Mul 256 k (some (sm2Gx, sm2Gy)) with
  | some (x1, _) =>
    let r := (sm2Hash ident (sm2Pub d) m + x1) % sm2N
    let s := invMod (1 + d) sm2N * (k + sm2N * sm2N - r * d) % sm2N
    beBytes 32 r ++ beBytes 32 s
  | none => zeros 64

/-- The point of 64 bytes `x ‖ y`; none off the curve. -/
def sm2Point (b : Bytes) : Option (Nat × Nat) :=
  let x := beNat (slice b 0 32)
  let y := beNat (slice b 32 32)
  if sm2On x y then some (x, y) else none

/-- What the key exchange gives both sides (GB/T 32918.3): the key, S_B, and S_A. -/
structure Agreed where
  k : Bytes
  sB : Bytes
  sA : Bytes
deriving DecidableEq, Repr

/-- The low half of a coordinate with the bit above it set. -/
def sm2Half (x : Nat) : Nat := 2 ^ 127 + x % 2 ^ 127

/-- The point that both sides of the key exchange come to: own static and ephemeral numbers, the other's points. -/
def sm2Secret (d r : Nat) (p q : Bytes) : Option (Nat × Nat) :=
  match sm2Point p, sm2Point q with
  | some p, some q =>
    let t := (d + sm2Half (beNat (slice (sm2Pub r) 0 32)) * r) % sm2N
    sm2Mul 256 t (sm2Add (some p) (sm2Mul 256 (sm2Half q.1) (some q)))
  | _, _ => none

/-- What follows from that point: identities, static and ephemeral points of A and B, and `n` bytes of key. -/
def sm2Agree (idA idB pA pB rA rB : Bytes) (n : Nat) (u : Nat × Nat) : Agreed :=
  let z := sm2Z idA pA ++ sm2Z idB pB
  let y := beBytes 32 u.2
  let h := sm3 (beBytes 32 u.1 ++ z ++ rA ++ rB)
  { k := kdf (beBytes 32 u.1 ++ y ++ z) n, sB := sm3 ([2] ++ y ++ h), sA := sm3 ([3] ++ y ++ h) }

/-- The key exchange, on the responder's side: identities, static and ephemeral points of A, static and ephemeral
numbers of B. -/
def sm2Respond (idA idB pA rA : Bytes) (dB rB : Nat) : Option Agreed :=
  (sm2Secret dB rB pA rA).map (sm2Agree idA idB pA (sm2Pub dB) rA (sm2Pub rB) 64)

/-- Public-key decryption (GB/T 32918.4) of C1 ‖ C3 ‖ C2 with C1 uncompressed. -/
def sm2Decrypt (d : Nat) (c : Bytes) (n : Nat) : Option Bytes :=
  if leAt c 0 1 ≠ 4 then none
  else
    match sm2Point (slice c 1 64) with
    | none => none
    | some p =>
      match sm2Mul 256 d (some p) with
      | none => none
      | some (x, y) =>
        let m := xorBytes (slice c 97 n) (kdf (beBytes 32 x ++ beBytes 32 y) n)
        if sm3 (beBytes 32 x ++ m ++ beBytes 32 y) = slice c 65 32 then some m else none

/-! ## The Reed–Solomon code of R155 over GF(2^8), polynomial 0x11D -/

/-- Multiplication by α = 0x02. -/
def gfDouble (a : Nat) : Nat := if 128 ≤ a then (2 * a) ^^^ 0x11D else 2 * a

/-- `n` bits of a product in the field. -/
def gfMulBits : Nat → Nat → Nat → Nat
  | 0, _, _ => 0
  | n + 1, a, b => (if b % 2 = 1 then a else 0) ^^^ gfMulBits n (gfDouble a) (b / 2)

def gfMul (a b : Nat) : Nat := gfMulBits 8 a b

/-- α to the power `n`. -/
def gfPow : Nat → Nat
  | 0 => 1
  | n + 1 => gfDouble (gfPow n)

/-- The generator (x − 1)(x − α)(x − α²)(x − α³) below its leading term, highest power first. -/
def rsGen : List Nat :=
  (List.range 4).foldl (fun g i => List.zipWith (· ^^^ ·) (g ++ [0]) (0 :: g.map (gfMul (gfPow i)))) [1] |>.drop 1

/-- The remainder of the payload shifted by four, one byte at a time. -/
def rsStep (r : List Nat) (b : Byte) : List Nat :=
  let f := r.getD 0 0 ^^^ b.toNat
  List.zipWith (· ^^^ ·) (r.drop 1 ++ [0]) (rsGen.map (gfMul f))

/-- The four check bytes of a code word's 64 payload bytes. -/
def rsCheck (w : Bytes) : Bytes := (w.foldl rsStep [0, 0, 0, 0]).map (BitVec.ofNat 8)

/-- Syndrome i of a code word. -/
def rsSyndrome (i : Nat) (w : Bytes) : Nat :=
  let a := gfPow i
  w.foldl (fun s b => gfMul s a ^^^ b.toNat) 0

/-- What decoding a code word of 68 bytes finds. -/
inductive RsResult where
  | clean | fixed (w : Bytes) | bad
deriving DecidableEq, Repr

/-- One byte is corrected; anything else is uncorrectable. -/
def rsDecode (w : Bytes) : RsResult :=
  let s0 := rsSyndrome 0 w
  let s1 := rsSyndrome 1 w
  let s2 := rsSyndrome 2 w
  let s3 := rsSyndrome 3 w
  if s0 = 0 ∧ s1 = 0 ∧ s2 = 0 ∧ s3 = 0 then .clean
  else if s0 = 0 then .bad
  else
    match (List.range 68).find? fun p => gfMul s0 (gfPow p) = s1 with
    | some p =>
      let x := gfPow p
      if gfMul s1 x = s2 ∧ gfMul s2 x = s3 then .fixed (modifyAt (· ^^^ BitVec.ofNat 8 s0) (67 - p) w) else .bad
    | none => .bad

end Sys2Proof.Machine
end

