-- ==== Sys2Proof/Machine/Float.lean ====
section
/-! DEFINITION. Number formats, exact values and the single rounding (R44 to R47, R58, R59, R61 to R64). -/

namespace Sys2Proof.Machine

/-! ## Values -/

/-- A decoded operand: `num` is `±m × 2^e` with `m` not zero. -/
inductive Val where
  | nan
  | inf (neg : Bool)
  | zero (neg : Bool)
  | num (neg : Bool) (m : Nat) (e : Int)
deriving DecidableEq, Repr

/-- Width in bits of a format (Table 2-2 and 2.2.1). -/
def fmtBits : Fmt → Nat
  | .int4 => 4 | .int8 => 8 | .int32 => 32 | .e4m3 => 8 | .e5m2 => 8 | .bf16 => 16 | .fp32 => 32

/-- Mantissa bits M of Table 2-2; 0 for an integer format. -/
def fmtMant : Fmt → Nat
  | .e4m3 => 3 | .e5m2 => 2 | .bf16 => 7 | .fp32 => 23 | _ => 0

/-- Bias of Table 2-2. -/
def fmtBias : Fmt → Nat
  | .e4m3 => 7 | .e5m2 => 15 | .bf16 => 127 | .fp32 => 127 | _ => 0

/-- The code of the largest finite magnitude (Table 2-2). -/
def fmtMax : Fmt → Nat
  | .e4m3 => 0x7E | .e5m2 => 0x7B | .bf16 => 0x7F7F | .fp32 => 0x7F7FFFFF
  | .int4 => 7 | .int8 => 127 | .int32 => 2147483647

def fmtIsInt : Fmt → Bool
  | .int4 | .int8 | .int32 => true
  | _ => false

/-- The formats without subnormals (R47). -/
def fmtFlushes : Fmt → Bool
  | .bf16 | .fp32 => true
  | _ => false

/-- The canonical NaN of Table 2-2, and the integer NaN result 0 of Table 2-6. -/
def fmtNan : Fmt → Nat
  | .e4m3 => 0x7F | .e5m2 => 0x7F | .bf16 => 0x7FC0 | .fp32 => 0x7FC00000 | _ => 0

/-- An integer as a value. -/
def Val.ofInt (i : Int) : Val := if i = 0 then .zero false else .num (decide (i < 0)) i.natAbs 0

/-- What a code of a format means (R44 to R47). -/
def decodeVal (f : Fmt) (code : Nat) : Val :=
  let n := fmtBits f
  if fmtIsInt f then Val.ofInt (signed n code)
  else
    let mb := fmtMant f
    let neg := code.testBit (n - 1)
    let m := code % 2 ^ mb
    let e := bits code mb (n - 1 - mb)
    let top := 2 ^ (n - 1 - mb) - 1
    if e = top ∧ f = .e4m3 ∧ m = 7 then .nan
    else if e = top ∧ f ≠ .e4m3 then (if m = 0 then .inf neg else .nan)
    else if e = 0 then
      if fmtFlushes f ∨ m = 0 then .zero neg else .num neg m (1 - (fmtBias f : Int) - mb)
    else .num neg (2 ^ mb + m) ((e : Int) - fmtBias f - mb)

/-! ## Rounding -/

/-- `m × 2^e` rounded to a multiple of `2^g`, ties to even: the quotient, and whether bits were lost. -/
def roundAt (m : Nat) (e g : Int) : Nat × Bool :=
  if g ≤ e then (m * 2 ^ (e - g).toNat, false)
  else
    let k := (g - e).toNat
    let q := m / 2 ^ k
    let r := m % 2 ^ k
    let h := 2 ^ (k - 1)
    (if h < r ∨ (r = h ∧ q % 2 = 1) then q + 1 else q, decide (r ≠ 0))

/-- Bits of the round-out status word (Table 2-7). -/
structure Status where
  invalid : Bool := false
  inf : Bool := false
  overflow : Bool := false
  underflow : Bool := false
  inexact : Bool := false
  trunc : Bool := false
  windowSat : Bool := false
deriving DecidableEq, Repr

def Status.or (a b : Status) : Status :=
  ⟨a.invalid || b.invalid, a.inf || b.inf, a.overflow || b.overflow, a.underflow || b.underflow,
    a.inexact || b.inexact, a.trunc || b.trunc, a.windowSat || b.windowSat⟩

/-- The status word of Table 2-7. -/
def Status.word (a : Status) : Nat :=
  b2n a.invalid + 2 * b2n a.inf + 4 * b2n a.overflow + 8 * b2n a.underflow + 16 * b2n a.inexact + 32 * b2n a.trunc
    + 64 * b2n a.windowSat

/-- A code with the sign bit of its format. -/
def withSign (f : Fmt) (neg : Bool) (mag : Nat) : Nat := if neg then mag + 2 ^ (fmtBits f - 1) else mag

/-- The integer limits of Table 2-6. -/
def intLimit (f : Fmt) (neg : Bool) : Nat := if neg then fmtMax f + 1 else fmtMax f

/-- NaN results (Table 2-6). -/
def nanResult (f : Fmt) : Nat × Status := (fmtNan f, { invalid := true })

/-- ±∞ results (Table 2-6, Table 2-7). -/
def infResult (f : Fmt) (neg : Bool) : Nat × Status :=
  match f with
  | .e4m3 => (0x7F, { invalid := true, inf := true })
  | .e5m2 => (withSign f neg 0x7C, { inf := true })
  | .bf16 => (withSign f neg 0x7F80, { inf := true })
  | .fp32 => (withSign f neg 0x7F800000, { inf := true })
  | _ => (intLimit f neg, { inf := true, overflow := true })

/-- Overflow results (Table 2-6, Table 2-7). -/
def overflowResult (f : Fmt) (neg sat : Bool) : Nat × Status :=
  if fmtIsInt f then (intLimit f neg, { overflow := true })
  else if sat then (withSign f neg (fmtMax f), { overflow := true })
  else
    let r := infResult f neg
    (r.1, { r.2 with overflow := true, inf := decide (f ≠ .e4m3) })

/-- `±m × 2^e`, `m` not zero, rounded once to a format (R58). -/
def roundVal (f : Fmt) (sat neg : Bool) (m : Nat) (e : Int) : Nat × Status :=
  if fmtIsInt f then
    let q := roundAt m e 0
    if (if neg then fmtMax f + 1 else fmtMax f) < q.1 then
      let o := overflowResult f neg sat
      (o.1, { o.2 with inexact := true })
    else (wrap (fmtBits f) (if neg then -(q.1 : Int) else q.1), { inexact := q.2 })
  else
    let mb := fmtMant f
    let x := (Nat.log2 m : Int) + e
    let g0 := x - mb
    let lo := 1 - (fmtBias f : Int) - mb
    let g := if fmtFlushes f then g0 else max g0 lo
    let q := roundAt m e g
    let qn := if q.1 = 2 ^ (mb + 1) then 2 ^ mb else q.1
    let gn := if q.1 = 2 ^ (mb + 1) then g + 1 else g
    let ef := gn + mb + fmtBias f
    if qn < 2 ^ mb then (withSign f neg qn, { inexact := q.2, underflow := decide (qn = 0) })
    else if ef ≤ 0 then (withSign f neg 0, { inexact := true, underflow := true })
    else
      let code := ef.toNat * 2 ^ mb + (qn - 2 ^ mb)
      if fmtMax f < code then
        let o := overflowResult f neg sat
        (o.1, { o.2 with inexact := true })
      else (withSign f neg code, { inexact := q.2 })

/-- A value times `2^eOut`, converted to a format (R58, and Table 2-8 for the edge lanes). -/
def convertVal (f : Fmt) (eOut : Int) (sat : Bool) : Val → Nat × Status
  | .nan => nanResult f
  | .inf neg => infResult f neg
  | .zero neg => (if fmtIsInt f then 0 else withSign f neg 0, {})
  | .num neg m e => roundVal f sat neg m (e + eOut)

/-! ## FP32 operations (R61, R62) -/

/-- The FP32 code of a value, rounded once; overflow gives infinity. -/
def fp (v : Val) : Word := BitVec.ofNat 32 (convertVal .fp32 0 false v).1

/-- The value of an FP32 code. -/
def fpVal (a : Word) : Val := decodeVal .fp32 a.toNat

/-- The canonical FP32 NaN. -/
def fpNan : Word := 0x7FC00000

def Val.negate : Val → Val
  | .nan => .nan
  | .inf n => .inf (!n)
  | .zero n => .zero (!n)
  | .num n m e => .num (!n) m e

/-- The exact signed integer `±m` at exponent `g`, for `g` at most the value's own. -/
def alignTo (neg : Bool) (m : Nat) (e g : Int) : Int :=
  let k : Nat := m * 2 ^ (e - g).toNat
  if neg then -(k : Int) else k

/-- The exact sum (Table 2-8). -/
def Val.plus : Val → Val → Val
  | .nan, _ => .nan
  | _, .nan => .nan
  | .inf a, .inf b => if a = b then .inf a else .nan
  | .inf a, _ => .inf a
  | _, .inf b => .inf b
  | .zero a, .zero b => .zero (a && b)
  | .zero _, v => v
  | v, .zero _ => v
  | .num a m e, .num b n f =>
    let g := if e ≤ f then e else f
    let t := alignTo a m e g + alignTo b n f g
    if t = 0 then .zero false else .num (decide (t < 0)) t.natAbs g

/-- The exact product (Table 2-8). -/
def Val.times : Val → Val → Val
  | .nan, _ => .nan
  | _, .nan => .nan
  | .inf _, .zero _ => .nan
  | .zero _, .inf _ => .nan
  | .inf a, .inf b => .inf (a != b)
  | .inf a, .num b _ _ => .inf (a != b)
  | .num a _ _, .inf b => .inf (a != b)
  | .zero a, .zero b => .zero (a != b)
  | .zero a, .num b _ _ => .zero (a != b)
  | .num a _ _, .zero b => .zero (a != b)
  | .num a m e, .num b n f => .num (a != b) (m * n) (e + f)

def fpAdd (a b : Word) : Word := fp ((fpVal a).plus (fpVal b))
def fpSub (a b : Word) : Word := fp ((fpVal a).plus (fpVal b).negate)
def fpMul (a b : Word) : Word := fp ((fpVal a).times (fpVal b))
def fpFma (a b c : Word) : Word := fp (((fpVal a).times (fpVal b)).plus (fpVal c))

/-- Order of two values that are not NaN, +0 equal to −0: less, equal or greater. -/
def valCmp (a b : Val) : Ordering :=
  match a, b with
  | .inf x, .inf y => if x = y then .eq else if x then .lt else .gt
  | .inf x, _ => if x then .lt else .gt
  | _, .inf y => if y then .gt else .lt
  | _, _ =>
    match a.plus b.negate with
    | .num n _ _ => if n then .lt else .gt
    | _ => .eq

/-- min and max of Table 2-8. -/
def fpMin (a b : Word) : Word :=
  match fpVal a, fpVal b with
  | .nan, _ => fpNan
  | _, .nan => fpNan
  | .zero x, .zero y => fp (.zero (x || y))
  | x, y => if valCmp y x = .lt then fp y else fp x

def fpMax (a b : Word) : Word :=
  match fpVal a, fpVal b with
  | .nan, _ => fpNan
  | _, .nan => fpNan
  | .zero x, .zero y => fp (.zero (x && y))
  | x, y => if valCmp x y = .lt then fp y else fp x

def fpAbs (a : Word) : Word :=
  match fpVal a with
  | .inf _ => fp (.inf false)
  | .zero _ => fp (.zero false)
  | .num _ m e => fp (.num false m e)
  | .nan => fpNan

def fpNeg (a : Word) : Word := fp (fpVal a).negate

/-- A comparison, false when either operand is NaN. -/
def fpRel (ok : Ordering → Bool) (a b : Word) : Bool :=
  match fpVal a, fpVal b with
  | .nan, _ => false
  | _, .nan => false
  | x, y => ok (valCmp x y)

def fpEq : Word → Word → Bool := fpRel (· == .eq)
def fpLt : Word → Word → Bool := fpRel (· == .lt)
def fpLe : Word → Word → Bool := fpRel (· != .gt)

/-! ## Roots and reciprocals: exact quotients with a sticky bit -/

/-- The integer square root, bit by bit from `2^n`. -/
def isqrtFrom : Nat → Nat → Nat → Nat
  | 0, v, r => if (r + 1) * (r + 1) ≤ v then r + 1 else r
  | n + 1, v, r =>
    let t := r + 2 ^ (n + 1)
    isqrtFrom n v (if t * t ≤ v then t else r)

/-- The integer square root of a number below `2^260`. -/
def isqrt (v : Nat) : Nat := isqrtFrom 130 v 0

/-- A magnitude with one more bit that stands for all that was lost. -/
def sticky (neg : Bool) (q : Nat) (lost : Bool) (e : Int) : Val := .num neg (2 * q + b2n lost) (e - 1)

def valRcp : Val → Val
  | .nan => .nan
  | .inf n => .zero n
  | .zero n => .inf n
  | .num n m e => sticky n (2 ^ 80 / m) (decide (2 ^ 80 % m ≠ 0)) (-e - 80)

def valSqrt : Val → Val
  | .nan => .nan
  | .inf n => if n then .nan else .inf false
  | .zero n => .zero n
  | .num n m e =>
    if n then .nan
    else
      let odd := e % 2 ≠ 0
      let v := (if odd then 2 * m else m) * 2 ^ 80
      let h := (if odd then e - 1 else e) / 2
      let r := isqrt v
      sticky false r (decide (r * r ≠ v)) (h - 40)

def valRsqrt : Val → Val
  | .nan => .nan
  | .inf n => if n then .nan else .zero false
  | .zero n => .inf n
  | .num n m e =>
    if n then .nan
    else
      let k : Nat := if e % 2 = 0 then 120 else 121
      let r := isqrt (2 ^ k / m)
      sticky false r (decide (r * r * m ≠ 2 ^ k)) ((-e - k) / 2)

def fpRcp (a : Word) : Word := fp (valRcp (fpVal a))
def fpSqrt (a : Word) : Word := fp (valSqrt (fpVal a))
def fpRsqrt (a : Word) : Word := fp (valRsqrt (fpVal a))

/-! ## Transcendental functions: fixed point with an error bound, refined until both ends round alike

A fixed-point number is an integer in units of `2^-p`; every function below is within `2^16` units of the value. -/

/-- The sum of `z^(2k+1) / (2k+1)`, with sign −1 to the k when `alt`, from the term `t`. -/
def arcSum (p : Nat) (alt : Bool) (z2 : Nat) : Nat → Nat → Nat → Int
  | 0, _, _ => 0
  | n + 1, k, t =>
    if t = 0 then 0
    else
      let c : Int := (t / (2 * k + 1) : Nat)
      (if alt && k % 2 = 1 then -c else c) + arcSum p alt z2 n (k + 1) (t * z2 / 2 ^ p)

/-- atanh of a fixed-point number below 1/2. -/
def fxAtanh (p z : Nat) : Int := arcSum p false (z * z / 2 ^ p) p 0 z

/-- atan of `1 / n`. -/
def fxAtanInv (p n : Nat) : Int := arcSum p true (2 ^ p / (n * n)) p 0 (2 ^ p / n)

/-- ln 2 = 2 atanh (1/3). -/
def fxLn2 (p : Nat) : Nat := (2 * fxAtanh p (2 ^ p / 3)).toNat

/-- π by Machin's formula. -/
def fxPi (p : Nat) : Nat := (16 * fxAtanInv p 5 - 4 * fxAtanInv p 239).toNat

/-- Sum of the terms `y^k / k!` with step `d` in k: signs alternate when `alt`. -/
def expSum (p y : Nat) (alt : Bool) (d : Nat) : Nat → Nat → Nat → Bool → Int
  | 0, _, _, _ => 0
  | n + 1, k, t, neg =>
    if t = 0 then 0
    else
      let t' := if d = 1 then t * y / 2 ^ p / (k + 1) else t * y / 2 ^ p * y / 2 ^ p / ((k + 1) * (k + 2))
      (if neg then -(t : Int) else t) + expSum p y alt d n (k + d) t' (alt != neg)

def fxExp (p y : Nat) : Int := expSum p y false 1 p 0 (2 ^ p) false
def fxSin (p y : Nat) : Int := expSum p y true 2 p 1 y false
def fxCos (p y : Nat) : Int := expSum p y true 2 p 0 (2 ^ p) false

/-- A signed fixed-point number as a value. -/
def fxVal (p : Nat) (i : Int) : Val := if i = 0 then .zero false else .num (decide (i < 0)) i.natAbs (-(p : Int))

/-- Both ends of an approximation rounded: the result once they agree, at growing precision. -/
def refine (approx : Nat → Int) (scale : Int) : Nat → Nat → Word
  | 0, p => fp (match fxVal p (approx p) with | .num n m e => .num n m (e + scale) | v => v)
  | n + 1, p =>
    let c := approx p
    let at_ := fun i => fp (match fxVal p i with | .num n m e => .num n m (e + scale) | v => v)
    let lo := at_ (c - 2 ^ 16)
    if lo = at_ (c + 2 ^ 16) then lo else refine approx scale n (2 * p)

/-- A dyadic `m × 2^-s` as fixed point. -/
def fxDyadic (p m s : Nat) : Nat := if s ≤ p then m * 2 ^ (p - s) else m / 2 ^ (s - p)

def fpExp2 (a : Word) : Word :=
  match fpVal a with
  | .nan => fpNan
  | .inf n => fp (if n then .zero false else .inf false)
  | .zero _ => fp (.num false 1 0)
  | .num neg m e =>
    if 8 ≤ (Nat.log2 m : Int) + e then fp (if neg then .zero false else .inf false)
    else if (Nat.log2 m : Int) + e < -27 then fp (.num false 1 0)
    else if 0 ≤ e then fp (.num false 1 (if neg then -(m * 2 ^ e.toNat : Nat) else (m * 2 ^ e.toNat : Nat)))
    else
      let s := (-e).toNat
      let i : Int := (if neg then -(m : Int) else m) / (2 ^ s : Nat)
      let f := ((if neg then -(m : Int) else m) % (2 ^ s : Nat)).toNat
      if f = 0 then fp (.num false 1 i)
      else refine (fun p => fxExp p (fxDyadic p f s * fxLn2 p / 2 ^ p)) i 4 192

/-- log2 (R61). The exact zero log2(1) is +0, a sign that Table 2-8 does not give (DESIGN CHOICE, log entry 53). -/
def fpLog2 (a : Word) : Word :=
  match fpVal a with
  | .nan => fpNan
  | .inf n => if n then fpNan else fp (.inf false)
  | .zero _ => fp (.inf true)
  | .num neg m e =>
    if neg then fpNan
    else
      let l := Nat.log2 m
      let x := (l : Int) + e
      if m = 2 ^ l then fp (Val.ofInt x)
      else refine (fun p => x * (2 ^ p : Nat) + 2 * fxAtanh p ((m - 2 ^ l) * 2 ^ p / (m + 2 ^ l)) * (2 ^ p : Nat) / fxLn2 p)
        0 4 192

/-- sin or cos of 2π times `m × 2^-s` below one quarter turn steps: `q` quarter turns have been taken off. -/
def quarterTurn (q m s : Nat) : Word :=
  let f := fun p => (2 * fxPi p * fxDyadic p m s) / 2 ^ p
  if q % 2 = 0 then refine (fun p => (if 2 ≤ q % 4 then -1 else 1) * fxSin p (f p)) 0 4 512
  else refine (fun p => (if 2 ≤ q % 4 then -1 else 1) * fxCos p (f p)) 0 4 512

/-- sin of `quarters / 4 + a` turns for a non-negative dyadic `a`; none for an exact zero. -/
def turnSin (quarters m : Nat) (e : Int) : Option Word :=
  let s := (-e).toNat
  let mm := if 0 ≤ e then m * 2 ^ e.toNat else m
  let t := 4 * mm + quarters * 2 ^ s
  let q := t / 2 ^ s % 4
  let r := t % 2 ^ s
  if r = 0 then
    if q % 2 = 0 then none else some (fp (.num (decide (q = 3)) 1 0))
  else some (quarterTurn q r (s + 2))

def fpSin2pi (a : Word) : Word :=
  match fpVal a with
  | .nan => fpNan
  | .inf _ => fpNan
  | .zero n => fp (.zero n)
  | .num neg m e =>
    match turnSin 0 m e with
    | none => fp (.zero neg)
    | some r => if neg then fpNeg r else r

def fpCos2pi (a : Word) : Word :=
  match fpVal a with
  | .nan => fpNan
  | .inf _ => fpNan
  | .zero _ => fp (.num false 1 0)
  | .num _ m e =>
    match turnSin 1 m e with
    | none => fp (.zero false)
    | some r => r

/-! ## Conversions of Table 2-8 -/

def fpOfI32 (a : Word) : Word := fp (Val.ofInt (signed 32 a.toNat))

def fpToI32 (a : Word) : Word := BitVec.ofNat 32 (convertVal .int32 0 true (fpVal a)).1

/-- A code of a narrower format as FP32. -/
def fpFrom (f : Fmt) (code : Nat) : Word := fp (decodeVal f code)

/-- An FP32 code to another format with an output exponent and saturation. -/
def fpTo (f : Fmt) (eOut : Int) (sat : Bool) (a : Word) : Nat := (convertVal f eOut sat (fpVal a)).1

/-! ## The canonical tree (R63, R64) -/

/-- One level of the tree: neighbours combined, left operand the lower index; an absent one is passed over. -/
def treeLevel {α : Type} (op : α → α → α) : List (Option α) → List (Option α)
  | [] => []
  | [a] => [a]
  | a :: b :: r =>
    (match a, b with
      | none, y => y
      | x, none => x
      | some x, some y => some (op x y)) :: treeLevel op r

/-- `n` levels of the tree. -/
def treeLevels {α : Type} (op : α → α → α) : Nat → List (Option α) → List (Option α)
  | 0, l => l
  | n + 1, l => treeLevels op n (treeLevel op l)

/-- node(0, N) of R63, N the least power of two not below the number of inputs. -/
def treeReduce {α : Type} (op : α → α → α) (l : List (Option α)) : Option α :=
  ((treeLevels op (Nat.clog 2 l.length) l).head?).join

end Sys2Proof.Machine
end

