-- ==== Sys2Proof/Machine/Flags.lean ====
section
/-! DEFINITION. Cell accumulators, sticky flags and the round-out status word (R48 to R60). -/

namespace Sys2Proof.Machine

/-- One product of decoded operands added to a cell (R49, R51, R52); `win` holds for BF16 operands, whose products
are checked against the window of shift `w`. -/
def Cell.addProduct (win : Bool) (w : Int) (a b : Val) (c : Cell) : Cell :=
  match a.times b with
  | .nan => { c with nan := true }
  | .inf neg => if neg then { c with infNeg := true } else { c with infPos := true }
  | .zero _ => c
  | .num neg m e =>
    if win ∧ 32 + w ≤ (Nat.log2 m : Int) + e then
      if neg then { c with satNeg := true } else { c with satPos := true }
    else
      let k := e - (w - 40)
      let q := if 0 ≤ k then m * 2 ^ k.toNat else m / 2 ^ (-k).toNat
      let lost := decide (k < 0 ∧ m % 2 ^ (-k).toNat ≠ 0)
      { c with
        acc := c.acc + BitVec.ofInt 96 (if neg then -(q : Int) else q)
        trunc := c.trunc || lost }

/-- The products of a row of A and a column of B, in depth order. -/
def Cell.addProducts (win : Bool) (w : Int) : List Val → List Val → Cell → Cell
  | a :: as, b :: bs, c => addProducts win w as bs (c.addProduct win w a b)
  | _, _, c => c

/-- The long-sum record of a cell (Table 2-5). -/
def Cell.record (c : Cell) : Bytes :=
  leBytes 16 (c.acc.toNat + 2 ^ 96 * (b2n c.satPos + 2 * b2n c.satNeg + 4 * b2n c.infPos + 8 * b2n c.infNeg
    + 16 * b2n c.nan + 32 * b2n c.trunc))

/-- A long-sum record added to a cell (R56); its reserved bits are ignored. -/
def Cell.addRecord (r : Bytes) (c : Cell) : Cell :=
  let v := leNat (r.take 16)
  { acc := c.acc + BitVec.ofNat 96 v
    satPos := c.satPos || v.testBit 96
    satNeg := c.satNeg || v.testBit 97
    infPos := c.infPos || v.testBit 98
    infNeg := c.infNeg || v.testBit 99
    nan := c.nan || v.testBit 100
    trunc := c.trunc || v.testBit 101 }

/-- The rounding of one accumulator (R58), with the status bits it contributes (R60). -/
def Cell.convert (f : Fmt) (w eOut : Int) (sat : Bool) (c : Cell) : Nat × Status :=
  let r :=
    if c.nan || (c.infPos && c.infNeg) then nanResult f
    else if c.infPos then infResult f false
    else if c.infNeg then infResult f true
    else if c.satPos && c.satNeg then nanResult f
    else if c.satPos then overflowResult f false sat
    else if c.satNeg then overflowResult f true sat
    else
      let v := c.acc.toInt
      if v = 0 then (0, {}) else roundVal f sat (decide (v < 0)) v.natAbs (w - 40 + eOut)
  (r.1, { r.2 with trunc := c.trunc, windowSat := c.satPos || c.satNeg })

/-- A cell whose contents the manual calls undefined (R57, R71): free values of event `tok`. -/
def freeCell (tok place : Nat) : Cell :=
  let f := Config.freeFlags tok place
  { acc := Config.freeAcc tok place, satPos := bit f 0, satNeg := bit f 1, infPos := bit f 2, infNeg := bit f 3,
    nan := bit f 4, trunc := bit f 5 }

/-- The 1,024 cells of a Facet, in row-major order. -/
def CellArrays.get (a : CellArrays) (facet : Nat) : List Cell :=
  match assoc facet a.arrays with
  | some l => l
  | none =>
    match a.undef with
    | none => List.replicate 1024 Cell.zero
    | some tok => (List.range 1024).map fun i => freeCell tok (facet * 1024 + i)

def CellArrays.set (a : CellArrays) (facet : Nat) (l : List Cell) : CellArrays :=
  { a with arrays := assocSet facet l a.arrays }

end Sys2Proof.Machine
end

