-- ==== Sys2Proof/Machine/Operands.lean ====
section
/-! DEFINITION. Operand forms: stride stepping, scratch and segment-relative addresses, translation, element packing
(R44, R72, R80, R87, R92, R129 to R144, R475). -/

namespace Sys2Proof.Machine

/-! ## Effective addresses (R72, R92) -/

/-- The four strides of a stride set of a window: set 0 steps nothing. -/
def strideSet (st : Strand) (d : DirEntry) (set : Nat) : List Int :=
  if set = 0 then [] else st.strides.getD (d.strideIndex + set - 1) []

/-- base + STRIDE[0] × i0 + …: the outermost index first. -/
def effAddr (base : Nat) (strides : List Int) (idx : List Nat) : Int :=
  (base : Int) + (List.zipWith (fun s i => s * (i : Int)) strides idx).foldl (· + ·) 0

/-- The directory entry of a window. -/
def windowOf (s : State) (c : CtxNo) (w : Nat) : Option (Strand × DirEntry) :=
  match (s.ctx c).strand with
  | some st =>
    match st.dir[w]? with
    | some d => some (st, d)
    | none => none
  | none => none

/-- The effective address of a field of a begun cue. -/
def issueAddr (s : State) (i : Issue) (base set : Nat) : Int :=
  match windowOf s i.ctx i.win with
  | some (st, d) => effAddr base (strideSet st d set) i.idx
  | none => (base : Int)

/-- A mask register as the begun cue took it (R98 step 3). -/
def Issue.mask (i : Issue) (r : Nat) : Word := i.masks.getD r 0xFFFFFFFF

/-- The row or lane mask of a cue: all ones when it names none. -/
def Issue.rowMask (i : Issue) (en : BitVec 1) (reg : BitVec 3) : Word := if en = 1 then i.mask reg.toNat else 0xFFFFFFFF

/-! ## Spaces (R130, R141 to R144, R146) -/

/-- Bytes of the store, buffer or none of a unit's space 2 window (R141, R169, R189, R224, R231, R238). -/
def storeBytes : UnitKind → Nat
  | .garland => 524288
  | .cabochon => 524288
  | .scatter => 262144
  | .charm => 262144
  | .pavilion => 262144
  | .fabric => 262144
  | .host => 262144
  | _ => 0

/-- The unit has a mask mailbox (R142). -/
def hasMailbox : UnitKind → Bool
  | .mover | .channel | .clasp | .fabric | .host => true
  | _ => false

/-- Usable bytes of a channel (R146). -/
def channelBytes : Nat := 0x3C0000000

/-- The space defines the offset on the grade (R130). -/
def spaceDefines (g space off : Nat) : Bool :=
  match space with
  | 0 => decide (off / 2 ^ 34 < channelCount g ∧ off % 2 ^ 34 < channelBytes)
  | 1 => decide (off / 2 ^ 18 < facetCount g)
  | 2 =>
    match unitKind (off / 2 ^ 24) with
    | some k =>
      unitExists g (off / 2 ^ 24) &&
        decide (off % 2 ^ 24 < storeBytes k ∨ (hasMailbox k = true ∧ 0xFFFF00 ≤ off % 2 ^ 24))
    | none => false
  | 3 => decide (off < 64 * 2 ^ 20)
  | 4 => decide (off / 2 ^ 20 < 4 ∧ off % 2 ^ 20 < 262144)
  | _ => false

/-- The key in `store` of a byte of space 1, 2 or 4. -/
def storeKey (space off : Nat) : Nat := space * 2 ^ 48 + off

/-- Size of a context's scratch partitions; 0 without a Strand. -/
def partSize (s : State) (c : CtxNo) : Nat :=
  match (s.ctx c).strand with
  | some st => st.scratchBytes
  | none => 0

/-- The sea place of a segment-relative address, as space and offset; none where translation fails (R133). -/
def translate (s : State) (c : CtxNo) (seg o : Nat) (wr : Bool) : Option (Nat × Nat) :=
  match assoc seg (s.ctx c).segs with
  | none => none
  | some e =>
    if e.size * 1024 ≤ o then none
    else if (if wr then e.wr else e.rd) = false then none
    else if e.fab then none
    else if e.space = 0 then
      let line := o / 1024
      let ch := e.chBase + line % 2 ^ e.stripe
      let off := ch * 2 ^ 34 + (e.base + line / 2 ^ e.stripe * 1024 + o % 1024)
      if spaceDefines s.grade 0 off then some (0, off) else none
    else if e.space = 1 then
      let a := e.base + o
      let f := a / 2 ^ 18
      let p := a % 2 ^ 18
      match assoc f (s.ctx c).parts with
      | some b => if p < partSize s c then some (1, f * 2 ^ 18 + b + p) else none
      | none => none
    else if spaceDefines s.grade e.space (e.base + o) then some (e.space, e.base + o)
    else none

/-- The remote destination of a fabric cue: any segment, its limit and WR checked (R121, R133). -/
def translateRemote (s : State) (c : CtxNo) (seg o : Nat) : Option (Nat × Nat) :=
  match assoc seg (s.ctx c).segs with
  | none => none
  | some e => if e.size * 1024 ≤ o ∨ e.wr = false then none else some (e.space, e.base + o)

/-- The 32-byte-aligned pieces of the bytes `o` to `o + n - 1`. -/
def pieces : Nat → Nat → Nat → List (Nat × Nat)
  | 0, _, _ => []
  | f + 1, o, n =>
    if n = 0 then []
    else
      let k := min n (32 - o % 32)
      (o, k) :: pieces f (o + k) (n - k)

/-- The store key of a byte of a segment; none where it fails or lies in no store. -/
def locateByte (s : State) (c : CtxNo) (seg o : Nat) (wr : Bool) : Option Nat :=
  match translate s c seg o wr with
  | some (sp, off) => if sp = 1 ∨ sp = 2 ∨ sp = 4 then some (storeKey sp off) else none
  | none => none

/-- Where the `n` bytes from `o` lie, as runs of store keys: one run where the last byte stands behind the first, else byte by
byte; none where a byte fails. -/
def locatePiece (s : State) (c : CtxNo) (seg o n : Nat) (wr : Bool) : Option (List (Nat × Nat)) :=
  match locateByte s c seg o wr, locateByte s c seg (o + n - 1) wr with
  | some k, some l =>
    if l = k + n - 1 then some [(k, n)]
    else
      (List.range n).foldr (fun i acc =>
        match acc, locateByte s c seg (o + i) wr with
        | some r, some b => some ((b, 1) :: r)
        | _, _ => none) (some [])
  | _, _ => none

/-- Where every piece of an access lies in spaces 1, 2 and 4, as store keys; none where any byte fails. -/
def locate (s : State) (c : CtxNo) (seg o n : Nat) (wr : Bool) : Option (List (Nat × Nat)) :=
  (pieces (n / 32 + 2) o n).foldr (fun p acc =>
    match acc, locatePiece s c seg p.1 p.2 wr with
    | some l, some r => some (r ++ l)
    | _, _ => none) (some [])

/-- SEGMENT_FAULT of an access through a segment (R135, Table 16-14). -/
def segFault (c : CtxNo) (u : UnitNo) (seg : Nat) (o : Int) (s : State) : State :=
  let range := decide (o < 0 ∨ (2 ^ 34 : Int) ≤ o)
  raiseCtx evSegmentFault c u (BitVec.ofNat 8 (seg % 64 + 128 * b2n range) :: leBytes 5 (wrap 34 o)) s

/-- SEGMENT_FAULT of an access to the Facet's own scratch (R475, Table 16-14). -/
def ownFault (c : CtxNo) (u : UnitNo) (p : Int) (s : State) : State :=
  raiseCtx evSegmentFault c u (0x40 :: leBytes 5 (wrap 34 p)) s

/-! ## Reading and writing spaces 1, 2 and 4 -/

/-- Words of the store with an uncorrectable error among the bytes of a piece (R140). -/
def pieceBad (s : State) (l : List (Nat × Nat)) : Bool :=
  l.any fun p => s.bad.any fun w => decide (p.1 / 8 ≤ w ∧ w * 8 < p.1 + p.2)

/-- The bytes of located pieces. -/
def readPieces (s : State) (l : List (Nat × Nat)) : Bytes := (l.map fun p => memRead s.store p.1 p.2).flatten

/-- The writes of located pieces. -/
def cutPieces : List (Nat × Nat) → Bytes → List (Nat × Bytes)
  | [], _ => []
  | (k, n) :: r, bs => (k, bs.take n) :: cutPieces r (bs.drop n)

/-- The context that an error at a store key affects (R167): the owner of the unit or port in the present bead; a scratch
partition is its context's own. -/
def placeOwner (s : State) (c : CtxNo) (k : Nat) : CtxNo :=
  match k / 2 ^ 48 with
  | 2 => s.owner (k % 2 ^ 48 / 2 ^ 24)
  | 4 => s.owner (unitNo .clasp (k % 2 ^ 48 / 2 ^ 20))
  | _ => c

/-- An access to located pieces that meets an uncorrectable error in scratch, a store or a buffer (R140, R164): the event
stands `d` beads later, at the visibility bead. -/
def storeUe (d : Nat) (u : UnitNo) (c : CtxNo) (seg o : Nat) (l : List (Nat × Nat)) (s : State) : State :=
  match l.find? fun p => pieceBad s [p] with
  | some p => s.later d u (placeOwner s c p.1) (.memUe seg o 0xFF 0 0 0)
  | none => s

/-- `n` bytes read through a segment at effective offset `o`, by a cue whose results are visible `d` beads later: a
failing access delivers zero bytes (R135). -/
def readSeg (d : Nat) (u : UnitNo) (c : CtxNo) (seg : Nat) (o : Int) (n : Nat) (s : State) : Bytes × State :=
  if o < 0 then (zeros n, segFault c u seg o s)
  else
    match locate s c seg o.toNat n false with
    | some l => (readPieces s l, storeUe d u c seg o.toNat l s)
    | none => (zeros n, segFault c u seg o s)

/-- The store writes of bytes written through a segment: none of them where the access fails. -/
def writeSeg (u : UnitNo) (c : CtxNo) (seg : Nat) (o : Int) (bs : Bytes) (s : State) : List (Nat × Bytes) × State :=
  if o < 0 then ([], segFault c u seg o s)
  else
    match locate s c seg o.toNat bs.length true with
    | some l => (cutPieces l bs, s)
    | none => ([], segFault c u seg o s)

/-- The segment lies in space 4, which only moves and a port's own cues reach (R130). -/
def claspSeg (s : State) (c : CtxNo) (seg : Nat) : Bool :=
  match assoc seg (s.ctx c).segs with
  | some e => e.space == 4
  | none => false

/-- A read by a MEM or ENG cue. -/
def readStoreSeg (d : Nat) (u : UnitNo) (c : CtxNo) (seg : Nat) (o : Int) (n : Nat) (s : State) : Bytes × State :=
  if claspSeg s c seg then (zeros n, segFault c u seg o s) else readSeg d u c seg o n s

/-- A write by a MEM cue. -/
def writeStoreSeg (u : UnitNo) (c : CtxNo) (seg : Nat) (o : Int) (bs : Bytes) (s : State) : List (Nat × Bytes) × State :=
  if claspSeg s c seg then ([], segFault c u seg o s) else writeSeg u c seg o bs s

/-- The store key of bytes of a Facet's own scratch, for its context's partition (R136, R475). -/
def ownKey (s : State) (c : CtxNo) (facet : Nat) (p : Int) (n : Nat) : Option Nat :=
  if p < 0 ∨ partSize s c < p.toNat + n then none
  else
    match assoc facet (s.ctx c).parts with
    | some b => some (storeKey 1 (facet * 2 ^ 18 + b + p.toNat))
    | none => none

/-- `n` bytes of own scratch. -/
def readOwn (d : Nat) (u : UnitNo) (c : CtxNo) (p : Int) (n : Nat) (s : State) : Bytes × State :=
  match ownKey s c (unitIdx u) p n with
  | some k => (memRead s.store k n, storeUe d u c 0 p.toNat [(k, n)] s)
  | none => (zeros n, ownFault c u p s)

/-- The writes of pieces of own scratch, given as offset from `p` and bytes; the whole extent is `n` bytes. -/
def writeOwn (u : UnitNo) (c : CtxNo) (p : Int) (n : Nat) (parts : List (Nat × Bytes)) (s : State) :
    List (Nat × Bytes) × State :=
  match ownKey s c (unitIdx u) p n with
  | some k => (parts.map fun w => (k + w.1, w.2), s)
  | none => ([], ownFault c u p s)

/-- The end of the bytes that a unit reads at an offset of its window: its store or buffer, or its mask mailbox (R141, R142). -/
def unitLimit (u : UnitNo) (off : Nat) : Nat :=
  if 0xFFFF00 ≤ off then 2 ^ 24 else match unitKind u with | some k => storeBytes k | none => 0

/-- The bytes of a unit's own store or buffer (space 2), by offset; beyond it they read zero. -/
def readUnit (s : State) (u : UnitNo) (off n : Nat) : Bytes :=
  let m := min n (unitLimit u off - off)
  memRead s.store (storeKey 2 (u * 2 ^ 24 + off)) m ++ zeros (n - m)

/-- The key of a byte of a unit's own store. -/
def unitKey (u : UnitNo) (off : Nat) : Nat := storeKey 2 (u * 2 ^ 24 + off)

/-- MEM_UE of a cue that reads ranges of its own unit's store or buffer: offset and length (R140; the event names segment 0
and the offset in the store, DESIGN CHOICE, log entry 20). -/
def unitUe (d : Nat) (u : UnitNo) (rs : List (Nat × Nat)) (s : State) : State :=
  match rs.find? fun r => pieceBad s [(unitKey u r.1, r.2)] with
  | some r => storeUe d u (s.owner u) 0 r.1 [(unitKey u r.1, r.2)] s
  | none => s

/-- Bytes written into the store at once: words wholly written lose an uncorrectable error. -/
def storePut (k : Nat) (bs : Bytes) (s : State) : State :=
  { s with store := memWrite s.store k bs,
           bad := s.bad.filter fun w => !(decide (k ≤ w * 8) && decide (w * 8 + 8 ≤ k + bs.length)) }

/-- Bytes of the store written with zeros at once. -/
def storeClear (k n : Nat) (s : State) : State :=
  { s with store := memClear s.store k n,
           bad := s.bad.filter fun w => !(decide (k ≤ w * 8) && decide (w * 8 + 8 ≤ k + n)) }

/-! ## Elements (R44, R80, R87) -/

/-- The codes of the elements of a block. -/
def elems (f : Fmt) (bs : Bytes) : List Nat :=
  match f with
  | .int4 => (bs.map fun b => [b.toNat % 16, b.toNat / 16]).flatten
  | _ => (chunks (fmtBits f / 8) bs).map leNat

/-- Pairs of nibbles as bytes. -/
def packNibbles : List Nat → Bytes
  | [] => []
  | [a] => [BitVec.ofNat 8 (a % 16)]
  | a :: b :: r => BitVec.ofNat 8 (a % 16 + 16 * (b % 16)) :: packNibbles r

/-- The bytes of elements in a format. -/
def packElems (f : Fmt) (codes : List Nat) : Bytes :=
  match f with
  | .int4 => packNibbles codes
  | _ => (codes.map fun c => leBytes (fmtBits f / 8) c).flatten

/-- Bytes that `n` elements take. -/
def elemBytes (f : Fmt) (n : Nat) : Nat := n * fmtBits f / 8

end Sys2Proof.Machine
end

