-- ==== Sys2Proof/Machine/Lp4x.lean ====
section
/-! DEFINITION. LP4X lines: the code of R155, encryption of R159, uncorrectable errors of R164, and the slot schedule
of R148 to R151. -/

namespace Sys2Proof.Machine

/-! ## Slots (R148, R149) -/

/-- Slots of a rotation of `r` beads. -/
def slotCount (r : Nat) : Nat := 16 * r / 51

/-- The slot that begins in bead `b` of a rotation of `r` beads. -/
def slotAt (r b : Nat) : Option Nat :=
  let k := cdiv (16 * b) 51
  if 51 * k / 16 = b ∧ k < slotCount r then some k else none

/-- HOST_SLOTS as it acts (Table 5-7). -/
def hostSlots (s : State) : Nat := min s.bezel.hostSlots 8

/-- Cast slots per rotation, while Cast can record (R300). -/
def castSlots (s : State) : Nat := if castAble s then min s.cast.slots 4 else 0

/-- The channel is one of the Cast ring's stripe. -/
def castChannel (s : State) (ch : Nat) : Bool :=
  castAble s && decide (s.cast.chBase ≤ ch ∧ ch < s.cast.chBase + 2 ^ s.cast.stripe)

/-- Slot `k` of the rotation is a host slot. -/
def isHostSlot (s : State) (k : Nat) : Bool :=
  decide (slotCount s.rotLen - hostSlots s ≤ k ∧ k < slotCount s.rotLen)

/-- Slot `k` of channel `ch` is a Cast slot. -/
def isCastSlot (s : State) (ch k : Nat) : Bool :=
  castChannel s ch &&
    decide (slotCount s.rotLen - hostSlots s - castSlots s ≤ k ∧ k < slotCount s.rotLen - hostSlots s)

/-! ## Lines -/

/-- Key of the first payload byte of a line in `lp4x`. -/
def lineKey (ch u : Nat) : Nat := ch * 2 ^ 34 + u * 1024

/-- Key of the first check byte of a line in `lp4xCheck` (R147). -/
def checkKey (ch u : Nat) : Nat := (ch * 2 ^ 24 + u) * 64

/-- Rank, bank and row of a line (R147). -/
def linePlace (u : Nat) : Nat × Nat × Nat := (u / 8 % 2, u % 8, u / 32)

/-- The key pair of a context in every controller's slots (R160). -/
def keyPair (s : State) (c : CtxNo) : BitVec 128 × BitVec 128 := (assoc c s.bezel.keys).getD (0, 0)

/-- The line's check bytes for its ciphertext (R155). -/
def lineCheck (pay : Bytes) : Bytes := ((chunks 64 pay).map rsCheck).flatten

/-- Ciphertext and check bytes of a line written by a context (R159). -/
def sealLine (s : State) (c : CtxNo) (ch u : Nat) (plain : Bytes) : Bytes × Bytes :=
  let k := keyPair s c
  let pay := xts true k.1 k.2 (lineKey ch u) (slice plain 0 1024)
  (pay, lineCheck pay)

/-- What is found of the stored line: its ciphertext, whether a byte was corrected, whether an error stays. -/
def checkLine (s : State) (ch u : Nat) : Bytes × Bool × Bool :=
  let pay := memRead s.lp4x (lineKey ch u) 1024
  let chk := memRead s.lp4xCheck (checkKey ch u) 64
  let rs := List.zipWith (fun p k => (p, rsDecode (p ++ k))) (chunks 64 pay) (chunks 4 chk)
  if rs.any fun r => r.2 == .bad then (pay, false, true)
  else
    ((rs.map fun r => match r.2 with | .fixed w => w.take 64 | _ => r.1).flatten,
      rs.any fun r => match r.2 with | .fixed _ => true | _ => false, false)

/-- Beads of 24 hours. -/
def dayBeads : Nat := 24 * 3600 * 25000000

/-- A bead noted among those of the last 24 hours. -/
def noteBead (b : Nat) (l : List Nat) : List Nat := b :: l.filter fun x => decide (b < x + dayBeads)

/-- The channel is stopped for temperature (R167). -/
def stopped (s : State) (ch : Nat) : Bool := decide ((s.chan ch).state = 2)

/-- A line read for a context (R156, R164, R167): the plain line, whether it is uncorrectable, and the error count. -/
def readLine (c : CtxNo) (ch u : Nat) (s : State) : Bytes × Bool × State :=
  if stopped s ch then (zeros 1024, true, s)
  else
    let (pay, fixed, ue) := checkLine s ch u
    let k := keyPair s c
    (xts false k.1 k.2 (lineKey ch u) pay, ue, if fixed then s.modChan (fun x => { x with ce := noteBead s.bead x.ce }) ch else s)

/-- MEM_UE of a line, to stand at the access's visibility bead (R164). -/
def lineUe (d : Nat) (un : UnitNo) (c : CtxNo) (seg off ch u : Nat) (s : State) : State :=
  let p := linePlace u
  s.later d un c (.memUe seg off ch p.1 p.2.1 p.2.2)

/-- The stored bytes of a line as an access whose slot began in bead `t` found them (R198). -/
def lineAsOf (s : State) (t ch u : Nat) : Option (Bytes × Bytes) :=
  (s.replaced.reverse.find? fun o => decide (t < o.bead ∧ o.ch = ch ∧ o.line = u)).map fun o => (o.pay, o.chk)

/-- A line replaced by an effect that becomes visible in the present bead: the old one is kept for engine slots that
began earlier (R198). -/
def keepOld (ch u : Nat) (s : State) : State :=
  { s with replaced :=
      { bead := s.bead, ch := ch, line := u, pay := memRead s.lp4x (lineKey ch u) 1024,
        chk := memRead s.lp4xCheck (checkKey ch u) 64 } :: s.replaced.filter fun o => decide (s.bead < o.bead + 32768) }

/-- The bytes of a line as stored. -/
def putLine (ch u : Nat) (pay chk : Bytes) (s : State) : State :=
  { s with lp4x := memWrite s.lp4x (lineKey ch u) pay, lp4xCheck := memWrite s.lp4xCheck (checkKey ch u) chk }

/-- The context and segment that hold a line: the context, the segment and the offset. -/
def holderOf (s : State) (ch u : Nat) : Option (CtxNo × Nat × Nat) :=
  ((List.range 16).filterMap fun c =>
    ((s.ctx c).segs.filterMap fun e =>
      let g := e.2
      if g.space = 0 ∧ g.chBase ≤ ch ∧ ch < g.chBase + 2 ^ g.stripe ∧ g.base ≤ u * 1024
          ∧ (u * 1024 - g.base) * 2 ^ g.stripe + (ch - g.chBase) * 1024 < g.size * 1024 then
        some (c, e.1, (u * 1024 - g.base) * 2 ^ g.stripe + (ch - g.chBase) * 1024)
      else none).head?).head?

/-- The context number of a line that no context holds (R164). -/
def noHolder : CtxNo := 0xFF

/-- MEM_UE of an access of the channel itself: the context that holds the line is affected; a line that none holds is only
logged (R164). -/
def channelUe (ch u : Nat) (s : State) : State :=
  match holderOf s ch u with
  | some (c, seg, o) => lineUe 18 (unitNo .channel ch) c seg o ch u s
  | none => lineUe 18 (unitNo .channel ch) noHolder 0 0 ch u s

/-- A line written at once for a context, as scrub, Cast and loads do: discarded on a stopped channel, and uncorrectable for
the line (R167). -/
def storeLine (c : CtxNo) (ch u : Nat) (plain : Bytes) (s : State) : State :=
  if stopped s ch then channelUe ch u s else let x := sealLine s c ch u plain; putLine ch u x.1 x.2 s

/-- The channel and line of a space 0 offset. -/
def lineOf (off : Nat) : Nat × Nat := (off / 2 ^ 34, off % 2 ^ 34 / 1024)

/-- The LP4X line of a segment-relative address; none where translation fails or the segment is not in space 0. -/
def segLine (s : State) (c : CtxNo) (seg : Nat) (o : Int) (wr : Bool) : Option (Nat × Nat) :=
  if o < 0 then none
  else
    match translate s c seg o.toNat wr with
    | some (0, off) => some (lineOf off)
    | _ => none

/-- A line read through a segment by an access whose slot begins in the present bead: a failing access delivers zero
bytes with SEGMENT_FAULT (R135), an uncorrectable one raises MEM_UE `d` beads later. -/
def readSegLine (d : Nat) (un : UnitNo) (c : CtxNo) (seg : Nat) (o : Int) (s : State) : Bytes × State :=
  match segLine s c seg o false with
  | none => (zeros 1024, segFault c un seg o s)
  | some (ch, u) =>
    let (bs, ue, s) := readLine c ch u s
    (bs, if ue then lineUe d un c seg o.toNat ch u s else s)

/-- A line write through a segment: an effect `d` beads later. -/
def writeSegLine (d : Nat) (un : UnitNo) (c : CtxNo) (seg : Nat) (o : Int) (plain : Bytes) (s : State) : State :=
  match segLine s c seg o true with
  | none => segFault c un seg o s
  | some (ch, u) =>
    if stopped s ch then lineUe d un c seg o.toNat ch u s
    else let x := sealLine s c ch u plain; s.later d un c (.line ch u x.1 x.2)

/-- A line read through a segment by an engine slot that began in bead `t`, now or earlier (R153, R198). -/
def readSegLineAt (t : Nat) (un : UnitNo) (c : CtxNo) (seg : Nat) (o : Int) (s : State) : Bytes × State :=
  match segLine s c seg o false with
  | none => (zeros 1024, segFault c un seg o s)
  | some (ch, u) =>
    match lineAsOf s t ch u with
    | some (pay, chk) =>
      let (bs, ue, s') := readLine c ch u (putLine ch u pay chk s)
      let s' := { s' with lp4x := s.lp4x, lp4xCheck := s.lp4xCheck }
      (bs, if ue then lineUe 18 un c seg o.toNat ch u s' else s')
    | none => readSegLine 18 un c seg o s

end Sys2Proof.Machine
end

