-- ==== Sys2Proof/Machine/Region.lean ====
section
/-! DEFINITION. What the engine steps share: descriptors, line tables, regions and their geometry (R181, R182, R185,
R190). -/

namespace Sys2Proof.Machine

/-- An unsigned descriptor field. -/
def EngStep.num (st : EngStep) (off n : Nat) : Nat := leAt st.desc off n

/-- A signed descriptor field. -/
def EngStep.int (st : EngStep) (off n : Nat) : Int := signed (8 * n) (leAt st.desc off n)

/-- A line table (R185). BEAD is read as signed: a line that must be there in bead 2 takes its slot before the step's
first bead (log entry 21). -/
def lineReqs (bs : Bytes) : List LineReq :=
  (chunks 8 bs).zipIdx.map fun x =>
    let v := leNat x.1
    { idx := x.2, wr := v.testBit 63, kind := bits v 56 7, buf := bits v 48 8, bead := signed 16 (bits v 32 16),
      line := v % 2 ^ 32 }

/-- The captured line whose entry meets `p`. -/
def EngStep.found (st : EngStep) (p : LineReq → Bool) : Option Bytes :=
  (st.plan.find? fun r => !r.wr && p r && (assoc r.idx st.lines).isSome).bind fun r => assoc r.idx st.lines

/-- Bytes the manual states no value for, by the free-value counter. -/
def freeBytes (tok n : Nat) : Bytes := (List.range n).map (Config.freeByte tok)

/-- `n` bytes of the captured line LINE; free values where the line table names no such line. -/
def EngStep.lineAt (st : EngStep) (tok line off n : Nat) : Bytes :=
  match st.found fun r => r.line = line with
  | some bs => slice bs off n
  | none => freeBytes (tok + line) n

/-- Header line 0: the captured one, or the line as stored in the step's first bead. -/
def EngStep.header (st : EngStep) : Bytes :=
  match st.found fun r => r.kind = 3 ∧ r.line = 0 with
  | some bs => bs
  | none => slice (st.ref.drop 16) 0 1024

/-- The bank period of a space 0 segment in bytes (R147). -/
def bankPeriod (s : State) (c : CtxNo) (seg : Nat) : Nat :=
  match assoc seg (s.ctx c).segs with
  | some e => 8192 * 2 ^ e.stripe
  | none => 8192

/-- `seg` is the segment `first` or one of the group that `first` begins (R154). -/
def inGroup (s : State) (c : CtxNo) (first seg : Nat) : Bool :=
  match assoc first (s.ctx c).segs with
  | some e => decide (seg = first ∨ (2 ≤ e.group ∧ first ≤ seg ∧ seg < first + e.group))
  | none => false

/-- Segment and offset of the region reference (Table 6-5). -/
def EngStep.region (st : EngStep) : Nat × Nat :=
  let v := leAt st.ref 0 8
  (bits v 34 6, v % 2 ^ 34)

def EngStep.accept (st : EngStep) : Nat := leAt st.ref 8 1
def EngStep.nnew (st : EngStep) : Nat := leAt st.ref 9 1
def EngStep.nspec (st : EngStep) : Nat := leAt st.ref 10 1

/-- The region meets R185: its segment is the descriptor's or of its group, its offset a multiple of the bank period. -/
def regionOk (s : State) (st : EngStep) (seg : Nat) : Bool :=
  inGroup s st.ctx seg st.region.1 && decide (st.region.2 % bankPeriod s st.ctx st.region.1 = 0)

/-- The geometry of a region (R190, Table 6-7), from its header and the bank period. -/
structure Geometry where
  /-- row size -/
  rs : Nat
  cap : Nat
  /-- first byte of K of layer 0 -/
  base : Nat
  layers : Nat
  map : Nat
  scores : Nat
deriving DecidableEq, Repr

/-- Head dimension of a DCODE (Table 6-6). -/
def headDim (code : Nat) : Nat := 64 * 2 ^ code

/-- Bytes of a KV element (Table 6-8). -/
def kvBytes (fmt : Nat) : Nat := if fmt = 4 then 2 else 1

def geometry (hdr : Bytes) (period : Nat) : Geometry :=
  let rs := leAt hdr 0x1C 1 * headDim (leAt hdr 6 1) * kvBytes (leAt hdr 7 1)
  let cap := leAt hdr 0x20 4
  let base := max 2048 period
  let layers := leAt hdr 0x1A 2
  let map := base + 2 * layers * cap * rs
  { rs := rs, cap := cap, base := base, layers := layers, map := map, scores := map + cdiv (4 * cap) 1024 * 1024 }

/-- Offset of the K rows of a layer; V follows. -/
def Geometry.kOff (g : Geometry) (layer : Nat) : Nat := g.base + 2 * layer * g.cap * g.rs
def Geometry.vOff (g : Geometry) (layer : Nat) : Nat := g.base + (2 * layer + 1) * g.cap * g.rs

/-- Size of a region (R190). -/
def Geometry.size (g : Geometry) (period : Nat) : Nat := cdiv (2 * g.scores - g.map) period * period

def freeSlot : Nat := 0xFFFFFFFF

/-- MAGIC and VERSION of a region header (Table 6-8). -/
def headerMagic (hdr : Bytes) : Bool := decide (leAt hdr 0 4 = 0x4E47564B ∧ leAt hdr 4 2 = 1)

/-- The bytes of a region that count in a Signet (R191), in address order: header line 0, and the K rows, V rows and map
entries of the slots whose map entry is below LENGTH. -/
def regionBytes (g : Geometry) (b : Bytes) : Bytes :=
  let held := (List.range g.cap).filter fun k => decide (leAt b (g.map + 4 * k) 4 < leAt b 8 4)
  slice b 0 1024
    ++ ((List.range g.layers).flatMap fun l =>
        (held.flatMap fun k => slice b (g.kOff l + k * g.rs) g.rs) ++ held.flatMap fun k => slice b (g.vOff l + k * g.rs) g.rs)
    ++ held.flatMap fun k => slice b (g.map + 4 * k) 4

/-- The event argument of an engine event: the OPND address (Table 16-14). -/
def EngStep.opndArg (st : EngStep) : Bytes := leBytes 8 (st.seg * 2 ^ 34 + wrap 34 st.off)

end Sys2Proof.Machine
end

