-- ==== Sys2Proof/Machine/Session.lean ====
section
/-! DEFINITION. Protected messages of a session (R389, R390). -/

namespace Sys2Proof.Machine

/-- The first 12 bytes of a counter block: DIR 1 is host to module; CHANNEL 1 mailbox, 2 requests, 3 step records. -/
def sessBlock (dir chan : Nat) (c : CtxNo) (idx : Nat) : Bytes :=
  [BitVec.ofNat 8 dir, BitVec.ofNat 8 chan, BitVec.ofNat 8 c, 0] ++ leBytes 8 idx

/-- Encryption, which is its own inverse. -/
def sessCrypt (key : BitVec 128) (dir chan : Nat) (c : CtxNo) (idx : Nat) (data : Bytes) : Bytes :=
  ctrBlocks key (sessBlock dir chan c idx) 4 data

/-- The 16-byte tag of a ciphertext. -/
def sessTag (mac : BitVec 128) (dir chan : Nat) (c : CtxNo) (idx : Nat) (cipher : Bytes) : Bytes :=
  (hmacSm3 (keyBytes mac) (sessBlock dir chan c idx ++ leBytes 4 cipher.length ++ cipher)).take 16

/-- A context's session ends and its keys are destroyed. -/
def endSession (c : CtxNo) (s : State) : State := s.modSec (fun x => { x with session := none }) c

/-- A context whose record asks for confidentiality has no session (R391). -/
def lacksSession (s : State) (c : CtxNo) : Bool :=
  match (s.ctx c).record with
  | some r => r.confidential && (s.ctx c).sec.session.isNone
  | none => false

end Sys2Proof.Machine
end

