-- ==== Sys2Proof/Machine/Chain.lean ====
section
/-! DEFINITION. Host chains, Signets and their completion (R307 to R312, R315). -/

namespace Sys2Proof.Machine

/-- An input is assigned to its context's next chain event (R309). -/
def assign (c : CtxNo) (cancel : Bool) (type : Nat) (payload : Bytes) (s : State) : State :=
  s.modRing (fun r => { r with assigned := r.assigned ++ [(cancel, BitVec.ofNat 8 type :: payload)] }) c

/-- A chain event of a context: a commit takes every assigned input, a Signet request all but the cancels (R309). -/
def chainEvent (commit : Bool) (c : CtxNo) (s : State) : State :=
  setRing (fun r =>
    { r with chain := sm3 (r.chain ++ ((r.assigned.filter fun a => commit || !a.1).map (·.2)).flatten),
             assigned := r.assigned.filter fun a => !(commit || !a.1) }) c s

/-- STRAND and WEIGHTS of a context's Signets (Table 10-6). -/
def signetNames (s : State) (c : CtxNo) : Bytes × Bytes :=
  (match (s.ctx c).strand with | some st => slice st.digest 0 32 | none => zeros 32,
   match (s.ctx c).record with | some r => slice r.weights 0 32 | none => zeros 32)

/-- The Signet message (Table 10-6). -/
def signetMessage (kind : Nat) (index : Nat) (names : Bytes × Bytes) (inputs results : Bytes) : Bytes :=
  [0x53, 0x47, 0x4E, 0x54, 1, BitVec.ofNat 8 kind, 0, 0] ++ leBytes 8 index ++ names.1 ++ names.2 ++ slice inputs 0 32
    ++ slice results 0 32

/-- A Signet. -/
def signetOf (s : State) (c : CtxNo) (kind index : Nat) (inputs results : Bytes) : Bytes :=
  sm3 (signetMessage kind index (signetNames s c) inputs results)

/-- A Signet in a 32-byte space, truncated to 16 bytes where `short` (R307). -/
def signetField (short : Bool) (g : Bytes) : Bytes := if short then g.take 16 ++ zeros 16 else g

/-- The argument of TWIN_DIVERGENCE and REPLAY_DIVERGE (Table 16-14). -/
def divergeArg (kind port : Nat) (index : Nat) : Bytes := [BitVec.ofNat 8 kind, BitVec.ofNat 8 port, 0, 0] ++ leBytes 8 index

/-- A Signet is complete: Cast records it, a replay compares it with its record, and the pair exchanges it (R297, R313,
R329). -/
def signetDone (x : SignetItem) (s : State) : State :=
  let p := [x.kind, x.port] ++ zeros 6 ++ leBytes 8 x.index.toNat ++ x.signet
  let c := x.ctx
  let s := if (s.ctx c).castOn then castPut 0x60 0xFF c 0 s.bead 0 s.period p s else s
  let s :=
    if s.cast.replay then
      match s.cast.feed.find? fun r =>
          decide (leAt r.2 0 1 = 0x60 ∧ leAt r.2 2 1 = c ∧ slice r.2 32 16 = p.take 16) with
      | some r =>
        if slice r.2 48 32 = x.signet then s else raise evReplayDiverge (divergeArg x.kind.toNat x.port.toNat x.index.toNat) s
      | none => s
    else s
  ownSignet x s

/-! ## Step records -/

/-- The record with COMMIT_BEAD, GAP and SIGNET set to 0 (R309). -/
def bareRecord (r : Bytes) : Bytes := overlay (overlay (overlay r 0x10 (zeros 8)) 0x20 (zeros 4)) 0x40 (zeros 32)

/-- The contexts' oldest record of an earlier bead whose Signet is not complete, in commit order and, within a bead, in
context order (R312). -/
def nextUnsigned (s : State) : Option (CtxNo × Committed) :=
  let firsts := (List.range 16).filterMap fun c =>
    ((s.ring c).committed.find? fun x => x.signet.isNone && decide (x.bead < s.bead)).map fun x => (c, x)
  firsts.foldl (fun best x =>
    match best with
    | none => some x
    | some y => if x.2.bead < y.2.bead then some x else some y) none

/-- The Signet of a step record is complete. -/
def signRecord (c : CtxNo) (x : Committed) (s : State) : State :=
  match x.signet with
  | some _ => s
  | none =>
    let g := signetOf s c 2 x.step x.inputs (sm3 (bareRecord x.record))
    let s := s.modRing (fun r =>
      { r with committed := r.committed.map fun y => if y = x then { y with signet := some g } else y }) c
    signetDone { ctx := c, kind := 2, port := 0, index := BitVec.ofNat 64 x.step, signet := g } s

/-! ## On-request Signets (R310) -/

/-- The request's chain event, at the boundary that latched it. -/
def requestChain (s : State) : State :=
  match s.signets.req with
  | some r =>
    if r.inputs.isEmpty then
      let s := chainEvent false r.ctx s
      s.modSig fun g => { g with req := some { r with inputs := (s.ring r.ctx).chain } }
    else s
  | none => s

/-- The request ends with FAULT (R310). -/
def requestFault (s : State) : State :=
  raise evSignetReqFault [] (s.modSig fun g => { g with busy := false, done := false, fault := true, req := none })

/-- The latched request begins (R310): `regs` are the four SIG_REQ values. -/
def requestBegin (regs : Bytes) (sub : Nat) (s : State) : State :=
  let c := leAt regs 12 4 % 16
  let s := castInput 0x44 9 c sub (slice regs 0 16) s
  let s := assign c false 0x44 (slice regs 0 16) s
  let n := (s.ring c).requests
  let s := s.modRing (fun r => { r with requests := r.requests + 1 }) c
  s.modSig fun g =>
    { g with busy := true, done := false, fault := false,
             req := some { ctx := c, addr := leAt regs 0 4 / 1024 * 1024 + leAt regs 4 4 % 256 * 2 ^ 32, left := leAt regs 8 4 % 2 ^ 20 + 1,
                           bytes := [], index := n, inputs := [], latched := s.bead } }

/-- The request's next line and its channel and line, where translation succeeds. -/
def requestLine (s : State) (r : SigRequest) : Option (Nat × Nat) :=
  segLine s r.ctx (r.addr / 2 ^ 34 % 64) ((r.addr % 2 ^ 34 : Nat) : Int) false

/-- One line of the request, read in a host slot of channel `ch`. -/
def requestRead (ch : Nat) (r : SigRequest) (s : State) : State :=
  match requestLine s r with
  | none => requestFault s
  | some (k, u) =>
    if k = ch then
      let (bs, ue, s) := readLine r.ctx k u s
      let s := if ue then lineUe 18 0xB000 r.ctx (r.addr / 2 ^ 34 % 64) (r.addr % 2 ^ 34) k u s else s
      s.modSig fun g => { g with req := some { r with addr := r.addr + 1024, left := r.left - 1, bytes := r.bytes ++ bs } }
    else s

/-- The bytes read that count: of a range that is a region, by its header line 0, its bank period and its size, those of
R191; of any other range all (DESIGN CHOICE, log entry 51). -/
def signetBytes (s : State) (r : SigRequest) : Bytes :=
  let start := r.addr - r.bytes.length
  let period := bankPeriod s r.ctx (start / 2 ^ 34 % 64)
  let g := geometry (slice r.bytes 0 1024) period
  if headerMagic r.bytes ∧ start % 2 ^ 34 % period = 0 ∧ r.bytes.length = g.size period then regionBytes g r.bytes else r.bytes

/-- A request whose lines have all been read is complete. -/
def requestComplete (r : SigRequest) (s : State) : State :=
  let res := sm3 (signetBytes s r)
  let g := signetOf s r.ctx 3 r.index r.inputs res
  let s := s.modSig fun x =>
    { x with busy := false, done := true, requests := (x.requests + 1) % 65536, out := g, resultDigest := res,
             inputChain := r.inputs, req := none }
  signetDone { ctx := r.ctx, kind := 3, port := 0, index := BitVec.ofNat 64 r.index, signet := g } s

/-! ## Completion (R312) -/

/-- A Clasp Signet is complete. -/
def claspSignetDone (p : Nat) (s : State) : State :=
  match (s.clasp p).signetDue with
  | none => s
  | some (g, k, c) =>
    let s := s.modClasp (fun x => { x with signet := g, signetDue := none }) p
    signetDone { ctx := c, kind := 1, port := BitVec.ofNat 8 p, index := BitVec.ofNat 64 k, signet := g } s

/-- The request whose lines have all been read. -/
def requestWhole (s : State) : Option SigRequest := s.signets.req.filter fun r => decide (r.left = 0) && !r.inputs.isEmpty

/-- The request was latched before the record was committed or, in one bead, stands before it in context order (R312). -/
def requestFirst (r : SigRequest) (x : CtxNo × Committed) : Bool :=
  decide (r.latched < x.2.bead ∨ (r.latched = x.2.bead ∧ r.ctx ≤ x.1))

/-- Signet engine `e` completes its work: engines 0 to 3 serve the Clasp ports, engines 4 to 7 the records and the request in
latch order. -/
def signetEngine (e : Nat) (s : State) : State :=
  if e < 4 then claspSignetDone e s
  else if e < 8 then
    match nextUnsigned s, requestWhole s with
    | some (c, x), some r => if requestFirst r (c, x) then requestComplete r s else signRecord c x s
    | some (c, x), none => signRecord c x s
    | none, some r => requestComplete r s
    | none, none => s
  else s

def execSignetComplete (engine : Nat) (s : State) : Host.Outcome State Fault Refusal := ok (signetEngine engine s)

/-- A write to SIG_REQ_GO (R310, R315): GO with the context, while no request is being served, is a host input. -/
def signetGo (value : Word) (s : State) : State :=
  if bit value 31 ∧ s.signets.busy = false ∧ s.follows = false ∧ s.startup.ready ∧ s.ports.linkUp
      ∧ s.cast.replay = false then
    let g := s.signets
    pushInput 9 (.sigReq (leBytes 4 g.addrLo.toNat ++ leBytes 4 g.addrHi.toNat ++ leBytes 4 g.len.toNat ++ leBytes 4 value.toNat))
      (s.modSig fun x => { x with busy := true })
  else s

def execSignetRequest (value : Word) (s : State) : Host.Outcome State Fault Refusal := ok (signetGo value s)

end Sys2Proof.Machine
end

