-- ==== Sys2Proof/Machine/Issues.lean ====
section
/-! DEFINITION. The cue that a unit has begun in the present bead, and its end. -/

namespace Sys2Proof.Machine

/-- The cue of a unit has been carried out. -/
def done (u : UnitNo) (s : State) : State := s.setSeq u { s.seq u with issue := none }

/-- Carries out the begun cue of a unit by `f`, when the unit has begun one that `f` knows: log entry 2. -/
def onIssue (u : UnitNo) (f : Issue → Option (State → State)) (s : State) : State :=
  match (s.seq u).issue with
  | none => s
  | some i =>
    match f i with
    | some g => g (done u s)
    | none => s

/-- A drive of a Chain slot (R31, Table 3-14): slots below 512 are the die's own. -/
def drive (u : UnitNo) (c : CtxNo) (slot from_ to_ : Nat) (s : State) : State :=
  { s with drives :=
      { die := if slot < 512 then (unitDie u).getD 254 else 255, slot := slot, unit := u, ctx := c,
        since := s.bead + from_, until_ := s.bead + to_, began := s.bead } :: s.drives }

end Sys2Proof.Machine
end

