-- ==== Sys2Proof/Machine/Line.lean ====
section
/-! DEFINITION. Line coding: 64b/66b blocks and their scrambler, the transcoding and the Reed–Solomon code of the fabric
and twin lanes (R252, R253, R439). -/

namespace Sys2Proof.Machine

/-! ## Blocks and the scrambler 1 + x^39 + x^58 (R252) -/

/-- A payload of 8 bytes, byte 0 first, each least significant bit first. -/
def payloadOf (b : Bytes) : BitVec 64 := BitVec.ofNat 64 (leNat (slice b 0 8))

/-- The last 58 payload bits once a payload has passed. -/
def lineHistory (h : BitVec 58) (y : BitVec 64) : BitVec 58 := (y ++ h).extractLsb' 64 58

/-- A payload scrambled after the history `h`: every bit is added to those sent 39 and 58 bits before it. -/
def scramble (h : BitVec 58) (d : BitVec 64) : BitVec 64 :=
  let a : BitVec 39 := d.extractLsb' 0 39 ^^^ h.extractLsb' 19 39 ^^^ h.extractLsb' 0 39
  let n : BitVec 97 := a ++ h
  let b : BitVec 25 := d.extractLsb' 39 25 ^^^ n.extractLsb' 58 25 ^^^ n.extractLsb' 39 25
  b ++ a

/-- A payload of the line descrambled. -/
def descramble (h : BitVec 58) (y : BitVec 64) : BitVec 64 :=
  let n := y ++ h
  y ^^^ n.extractLsb' 19 64 ^^^ n.extractLsb' 0 64

/-- The sync headers of data and control blocks. -/
def dataHeader : BitVec 2 := 1
def controlHeader : BitVec 2 := 2

/-- The control payloads of Table 9-1. -/
def idlePayload : BitVec 64 := payloadOf [0x1E]
def startPayload : BitVec 64 := payloadOf [0x78, 0x55, 0x55, 0x55, 0x55, 0x55, 0x55, 0xD5]
def terminatePayload : BitVec 64 := payloadOf [0x87]

/-- The blocks of a frame before scrambling (R254): START, the body, TERMINATE. The body of a packet
is followed by 4 zero bytes, up to whole blocks (R441). -/
def frameBlocks (body : Bytes) : List LineBlock :=
  ⟨controlHeader, startPayload⟩ :: (chunks 8 (padTo 8 body)).map (fun b => ⟨dataHeader, payloadOf b⟩) ++ [⟨controlHeader, terminatePayload⟩]

/-- Blocks as they stand on the line after the history `h`. -/
def lineBlocks : BitVec 58 → List LineBlock → List LineBlock
  | _, [] => []
  | h, b :: r => ⟨b.header, scramble h b.payload⟩ :: lineBlocks (lineHistory h (scramble h b.payload)) r

/-- Blocks read from the line after the history `h`. -/
def readBlocks : BitVec 58 → List LineBlock → List LineBlock
  | _, [] => []
  | h, b :: r => ⟨b.header, descramble h b.payload⟩ :: readBlocks (lineHistory h b.payload) r

/-- The body between START and TERMINATE; none where a block error lies there (R253): a header that is neither, another
control type, a data block before START. -/
def blocksBody : List LineBlock → Option Bytes
  | [] => none
  | b :: r =>
    if b ≠ ⟨controlHeader, startPayload⟩ ∨ r.getLast? ≠ some ⟨controlHeader, terminatePayload⟩ then none
    else if r.dropLast.all fun x => x.header == dataHeader then some (r.dropLast.map fun x => leBytes 8 x.payload.toNat).flatten
    else none

/-! ## Transcoding and the code RS(544,514) over GF(2^10) (R439) -/

/-- Four blocks as one 257-bit block: bit 0 is 1 where all four are data blocks. The other bits of a block that holds a
control block are not stated: `open_` (free, log entry 50). -/
def transcode (open_ : Nat) (l : List LineBlock) : Nat :=
  if l.all fun b => b.header == dataHeader then 1 + 2 * (l.zipIdx.map fun b => b.1.payload.toNat * 2 ^ (64 * b.2)).sum
  else 2 * (open_ % 2 ^ 256)

/-- x · α in GF(2^10), modulo x^10 + x^3 + 1. -/
def rsDouble (a : Nat) : Nat := if 512 ≤ a then (2 * a) ^^^ 0x409 else 2 * a

/-- The product in GF(2^10), by the bits of `b`. -/
def rsMul (a b : Nat) : Nat :=
  ((List.range 10).foldl (fun (x : Nat × Nat) i => (if b.testBit i then x.1 ^^^ x.2 else x.1, rsDouble x.2)) (0, a)).1

/-- α^n. -/
def rsPow : Nat → Nat
  | 0 => 1
  | n + 1 => rsDouble (rsPow n)

/-- A polynomial, highest power first, times x + `a`. -/
def polyStep (p : List Nat) (a : Nat) : List Nat := List.zipWith (fun x y => x ^^^ rsMul a y) (p ++ [0]) (0 :: p)

/-- The generator with the roots α^0 to α^29 (PRESUMED, log entry 50), highest power first, without its leading 1. -/
def rsGenerator : List Nat := ((List.range 30).foldl (fun p i => polyStep p (rsPow i)) [1]).drop 1

/-- The 30 parity symbols of a message. -/
def rsParity (m : List Nat) : List Nat :=
  let g := rsGenerator
  m.foldl (fun reg x =>
    let f := x ^^^ reg.headD 0
    List.zipWith (fun a b => a ^^^ rsMul f b) (reg.drop 1 ++ [0]) g) (List.replicate 30 0)

/-- The 514 message symbols of twenty 257-bit blocks, the first bits in the first symbol. -/
def rsMessage (l : List Nat) : List Nat :=
  let n := (l.zipIdx.map fun b => b.1 * 2 ^ (257 * b.2)).sum
  (List.range 514).map fun i => n / 2 ^ (10 * i) % 1024

/-- A codeword of twenty 257-bit blocks. -/
def rsCodeword (l : List Nat) : List Nat := let m := rsMessage l; m ++ rsParity m

/-- The symbols of a codeword dealt to `n` lanes in turn. -/
def dealLanes (n : Nat) (w : List Nat) : List (List Nat) :=
  (List.range n).map fun k => (w.zipIdx.filter fun x => x.2 % n == k).map (·.1)

/-- The codewords that carry a packet or cell, on `n` lanes: its blocks and IDLE blocks up to a whole codeword of 80 blocks
(DESIGN CHOICE, log entry 50), from the scrambler history `h`. -/
def laneWords (n : Nat) (h : BitVec 58) (open_ : Nat) (body : Bytes) : List (List (List Nat)) :=
  let bs := frameBlocks body
  let fill := List.replicate ((80 - bs.length % 80) % 80) (⟨controlHeader, idlePayload⟩ : LineBlock)
  (chunks 80 (lineBlocks h (bs ++ fill))).zipIdx.map fun w =>
    dealLanes n (rsCodeword ((chunks 4 w.1).zipIdx.map fun g => transcode (open_ / 2 ^ (256 * (20 * w.2 + g.2))) g.1))

/-- Codewords go out on the lanes of a link, the twin link being number 4; after every 4,096 of a link an alignment marker
stands on every lane (R439). The scrambler's history is free. -/
def sendLanes (link n : Nat) (body : Bytes) (s : State) : State :=
  let x := s.fresh
  (laneWords n (BitVec.ofNat 58 (Config.freeNat x.1)) (Config.freeNat x.1 / 2 ^ 58) body).foldl (fun t w =>
    let k := t.ports.codewords.getD link 0 + 1
    let t := (t.emit (.lanes link w)).modPorts fun p => { p with codewords := modifyAt (fun _ => k % 4096) link p.codewords }
    if k % 4096 = 0 then t.emit (.marker link) else t) x.2

end Sys2Proof.Machine

namespace Sys2Proof

/-- The body of an inbound frame, empty where its blocks hold an error. -/
def ClaspArrival.body (a : ClaspArrival) : Bytes := (Machine.blocksBody (Machine.readBlocks a.history a.blocks)).getD []

/-- Every block from START to TERMINATE is good (R253, R278). -/
def ClaspArrival.clean (a : ClaspArrival) : Bool := (Machine.blocksBody (Machine.readBlocks a.history a.blocks)).isSome

end Sys2Proof
end

