-- ==== Sys2Proof/Machine/Rotation.lean ====
section
/-! DEFINITION. Rotation lengths, lags and positions (R118, R260). -/

namespace Sys2Proof.Machine

/-- RATE_KHZ as it acts (Table 9-13). -/
def rateOf (v : Nat) : Nat := if v = 8 ∨ v = 10 ∨ v = 16 ∨ v = 20 ∨ v = 32 then v else 40

/-- Lrot(P) in beads (Table 9-7). -/
def lrot (rate p : Nat) : Nat :=
  match rate with
  | 8 => 3125
  | 10 => 2500
  | 16 => if p % 2 = 0 then 1563 else 1562
  | 20 => 1250
  | 32 => if p % 4 = 0 then 782 else 781
  | _ => 625

/-- Lag of period P in fc (Table 9-7). -/
def lag (rate p : Nat) : Nat :=
  match rate with
  | 16 => 8 * (p % 2)
  | 32 => [0, 12, 8, 4].getD (p % 4) 0
  | _ => 0

/-- The shortest rotation of a rate. -/
def lrotMin (rate : Nat) : Nat := min (lrot rate 0) (lrot rate 1)

/-- Beads of the `n` rotations from period `p` on: whole cycles of four, and the rest. -/
def lrotSum (rate p n : Nat) : Nat :=
  n / 4 * (lrot rate 0 + lrot rate 1 + lrot rate 2 + lrot rate 3)
    + ((List.range (n % 4)).map fun i => lrot rate (p + i)).sum

/-- The due bead D is in its range (R261). -/
def dueValid (rate d : Nat) : Bool := decide (45 ≤ d ∧ d + 303 ≤ lrotMin rate)

/-- The module's rate. -/
def State.rate (s : State) : Nat := rateOf s.claspRate

/-- First bead of the present rotation. -/
def State.rotStart (s : State) : Nat := s.bead - s.beadInRot

/-- The period counter at a bead of the present rotation, of the one before or of the one that follows. -/
def State.periodAt (s : State) (b : Nat) : Word :=
  if b < s.rotStart then s.period - 1 else if b < s.rotStart + s.rotLen then s.period else s.period + 1

/-- The bead counter of a position (period, bead), stepping along the rotation lengths (R118); periods are compared by
serial-number arithmetic. -/
def State.beadOf (s : State) (p : Word) (b : Nat) : Int :=
  let d := (p - s.period).toInt
  let start : Int := (s.rotStart : Int)
  if d = 0 then start + b
  else if 0 < d then start + (s.rotLen : Int) + (lrotSum s.rate (s.period.toNat + 1) (d.toNat - 1) : Nat) + b
  else start - (lrotSum s.rate p.toNat d.natAbs : Nat) + b

/-- The bead within its rotation of the position `b` beads after the start of period `p`; `fuel` bounds the rotations
stepped over. -/
def beadStep (rate : Nat) : Nat → Nat → Nat → Nat
  | 0, _, b => b
  | fuel + 1, p, b => if b < lrot rate p then b else beadStep rate fuel (p + 1) (b - lrot rate p)

/-- A context's outputs are withheld for the present rotation (R116). -/
def State.held (s : State) (c : CtxNo) : Bool := (s.ctx c).withheld

end Sys2Proof.Machine
end

