-- ==== Sys2Proof/Machine/Fabric.lean ====
section
/-! DEFINITION. Fabric ports: FSEND, FRECV, FXCH and the arrival of packets (R117 to R125, R342, R398). -/

namespace Sys2Proof.Machine

/-- Bytes of a port operation. -/
def portBytes (f : PortFields) : Nat := (f.len.toNat + 1) * 32

/-- The effective offset LOFF of a port cue. -/
def portOff (s : State) (i : Issue) (f : PortFields) : Int := issueAddr s i f.loff.toNat f.lstr.toNat

/-- `n` bytes of a port's own buffer in space 2; none where they leave it. -/
def portRead (s : State) (u : UnitNo) (off : Int) (n : Nat) : Option Bytes :=
  if 0 ≤ off ∧ off + n ≤ 262144 then some (readUnit s u off.toNat n) else none

/-- MEM_UE of a port cue that reads its own buffer (R140). -/
def portUe (u : UnitNo) (off : Int) (n : Nat) (s : State) : State := unitUe 1 u [(off.toNat, n)] s

/-- Bytes for a port's own buffer, visible in the next bead; nothing where they leave it. -/
def portWrite (u : UnitNo) (c : CtxNo) (off : Int) (bs : Bytes) (s : State) : State :=
  if 0 ≤ off ∧ off + bs.length ≤ 262144 then s.later 1 u c (.bytes [(unitKey u off.toNat, bs)]) else s

/-! ## Taking part (R117) -/

/-- The root is locked to the drive lock, or to the lead. -/
def seaLock (s : State) : Bool := decide (s.clock.ref = .clasp ∨ (s.follows ∧ s.clock.ref = .twin))

/-- The module takes part in transfers: a locked member with its lock. -/
def takesPart (s : State) : Bool := decide (s.fabric.state = .locked) && seaLock s

/-! ## Packets (Table 4-4) -/

def pktSrc (p : Bytes) : Nat := leAt p 0 2 % 4096
def pktDst (p : Bytes) : Nat := leAt p 2 2 % 4096
def pktLead (p : Bytes) : Bool := leAt p 4 1 % 2 = 1
def pktLen (p : Bytes) : Nat := 32 * (leAt p 5 1 + 1)
def pktBead (p : Bytes) : Nat := leAt p 6 2
def pktPeriod (p : Bytes) : Word := BitVec.ofNat 32 (leAt p 8 4)
def pktEpoch (p : Bytes) : Word := BitVec.ofNat 32 (leAt p 12 4)
def pktDest (p : Bytes) : Nat := leAt p 16 8
def pktBody (p : Bytes) : Bytes := slice p 32 (pktLen p)

/-- The packet's length is the one its header implies and its CRC is good (R122). -/
def pktGood (p : Bytes) : Bool :=
  decide (p.length = 36 + pktLen p ∧ crc32 (p.take (32 + pktLen p)) = leAt p (32 + pktLen p) 4)

/-- The payload of a context under its sea key, or as it is when it has none (R398). -/
def seaCrypt (s : State) (c : CtxNo) (hdr payload : Bytes) : Bytes :=
  match (s.ctx c).sec.seaKey with
  | none => payload
  | some k =>
    let key := keyOf (kdf (keyBytes k ++ leBytes 4 s.fabric.wraps) 16)
    ctrBlocks key (slice hdr 0 2 ++ slice hdr 6 2 ++ slice hdr 8 4 ++ slice hdr 16 6) 2 payload

/-- LATENCY as it acts (Table 16-11). -/
def fabLatency (s : State) : Nat := max 32 (min 4096 s.fabric.latency)

/-- The period reached `b` beads after the start of period `p`; `fuel` bounds the rotations stepped over. -/
def periodStep (rate : Nat) : Nat → Nat → Nat → Nat
  | 0, p, _ => p
  | fuel + 1, p, b => if b < lrot rate p then p else periodStep rate fuel (p + 1) (b - lrot rate p)

/-- The bead within the rotation in which a packet is due (R123). -/
def pktDueBead (s : State) (p : Bytes) : Nat := beadStep s.rate 16 (pktPeriod p).toNat (pktBead p + fabLatency s)

/-- The argument of a fabric event (Table 16-14). -/
def fabArg (port src due transit : Nat) : Bytes := [BitVec.ofNat 8 port, 0] ++ leBytes 2 src ++ leBytes 2 due ++ leBytes 2 transit

/-- A fabric event of the module. -/
def fabRaise (code port src due transit : Nat) (s : State) : State := raise code (fabArg port src due transit) s

/-- What a member has shown in the present rotation (R342). -/
def noteSilence (m : Nat) (f : Silence → Silence) (s : State) : State :=
  s.modFabric fun x => { x with silent := assocSet m (f ((assoc m x.silent).getD ⟨0, false, false⟩)) x.silent }

/-- A packet leaves: on a port's lanes (R439). -/
def sendPacket (port : Nat) (p : Bytes) (s : State) : State := sendLanes port 4 p (s.emit (.fabricPacket port p))

/-- A packet with its CRC, from header and payload. -/
def packetOf (hdr body : Bytes) : Bytes := hdr ++ body ++ leBytes 4 (crc32 (hdr ++ body))

/-- A header of Table 4-4. -/
def packetHeader (s : State) (own dst len dest : Nat) : Bytes :=
  leBytes 2 own ++ leBytes 2 dst ++ [BitVec.ofNat 8 (b2n s.leads), BitVec.ofNat 8 len] ++ leBytes 2 s.beadInRot
    ++ leBytes 4 s.period.toNat ++ leBytes 4 s.pair.regs.epoch.toNat ++ leBytes 8 dest ++ zeros 8

/-- The header and payload form one packet, but for a context whose outputs are withheld (R116), a joining member and a
module that takes no part (R117). It leaves at the end of the bead (R115). -/
def fabSend (u : UnitNo) (i : Issue) (f : PortFields) (s : State) : State :=
  let ra := issueAddr s i (f.raddr.toNat % 2 ^ 34) f.rstr.toNat
  let seg := f.raddr.toNat / 2 ^ 34
  match portRead s u (portOff s i f) (portBytes f) with
  | none => s
  | some body =>
    let s := portUe u (portOff s i f) (portBytes f) s
    match if ra < 0 then none else translateRemote s i.ctx seg ra.toNat with
    | none => segFault i.ctx u seg ra s
    | some (sp, off) =>
      if s.held i.ctx ∨ s.pair.regs.role = .joining ∨ takesPart s = false then s
      else
        let hdr := packetHeader s s.ownModule f.rmod.toNat f.len.toNat (f.rmod.toNat * 2 ^ 52 + sp * 2 ^ 48 + off)
        { s with sends := s.sends ++ [(i.ctx, unitIdx u, packetOf hdr (seaCrypt s i.ctx hdr body))] }

/-- The packets of the present bead leave, but those of contexts whose outputs an event of the bead withholds (R115,
R116). -/
def sendPackets (s : State) : State :=
  (s.sends.filter fun p => !s.held p.1).foldl (fun t p => sendPacket p.2.1 p.2.2 t) { s with sends := [] }

/-! ## Probes (R119) -/

/-- Member numbers of the member list. -/
def memberList (f : Fabric) : List Nat :=
  f.members.flatMap fun m => ((List.range 32).filter fun j => bit m.2 j).map fun j => 32 * m.1 + j

/-- A probe of the module to a member: a header of Table 4-4 and 32 bytes of 0 (DESIGN CHOICE, log entry 17). -/
def probePacket (s : State) (m : Nat) : Bytes := packetOf (packetHeader s s.fabric.modNo m 0 (m * 2 ^ 52)) (zeros 32)

/-- While the sea forms, a probe goes to every other member on every port in the first bead of each rotation. -/
def sendProbes (s : State) : State :=
  if s.fabric.state = .forming ∧ s.beadInRot = 0 then
    ((memberList s.fabric).filter fun m => decide (m ≠ s.fabric.modNo)).foldl (fun t m =>
      (List.range 4).foldl (fun t p => sendPacket p (probePacket s m) t) t) s
  else s

/-- A probe arrives: by how much its sender's period counter is ahead of the module's. -/
def takeProbe (p : Bytes) (transit : Nat) (s : State) : State :=
  let now := BitVec.ofNat 32 (periodStep s.rate 16 (pktPeriod p).toNat (pktBead p + transit))
  s.modFabric fun x => { x with probes := assocSet (pktSrc p) (now - s.period) x.probes }

/-- The longest transit that a port has measured. -/
def noteTransit (port transit : Nat) (s : State) : State :=
  s.modFabric fun x => { x with transits := modifyAt (fun t => max t (min transit 8191)) port x.transits }

/-- The packet may be taken by a receive of the present bead (R123). -/
def pktCandidate (s : State) (u : UnitNo) (off : Int) (n rx : Nat) (h : Nat × HeldPacket) : Bool :=
  let p := h.2.bytes
  decide (h.1 = unitIdx u ∧ h.2.due = s.bead ∧ pktDst p = s.ownModule ∧ pktLen p = n ∧ (rx = 0xFFF ∨ pktSrc p = rx)
    ∧ 0 ≤ off ∧ pktDest p = s.ownModule * 2 ^ 52 + 2 * 2 ^ 48 + u * 2 ^ 24 + off.toNat) && pktGood p

/-- The first packet is chosen before the second: a lead copy of the later epoch, a lead copy before a pendant's
(R124). -/
def pktBefore (a b : Bytes) : Bool :=
  (pktLead a && !pktLead b) || (pktLead a && pktLead b && laterThan (pktEpoch a) (pktEpoch b))

/-- Neither is chosen before the other by role and epoch. -/
def pktEqual (a b : Bytes) : Bool := !pktBefore a b && !pktBefore b a

/-- Lead copies of epochs that are not ordered are stale, both of them (R18; DEDUCED, log entry 17). -/
def pktStale (l : List (Nat × HeldPacket)) (h : Nat × HeldPacket) : Bool :=
  pktLead h.2.bytes && l.any fun g => pktLead g.2.bytes && unordered (pktEpoch g.2.bytes) (pktEpoch h.2.bytes)

/-- The candidates of a receive. -/
def pktCands (s : State) (u : UnitNo) (off : Int) (n rx : Nat) : List (Nat × HeldPacket) :=
  let l := s.fabric.held.filter (pktCandidate s u off n rx)
  l.filter fun h => !pktStale l h

/-- The chosen candidate: best by R124, then the lower sender. -/
def pktChoose : List (Nat × HeldPacket) → Option (Nat × HeldPacket)
  | [] => none
  | h :: r =>
    match pktChoose r with
    | none => some h
    | some b =>
      if pktBefore b.2.bytes h.2.bytes || (pktEqual b.2.bytes h.2.bytes && decide (pktSrc b.2.bytes < pktSrc h.2.bytes)) then
        some b
      else some h

/-- The Cast record of a packet taken at its due bead (Table 10-5). -/
def castPacket (u : UnitNo) (c : CtxNo) (p : Bytes) (s : State) : State :=
  if (s.ctx c).castOn then
    if s.cast.fabFull then castPut 0x30 (5 + unitIdx u) c 0 s.bead 0 s.period (p.take (32 + pktLen p)) s
    else castPut 0x30 (5 + unitIdx u) c 1 s.bead 0 s.period (p.take 32 ++ sm3 (pktBody p)) s
  else s

/-- A replayed payload is compared with its DIGEST_ONLY record (R306). -/
def replayPacket (u : UnitNo) (c : CtxNo) (p : Bytes) (s : State) : State :=
  match s.cast.feed.find? fun r =>
      decide ((r.1 : Int) + ((assoc c s.cast.deltas).getD (0, 0)).1 = s.bead ∧ leAt r.2 0 1 = 0x30 ∧ leAt r.2 1 1 = 5 + unitIdx u ∧ leAt r.2 2 1 = c ∧ leAt r.2 3 1 % 2 = 1) with
  | none => s
  | some r =>
    if s.cast.replay ∧ slice r.2 64 32 ≠ sm3 (pktBody p) then
      raise evReplayDiverge (zeros 4 ++ zeros 8) s
    else s

/-- A receive into a buffer offset (R123 to R125). -/
def fabRecv (u : UnitNo) (i : Issue) (off : Int) (n rx : Nat) (s : State) : State :=
  let port := unitIdx u
  let cands := pktCands s u off n rx
  let rest := s.fabric.held.filter fun h => !pktCandidate s u off n rx h
  match pktChoose cands with
  | none =>
    let s := raiseCtx evFabricMiss i.ctx u (fabArg port rx s.beadInRot 0) s
    if rx = 0xFFF then s else noteSilence rx (fun x => { x with missed := true }) s
  | some h =>
    let p := h.2.bytes
    let s := s.modFabric fun x => { x with held := rest }
    let ties := cands.filter fun g => pktEqual g.2.bytes p
    let s := if rx = 0xFFF ∧ 1 < ties.length then fabRaise evFabricCollision port (pktSrc p) s.beadInRot h.2.transit s else s
    let s := noteSilence (pktSrc p) (fun x => { x with got := true }) s
    let s := replayPacket u i.ctx p (castPacket u i.ctx p s)
    portWrite u i.ctx off (seaCrypt s i.ctx p (pktBody p)) s

def doFrecv (u : UnitNo) (i : Issue) (f : PortFields) (s : State) : State :=
  fabRecv u i (portOff s i f) (portBytes f) (f.param.toNat % 4096) s

/-- FXCH: a send from LOFF and a receive into LOFF + 0x2_0000, in one bead. -/
def doFxch (u : UnitNo) (i : Issue) (f : PortFields) (s : State) : State :=
  fabRecv u i (portOff s i f + 0x20000) (portBytes f) (f.param.toNat % 4096) (fabSend u i f s)

/-- The begun PORT cue of a unit of kind `k`, when it is of operation `pop`. -/
def portCue (k : UnitKind) (pop : Nat) (u : UnitNo) (g : Issue → PortFields → State → State) (i : Issue) : Option (State → State) :=
  match i.cue with
  | .port f => if unitKind u = some k ∧ f.pop.toNat = pop then some (g i f) else none
  | _ => none

/-- Packets whose due bead has passed are discarded and logged (R125). -/
def fabUnclaimed (s : State) : State :=
  let old := s.fabric.held.filter fun h => decide (h.2.due < s.bead)
  let s := s.modFabric fun x => { x with held := x.held.filter fun h => decide (s.bead ≤ h.2.due) }
  old.foldl (fun t h =>
    fabRaise evFabricUnclaimed h.1 (pktSrc h.2.bytes) (pktDueBead t h.2.bytes) h.2.transit t) s

/-- Packets of a port that have arrived and are not yet due (R125). -/
def packetsWaiting (s : State) (port : Nat) : Nat := (s.fabric.held.filter fun h => decide (h.1 = port ∧ s.bead < h.2.due)).length

/-- A transit lies within 4 beads of L (R125). -/
def nearLatency (s : State) (transit : Nat) : Bool := decide (fabLatency s ≤ transit + 4 ∧ transit ≤ fabLatency s + 4)

/-- A packet arrives complete (R123, R125): at a member that takes part (R117), or as a probe while the sea forms. -/
def packetArrives (port : Nat) (p : Bytes) (transit : Nat) (s : State) : State :=
  if 4 ≤ port then s
  else if takesPart s then
    let due := s.beadOf (pktPeriod p) (pktBead p) + (fabLatency s : Int)
    let db := pktDueBead s p
    let s := noteTransit port transit s
    let s := if nearLatency s transit then fabRaise evFabricMargin port (pktSrc p) db transit s else s
    if due ≤ (s.bead : Int) then fabRaise evFabricUnclaimed port (pktSrc p) db transit s
    else if 64 ≤ packetsWaiting s port then fabRaise evFabricOverrun port (pktSrc p) db transit s
    else s.modFabric fun x => { x with held := x.held ++ [(port, { due := due.toNat, bytes := p, transit := transit })] }
  else if s.fabric.state = .forming ∧ seaLock s ∧ pktGood p ∧ pktDst p = s.fabric.modNo then
    takeProbe p transit (noteTransit port transit s)
  else s

/-! ## The commands -/

def execFsend (u : UnitNo) (s : State) : Host.Outcome State Fault Refusal := ok (onIssue u (portCue .fabric 1 u (fabSend u)) s)
def execFrecv (u : UnitNo) (s : State) : Host.Outcome State Fault Refusal := ok (onIssue u (portCue .fabric 2 u (doFrecv u)) s)
def execFxch (u : UnitNo) (s : State) : Host.Outcome State Fault Refusal := ok (onIssue u (portCue .fabric 3 u (doFxch u)) s)

def execFabricPacketReceive (port : Nat) (packet : Bytes) (transit : Nat) (s : State) : Host.Outcome State Fault Refusal :=
  ok (packetArrives port packet transit s)

end Sys2Proof.Machine
end

