-- ==== Sys2Proof/Machine/Clasp.lean ====
section
/-! DEFINITION. Clasp ports: frames, latch, decision, alignment and the port cues (R252 to R280, R308). -/

namespace Sys2Proof.Machine

/-! ## Frames (Tables 9-2, 9-3, 9-11) -/

/-- The body length that a header implies: `rec` bytes a record. -/
def bodyLength (nrec rec siglen : Nat) : Nat := 8 * cdiv (32 + nrec * rec + siglen + 4) 8

/-- Record size of a frame type. -/
def frameRec (type : Nat) : Nat := if type = 1 then 32 else if type = 2 then 16 else 0

/-- Lock, shape and CRC of an inbound frame. -/
def frameWhole (f : ClaspArrival) : Bool :=
  let b := f.body
  f.clean && decide (b.length = bodyLength (leAt b 0xE 1) (frameRec (leAt b 0 1)) (leAt b 0xF 1)
    ∧ crc32 (b.take (b.length - 4)) = leAt b (b.length - 4) 4)

/-- STREAM of record k of an AXIS frame. -/
def frameStream (b : Bytes) (k : Nat) : Nat := leAt b (32 + 32 * k + 0x1B) 1

/-- Streams of a frame, in record order. -/
def frameStreams (b : Bytes) : List Nat := (List.range (leAt b 0xE 1)).map (frameStream b)

/-- Type and records. -/
def frameKind (b : Bytes) : Bool :=
  let t := leAt b 0 1
  let n := leAt b 0xE 1
  decide ((t = 1 ∨ (t = 5 ∧ n = 0)) ∧ leAt b 6 1 = 3 ∧ n ≤ 64 ∧ leAt b 0xF 1 = 0)
    && (frameStreams b).all (fun x => decide (x ≤ 63)) && decide ((frameStreams b).Nodup)

def framePort (b : Bytes) (p : Nat) : Bool := decide (leAt b 1 1 = p ∨ leAt b 1 1 = 0xFF)
def frameSeq (b : Bytes) : Half := BitVec.ofNat 16 (leAt b 2 2)

/-- The port is enabled: its mode is not 0 and its due bead valid (R261, R267). -/
def claspEnabled (s : State) (p : Nat) : Bool :=
  decide ((s.clasp p).mode = 1 ∨ (s.clasp p).mode = 2) && dueValid s.rate (s.clasp p).due

/-- The sequence check. -/
def frameNewer (c : Clasp) (b : Bytes) : Bool :=
  match c.lastSeq with
  | some q => laterThan (frameSeq b) q
  | none => true

/-- PERIOD_LO is right, or not checked before alignment in follower mode (R269). -/
def framePeriod (s : State) (c : Clasp) (b : Bytes) : Bool :=
  (decide (c.mode = 2) && !c.aligned) || decide (leAt b 4 2 = s.period.toNat % 65536)

/-- E lies in the window (R264): from bead D − 2 to bead D, in tenths of a symbol about D − 1. -/
def frameInTime (arr : Int) : Bool := decide (-4096 ≤ arr ∧ arr < 4096)

/-- ARR of an arrival, in symbol times. -/
def arrWord (arr : Int) : BitVec 16 := BitVec.ofInt 16 (arr / 10)

/-- The argument of a Clasp event (Table 16-14). -/
def claspArg (c : Clasp) (p : Nat) : Bytes :=
  let st := match c.state with | .disabled => 0 | .training => 1 | .up => 2 | .held => 3
  [BitVec.ofNat 8 p, BitVec.ofNat 8 st] ++ leBytes 2 c.arr.toNat ++ leBytes 4 c.transitions.length

def claspRaise (code p : Nat) (s : State) : State := raise code (claspArg (s.clasp p) p) s

/-- CLASP_UP and CLASP_DOWN also go to the owning context (Table 9-18). -/
def claspRaiseOwner (code p : Nat) (s : State) : State :=
  let o := s.owner (unitNo .clasp p)
  if o = 0 then claspRaise code p s else raiseAt code (some o) 0xFFFF 0xFFFF false false (claspArg (s.clasp p) p) s

/-! ## Reported epochs (R337 to R340) -/

/-- The later of EH and a reported epoch. -/
def epochMax (h : Option Word) (e : Word) : Word :=
  match h with
  | some x => if laterThan e x then e else x
  | none => e

/-- What a pair member does with an EPOCH reported on an UP port. -/
def epochReported (e : Word) (s : State) : State :=
  let rises := decide (s.pair.regs.state = .detached ∧ some (epochMax s.pair.regs.eh e) ≠ s.pair.regs.eh)
  let s := s.modTwin fun t => { t with eh := some (epochMax t.eh e) }
  let s := if rises then s.modOver fun o => { o with confirmSince := some (s.rotCount, s.pair.regs.eh) } else s
  let later := laterThan e s.pair.regs.epoch
  if s.pair.regs.role = .lead ∧ later then
    if s.pair.regs.state = .acting then
      let s := s.modTwin fun t => { t with role := .pendant, state := .detached }
      let s := s.modOver fun o => { o with confirmSince := some (s.rotCount, s.pair.regs.eh) }
      raise evPairSplit [] (s.admitted.foldl (fun t c => diverge c t) s)
    else if s.pair.regs.state = .fenced then s
    else raise evPairFenced [] ((s.modTwin fun t => { t with state := .fenced }).modOver fun o => { o with beatSince := none })
  else s

/-! ## Arrival (R278) -/

/-- A frame that fails a check, or comes second in a window. -/
def frameBad (p : Nat) (s : State) : State := s.modClasp (fun c => { c with bad := c.bad + 1 }) p

/-- A good frame. -/
def frameGood (p : Nat) (f : ClaspArrival) (s : State) : State :=
  let q := frameSeq f.body
  let s := s.modClasp (fun c =>
    { c with good := c.good + 1, arr := arrWord f.arrTenths, lastSeq := some q, frame := some (f.body, f.arrTenths),
             lastArr := some f.arrTenths, sinceGood := 0, epochSeen := some (BitVec.ofNat 32 (leAt f.body 8 4)),
             gap := match c.lastSeq with | some l => if (q - l).toNat = 1 then c.gap else c.gap + 1 | none => c.gap }) p
  let s := if 3320 < f.arrTenths.natAbs then claspRaise evClaspMargin p s else s
  if (s.clasp p).state = .up then epochReported (BitVec.ofNat 32 (leAt f.body 8 4)) s else s

/-- Phase of the receive block grid, on which E lies, in tenths of a symbol time (R263). -/
def receivePhase (s : State) (c : Clasp) (arr : Int) : Nat :=
  ((((s.rotStart + c.due : Nat) : Int) - 1) * 4096 + arr).emod 660 |>.toNat

/-- SLIP = (t − r − 46) mod 66 (R270). -/
def slipOf (t r : Nat) : Nat := (t + 1320 - r - 460) % 660 / 10

/-- The block grids of R270 when a frame comes: a follower port that is not UP shifts its transmit grid until SLIP is 0; any
other port measures SLIP. -/
def claspGrid (s : State) (arr : Int) (c : Clasp) : Clasp :=
  let r := receivePhase s c arr
  if c.mode = 2 ∧ c.state ≠ .up then { c with grid := (r + 460) % 660, slip := 0 } else { c with slip := slipOf c.grid r }

/-- The last four checks of Table 9-11, and the first good frame of the window. -/
def frameFits (s : State) (c : Clasp) (f : ClaspArrival) : Bool :=
  frameNewer c f.body && framePeriod s c f.body && frameInTime f.arrTenths && decide (c.slip = 0) && c.frame.isNone

/-- CLASP_FRAME_RECEIVE. -/
def claspReceive (p : Nat) (f : ClaspArrival) (s : State) : State :=
  if 4 ≤ p ∨ claspEnabled s p = false ∨ (s.clasp p).blockLock = false ∨ s.cast.replay then s
  else
    let s := s.modClasp (claspGrid s f.arrTenths) p
    if frameWhole f = false ∨ frameKind f.body = false then frameBad p s
    else if framePort f.body p = false then claspRaise evClaspWiring p (frameBad p s)
    else if frameFits s (s.clasp p) f then frameGood p f s
    else frameBad p s

/-- A sync header is valid (R252). -/
def headerValid (h : BitVec 2) : Bool := decide (h = 1 ∨ h = 2)

/-- Block lock is gained (R254). -/
def lockGain (p : Nat) (hs : List (BitVec 2)) (s : State) : State :=
  if p < 4 ∧ claspEnabled s p ∧ 64 ≤ hs.length ∧ (hs.take 64).all headerValid then s.modClasp (fun c => { c with blockLock := true }) p
  else s

/-- Block lock is lost (R254). -/
def lockLoss (p : Nat) (hs : List (BitVec 2)) (s : State) : State :=
  if p < 4 ∧ 16 ≤ ((hs.take 64).filter fun h => !headerValid h).length then s.modClasp (fun c => { c with blockLock := false }) p
  else s

/-! ## The latch (R264, R273, R279, R280, R308) -/

/-- The 2,080 bytes of a CRECV entry (R273, Table 9-10). -/
def crecvEntry (b : Option Bytes) : Bytes :=
  match b with
  | none => zeros 2080
  | some b =>
    let n := leAt b 0xE 1
    let ks := frameStreams b
    let mask := ks.foldl (fun a k => a ||| 2 ^ k) 0
    leBytes 4 1 ++ leBytes 4 n ++ leBytes 8 mask ++ slice b 2 4 ++ slice b 0xC 2 ++ zeros 10
      ++ ((List.range 64).map fun k => if k ∈ ks then slice b (32 + 32 * ks.idxOf k) 32 else zeros 32).flatten

/-- Transitions of the last 60 s (R280). -/
def recentTransitions (s : State) (c : Clasp) : List Nat := c.transitions.filter fun t => decide (c.periods < t + 60000 * s.rate)

/-- A change between TRAINING and UP: the ninth in 60 s holds the port. -/
def claspChange (p : Nat) (next : ClaspState) (s : State) : State :=
  let c := s.clasp p
  let recent := recentTransitions s c
  if 8 ≤ recent.length then claspRaise evClaspFlap p (s.modClasp (fun c => { c with state := .held, transitions := recent }) p)
  else
    let s := s.modClasp (fun c =>
      { c with state := next, transitions := c.periods :: recent,
               lastSeq := if next = .training then none else c.lastSeq }) p
    claspRaiseOwner (if next = .up then evClaspUp else evClaspDown) p s

/-- The period is counted and the state may change (R279). The periods of a follower port that has fallen back to the local root
are bad (R354). -/
def claspCount (p : Nat) (s : State) : State :=
  let c := s.clasp p
  let fallen := decide (c.mode = 2 ∧ 2 ≤ c.offWindows) && !c.lockSrc
  let good := c.frame.isSome && c.blockLock && !fallen
  let s := s.modClasp (fun c =>
    { c with periods := c.periods + 1, goodRun := if good then min 64 (c.goodRun + 1) else 0,
             badRun := if good then 0 else min 4 (c.badRun + 1), transitions := recentTransitions s c }) p
  let c := s.clasp p
  match c.state with
  | .disabled =>
    if claspEnabled s p then
      let x := s.fresh
      x.2.modClasp (fun c => { c with state := .training, txSeq := 0, grid := Config.freeNat x.1 % 660 }) p
    else s
  | .training => if 64 ≤ c.goodRun ∧ c.alignFailed = false then claspChange p .up s else s
  | .up => if 4 ≤ c.badRun then claspChange p .training s else s
  | .held =>
    if c.releaseDue then
      s.modClasp (fun c => { c with state := .training, transitions := [], lastSeq := none, goodRun := 0, releaseDue := false }) p
    else s

/-- CLASP_LATCH: at the boundary of bead D + 1, once a period. -/
def claspLatch (p : Nat) (s : State) : State :=
  let c := s.clasp p
  if 4 ≤ p ∨ claspEnabled s p = false ∨ c.latched ∨ s.beadInRot ≠ c.due + 1 then s
  else
    let s := claspCount p s
    let c := s.clasp p
    let o := s.owner (unitNo .clasp p)
    let replayed := s.cast.replay
    let body := if replayed then c.frame.map (·.1) else
      if c.state = .up ∧ c.blockLock then c.frame.map (·.1) else none
    let e := crecvEntry body
    let s := s.modClasp (fun c =>
      { c with latched := true, entry := e, entryGood := body.isSome, sinceGood := if c.frame.isSome then 0 else c.sinceGood + 1,
               chain := if o = 0 then c.chain else sm3 (c.chain ++ e) }) p
    if o = 0 then s
    else
      match body with
      | some b => castInput 0x10 p o 0 b (chainDirty o s)
      | none => mayDiverge o (chainDirty o s)

/-! ## Port cues (R272) -/

/-- The key of a byte of a port's frame buffer. -/
def claspKey (u : UnitNo) (off : Nat) : Nat := storeKey 4 (unitIdx u * 2 ^ 20 + off)

/-- CRECV: the entry formed at the latch. -/
def doCrecv (u : UnitNo) (i : Issue) (f : PortFields) (s : State) : State :=
  let s := claspLatch (unitIdx u) s
  let o := portOff s i f
  let c := s.clasp (unitIdx u)
  let s := s.modClasp (fun c => { c with crecvDone := c.crecvDone || c.entryGood }) (unitIdx u)
  if 0 ≤ o ∧ o + 2080 ≤ 262144 then s.later 1 u i.ctx (.bytes [(claspKey u o.toNat, c.entry)]) else s

/-- CSEND: the records are taken in its bead. -/
def doCsend (u : UnitNo) (i : Issue) (f : PortFields) (s : State) : State :=
  let o := portOff s i f
  let n := min 64 (f.param.toNat % 128)
  if 0 ≤ o ∧ o + 16 * n ≤ 262144 then
    (storeUe 1 u i.ctx 0 o.toNat [(claspKey u o.toNat, 16 * n)] s).modClasp
      (fun c => { c with csend := some (memRead s.store (claspKey u o.toNat) (16 * n)) }) (unitIdx u)
  else s

/-! ## The decision (R266, R275, R308, R329) -/

/-- Rule 3 of R266: the frame would be RESULT. -/
def wouldResult (s : State) (p : Nat) : Bool :=
  let c := s.clasp p
  let o := s.owner (unitNo .clasp p)
  c.crecvDone && c.csend.isSome && o != 0 && !s.held o

/-- What the port decides. -/
def claspChoice (s : State) (p : Nat) : ClaspDecision :=
  if (s.clasp p).state ≠ .up then .train
  else
    match s.pair.regs.role with
    | .pendant => .beacon (wouldResult s p)
    | .joining => .beacon false
    | _ => if wouldResult s p then .result else .hold

/-- The begun CSEND of a port is carried out before its decision. -/
def claspCue (u : UnitNo) (s : State) : State := onIssue u (portCue .clasp 2 u (doCsend u)) s

/-- The Signet of the rotation, from the chain and the frame's records. -/
def claspSignet (s : State) (p : Nat) (o : CtxNo) : Bytes :=
  let recs := (s.clasp p).csend.getD []
  signetOf s o 1 (s.ctx o).rot (s.clasp p).chain (sm3 (leBytes 4 (recs.length / 16) ++ recs))

/-- The Signet of the period before equals the lead's, as received in time (R329). -/
def claspAgrees (s : State) (p : Nat) (o : CtxNo) : Bool :=
  lockstepCtx s o && (s.ctx o).rot != 0 && s.pair.cmp.agreed.contains (p, (s.ctx o).rot - 1)

/-- It is bead D + 277, and the port has not decided. -/
def decisionDue (p : Nat) (s : State) : Bool :=
  let c := s.clasp p
  decide (p < 4 ∧ c.state ≠ .disabled ∧ s.beadInRot = c.due + 277) && claspEnabled s p && c.decision.isNone

/-- The decision of bead D + 277, once a period, after every cue of the bead (R266, R275). -/
def claspDecide (p : Nat) (s : State) : State :=
  if decisionDue p s = false then s
  else
    let u := unitNo .clasp p
    let s := claspSignetDone p (claspCue u s)
    let o := s.owner u
    let d := claspChoice s p
    let counts := match d with | .result => true | .beacon r => r | _ => false
    let s := s.modClasp (fun c =>
      { c with decision := some d, decidedPeriod := s.period, sentSigCur := counts,
               agree := match d with | .beacon _ => claspAgrees s p o | _ => false,
               signetPrev := if c.sentSigPrev then some c.signet else none }) p
    if o = 0 then s else s.modClasp (fun c => { c with signetDue := some (claspSignet s p o, (s.ctx o).rot, o) }) p

/-! ## Sending (R255 to R259, R262, R266) -/

/-- Own slot number. -/
def State.slotNo (s : State) : Nat := s.startup.slot

/-- ROLE of a module frame (Table 9-2). -/
def frameRole (s : State) : Nat :=
  match s.pair.regs.role with | .unpaired => 0 | .lead => 1 | .pendant => 2 | .joining => 4

/-- A frame body with its CRC. -/
def frameBody (hdr recs sig : Bytes) : Bytes :=
  let n := 8 * cdiv (hdr.length + recs.length + sig.length + 4) 8
  let b := slice (hdr ++ recs ++ sig) 0 (n - 4)
  b ++ leBytes 4 (crc32 b)

/-- A module frame of a period: type, flags of READY and AGREE, records and Signet. -/
def moduleFrame (s : State) (p : Nat) (period : Word) (type : Nat) (ready agree : Bool) (recs sig : Bytes) : Bytes :=
  let c := s.clasp p
  let flags := b2n (decide (c.mode = 1)) + 2 * b2n ready + 4 * b2n agree + 8 * b2n (decide (c.state = .held))
  let arr := match c.frame with | some f => (arrWord f.2).toNat | none => 0x8000
  let hdr := [BitVec.ofNat 8 type, BitVec.ofNat 8 p] ++ leBytes 2 c.txSeq.toNat ++ leBytes 2 period.toNat
    ++ [BitVec.ofNat 8 (frameRole s), BitVec.ofNat 8 s.slotNo] ++ leBytes 4 s.pair.regs.epoch.toNat ++ leBytes 2 flags
    ++ [BitVec.ofNat 8 (recs.length / 16), BitVec.ofNat 8 sig.length, BitVec.ofNat 8 (if c.mode = 1 then c.slip else 0),
        BitVec.ofNat 8 s.health.now.code] ++ leBytes 2 arr ++ zeros 12
  frameBody hdr recs sig

/-- The frame of a decision. -/
def decidedFrame (s : State) (p : Nat) (d : ClaspDecision) : Bytes :=
  let c := s.clasp p
  let sig := match c.signetPrev with | some g => if c.sig16 then g.take 16 else g | none => []
  match d with
  | .train => moduleFrame s p c.decidedPeriod 5 false false [] []
  | .beacon r => moduleFrame s p c.decidedPeriod 4 r c.agree [] sig
  | .result => moduleFrame s p c.decidedPeriod 2 false false (c.csend.getD []) sig
  | .hold => moduleFrame s p c.decidedPeriod 3 false false [] sig

/-- The period of the rate in tenths of a symbol time: 256 to the fc. -/
def periodTenths (rate : Nat) : Nat := 400000 / rate * 256

/-- Ê_P relative to the boundary of bead D − 1, in tenths of a symbol time (R262): whole periods after the last good E,
to the nearest receive block boundary, the earlier on a tie. -/
def estimatedArr (s : State) (c : Clasp) (last : Int) : Int :=
  let n := c.sinceGood
  let t : Int := (n * periodTenths s.rate : Nat)
  let shift := 256 * ((lag s.rate (s.period.toNat + 4 * n - n) : Nat) - (lag s.rate s.period.toNat : Nat) : Int)
  last + shift + 660 * ((t + 329) / 660) - t

/-- From the boundary of bead D + 279 to the next transmit block boundary, in tenths of a symbol time. -/
def gridWait (s : State) (c : Clasp) : Nat := (c.grid + 660 - (s.rotStart + c.due + 279) * 4096 % 660) % 660

/-- S_P relative to the boundary of bead D − 1, in tenths of a symbol time; before any good frame the block grid's phase,
fixed when the port leaves DISABLED, decides it. -/
def frameStart (s : State) (c : Clasp) : Int :=
  match c.frame, c.lastArr with
  | some f, _ => f.2 + 1146880
  | none, some a => estimatedArr s c a + 1146880
  | none, none => ((1146880 + gridWait s c : Nat) : Int)

/-- A frame leaves: the scrambler's history is free (log entry 50). -/
def claspEmit (p : Nat) (period : Word) (body : Bytes) (start : Int) (s : State) : State :=
  let x := s.fresh
  (x.2.emit (.claspFrame p period body start (lineBlocks (BitVec.ofNat 58 (Config.freeNat x.1)) (frameBlocks body)))).modClasp
    (fun c => { c with txSeq := c.txSeq + 1 }) p

/-- A LEAVING frame (R347); where between two block boundaries it starts is free. -/
def sendLeaving (p : Nat) (s : State) : State :=
  let x := s.fresh
  claspEmit p s.period (moduleFrame s p s.period 6 false false [] []) (Config.freeNat x.1 : Nat) x.2

/-- CLASP_FRAME_SEND: the decided frame; from the moment at which the module leaves, LEAVING frames back to back and no other
(R266). A module in replay mode sends IDLE blocks only (R303). -/
def claspSend (p : Nat) (s : State) : State :=
  let c := s.clasp p
  if 4 ≤ p ∨ c.state = .disabled then s
  else if s.cast.replay then s.emit (.claspIdle p)
  else if c.leaving then sendLeaving p s
  else
    match c.decision with
    | some d =>
      if c.sent ∨ s.beadInRot < c.due + 278 then s
      else (claspEmit p c.decidedPeriod (decidedFrame s p d) (frameStart s c) s).modClasp (fun c => { c with sent := true }) p
    | none => s

/-- A port at the start of a rotation. -/
def claspRotation (c : Clasp) : Clasp :=
  { c with latched := false, crecvDone := false, csend := none, decision := none, sent := false, frame := none,
           sentSigPrev := c.sentSigCur, sentSigCur := false }

/-! ## Alignment (R268) -/

/-- Only context 0 is admitted. -/
def onlyFirmware (s : State) : Bool := s.admitted.isEmpty

/-- CLASP_ALIGNMENT. -/
def claspAlign (p : Nat) (s : State) : State :=
  let c := s.clasp p
  if p < 4 ∧ c.mode = 2 ∧ claspEnabled s p ∧ s.clock.ref = .clasp ∧ c.lockSrc ∧ c.blockLock ∧ c.aligned = false
      ∧ c.alignFailed = false ∧ onlyFirmware s then
    s.modClasp (fun c => { c with aligning := true }) p
  else s

/-- E repeats to within one block. -/
def measureSteady (m : AlignMeasure) : Bool :=
  m.es.all fun a => m.es.all fun b => decide (a - b ≤ 66)

/-- Whole beads by which a rotation is extended, for a mean E after bead D − 1 in symbol times. -/
def alignBeads (s : State) (m : AlignMeasure) : Nat :=
  let mean : Int := m.es.foldl (· + ·) 0 / ((max 1 m.es.length : Nat) : Int)
  ((mean * 10 / 4096) % ((lrot s.rate s.period.toNat : Nat) : Int)).toNat

/-- Periods of a lag cycle (Table 9-7). -/
def lagCycle (rate : Nat) : Nat := if rate = 16 then 2 else if rate = 32 then 4 else 1

/-- The slew is over: the mean ARR over one lag cycle lies within ±26 symbol times. -/
def slewOver (s : State) (m : AlignMeasure) : Bool :=
  decide (m.arrs.length = lagCycle s.rate ∧ (m.arrs.foldl (· + ·) 0).natAbs ≤ 26 * m.arrs.length)

/-- CLASP_ALIGN_COMPLETE: 64 periods have been measured; where they repeat, the slew that follows is over too. -/
def claspAligned (p : Nat) (m : AlignMeasure) (s : State) : State :=
  if 4 ≤ p ∨ (s.clasp p).aligning = false ∨ onlyFirmware s = false ∨ m.es.length ≠ 64 then s
  else if measureSteady m = false then
    claspRaise evClaspAlign p (s.modClasp (fun c => { c with aligning := false, alignFailed := true }) p)
  else if slewOver s m then
    { s with period := BitVec.ofNat 32 (s.period.toNat / 65536 * 65536 + m.periodLo.toNat),
             rotLen := s.rotLen + alignBeads s m }.modClasp (fun c => { c with aligning := false, aligned := true }) p
  else s

/-- CLASP_RELEASE: a HELD port returns to TRAINING at its next latch bead, where states change (R279, R280). -/
def claspRelease (p : Nat) (s : State) : State :=
  if p < 4 ∧ (s.clasp p).state = .held then s.modClasp (fun c => { c with releaseDue := true }) p else s

/-! ## The commands -/

def execClaspFrameReceive (port : Nat) (frame : ClaspArrival) (s : State) : Host.Outcome State Fault Refusal := ok (claspReceive port frame s)
def execBlockLockGain (port : Nat) (headers : List (BitVec 2)) (s : State) : Host.Outcome State Fault Refusal := ok (lockGain port headers s)
def execBlockLockLoss (port : Nat) (headers : List (BitVec 2)) (s : State) : Host.Outcome State Fault Refusal := ok (lockLoss port headers s)
def execClaspLatch (port : Nat) (s : State) : Host.Outcome State Fault Refusal := ok (claspLatch port s)

def execClaspFrameSend (port : Nat) (s : State) : Host.Outcome State Fault Refusal := ok (claspSend port s)
def execClaspAlignment (port : Nat) (s : State) : Host.Outcome State Fault Refusal := ok (claspAlign port s)
def execClaspAlignComplete (port : Nat) (m : AlignMeasure) (s : State) : Host.Outcome State Fault Refusal := ok (claspAligned port m s)
def execClaspRelease (port : Nat) (s : State) : Host.Outcome State Fault Refusal := ok (claspRelease port s)
def execCrecv (u : UnitNo) (s : State) : Host.Outcome State Fault Refusal := ok (onIssue u (portCue .clasp 1 u (doCrecv u)) s)
def execCsend (u : UnitNo) (s : State) : Host.Outcome State Fault Refusal := ok (claspCue u s)

end Sys2Proof.Machine
end

