-- ==== Sys2Proof/Machine/Image.lean ====
section
/-! DEFINITION. The Strand image, its checks that need no cue, and the configuration record (R69 to R74, R134, R382,
Table 3-15). -/

namespace Sys2Proof.Machine

/-! ## Reading an image (Tables 3-2, 3-3, 5-4) -/

def readDir (b : Bytes) : DirEntry :=
  { unit := leAt b 0 2, firstRot := leAt b 4 4, firstBead := leAt b 8 4, beads := leAt b 0xC 4, cueIndex := leAt b 0x10 4,
    cues := leAt b 0x14 4, strideIndex := leAt b 0x18 2, strideSets := leAt b 0x1A 1 }

def readStride (b : Bytes) : List Int := (List.range 4).map fun i => signed 32 (leAt b (4 * i) 4)

def readInit (raw b : Bytes) : InitLoad :=
  { dest := leAt b 0 8 % 2 ^ 40, bytes := slice raw (leAt b 0xC 4) (leAt b 8 4) }

def readSegReq (b : Bytes) : SegReq :=
  { seg := leAt b 0 1, space := leAt b 1 1, access := leAt b 2 1, stripe := leAt b 3 1, chBase := leAt b 4 1, group := leAt b 5 1,
    base := leAt b 6 6, sizeKib := leAt b 0xC 4 % 2 ^ 24 + 1 }

/-- The entries of an array of the image: header offsets of its offset and count, and the bytes of an entry. -/
def imageArray (raw : Bytes) (offAt cntAt size : Nat) : List Bytes :=
  cuts size (leAt raw cntAt 4) (raw.drop (leAt raw offAt 4))

def imageDir (raw : Bytes) : List Bytes := imageArray raw 0x18 0x1C 32
def imageInits (raw : Bytes) : List Bytes := imageArray raw 0x30 0x34 16
def imageSegs (raw : Bytes) : List Bytes := imageArray raw 0x38 0x3C 16

/-- The Strand that an image holds. -/
def readStrand (raw : Bytes) : Strand :=
  { raw := raw, ifaceLevel := leAt raw 6 2, grade := leAt raw 8 1, rateKhz := leAt raw 9 1, realtime := (leAt raw 0xA 2).testBit 0,
    movable := (leAt raw 0xA 2).testBit 1, periodRot := leAt raw 0xC 4, scratchBytes := leAt raw 0x10 4,
    dir := (imageDir raw).map readDir,
    cues := (imageArray raw 0x20 0x24 16).map fun b => BitVec.ofNat 128 (leNat b),
    strides := (imageArray raw 0x28 0x2C 16).map readStride,
    inits := (imageInits raw).map (readInit raw), segs := (imageSegs raw).map readSegReq, digest := slice raw 0x40 32 }

/-! ## Checks of the header, the offsets and the fixed zeros (Table 3-15) -/

def allZero (b : Bytes) : Bool := b.all fun x => x == 0

/-- Header: MAGIC, VERSION, DIGEST, R74 and the ranges. -/
def headerOk_ (s : State) (raw : Bytes) : Bool :=
  let t := readStrand raw
  decide (128 ≤ raw.length ∧ leAt raw 0 4 = 0x44525453 ∧ leAt raw 4 2 = 1 ∧ leAt raw 0x14 4 = raw.length
    ∧ sm3 (overlay raw 0x40 (zeros 32)) = t.digest ∧ t.grade = s.grade ∧ s.strands.ifaceMin ≤ t.ifaceLevel
    ∧ t.ifaceLevel ≤ s.strands.ifaceMax
    ∧ (t.rateKhz = 8 ∨ t.rateKhz = 10 ∨ t.rateKhz = 16 ∨ t.rateKhz = 20 ∨ t.rateKhz = 32 ∨ t.rateKhz = 40)
    ∧ 1 ≤ t.periodRot ∧ t.periodRot ≤ 65536 ∧ t.scratchBytes % 4096 = 0 ∧ t.scratchBytes ≤ 262144)

/-- Offsets: every array and every initial load's bytes lie within the image. -/
def offsetsOk (raw : Bytes) : Bool :=
  let fits := fun (o n : Nat) => decide (o + n ≤ raw.length)
  fits (leAt raw 0x18 4) (32 * leAt raw 0x1C 4) && fits (leAt raw 0x20 4) (16 * leAt raw 0x24 4)
    && fits (leAt raw 0x28 4) (16 * leAt raw 0x2C 4) && fits (leAt raw 0x30 4) (16 * leAt raw 0x34 4)
    && fits (leAt raw 0x38 4) (16 * leAt raw 0x3C 4) && decide (leAt raw 0x20 4 % 16 = 0 ∧ leAt raw 0x3C 4 ≤ 64)
    && (imageInits raw).all fun b => fits (leAt b 0xC 4) (leAt b 8 4)

/-- Reserved bits and bytes outside the cues are 0. -/
def zerosOk (raw : Bytes) : Bool :=
  decide (leAt raw 0xA 2 < 4) && allZero (slice raw 0x60 32)
    && (imageDir raw).all (fun b => allZero (slice b 2 2) && allZero (slice b 0x1B 5))
    && (imageInits raw).all (fun b => decide (leAt b 0 8 < 2 ^ 40))
    && (imageSegs raw).all fun b =>
      let q := readSegReq b
      decide (q.access < 8 ∧ leAt b 0xF 1 = 0) && (if q.space = 0 then decide (q.base = 0) else decide (q.stripe = 0 ∧ q.chBase = 0))

/-- The phases in which a rate's rotations can begin (R474). -/
def phases : List Nat := [0, 1, 2, 3]

/-- First bead of a window, counted from the first bead of the Strand period, in a phase. -/
def winStart (rate ph : Nat) (d : DirEntry) : Nat := lrotSum rate ph d.firstRot + d.firstBead

/-- Two windows of one unit overlap in a phase. -/
def winOverlap (rate ph : Nat) (a b : DirEntry) : Bool :=
  decide (a.unit = b.unit ∧ winStart rate ph a < winStart rate ph b + b.beads ∧ winStart rate ph b < winStart rate ph a + a.beads)

/-- Some pair of different entries of a list is related. -/
def anyPair {α : Type} (f : α → α → Bool) : List α → Bool
  | [] => false
  | a :: r => r.any (f a) || anyPair f r

/-- Directory, with R107. -/
def directoryOk (g : Nat) (t : Strand) : Bool :=
  t.dir.all (fun d => unitExists g d.unit && decide (d.cueIndex + d.cues ≤ t.cues.length ∧ d.firstRot < t.periodRot ∧ d.strideSets ≤ 63)
      && (d.strideSets == 0 || decide (d.strideIndex + d.strideSets ≤ t.strides.length))
      && phases.all fun ph =>
        decide (d.firstBead < lrot t.rateKhz (ph + d.firstRot) ∧ winStart t.rateKhz ph d + d.beads ≤ lrotSum t.rateKhz ph t.periodRot))
    && phases.all fun ph => !anyPair (winOverlap t.rateKhz ph) t.dir

/-! ## The configuration record (R382, Table 13-2) -/

def readConfig (b : Bytes) : Record :=
  { raw := slice b 0 160, ctx := leAt b 0 1, confidential := (leAt b 1 1).testBit 0, cast := (leAt b 1 1).testBit 1,
    apertureOpen := (leAt b 1 1).testBit 2, sea := (leAt b 1 1).testBit 3, claspPorts := leAt b 2 1, apertureSession := leAt b 3 1 = 1,
    apertureSeg := leAt b 4 1, apertureWin := leAt b 5 1, rateKhz := leAt b 8 1, hostSlots := leAt b 9 1, castSlots := leAt b 0xA 1,
    owner := slice b 0x10 32, signer := slice b 0x30 32, weights := slice b 0x50 32, charms := slice b 0x70 32 }

/-- The record is refused with reason CONFIG: a context outside 1 to 15, a reserved bit or byte that is not 0, a mode
that the table does not list, or a missing OWNER or SIGNER. -/
def configOk (b : Bytes) : Bool :=
  let r := readConfig b
  decide (b.length = 160 ∧ 1 ≤ r.ctx ∧ r.ctx ≤ 15 ∧ leAt b 1 1 < 16 ∧ r.claspPorts < 16 ∧ leAt b 3 1 ≤ 1)
    && allZero (slice b 6 2) && allZero (slice b 0xB 5) && allZero (slice b 0x90 16)
    && !(r.confidential && allZero r.owner) && !(r.sea && allZero r.signer)

/-- Bit n of CLASP_PORTS. -/
def ownsPort (r : Record) (p : Nat) : Bool := r.claspPorts.testBit p

end Sys2Proof.Machine
end

