-- ==== Sys2Proof/Machine/Expand.lean ====
section
/-! DEFINITION. The static expansion of a window's cues and the checks of its structure (R91 to R93, R107, R171,
Table 3-15). -/

namespace Sys2Proof.Machine

/-- The cues of a window. -/
def windowCues (t : Strand) (d : DirEntry) : List (BitVec 128) := (t.cues.drop d.cueIndex).take d.cues

/-- One bead of a window's expansion: bead within the window, position of its cue, loop indices outermost first,
whether it runs in every run as far as the predicates of the cues around it go, and the arms it lies in, by the bead of
their ARMS cue. -/
structure XCue where
  bead : Nat
  pos : Nat
  idx : List Nat
  sure : Bool
  arms : List (Nat × Bool)
deriving DecidableEq, Repr

/-- Two beads lie in different arms of one run of a select. -/
def XCue.apart (a b : XCue) : Bool := a.arms.any fun x => b.arms.any fun y => decide (x.1 = y.1) && (x.2 != y.2)

/-- The cue at a position of a list of decoded cues; a word that does not decode runs as IDLE. -/
def cueAt (cs : List (Option CueWord)) (p : Nat) : Cue :=
  match cs[p]? with
  | some (some c) => c.cue
  | _ => .idle

/-- The cue at a position is predicated. -/
def predAt (cs : List (Option CueWord)) (p : Nat) : Bool :=
  match cs[p]? with
  | some (some c) => decide (c.pred.pen = 1)
  | _ => false

/-- Beads that the cues from `p` to before `stop` take; `fuel` bounds the cues met. -/
def rangeLen (cs : List (Option CueWord)) : Nat → Nat → Nat → Nat
  | 0, _, _ => 0
  | f + 1, p, stop =>
    if stop ≤ p then 0
    else
      match cueAt cs p with
      | .loop b t =>
        1 + (t.toNat + 1) * rangeLen cs f (p + 1) (p + 2 + b.toNat) + rangeLen cs f (p + 2 + b.toNat) stop
      | .arms a1 a2 _ _ _ =>
        1 + rangeLen cs f (p + 1) (p + 2 + a1.toNat) + rangeLen cs f (p + 3 + a1.toNat + a2.toNat) stop
      | _ => 1 + rangeLen cs f (p + 1) stop

/-- Loops and Selects of Table 3-15, with the depths still allowed: bodies and arms lie within what holds them, a LOOP
is not the last cue, and the arms of a select take equal time. -/
def nestOk (cs : List (Option CueWord)) : Nat → Nat → Nat → Nat → Nat → Bool
  | 0, p, stop, _, _ => decide (stop ≤ p)
  | f + 1, p, stop, loops, sels =>
    if stop ≤ p then true
    else
      match cueAt cs p with
      | .loop b _ =>
        decide (0 < loops ∧ p + 2 + b.toNat ≤ stop) && nestOk cs f (p + 1) (p + 2 + b.toNat) (loops - 1) sels
          && nestOk cs f (p + 2 + b.toNat) stop loops sels
      | .arms a1 a2 _ _ _ =>
        let m := p + 2 + a1.toNat
        let e := m + a2.toNat + 1
        decide (0 < sels ∧ e ≤ stop ∧ rangeLen cs f (p + 1) m = rangeLen cs f m e)
          && nestOk cs f (p + 1) m loops (sels - 1) && nestOk cs f m e loops (sels - 1) && nestOk cs f e stop loops sels
      | _ => nestOk cs f (p + 1) stop loops sels

/-- The expansion of the cues from `p` to before `stop`, from bead `b` on: both arms of every select. -/
def expand (cs : List (Option CueWord)) : Nat → Nat → Nat → Nat → List Nat → Bool → List (Nat × Bool) → List XCue
  | 0, _, _, _, _, _, _ => []
  | f + 1, p, stop, b, idx, sure, arms =>
    if stop ≤ p then []
    else
      let here : XCue := ⟨b, p, idx, sure, arms⟩
      let inner := sure && !predAt cs p
      match cueAt cs p with
      | .loop bd t =>
        let e := p + 2 + bd.toNat
        let n := rangeLen cs f (p + 1) e
        here :: (((List.range (t.toNat + 1)).map fun i => expand cs f (p + 1) e (b + 1 + n * i) (idx ++ [i]) inner arms).flatten
          ++ expand cs f e stop (b + 1 + n * (t.toNat + 1)) idx sure arms)
      | .arms a1 a2 _ _ _ =>
        let m := p + 2 + a1.toNat
        let e := m + a2.toNat + 1
        here :: (expand cs f (p + 1) m (b + 1) idx inner ((b, true) :: arms) ++ expand cs f m e (b + 1) idx inner ((b, false) :: arms)
          ++ expand cs f e stop (b + 1 + rangeLen cs f (p + 1) m) idx sure arms)
      | _ => here :: expand cs f (p + 1) stop (b + 1) idx sure arms

/-- A window's decoded cues. -/
def windowDecoded (t : Strand) (d : DirEntry) : List (Option CueWord) := (windowCues t d).map decodeCue

/-- The expansion of a window. -/
def windowExpand (t : Strand) (d : DirEntry) : List XCue :=
  let cs := windowDecoded t d
  expand cs (cs.length + 1) 0 cs.length 0 [] true []

/-- Loops, Selects and Length of Table 3-15. -/
def windowShapeOk (t : Strand) (d : DirEntry) : Bool :=
  let cs := windowDecoded t d
  nestOk cs (cs.length + 1) 0 cs.length 4 2 && decide (rangeLen cs (cs.length + 1) 0 cs.length = d.beads)

end Sys2Proof.Machine
end

