-- ==== Sys2Proof/Machine/Ctrl.lean ====
section
/-! DEFINITION. The control cues: loops, selects and mask registers (R91 to R95). -/

namespace Sys2Proof.Machine

/-- The frame of a loop whose cue stands at position `pos` (R91). -/
def loopFrame (pos : Nat) (body : BitVec 11) (trips : BitVec 16) (live : Bool) : SeqFrame :=
  { isLoop := true, first := pos + 1, last := pos + 1 + body.toNat, ret := pos + body.toNat + 2,
    trips := trips.toNat + 1, idx := 0, live := live }

/-- The frame of the arm that runs (R93): arm 1 when `one`. -/
def armFrame (pos : Nat) (a1 a2 : BitVec 8) (one live : Bool) : SeqFrame :=
  let m1 := a1.toNat + 1
  let m2 := a2.toNat + 1
  { isLoop := false, first := if one then pos + 1 else pos + m1 + 1,
    last := if one then pos + m1 else pos + m1 + m2, ret := pos + m1 + m2 + 1, trips := 1, idx := 0, live := live }

/-- A frame entered: the next cue is its first. -/
def enterFrame (u : UnitNo) (f : SeqFrame) (s : State) : State :=
  s.setSeq u { s.seq u with frames := f :: (s.seq u).frames, pc := f.first }

/-- LOOP that executes: its body runs TRIPS times from the next bead. -/
def doLoop (u : UnitNo) (i : Issue) (body : BitVec 11) (trips : BitVec 16) (s : State) : State :=
  enterFrame u (loopFrame i.pos body trips true) s

/-- ARMS that executes: the select bit taken at the cue's boundary chooses the arm. -/
def doArms (u : UnitNo) (i : Issue) (a1 a2 : BitVec 8) (sp : BitVec 1) (sr : BitVec 3) (sb : BitVec 5) (s : State) : State :=
  enterFrame u (armFrame i.pos a1 a2 (bit (i.mask sr.toNat) sb.toNat != decide (sp = 1)) true) s

/-- A mask register written, with its binding. -/
def setMask (u : UnitNo) (r : Nat) (v : Word) (b : Option (BitVec 8)) (s : State) : State :=
  s.setSeq u { s.seq u with masks := modifyAt (fun _ => ⟨v, b⟩) r (s.seq u).masks }

/-- The 32-bit word at an offset of the unit's home store (R94): Facet scratch, the engine's own store, or the mask
mailbox. -/
def homeWord (u : UnitNo) (i : Issue) (off : Int) (s : State) : Word × State :=
  match unitKind u with
  | some k =>
    if k = .facet ∨ k = .edge then
      let (bs, s) := readOwn 1 u i.ctx off 4 s
      (BitVec.ofNat 32 (leNat bs), s)
    else
      let lo : Int := if hasMailbox k then 0xFFFF00 else 0
      let size : Int := if hasMailbox k then 256 else storeBytes k
      if 0 ≤ off ∧ off + 4 ≤ size then (BitVec.ofNat 32 (leNat (readUnit s u (lo + off).toNat 4)), unitUe 1 u [((lo + off).toNat, 4)] s)
      else (0, s)
  | none => (0, s)

/-- MLOAD: the word is loaded, and bound to a live word when BIND is 1 (R94, R95). -/
def doMload (u : UnitNo) (i : Issue) (r : BitVec 3) (off : BitVec 20) (str : BitVec 6) (bind : BitVec 1) (lv : BitVec 8)
    (s : State) : State :=
  let (v, s) := homeWord u i (issueAddr s i off.toNat str.toNat) s
  setMask u r.toNat v (if bind = 1 then some lv else none) s

/-- The function of MLOGIC (R94). -/
def logicFn (fn : BitVec 2) (a b : Word) : Word :=
  match fn.toNat with
  | 0 => a &&& b
  | 1 => a ||| b
  | 2 => a &&& ~~~b
  | _ => a ^^^ b

def doMlogic (u : UnitNo) (i : Issue) (d a b : BitVec 3) (fn : BitVec 2) (s : State) : State :=
  setMask u d.toNat (logicFn fn (i.mask a.toNat) (i.mask b.toNat)) none s

def doMset (u : UnitNo) (r : BitVec 3) (v : Word) (s : State) : State := setMask u r.toNat v none s

/-! ## The commands -/

def execArms (u : UnitNo) (s : State) : Host.Outcome State Fault Refusal :=
  ok (onIssue u (fun i => match i.cue with | .arms a b p r n => some (doArms u i a b p r n) | _ => none) s)

def execMload (u : UnitNo) (s : State) : Host.Outcome State Fault Refusal :=
  ok (onIssue u (fun i => match i.cue with | .mload r o t b l => some (doMload u i r o t b l) | _ => none) s)

def execMlogic (u : UnitNo) (s : State) : Host.Outcome State Fault Refusal :=
  ok (onIssue u (fun i => match i.cue with | .mlogic d a b f => some (doMlogic u i d a b f) | _ => none) s)

def execMset (u : UnitNo) (s : State) : Host.Outcome State Fault Refusal :=
  ok (onIssue u (fun i => match i.cue with | .mset r v => some (doMset u r v) | _ => none) s)

end Sys2Proof.Machine
end

