-- ==== Sys2Proof/Machine/Tile.lean ====
section
/-! DEFINITION. The idle and tile cues of 3.4 and 3.5 (R41 to R43, R78 to R83). -/

namespace Sys2Proof.Machine

/-- FMT_A and FMT_B codes (Table 3-6). -/
def macFmt : Nat → Option Fmt
  | 0 => some .int8 | 1 => some .int4 | 2 => some .e4m3 | 3 => some .e5m2 | 4 => some .bf16 | _ => none

/-- FMT_OUT codes (Table 3-7). -/
def roundFmt : Nat → Option Fmt
  | 0 => some .int4 | 1 => some .int8 | 2 => some .int32 | 3 => some .e4m3 | 4 => some .e5m2 | 5 => some .bf16
  | 6 => some .fp32 | _ => none

/-- Depth k of an operand pair (Table 2-1); none for a pair that no cue may name. -/
def macDepth : Fmt → Fmt → Option Nat
  | .int8, .int8 => some 16
  | .int8, .int4 => some 16
  | .int4, .int8 => some 16
  | .int4, .int4 => some 32
  | .e4m3, .e4m3 => some 16
  | .e4m3, .e5m2 => some 16
  | .e5m2, .e4m3 => some 16
  | .e5m2, .e5m2 => some 16
  | .bf16, .bf16 => some 8
  | _, _ => none

/-- Columns of a block of rows of 32. -/
def columns (rows : List (List Val)) : List (List Val) :=
  (List.range 32).map fun j => rows.map fun r => r.getD j (.zero false)

/-- The array after a MAC over decoded blocks: rows of A, columns of B, masked rows unchanged (R41, R81). -/
def macCells (win : Bool) (w : Int) (mask : Word) (rowsA colsB : List (List Val)) (cells : List Cell) : List Cell :=
  ((List.range 32).map fun i =>
    let row := (cells.drop (32 * i)).take 32
    if bit mask i then List.zipWith (fun col c => c.addProducts win w (rowsA.getD i []) col) colsB row else row).flatten

/-- A cell array with every cell cleared. -/
def clearCells : List Cell := List.replicate 1024 Cell.zero

/-- MAC and MAC_CLR (R79 to R81). A pair outside Table 2-1 can come only from a damaged entry, and the manual states
no products for it: the cells it would add to take free values (log entry 7). -/
def doMac (clr : Bool) (u : UnitNo) (i : Issue) (f : MacFields) (s : State) : State :=
  let facet := unitIdx u
  let cells := if clr then clearCells else s.cells.get facet
  match macFmt f.fmtA.toNat, macFmt f.fmtB.toNat with
  | some fa, some fb =>
    match macDepth fa fb with
    | some k =>
      let (a, s) := readOwn 1 u i.ctx (issueAddr s i f.aBase.toNat f.aStr.toNat) (elemBytes fa (32 * k)) s
      let (b, s) := readOwn 1 u i.ctx (issueAddr s i f.bBase.toNat f.bStr.toNat) (elemBytes fb (32 * k)) s
      let win := decide (fa = .bf16)
      let w := if win then f.w.toInt else 0
      let ra := chunks k ((elems fa a).map (decodeVal fa))
      let cb := columns (chunks 32 ((elems fb b).map (decodeVal fb)))
      { s with cells := s.cells.set facet (macCells win w (i.rowMask f.rmen f.rmreg) ra cb cells) }
    | none =>
      let (tok, s) := s.fresh
      let mask := i.rowMask f.rmen f.rmreg
      let new := cells.mapIdx fun n c => if bit mask (n / 32) then freeCell tok n else c
      { s with cells := s.cells.set facet new }
  | _, _ => s

/-- ROUND (R58, R60, R82): the rows the mask names, and the status word. -/
def doRound (u : UnitNo) (i : Issue) (f : RoundFields) (s : State) : State :=
  match roundFmt f.fmtOut.toNat with
  | none => s
  | some fmt =>
    let mask := i.rowMask f.rmen f.rmreg
    let w := f.w.toInt
    let outs := (s.cells.get (unitIdx u)).map (Cell.convert fmt w f.eOut.toInt (decide (f.sat = 1)))
    let rows := (chunks 32 outs).zipIdx.filter fun r => bit mask r.2
    let rb := elemBytes fmt 32
    let parts := rows.map fun r => (r.2 * rb, packElems fmt (r.1.map (·.1)))
    let st := (rows.map fun r => r.1.map (·.2)).flatten.foldl Status.or {}
    let (ws, s) := writeOwn u i.ctx (issueAddr s i f.dBase.toNat f.dStr.toNat) (32 * rb) parts s
    let (xs, s) :=
      if f.sten = 1 then
        writeOwn u i.ctx (issueAddr s i f.sBase.toNat f.sStr.toNat) 4 [(0, leBytes 4 st.word)] s
      else ([], s)
    s.later 2 u i.ctx (.bytes (ws ++ xs))

/-- LSUM_OUT (R83): one record per cell of the rows the mask names. -/
def doLsumOut (u : UnitNo) (i : Issue) (f : LsumOutFields) (s : State) : State :=
  let mask := i.rowMask f.rmen f.rmreg
  let rows := (chunks 32 (s.cells.get (unitIdx u))).zipIdx.filter fun r => bit mask r.2
  let parts := rows.map fun r => (r.2 * 512, (r.1.map Cell.record).flatten)
  let (ws, s) := writeOwn u i.ctx (issueAddr s i f.dBase.toNat f.dStr.toNat) 16384 parts s
  s.later 2 u i.ctx (.bytes ws)

/-- LSUM_IN (R56, R83): records added to the cells of the rows the mask names. -/
def doLsumIn (u : UnitNo) (i : Issue) (f : LsumInFields) (s : State) : State :=
  let mask := i.rowMask f.rmen f.rmreg
  let (bs, s) := readOwn 1 u i.ctx (issueAddr s i f.sBase.toNat f.sStr.toNat) 16384 s
  let new := (List.zipWith (fun r c => (r, c)) (chunks 16 bs) (s.cells.get (unitIdx u))).zipIdx.map fun x =>
    if bit mask (x.2 / 32) then x.1.2.addRecord x.1.1 else x.1.2
  { s with cells := s.cells.set (unitIdx u) new }

/-- CLEAR (R83). -/
def doClear (u : UnitNo) (s : State) : State := { s with cells := s.cells.set (unitIdx u) clearCells }

/-! ## The commands -/

/-- IDLE: the unit does nothing in the bead (R75, R96). -/
def execIdle (u : UnitNo) (s : State) : Host.Outcome State Fault Refusal :=
  ok (onIssue u (fun i => match i.cue with | .idle => some id | _ => none) s)

/-- IDLE_LOAD: internal data at LEVEL/16 of full power, with no architectural effect (R78). -/
def execIdleLoad (u : UnitNo) (s : State) : Host.Outcome State Fault Refusal :=
  ok (onIssue u (fun i => match i.cue with | .idleLoad _ => some id | _ => none) s)

def execMac (u : UnitNo) (s : State) : Host.Outcome State Fault Refusal :=
  ok (onIssue u (fun i => match i.cue with | .mac f => some (doMac false u i f) | _ => none) s)

def execMacClr (u : UnitNo) (s : State) : Host.Outcome State Fault Refusal :=
  ok (onIssue u (fun i => match i.cue with | .macClr f => some (doMac true u i f) | _ => none) s)

def execRound (u : UnitNo) (s : State) : Host.Outcome State Fault Refusal :=
  ok (onIssue u (fun i => match i.cue with | .round f => some (doRound u i f) | _ => none) s)

def execLsumOut (u : UnitNo) (s : State) : Host.Outcome State Fault Refusal :=
  ok (onIssue u (fun i => match i.cue with | .lsumOut f => some (doLsumOut u i f) | _ => none) s)

def execLsumIn (u : UnitNo) (s : State) : Host.Outcome State Fault Refusal :=
  ok (onIssue u (fun i => match i.cue with | .lsumIn f => some (doLsumIn u i f) | _ => none) s)

def execClear (u : UnitNo) (s : State) : Host.Outcome State Fault Refusal :=
  ok (onIssue u (fun i => match i.cue with | .clear => some (doClear u) | _ => none) s)

end Sys2Proof.Machine
end

