-- ==== Sys2Proof/Machine/Cabochon.lean ====
section
/-! DEFINITION. The Cabochon's CONV and REFORM (R236 to R245). -/

namespace Sys2Proof.Machine

/-- A Cabochon step descriptor (Table 8-2): the parts that both steps use. -/
structure CabDesc where
  mode : Nat
  fin : Fmt
  fw : Fmt
  fout : Fmt
  nic : Nat
  noc : Nat
  xexp : Nat
  pad : Nat
  opad : Nat
  imgH : Nat
  imgW : Nat
  inOff : Nat
  inRow : Nat
  inPlane : Nat
  inY0 : Int
  inX0 : Int
  inH : Nat
  inW : Nat
deriving DecidableEq, Repr

/-- The output side of the descriptor. -/
structure CabOut where
  oy : Nat
  ox : Nat
  outH : Nat
  outW : Nat
  outOff : Nat
  outRow : Nat
  outPlane : Nat
  q : Nat
  p : Nat
  h : Nat
  y0 : Int
  x0 : Int
  cp : Nat
deriving DecidableEq, Repr

/-- A format code of Table 3-7; the reserved code is read as INT8. -/
def cabFmt (c : Nat) : Fmt := (roundFmt c).getD .int8

def cabDesc (st : EngStep) : CabDesc :=
  { mode := st.num 1 1, fin := cabFmt (st.num 2 1), fw := cabFmt (st.num 3 1), fout := cabFmt (st.num 4 1),
    nic := st.num 6 1, noc := st.num 7 1, xexp := max 1 (st.num 0x11 1), pad := st.num 0x12 2, opad := st.num 0x14 2,
    imgH := st.num 0x1C 2, imgW := st.num 0x1E 2, inOff := st.num 0x20 4, inRow := st.num 0x24 4, inPlane := st.num 0x28 4,
    inY0 := st.int 0x2C 2, inX0 := st.int 0x2E 2, inH := st.num 0x30 2, inW := st.num 0x32 2 }

def cabOut (st : EngStep) : CabOut :=
  { oy := st.num 0x34 2, ox := st.num 0x36 2, outH := st.num 0x38 2, outW := st.num 0x3A 2, outOff := st.num 0x40 4,
    outRow := st.num 0x44 4, outPlane := st.num 0x48 4, q := st.num 0x4C 1, p := st.num 0x4D 1, h := st.num 0x4E 2,
    y0 := st.int 0x50 2, x0 := st.int 0x52 2, cp := st.num 0x54 2 }

/-- The store offset of an image position of a planar input; none outside the image. -/
def planarOff (d : CabDesc) (c : Nat) (y x : Int) : Option Nat :=
  if y < 0 ∨ (d.imgH : Int) ≤ y ∨ x < 0 ∨ (d.imgW : Int) ≤ x then none
  else some (d.inOff + c * d.inPlane + (y - d.inY0).toNat * d.inRow + (x - d.inX0).toNat * (fmtBits d.fin / 8))

/-- The code at an image position of a planar input: PAD outside the image (R241). -/
def planarAt (s : State) (u : UnitNo) (d : CabDesc) (c : Nat) (y x : Int) : Nat :=
  match planarOff d c y x with
  | some k => leNat (readUnit s u k (fmtBits d.fin / 8))
  | none => d.pad

/-- Offset of a phase-form element (R237). -/
def phaseOff (o : CabOut) (base e c y p j : Nat) : Nat := base + (((y * o.p + p) * o.cp + c) * 32 + j) * e

/-- The outputs of a CONV: channel, cell row and column, code and status (R241, R242). -/
def convOuts (s : State) (u : UnitNo) (st : EngStep) : List ((Nat × Nat × Nat) × Nat × Status) :=
  let d := cabDesc st
  let o := cabOut st
  let kh := st.num 8 1
  let kw := st.num 9 1
  let win := decide (d.fin = .bf16)
  let w := if win then st.int 0xE 2 else 0
  let ew := fmtBits d.fw / 8
  (List.range d.noc).flatMap fun oc =>
    let wts := ((chunks ew (readUnit s u (st.num 0x3C 4 + oc * d.nic * kh * kw * ew) (d.nic * kh * kw * ew))).map leNat).map
      (decodeVal d.fw)
    (List.range 16).flatMap fun a => (List.range 16).map fun b =>
      let ins := (List.range d.nic).flatMap fun c => (List.range kh).flatMap fun ky => (List.range kw).map fun kx =>
        decodeVal d.fin (planarAt s u d c (((o.oy + a) * st.num 0xA 1 + ky : Nat) - (st.num 0xC 1 : Int))
          (((o.ox + b) * st.num 0xB 1 + kx : Nat) - (st.num 0xD 1 : Int)))
      let r := (Cell.zero.addProducts win w ins wts).convert d.fout w (st.int 0x10 1) ((st.num 5 1).testBit 0)
      ((oc, a, b), r.1, r.2)

/-- The phase-form elements of the tile: (y, p, j) with its image position. -/
def phasePlaces (o : CabOut) : List ((Nat × Nat × Nat) × Int × Int) :=
  (List.range o.h).flatMap fun y => (List.range o.p).flatMap fun p => (List.range 32).map fun j =>
    ((y, p, j), o.y0 + y, o.x0 + (j * o.q + p : Nat))

/-! ## Elements written (R237, R241, R243): where they go follows from the descriptor alone -/

/-- What an element written holds: an output of the tile, a code, the zero of a padded channel, or bytes of the store. -/
inductive CabSrc where
  | out (oc a b : Nat)
  | code (c : Nat)
  | zero
  | store (off : Nat)
deriving DecidableEq, Repr

/-- A write of a step: store offset, length and content. -/
structure CabMove where
  dst : Nat
  len : Nat
  src : CabSrc
deriving DecidableEq, Repr

/-- Padded channels hold zero wherever the step writes the element's other channels (R237, log entry 24). -/
def zeroChannels (o : CabOut) (e n : Nat) (y p j : Nat) : List CabMove :=
  (span n o.cp).map fun c => ⟨phaseOff o o.outOff e c y p j, e, .zero⟩

/-- The elements of a CONV's tile (R241). -/
def convMoves (st : EngStep) : List CabMove :=
  let d := cabDesc st
  let o := cabOut st
  let e := fmtBits d.fout / 8
  if d.mode = 0 then
    (List.range d.noc).flatMap fun oc => (List.range 16).flatMap fun a => (List.range 16).filterMap fun b =>
      if o.oy + a < o.outH ∧ o.ox + b < o.outW then some ⟨o.outOff + oc * o.outPlane + a * o.outRow + b * e, e, .out oc a b⟩ else none
  else
    (phasePlaces o).flatMap fun pl =>
      let at_ := fun (c : Nat) => phaseOff o o.outOff e c pl.1.1 pl.1.2.1 pl.1.2.2
      let zeros := zeroChannels o e d.noc pl.1.1 pl.1.2.1 pl.1.2.2
      let y := pl.2.1 - (o.oy : Int)
      let x := pl.2.2 - (o.ox : Int)
      if pl.2.1 < 0 ∨ (o.outH : Int) ≤ pl.2.1 ∨ pl.2.2 < 0 ∨ (o.outW : Int) ≤ pl.2.2 then
        ((List.range d.noc).map fun c => ⟨at_ c, e, .code d.opad⟩) ++ zeros
      else if 0 ≤ y ∧ y < 16 ∧ 0 ≤ x ∧ x < 16 then
        ((List.range d.noc).map fun c => ⟨at_ c, e, .out c y.toNat x.toNat⟩) ++ zeros
      else []

/-- The elements, or rows in mode 2, of a REFORM (R243). -/
def reformMoves (st : EngStep) : List CabMove :=
  let d := cabDesc st
  let o := cabOut st
  let e := fmtBits d.fin / 8
  if d.mode = 0 then
    (phasePlaces o).flatMap fun pl =>
      ((List.range d.nic).flatMap fun c => (List.range d.xexp).map fun (x : Nat) =>
        ⟨phaseOff o o.outOff e (c * d.xexp + x) pl.1.1 pl.1.2.1 pl.1.2.2, e,
          match planarOff d c pl.2.1 (pl.2.2 + (x : Int)) with | some k => .store k | none => .code d.pad⟩)
        ++ zeroChannels o e (d.nic * d.xexp) pl.1.1 pl.1.2.1 pl.1.2.2
  else if d.mode = 1 then
    let covered := (phasePlaces o).filter fun (pl : (Nat × Nat × Nat) × Int × Int) =>
      decide (pl.1.2.1 < o.q ∧ (o.oy : Int) ≤ pl.2.1 ∧ pl.2.1 < (o.outH : Int) ∧ (o.ox : Int) ≤ pl.2.2
        ∧ pl.2.2 < (o.outW : Int))
    covered.flatMap fun pl =>
      (List.range d.nic).map fun c =>
        ⟨o.outOff + c * o.outPlane + (pl.2.1 - (o.oy : Int)).toNat * o.outRow + (pl.2.2 - (o.ox : Int)).toNat * e, e,
          .store (phaseOff o d.inOff e c pl.1.1 pl.1.2.1 pl.1.2.2)⟩
  else
    (List.range d.nic).flatMap fun c => (List.range d.inH).map fun y =>
      ⟨o.outOff + c * o.outPlane + y * o.outRow, d.inW * e, .store (d.inOff + c * d.inPlane + y * d.inRow)⟩

/-- CONV's writes by store offset, with the status word when STEN is set (R241, R242). -/
def convWrites (s : State) (u : UnitNo) (st : EngStep) : List (Nat × Bytes) :=
  let outs := convOuts s u st
  let got := fun (oc a b : Nat) => match outs[oc * 256 + a * 16 + b]? with | some r => r.2 | none => (0, {})
  let ms := convMoves st
  let stat := (ms.filterMap fun m => match m.src with | .out oc a b => some (got oc a b).2 | _ => none).foldl Status.or {}
  (ms.map fun m => (m.dst, leBytes m.len (match m.src with | .out oc a b => (got oc a b).1 | .code c => c | _ => 0)))
    ++ if (st.num 5 1).testBit 1 then [(st.num 0x58 4, leBytes 4 stat.word)] else []

/-- REFORM's writes by store offset (R243). -/
def reformWrites (s : State) (u : UnitNo) (st : EngStep) : List (Nat × Bytes) :=
  (reformMoves st).map fun m =>
    (m.dst, match m.src with | .store k => readUnit s u k m.len | .code c => leBytes m.len c | _ => zeros m.len)

end Sys2Proof.Machine
end

