-- ==== Sys2Proof/Machine/Charm.lean ====
section
/-! DEFINITION. The charm gather engine's GROUP and FETCH (R230, R231). The manual does not lay out their descriptor:
the layout used here is presumed (log entry 22). -/

namespace Sys2Proof.Machine

def EngStep.cDmax (st : EngStep) : Nat := st.num 1 1
def EngStep.cSeg (st : EngStep) : Nat := st.num 2 1
def EngStep.cCps (st : EngStep) : Nat := max 1 (st.num 4 4)
def EngStep.cStride (st : EngStep) : Nat := st.num 8 8
def EngStep.cInOff (st : EngStep) : Nat := st.num 0x10 4
def EngStep.cOutOff (st : EngStep) : Nat := st.num 0x14 4
def EngStep.cBufOff (st : EngStep) : Nat := st.num 0x20 4
def EngStep.cBeads (st : EngStep) : Nat := st.num 0x24 4

/-- The distinct charm numbers named, in ascending order; 0xFFFF names none. -/
def charmDistinct (nums : List Nat) : List Nat :=
  (sortBy (fun a b => decide (a ≤ b)) (nums.filter fun c => c ≠ 0xFFFF)).dedup

/-- GROUP's output (R231): NDIST, DIST[32], MASK[32]. -/
def groupOut (nums : List Nat) : Bytes :=
  let ds := charmDistinct nums
  let mask := fun d => ((nums.zipIdx.filter fun x => x.1 = d).map fun x => 2 ^ x.2).foldl (· + ·) 0
  leBytes 4 ds.length
    ++ ((List.range 32).flatMap fun p => leBytes 2 (ds.getD p 0xFFFF))
    ++ ((List.range 32).flatMap fun p => leBytes 4 (match ds[p]? with | some d => mask d | none => 0))

/-- The 32 charm numbers of a row block. -/
def groupIn (s : State) (u : UnitNo) (st : EngStep) : List Nat := (chunks 2 (readUnit s u st.cInOff 64)).map leNat

/-- The address of a FETCH line: the pass that byte [55:48] names takes DIST of that pass from GROUP's output, and a
pass beyond NDIST is suppressed. OPND is CHARM_BASE. -/
def fetchAddr (s : State) (u : UnitNo) (st : EngStep) (r : LineReq) : Option (Nat × Int × Bool) :=
  let g := readUnit s u st.cInOff 68
  let p := r.buf
  if p < leAt g 0 4 ∧ p < st.cDmax ∧ p < 32 then
    let c := leAt g (4 + 2 * p) 2
    some (st.cSeg + c / st.cCps, st.off + (c % st.cCps * st.cStride + r.line * 1024 : Nat),
      inGroup s st.ctx st.cSeg (st.cSeg + c / st.cCps) && decide (c % st.cCps * st.cStride % bankPeriod s st.ctx st.cSeg = 0))
  else none

end Sys2Proof.Machine
end

