-- ==== Sys2Proof/Machine/Garland.lean ====
section
/-! DEFINITION. Garland attention: block partials, fold and merge tree, finalisation, statistics, eviction scores and
the backward step (R169 to R192). -/

namespace Sys2Proof.Machine

/-- A Garland step descriptor (Table 6-6). -/
structure GarDesc where
  region : Bool
  d : Nat
  fq : Fmt
  fk : Fmt
  g : Nat
  rows : Nat
  flags : Nat
  fold : Nat
  kvhN : Nat
  kvh : Nat
  outFmt : Fmt
  wQk : Int
  wPv : Int
  eQk : Int
  ePv : Int
  layer : Nat
  scale : Word
  window : Nat
  nb : Nat
  lo : Nat
  span : Nat
deriving DecidableEq, Repr

/-- Format codes of Table 3-6 in FMTS; any other code is read as INT8. -/
def garFmt : Nat → Fmt
  | 1 => .int4 | 2 => .e4m3 | 3 => .e5m2 | 4 => .bf16 | _ => .int8

def garDesc (st : EngStep) : GarDesc :=
  { region := decide (st.num 1 1 = 0), d := headDim (st.num 2 1), fq := garFmt (bits (st.num 3 1) 0 3),
    fk := garFmt (bits (st.num 3 1) 3 3), g := max 1 (st.num 4 1), rows := max 1 (st.num 4 1) * st.num 5 1,
    flags := st.num 6 2, fold := st.num 8 1, kvhN := st.num 9 1, kvh := st.num 0xA 1,
    outFmt := if st.num 0xB 1 = 5 then .bf16 else .fp32, wQk := st.int 0xC 2, wPv := st.int 0xE 2, eQk := st.int 0x10 1,
    ePv := st.int 0x11 1, layer := st.num 0x12 2, scale := BitVec.ofNat 32 (st.num 0x14 4), window := st.num 0x18 4,
    nb := st.num 0x1C 4, lo := st.num 0x20 4, span := st.num 0x24 4 }

def GarDesc.flag (p : GarDesc) (i : Nat) : Bool := p.flags.testBit i
def GarDesc.causal (p : GarDesc) : Bool := p.flag 0
def GarDesc.windowed (p : GarDesc) : Bool := p.flag 1
def GarDesc.packed (p : GarDesc) : Bool := p.flag 2
def GarDesc.fresh (p : GarDesc) : Bool := p.flag 3
def GarDesc.score (p : GarDesc) : Bool := p.flag 4
def GarDesc.stats (p : GarDesc) : Bool := p.flag 5
def GarDesc.isPartial (p : GarDesc) : Bool := p.flag 6
def GarDesc.final (p : GarDesc) : Bool := p.flag 7

/-- Bytes per element of Q and of K. -/
def GarDesc.eq (p : GarDesc) : Nat := fmtBits p.fq / 8
def GarDesc.ek (p : GarDesc) : Nat := fmtBits p.fk / 8
def GarDesc.bf (p : GarDesc) : Bool := decide (p.fk = .bf16)

/-- Work units of a head's blocks in the whole computation: NB blocks and the fresh one (R177). -/
def GarDesc.blocks (p : GarDesc) : Nat := p.nb + b2n p.fresh

/-- The blocks of the step's subtree (R177, R178). -/
def GarDesc.range (p : GarDesc) : List Nat := Machine.span (p.lo * 2 ^ p.fold) (min ((p.lo + p.span) * 2 ^ p.fold) p.blocks)

/-- What a step works with beside its descriptor: the geometry, effective length and positions (R182, R183). -/
structure GarView where
  geo : Geometry
  le : Nat
  nnew : Nat
  /-- the region's keys may be read (R200) -/
  keysOk : Bool
  qpos : List Nat
  bounds : List Nat
  vDelta : Nat
  tok : Nat
deriving DecidableEq, Repr

def garView (s : State) (u : UnitNo) (st : EngStep) : GarView :=
  let h := st.header
  let spec := leAt h 0x15 1
  let pos := st.num 0x4C 4
  { geo := geometry h (bankPeriod s st.ctx st.region.1), le := leAt h 8 4 - spec + min st.accept spec, nnew := st.nnew,
    keysOk := headerMagic h, qpos := (chunks 4 (readUnit s u pos 128)).map leNat,
    bounds := ((chunks 4 (readUnit s u (pos + 0x84) 128)).map leNat).take (leNat (readUnit s u (pos + 0x80) 4)),
    vDelta := st.num 0x50 8, tok := s.free }

/-- Row i has a query (R170, R182). -/
def hasQuery (p : GarDesc) (v : GarView) (st : EngStep) (i : Nat) : Bool :=
  decide (i < p.rows) && bit st.mask i && (!p.region || decide (i / p.g < v.nnew))

/-- The position of row i (R182, R183). -/
def rowPos (p : GarDesc) (v : GarView) (i : Nat) : Nat := if p.region then v.le + i / p.g else v.qpos.getD i 0

/-- Byte offset of K or V of one key and head from a PLAIN tensor's base: its rows are taken to hold KVH + KVH_N heads (log
entry 22). -/
def plainOff (p : GarDesc) (vDelta : Nat) (isV : Bool) (key head : Nat) : Nat :=
  (if isV then vDelta else 0) + (key * (p.kvh + p.kvhN) + head) * p.d * p.ek

/-- Byte offset of K or V of one key and head within its tensor, in REGION and PLAIN mode. -/
def keyOff (p : GarDesc) (v : GarView) (isV : Bool) (key head : Nat) : Nat :=
  if p.region then
    (if isV then v.geo.vOff p.layer else v.geo.kOff p.layer) + key * v.geo.rs + head * p.d * p.ek
  else plainOff p v.vDelta isV key head

/-- The K or V vector of key t of block j for the step's hh-th head. -/
def keyVec (s : State) (u : UnitNo) (st : EngStep) (p : GarDesc) (v : GarView) (isV : Bool) (j t hh : Nat) : List Val :=
  let n := p.d * p.ek
  let bs :=
    if j < p.nb then
      let o := keyOff p v isV (32 * j + t) (p.kvh + hh)
      st.lineAt v.tok (o / 1024) (o % 1024) n
    else
      readUnit s u (st.num 0x34 4 + (if isV then 32 * p.kvhN * n else 0) + (t * p.kvhN + hh) * n) n
  (elems p.fk bs).map (decodeVal p.fk)

/-- The map entry of a region slot. -/
def mapEntry (st : EngStep) (v : GarView) (slot : Nat) : Nat :=
  let o := v.geo.map + 4 * slot
  leNat (st.lineAt v.tok (o / 1024) (o % 1024) 4)

/-- The position of key t of block j; none where it is not occupied or not fresh (Table 6-3). -/
def keyPos (st : EngStep) (p : GarDesc) (v : GarView) (j t : Nat) : Option Nat :=
  if j < p.nb then
    if p.region then
      let m := mapEntry st v (32 * j + t)
      if v.keysOk ∧ m ≠ freeSlot ∧ m < v.le then some m else none
    else some (32 * j + t)
  else if t < v.nnew then some (v.le + t)
  else none

/-- The packed segment of a position (R183). -/
def packSeg (v : GarView) (x : Nat) : Nat := (v.bounds.filter fun b => b ≤ x).length

/-- The tests of Table 6-3 beyond presence of key and row. -/
def allowed (p : GarDesc) (v : GarView) (key row : Nat) : Bool :=
  (!p.causal || decide (key ≤ row)) && (!p.windowed || decide ((row : Int) - key < p.window))
    && (!(p.packed && !p.region) || decide (packSeg v key = packSeg v row))

/-- An exact dot product rounded once to FP32 (R173): SAT 0, overflow to infinity, as no SAT is named (DESIGN CHOICE, log entry
53). -/
def dot (win : Bool) (w e : Int) (a b : List Val) : Word :=
  BitVec.ofNat 32 ((Cell.zero.addProducts win w a b).convert .fp32 w e false).1

/-- A query row, or a row of dO, at a store offset. -/
def queryVec (s : State) (u : UnitNo) (p : GarDesc) (off hh i : Nat) : List Val :=
  let n := p.d * p.eq
  (elems p.fq (readUnit s u (off + (hh * p.rows + i) * n) n)).map (decodeVal p.fq)

/-- The log-domain scores z of row i against the valid keys of block j (R173, R174). -/
def rowScores (st : EngStep) (p : GarDesc) (v : GarView) (keys : List (List Val)) (q : List Val) (j i : Nat) :
    List (Option Word) :=
  (List.range 32).map fun t =>
    match keyPos st p v j t with
    | some x =>
      if allowed p v x (rowPos p v i) then
        some (fpMul (dot p.bf (if p.bf then p.wQk else 0) p.eQk q (keys.getD t [])) p.scale)
      else none
    | none => none

/-! ## Partials (R175, R176) -/

/-- A partial of one row: m, l and O. -/
structure RowPart where
  m : Word
  l : Word
  o : List Word
deriving DecidableEq, Repr

def negInf : Word := 0xFF800000
def posInf : Word := 0x7F800000

/-- The empty partial. -/
def emptyPart (d : Nat) : RowPart := ⟨negInf, 0, List.replicate d 0⟩

/-- The maximum of the scores present. -/
def maxScore (zs : List (Option Word)) : Word :=
  match zs.filterMap id with
  | [] => negInf
  | z :: r => r.foldl fpMax z

/-- The exact sum of values, rounded once. -/
def exactSum (vs : List Val) : Word := fp (vs.foldl Val.plus (.zero false))

/-- The block partial of one row (R175), from its scores and the value vectors. -/
def blockPart (p : GarDesc) (zs : List (Option Word)) (vals : List (List Val)) : RowPart :=
  let m := maxScore zs
  if m = negInf then emptyPart p.d
  else
    let pf : Fmt := if p.bf then .bf16 else .e4m3
    let ps := zs.map fun z => z.map fun z => decodeVal pf (fpTo pf 0 true (fpExp2 (fpSub z m)))
    let live := (ps.zip vals).filterMap fun x => x.1.map fun pv => (pv, x.2)
    let w := if p.bf then p.wPv else 0
    { m := m, l := exactSum (live.map (·.1)),
      o := (List.range p.d).map fun k => dot p.bf w p.ePv (live.map (·.1)) (live.map fun x => x.2.getD k (.zero false)) }

/-- merge(A, B) of one row, A from the lower block indices (R176). -/
def mergePart (a b : RowPart) : RowPart :=
  if b.m = negInf then a
  else if a.m = negInf then b
  else
    let m := fpMax a.m b.m
    let x := fpExp2 (fpSub a.m m)
    let y := fpExp2 (fpSub b.m m)
    { m := m, l := fpFma a.l x (fpMul b.l y), o := List.zipWith (fun p q => fpFma p x (fpMul q y)) a.o b.o }

/-- merge over the rows of a head. -/
def mergeRows (a b : List RowPart) : List RowPart := List.zipWith mergePart a b

/-- The partial of block j for every row of the step's hh-th head. -/
def blockRows (s : State) (u : UnitNo) (st : EngStep) (p : GarDesc) (v : GarView) (qs : List (List Val)) (hh j : Nat) :
    List RowPart :=
  let keys := (List.range 32).map fun t => keyVec s u st p v false j t hh
  let vals := (List.range 32).map fun t => keyVec s u st p v true j t hh
  qs.zipIdx.map fun q =>
    if hasQuery p v st q.2 then blockPart p (rowScores st p v keys q.1 j q.2) vals else emptyPart p.d

/-- The left fold of merge over the blocks of a chunk (R177). -/
def foldRows : List (List RowPart) → Option (List RowPart)
  | [] => none
  | a :: r => some (r.foldl mergeRows a)

/-- A head's value over the step's subtree: the tree over its chunks (R177, R178). -/
def headRows (s : State) (u : UnitNo) (st : EngStep) (p : GarDesc) (v : GarView) (hh : Nat) : Option (List RowPart) :=
  let qs := (List.range (min p.rows 32)).map fun i => queryVec s u p (st.num 0x30 4) hh i
  treeReduce mergeRows ((List.range p.span).map fun c =>
    foldRows ((p.range.filter fun j => j / 2 ^ p.fold = p.lo + c).map fun j => blockRows s u st p v qs hh j))

/-- L of R179. -/
def lseOf (r : RowPart) : Word := if r.m = negInf then negInf else fpAdd r.m (fpLog2 r.l)

/-- The finalised row in OUT_FMT (R179). -/
def finalRow (p : GarDesc) (r : RowPart) : Bytes :=
  let outs := if r.m = negInf then r.o.map (fun _ => (0 : Word)) else r.o.map fun o => fpMul o (fpRcp r.l)
  packElems p.outFmt (outs.map fun o => fpTo p.outFmt 0 false o)

/-- The writes of a partial record, or of the absent mark, whose other bytes are not defined (R180). M, L and O of the rows from ROWS
to 31 of a present record keep the bytes that stand there (DESIGN CHOICE, log entry 53). -/
def recordWrites (p : GarDesc) (tok off : Nat) (live : Nat → Bool) : Option (List RowPart) → List (Nat × Bytes)
  | none => [(off, leBytes 4 0 ++ freeBytes tok (0x1FC + 128 * p.d))]
  | some rows =>
    (off, leBytes 4 1 ++ zeros 124) :: (off + 0x180, zeros 128)
      :: (rows.zipIdx.filter fun r => live r.2).flatMap fun r =>
        [(off + 0x80 + 4 * r.2, leBytes 4 r.1.m.toNat), (off + 0x100 + 4 * r.2, leBytes 4 r.1.l.toNat),
          (off + 0x200 + 4 * p.d * r.2, packElems .fp32 (r.1.o.map BitVec.toNat))]

/-- The writes of finalised rows at [head][row][d]. -/
def finalWrites (p : GarDesc) (off hh : Nat) (live : Nat → Bool) (rows : List RowPart) : List (Nat × Bytes) :=
  let n := p.d * (fmtBits p.outFmt / 8)
  (rows.zipIdx.filter fun r => live r.2).map fun r => (off + (hh * p.rows + r.2) * n, finalRow p r.1)

/-- A partial record read from the store (R180). -/
def readRecord (s : State) (u : UnitNo) (d off : Nat) : Option (List RowPart) :=
  if leNat (readUnit s u off 4) = 1 then
    let w := fun (o : Nat) => BitVec.ofNat 32 (leNat (readUnit s u o 4))
    some ((List.range 32).map fun i =>
      { m := w (off + 0x80 + 4 * i), l := w (off + 0x100 + 4 * i),
        o := (chunks 4 (readUnit s u (off + 0x200 + 4 * d * i) (4 * d))).map fun b => BitVec.ofNat 32 (leNat b) })
  else none

/-- Bytes of a partial record. -/
def recordBytes (d : Nat) : Nat := 0x200 + 128 * d

/-! ## Results of the steps, as writes to the engine's own store by offset -/

/-- ATTN: outputs or partial records, and row statistics (R178 to R180, R189). -/
def attnWrites (s : State) (u : UnitNo) (st : EngStep) : List (Nat × Bytes) :=
  let p := garDesc st
  let v := garView s u st
  let live := hasQuery p v st
  let out := st.num 0x3C 4
  (List.range p.kvhN).flatMap fun hh =>
    let r := headRows s u st p v hh
    let rows := r.getD (List.replicate (min p.rows 32) (emptyPart p.d))
    (if p.isPartial then recordWrites p (s.free + hh) (out + hh * recordBytes p.d) live r
      else finalWrites p out hh live rows)
    ++ (if p.stats then
        (rows.zipIdx.filter fun x => live x.2).flatMap fun x =>
          [(st.num 0x40 4 + 256 * hh + 4 * x.2, leBytes 4 x.1.m.toNat),
            (st.num 0x40 4 + 256 * hh + 128 + 4 * x.2, leBytes 4 (lseOf x.1).toNat)]
      else [])

/-- MERGE: records A and B merged, or finalised (R188). -/
def mergeWrites (s : State) (u : UnitNo) (st : EngStep) : List (Nat × Bytes) :=
  let p := garDesc st
  let out := st.num 0x3C 4
  let live := fun i => decide (i < p.rows) && bit st.mask i
  (List.range p.kvhN).flatMap fun hh =>
    let a := readRecord s u p.d (st.num 0x30 4 + hh * recordBytes p.d)
    let b := readRecord s u p.d (st.num 0x34 4 + hh * recordBytes p.d)
    let r := treeReduce mergeRows [a, b]
    if p.final then finalWrites p out hh live ((r.getD (List.replicate 32 (emptyPart p.d))).take (min p.rows 32))
    else recordWrites p (s.free + hh) (out + hh * recordBytes p.d) live r

/-- One row of the P and dS tiles of a work unit (R189). -/
def bwdRow (p : GarDesc) (scaleB lse dv : Word) (zs : List (Option Word)) (dout : List Val) (vals : List (List Val)) :
    List (Nat × Nat) :=
  (zs.zip vals).map fun x =>
    match x.1 with
    | none => (0, 0)
    | some z =>
      let pr := fpExp2 (fpSub z lse)
      let dp := dot p.bf (if p.bf then p.wPv else 0) p.ePv dout x.2
      (fpTo .bf16 0 false pr, fpTo .bf16 0 false (fpMul (fpMul pr (fpSub dp dv)) scaleB))

/-- BWD: the P and dS tiles of every work unit, block-major (R189). Rows from ROWS to 31 of a tile keep the bytes that stand there, and
D is read as [head][ROWS] (DESIGN CHOICE, log entry 53). -/
def bwdWrites (s : State) (u : UnitNo) (st : EngStep) : List (Nat × Bytes) :=
  let p := garDesc st
  let v := garView s u st
  let w := fun (o : Nat) => BitVec.ofNat 32 (leNat (readUnit s u o 4))
  p.range.zipIdx.flatMap fun jb => (List.range p.kvhN).flatMap fun hh =>
    let keys := (List.range 32).map fun t => keyVec s u st p v false jb.1 t hh
    let vals := (List.range 32).map fun t => keyVec s u st p v true jb.1 t hh
    let base := st.num 0x3C 4 + 4096 * (jb.2 * p.kvhN + hh)
    ((List.range (min p.rows 32)).filter fun i => hasQuery p v st i).flatMap fun i =>
      let zs := rowScores st p v keys (queryVec s u p (st.num 0x30 4) hh i) jb.1 i
      let r := bwdRow p (BitVec.ofNat 32 (st.num 0x60 4)) (w (st.num 0x40 4 + 256 * hh + 128 + 4 * i))
        (w (st.num 0x5C 4 + 4 * (hh * p.rows + i))) zs (queryVec s u p (st.num 0x58 4) hh i) vals
      [(base + 64 * i, packElems .bf16 (r.map (·.1))), (base + 2048 + 64 * i, packElems .bf16 (r.map (·.2)))]

/-! ## Eviction scores (R192) -/

/-- The increment of one score from a row's z and L_PREV. -/
def scoreInc (z lprev : Word) : Nat :=
  let q := fpExp2 (fpSub z lprev)
  min (fpToI32 (fpMul q (fp (.num false 65536 0)))).toNat 65535

/-- The score increments of the region slots in the step's range, by slot. -/
def scoreAdds (s : State) (u : UnitNo) (st : EngStep) : List (Nat × Nat) :=
  let p := garDesc st
  let v := garView s u st
  let hh := leAt st.header 0x1D 1 - p.kvh
  let qs := (List.range (min p.rows 32)).map fun i => queryVec s u p (st.num 0x30 4) hh i
  let lprev := fun h => BitVec.ofNat 32 (leNat (st.lineAt v.tok 1 (4 * h) 4))
  (p.range.filter fun j => j < p.nb).flatMap fun j =>
    let keys := (List.range 32).map fun t => keyVec s u st p v false j t hh
    let zss := qs.zipIdx.map fun q =>
      if hasQuery p v st q.2 then (q.2, rowScores st p v keys q.1 j q.2) else (q.2, [])
    (List.range 32).map fun t =>
      (32 * j + t, (zss.map fun r => match r.2.getD t none with | some z => scoreInc z (lprev (r.1 % p.g)) | none => 0).foldl
        (· + ·) 0)

/-- The score and statistics lines that a scoring ATTN step writes, by line table index (R192). -/
def scoreLines (s : State) (u : UnitNo) (st : EngStep) : List (Nat × Bytes) :=
  let p := garDesc st
  if p.score = false then []
  else
    let v := garView s u st
    let adds := scoreAdds s u st
    let hh := leAt st.header 0x1D 1 - p.kvh
    let rows := ((headRows s u st p v hh).getD []).zipIdx
    (st.plan.filter fun r => r.wr).map fun r =>
      if r.kind = 4 then
        let old := st.lineAt v.tok r.line 0 1024
        (r.idx, (List.range p.g).foldl (fun bs h =>
          match (rows.filter fun x => hasQuery p v st x.2 && decide (x.2 % p.g = h)).getLast? with
          | some x => overlay bs (4 * h) (leBytes 4 (lseOf x.1).toNat)
          | none => bs) old)
      else
        let old := st.lineAt v.tok r.line 0 1024
        let first := (r.line * 1024 - v.geo.scores) / 4
        (r.idx, (((chunks 4 old).map leNat).zipIdx.map fun x =>
          leBytes 4 (min ((assoc (first + x.2) adds).getD 0 + x.1) 0xFFFFFFFF)).flatten)

/-! ## Lengths (R186, R188) -/

/-- Beads of a Garland step. -/
def garLen (eop : Nat) (st : EngStep) : Nat :=
  let p := garDesc st
  let pd := if p.d ≤ 128 then 1 else 2
  if eop = 2 then 2 + p.kvhN * pd * 2 + 2
  else if eop = 3 then 2 + (p.kvhN * p.range.length + 1) * st.num 0x28 2 + 2
  else st.num 0x2C 4

end Sys2Proof.Machine
end

