-- ==== Sys2Proof/Machine/Pavilion.lean ====
section
/-! DEFINITION. The Pavilion walker's WALK and INSERT (R222 to R228). In a walker's line table, byte [55:48] names the
level that a line serves (log entry 22). -/

namespace Sys2Proof.Machine

/-! ## Descriptor fields (R225) -/

def EngStep.wNblk (st : EngStep) : Nat := st.num 1 1
def EngStep.wWays (st : EngStep) : Nat := st.num 2 2
def EngStep.wTb (st : EngStep) : Nat := st.num 4 1
def EngStep.wTableSeg (st : EngStep) : Nat := st.num 5 1
def EngStep.wPoolSeg (st : EngStep) : Nat := st.num 6 1
def EngStep.wTable (st : EngStep) : Nat := st.num 8 8
def EngStep.wStartParent (st : EngStep) : Nat := st.num 0x10 4
def EngStep.wStartDepth (st : EngStep) : Nat := st.num 0x14 4
def EngStep.wStartKey (st : EngStep) : Nat := st.num 0x18 8
def EngStep.wTokOff (st : EngStep) : Nat := st.num 0x20 4
def EngStep.wOutOff (st : EngStep) : Nat := st.num 0x24 4
def EngStep.wInsOff (st : EngStep) : Nat := st.num 0x34 4

/-- The chained key of a block (R224). -/
def nextKey (prev : Nat) (tokens : Bytes) : Nat := leNat ((sm3 (leBytes 8 prev ++ tokens)).take 8)

/-- The keys of a chain of blocks. -/
def keyChain : Nat → List Bytes → List Nat
  | _, [] => []
  | k, b :: r => let k' := nextKey k b; k' :: keyChain k' r

/-- The prompt's blocks of 32 tokens. -/
def walkBlocks (s : State) (u : UnitNo) (st : EngStep) : List Bytes :=
  (List.range st.wNblk).map fun k => readUnit s u (st.wTokOff + 128 * k) 128

def walkKeys (s : State) (u : UnitNo) (st : EngStep) : List Nat := keyChain st.wStartKey (walkBlocks s u st)

/-- Line index of way `w` in the set of a key (R222). -/
def nodeIndex (st : EngStep) (period key w : Nat) : Nat := key % 2 ^ st.wTb * (period / 1024) + w

/-- Bytes of a node line (Table 7-7). -/
def nodeValid (n : Bytes) : Bool := leAt n 0x10 4 % 2 = 1
def nodePinned (n : Bytes) : Bool := leAt n 0x10 4 / 2 % 2 = 1

/-- The captured node line of a level and way. -/
def nodeLine (st : EngStep) (lvl w : Nat) : Option Bytes :=
  st.found fun r => r.kind = 8 && r.buf = lvl && r.line = w

/-- KEY, PARENT, DEPTH and TOKENS of the node are those of a block of the prompt (R228). -/
def nodeSame (n : Bytes) (key parent depth : Nat) (tokens : Bytes) : Bool :=
  decide (leAt n 0 8 = key ∧ leAt n 8 4 = parent ∧ leAt n 0xC 4 = depth ∧ slice n 0x80 128 = tokens)

/-- The node matches block k of the prompt under its parent (R226). -/
def nodeMatches (n : Bytes) (key parent depth : Nat) (tokens : Bytes) : Bool := nodeValid n && nodeSame n key parent depth tokens

/-- The nodes that the levels pass by, from level `k` on, under `parent`: line index, node bytes; the list ends where
no way passes. -/
def walkNodes (st : EngStep) (period : Nat) : Nat → Nat → List (Nat × Bytes) → List (Nat × Bytes)
  | _, _, [] => []
  | k, parent, (key, toks) :: r =>
    match (List.range st.wWays).find? fun w =>
        match nodeLine st k w with
        | some n => nodeMatches n key parent (st.wStartDepth + k) toks
        | none => false with
    | none => []
    | some w =>
      let i := nodeIndex st period key w
      (i, (nodeLine st k w).getD []) :: walkNodes st period (k + 1) i r

/-- Donor region of a node: segment and offset. -/
def donorOf (n : Bytes) : Nat × Nat := let v := leAt n 0x20 8; (bits v 34 6, v % 2 ^ 34)

/-- The donor still holds the block in slot order (R226), by the level's captured header and map lines. -/
def donorOk (st : EngStep) (lvl : Nat) (n : Bytes) : Bool :=
  let depth := st.wStartDepth + lvl
  match st.found fun r => r.kind = 9 && r.buf = lvl, st.found fun r => r.kind = 10 && r.buf = lvl with
  | some h, some m =>
    let off := 32 * depth * 4 % 1024
    headerMagic h && decide (leAt h 0x28 8 = leAt n 0x28 8 ∧ 32 * (depth + 1) ≤ leAt h 8 4 - leAt h 0x15 1)
      && (List.range 32).all fun t => decide (leAt m (off + 4 * t) 4 = 32 * depth + t)
  | _, _ => false

/-- The levels' nodes. -/
def walkChain (s : State) (u : UnitNo) (st : EngStep) : List (Nat × Bytes) :=
  walkNodes st (bankPeriod s st.ctx st.wTableSeg) 0 st.wStartParent ((walkKeys s u st).zip (walkBlocks s u st))

/-- The confirmed levels: a leading run of the chain whose donors hold. -/
def walkConfirmed (s : State) (u : UnitNo) (st : EngStep) : List (Nat × Bytes) :=
  (((walkChain s u st).zipIdx.map fun x => (x.1, donorOk st x.2 x.1.2)).takeWhile (·.2)).map (·.1)

/-- The result of a WALK, by store offset (R226): bytes 4 to 7 of a level's entry are 0. The node line and DONOR_REGION that a level
which is not confirmed reports are not stated: free values. -/
def walkWrites (s : State) (u : UnitNo) (st : EngStep) : List (Nat × Bytes) :=
  let conf := walkConfirmed s u st
  let n := conf.length
  let keys := walkKeys s u st
  let last := (conf.getLast?).map (·.1)
  let head := leBytes 4 n ++ leBytes 4 (last.getD st.wStartParent)
    ++ leBytes 8 (if n = 0 then st.wStartKey else keys.getD (n - 1) 0) ++ leBytes 8 (2 ^ n - 1)
  (st.wOutOff, head) :: (List.range st.wNblk).map fun k =>
    (st.wOutOff + 0x40 + 16 * k,
      match conf[k]? with
      | some (i, node) => leBytes 4 i ++ zeros 4 ++ slice node 0x20 8
      | none => freeBytes (s.free + k) 4 ++ zeros 4 ++ (freeBytes (s.free + k) 16).drop 8)

/-! ## INSERT (R228) -/

/-- What one level of an INSERT does: the way it takes, and whether it writes it. -/
def insertWay (st : EngStep) (lvl key parent depth : Nat) (toks : Bytes) : Option (Nat × Bool) :=
  let ways := (List.range st.wWays).filterMap fun w => (nodeLine st lvl w).map fun n => (w, n)
  match ways.find? fun x => nodeSame x.2 key parent depth toks with
  | some (w, n) => some (w, !nodePinned n)
  | none =>
    match ways.find? fun x => !nodeValid x.2 with
    | some (w, _) => some (w, true)
    | none =>
      ((ways.filter fun x => !nodePinned x.2).foldl (fun best x =>
        match best with
        | none => some (leAt x.2 0x18 8, x.1)
        | some (stamp, w) => if leAt x.2 0x18 8 < stamp then some (leAt x.2 0x18 8, x.1) else some (stamp, w)) none).map
        fun b => (b.2, true)

/-- The node line an INSERT writes at a level: a matching node keeps all but its donor fields and STAMP. -/
def insertNode (st : EngStep) (ins : Bytes) (lvl key parent depth : Nat) (toks : Bytes) (w : Nat) : Bytes :=
  let old := (nodeLine st lvl w).getD (zeros 1024)
  let donor := slice ins 0 8
  let tag := slice ins 8 8
  let stamp := slice ins 16 8
  if nodeSame old key parent depth toks then
    overlay (overlay (overlay old 0x18 stamp) 0x20 donor) 0x28 tag
  else
    slice (leBytes 8 key ++ leBytes 4 parent ++ leBytes 4 depth ++ leBytes 4 (1 + 2 * (leAt ins 28 4 % 2)) ++ zeros 4 ++ stamp
      ++ donor ++ tag ++ zeros 80 ++ toks) 0 1024

/-- The levels of an INSERT from FIRST on: level, way and the line to write, if one is written; the INSERT stops where
every way is pinned. -/
def insertLevels (st : EngStep) (period : Nat) (ins : Bytes) : Nat → Nat → List (Nat × Bytes) → List (Nat × Nat × Option Bytes)
  | _, _, [] => []
  | k, parent, (key, toks) :: r =>
    let depth := st.wStartDepth + k
    match insertWay st k key parent depth toks with
    | none => []
    | some (w, wr) =>
      (k, w, if wr then some (insertNode st ins k key parent depth toks w) else none)
        :: insertLevels st period ins (k + 1) (nodeIndex st period key w) r

/-- The node line that a write entry of an INSERT carries; none where its way is not the one chosen. -/
def insertLine (s : State) (u : UnitNo) (st : EngStep) (r : LineReq) : Option Bytes :=
  let ins := readUnit s u st.wInsOff 32
  let first := leAt ins 24 4
  let lv := insertLevels st (bankPeriod s st.ctx st.wTableSeg) ins first st.wStartParent
    (((walkKeys s u st).zip (walkBlocks s u st)).drop first)
  (lv.find? fun x => x.1 = r.buf && x.2.1 = r.line).bind fun x => x.2.2

/-! ## Addresses (R222, R226, R227) -/

/-- Segment, offset and whether the data-dependent term is allowed (R153, R154) of a walker's line; none where it is
suppressed. -/
def walkAddr (s : State) (u : UnitNo) (st : EngStep) (r : LineReq) : Option (Nat × Int × Bool) :=
  let period := bankPeriod s st.ctx st.wTableSeg
  if r.kind = 8 then
    match (walkKeys s u st)[r.buf]? with
    | some key => some (st.wTableSeg, (st.wTable + key % 2 ^ st.wTb * period + r.line * 1024 : Nat), true)
    | none => none
  else
    match (walkChain s u st)[r.buf]? with
    | some (_, n) =>
      let d := donorOf n
      some (d.1, (d.2 + r.line * 1024 : Nat),
        inGroup s st.ctx st.wPoolSeg d.1 && decide (d.2 % bankPeriod s st.ctx d.1 = 0))
    | none => none

end Sys2Proof.Machine
end

