-- ==== Sys2Proof/Machine/Scatter.lean ====
section
/-! DEFINITION. The scatter steps INIT, SELECT and WRITE_KV (R193 to R199). -/

namespace Sys2Proof.Machine

/-! ## Descriptor fields (R193) -/

def EngStep.scNmax (st : EngStep) : Nat := st.num 1 1
def EngStep.scSeg (st : EngStep) : Nat := st.num 2 1
def EngStep.scCap (st : EngStep) : Nat := st.num 4 4
def EngStep.scLayer (st : EngStep) : Nat := st.num 8 2
def EngStep.scSelStart (st : EngStep) : Nat := st.num 0x10 4
def EngStep.scRowOff (st : EngStep) : Nat := st.num 0x1C 4
def EngStep.scSlotOff (st : EngStep) : Nat := st.num 0x20 4
def EngStep.scBufOff (st : EngStep) : Nat := st.num 0x24 4

/-- The bead, counted from the step's first, at which a SELECT's selection ends (R196). -/
def selEnd (st : EngStep) : Nat := st.scSelStart + 2 + (16 + st.scNmax) * cdiv st.scCap 128

/-! ## INIT (R192, Table 6-9) -/

/-- The line an INIT writes: header from the template, L_PREV of +∞, all slots free, all scores 0. -/
def initLine (s : State) (u : UnitNo) (st : EngStep) (r : LineReq) : Option Bytes :=
  match r.kind with
  | 3 => some (readUnit s u st.scRowOff 1024)
  | 4 => some ((List.replicate 16 (leBytes 4 0x7F800000)).flatten ++ zeros 960)
  | 2 => some (List.replicate 1024 0xFF)
  | 5 => some (zeros 1024)
  | _ => none

/-! ## SELECT (R194, R195) -/

/-- What selection works on. -/
structure SelState where
  length : Nat
  resident : Nat
  spec : Nat
  map : List Nat
  score : List Nat
  slots : List Nat
  headroomHit : Bool
deriving DecidableEq, Repr

/-- The fixed header fields that selection reads. -/
structure SelHeader where
  maxResident : Nat
  headroom : Nat
  sinks : Nat
  decay : Nat
  recent : Nat
  initScore : Nat
deriving DecidableEq, Repr

def selHeader (h : Bytes) : SelHeader :=
  { maxResident := leAt h 0x10 4, headroom := leAt h 0x14 1, sinks := leAt h 0x16 1, decay := leAt h 0x17 1,
    recent := leAt h 0x18 2, initScore := leAt h 0x24 4 }

/-- Position x may be evicted: committed and not protected (6.7). -/
def evictable (h : SelHeader) (x : SelState) (pos : Nat) : Bool :=
  decide (pos ≠ freeSlot ∧ pos < x.length - x.spec ∧ h.sinks ≤ pos ∧ pos + h.recent < x.length - x.spec)

/-- The slot of lowest score among those that may be evicted, ties to the lowest index. -/
def victim (h : SelHeader) (x : SelState) : Option Nat :=
  (((x.map.zip x.score).zipIdx.filter fun e => evictable h x e.1.1).foldl (fun best e =>
    match best with
    | none => some (e.1.2, e.2)
    | some (sc, i) => if e.1.2 < sc then some (e.1.2, e.2) else some (sc, i)) none).map (·.2)

/-- The lowest free slot. -/
def lowestFree (x : SelState) : Option Nat := (x.map.zipIdx.find? fun e => e.1 = freeSlot).map (·.2)

/-- Trims committed positions down to MAX_RESIDENT, `n` times at most. -/
def trim (h : SelHeader) : Nat → SelState → SelState
  | 0, x => x
  | n + 1, x =>
    if h.maxResident < x.resident then
      match victim h x with
      | some v => trim h n { x with map := modifyAt (fun _ => freeSlot) v x.map, resident := x.resident - 1 }
      | none => x
    else x

/-- A position appended to a slot. -/
def place (h : SelHeader) (slot : Nat) (x : SelState) : SelState :=
  { x with map := modifyAt (fun _ => x.length) slot x.map, score := modifyAt (fun _ => h.initScore) slot x.score,
           slots := x.slots ++ [slot], length := x.length + 1 }

/-- The appends of R194 from entry `e` on, `n` of them; the last `nspec` are speculative. -/
def appends (h : SelHeader) (nnew nspec : Nat) : Nat → Nat → SelState → SelState
  | 0, _, x => x
  | n + 1, e, x =>
    if nnew - nspec ≤ e then
      if x.spec = h.headroom then { x with headroomHit := true }
      else
        match lowestFree x with
        | some sl => appends h nnew nspec n (e + 1) (place h sl { x with spec := x.spec + 1 })
        | none => x
    else if x.resident < h.maxResident then
      match lowestFree x with
      | some sl => appends h nnew nspec n (e + 1) (place h sl { x with resident := x.resident + 1 })
      | none => x
    else
      match victim h x with
      | some sl => appends h nnew nspec n (e + 1) (place h sl x)
      | none => x

/-- The whole of selection (R194). -/
def selection (h : SelHeader) (accept nnew nspec : Nat) (x : SelState) : SelState :=
  let k := min accept x.spec
  let len := x.length - x.spec + k
  let x := { x with
    length := len, resident := x.resident + k, spec := 0
    map := x.map.map fun m => if m ≠ freeSlot ∧ len ≤ m then freeSlot else m
    score := if 0 < h.decay then x.score.map fun v => v - v / 2 ^ h.decay else x.score }
  appends h nnew nspec nnew 0 (trim h x.resident x)

/-- The checks of R195 but for the length check. -/
def headerOk (hdr : Bytes) (cap : Nat) : Bool :=
  let h := selHeader hdr
  headerMagic hdr && decide (leAt hdr 0x20 4 = cap ∧ cap = h.maxResident + h.headroom ∧ h.sinks + h.recent < h.maxResident
    ∧ leAt hdr 0x15 1 ≤ h.headroom ∧ leAt hdr 0x0C 4 ≤ h.maxResident + leAt hdr 0x15 1)

/-- What a SELECT forms: the slot list's bytes, the lines to write, and the event it raises. -/
structure SelResult where
  list : Bytes
  lines : List (Nat × Bytes)
  event : Option Nat
deriving DecidableEq, Repr

/-- The u32 words of a table that starts at `base`, from the captured lines. -/
def tableWords (st : EngStep) (tok base n : Nat) : List Nat :=
  (List.range (cdiv n 256)).flatMap fun i => (chunks 4 (st.lineAt tok (base / 1024 + i) 0 1024)).map leNat

/-- A line of a table of u32 words. -/
def tableLine (words : List Nat) (line base : Nat) : Bytes :=
  (((words.drop ((line * 1024 - base) / 4)).take 256).map (leBytes 4)).flatten

/-- The outcome of SELECT (R194, R195). The KV_POSITION check counts all NNEW entries, also those that the headroom drops (DESIGN
CHOICE, log entry 53). -/
def selectForm (s : State) (st : EngStep) : SelResult :=
  let hdr := st.header
  let cap := st.scCap
  let spec := leAt hdr 0x15 1
  let len := leAt hdr 8 4
  let reject := fun e => { list := leBytes 4 0, lines := [], event := some e : SelResult }
  if headerOk hdr cap = false then reject 0x0200
  else if 0xFFFFFFFE < len - spec + min st.accept spec + st.nnew then reject 0x0202
  else
    let g := geometry hdr (bankPeriod s st.ctx st.region.1)
    let mapW := tableWords st s.free g.map cap
    let scoreW := tableWords st s.free g.scores cap
    let h := selHeader hdr
    let x := selection h st.accept st.nnew st.nspec
      { length := len, resident := leAt hdr 0x0C 4, spec := spec, map := mapW.take cap, score := scoreW.take cap,
        slots := [], headroomHit := false }
    let hdr' := overlay (overlay (overlay hdr 8 (leBytes 4 x.length)) 0x0C (leBytes 4 x.resident)) 0x15 (leBytes 1 x.spec)
    { list := leBytes 4 x.slots.length ++ (x.slots.map (leBytes 4)).flatten
      lines := (st.plan.filter fun r => r.wr).filterMap fun r =>
        match r.kind with
        | 3 => some (r.idx, hdr')
        | 2 => some (r.idx, tableLine (x.map ++ mapW.drop cap) r.line g.map)
        | 5 => some (r.idx, tableLine (x.score ++ scoreW.drop cap) r.line g.scores)
        | _ => none
      event := if x.headroomHit then some 0x0201 else none }

/-! ## WRITE_KV (R197) -/

/-- Entry and kind of a group line (R193). -/
def LineReq.entry (r : LineReq) : Nat := r.buf / 8

/-- The slot of an entry of the slot list; none from COUNT on. -/
def slotOf (s : State) (u : UnitNo) (st : EngStep) (e : Nat) : Option Nat :=
  let bs := readUnit s u st.scSlotOff 132
  if e < min (leAt bs 0 4) 32 then some (leAt bs (4 + 4 * e) 4) else none

/-- Offset within the region of a group line; none for an absent entry. -/
def groupLineOff (s : State) (u : UnitNo) (st : EngStep) (r : LineReq) : Option Nat :=
  let period := bankPeriod s st.ctx st.region.1
  let g := geometry st.header period
  (slotOf s u st r.entry).map fun sl =>
    (if r.kind = 7 then g.vOff st.scLayer else g.kOff st.scLayer) + sl * g.rs / period * period + r.line * 1024

/-- The part of `bs`, standing at `at_`, put over a line that starts at `lo`. -/
def overlayAt (line : Bytes) (lo at_ : Nat) (bs : Bytes) : Bytes :=
  if lo ≤ at_ then overlay line (at_ - lo) (bs.take (lo + line.length - at_))
  else overlay line 0 ((bs.drop (lo - at_)).take line.length)

/-- The merged line of a group (R197): what was read, under every entry's row of the slot list. New rows stand at
ROW_OFF, the K rows of NMAX entries and then their V rows (log entry 22). -/
def kvLine (s : State) (u : UnitNo) (st : EngStep) (r : LineReq) : Option Bytes :=
  let period := bankPeriod s st.ctx st.region.1
  let g := geometry st.header period
  match groupLineOff s u st r with
  | none => none
  | some off =>
    let base := if r.kind = 7 then g.vOff st.scLayer else g.kOff st.scLayer
    let rows := st.scRowOff + if r.kind = 7 then st.scNmax * g.rs else 0
    let old := match st.found fun q => q.kind = r.kind && decide (groupLineOff s u st q = some off) with
      | some bs => bs
      | none => freeBytes s.free 1024
    some ((List.range 32).foldl (fun bs e =>
      match slotOf s u st e with
      | some sl =>
        let at_ := base + sl * g.rs
        if at_ < off + 1024 ∧ off < at_ + g.rs then overlayAt bs off at_ (readUnit s u (rows + e * g.rs) g.rs) else bs
      | none => bs) old)

end Sys2Proof.Machine
end

