-- ==== Sys2Proof/Machine/StepRange.lean ====
section
/-! DEFINITION. The bytes of its own store that an engine step reads and writes, as far as its descriptor says
(R97, R140, R180, R183, R184, R193, R196, R225 to R227, R231, R236 to R245). -/

namespace Sys2Proof.Machine

/-! ## Inputs: offset and length -/

def garReads (st : EngStep) : List (Nat × Nat) :=
  let p := garDesc st
  let q := p.kvhN * p.rows * p.d * p.eq
  let fresh := if p.fresh then [(st.num 0x34 4, 64 * p.kvhN * p.d * p.ek)] else []
  let pos := if p.region then [] else (st.num 0x4C 4, 128) :: if p.packed then [(st.num 0x4C 4 + 0x80, 132)] else []
  match st.eop with
  | 1 => (st.num 0x30 4, q) :: fresh ++ pos
  | 2 => [(st.num 0x30 4, p.kvhN * recordBytes p.d), (st.num 0x34 4, p.kvhN * recordBytes p.d)]
  | _ => [(st.num 0x30 4, q), (st.num 0x58 4, q), (st.num 0x5C 4, 4 * p.kvhN * p.rows), (st.num 0x40 4, 256 * p.kvhN)] ++ fresh ++ pos

/-- The rows of WRITE_KV take their size from the region's header. -/
def scReads (st : EngStep) : List (Nat × Nat) :=
  match st.eop with
  | 1 => if st.plan.any fun r => r.wr && r.kind = 3 then [(st.scRowOff, 1024)] else []
  | 2 => []
  | _ => [(st.scSlotOff, 132), (st.scRowOff, 2 * st.scNmax * (geometry st.header 1024).rs)]

def walkReads (st : EngStep) : List (Nat × Nat) := (st.wTokOff, 128 * st.wNblk) :: if st.eop = 2 then [(st.wInsOff, 32)] else []

def charmReads (st : EngStep) : List (Nat × Nat) := if st.eop = 1 then [(st.cInOff, 64)] else [(st.cInOff, 68)]

/-- The image rows and columns that a CONV tile reads. -/
def convRows (st : EngStep) : List Int :=
  ((List.range 16).flatMap fun a => (List.range (st.num 8 1)).map fun k =>
    ((((cabOut st).oy + a) * st.num 0xA 1 + k : Nat) : Int) - (st.num 0xC 1 : Nat)).eraseDups

def convCols (st : EngStep) : List Int :=
  ((List.range 16).flatMap fun b => (List.range (st.num 9 1)).map fun k =>
    ((((cabOut st).ox + b) * st.num 0xB 1 + k : Nat) : Int) - (st.num 0xD 1 : Nat)).eraseDups

/-- The image positions of the planar input that a step reads: channel, row, column. -/
def planarReads (st : EngStep) : List (Nat × Int × Int) :=
  let d := cabDesc st
  if st.eop = 1 then (List.range d.nic).flatMap fun c => (convRows st).flatMap fun y => (convCols st).map fun x => (c, y, x)
  else
    (phasePlaces (cabOut st)).flatMap fun pl => (List.range d.nic).flatMap fun c => (List.range d.xexp).map fun (x : Nat) =>
      (c, pl.2.1, pl.2.2 + (x : Int))

/-- The element or row ranges of the input that a Cabochon step reads. -/
def cabInputs (st : EngStep) : List (Nat × Nat) :=
  let d := cabDesc st
  if st.eop = 1 then ((planarReads st).filterMap fun p => planarOff d p.1 p.2.1 p.2.2).map fun k => (k, fmtBits d.fin / 8)
  else (reformMoves st).filterMap fun m => match m.src with | .store k => some (k, m.len) | _ => none

/-- Bytes of a CONV's weights. -/
def weightBytes (st : EngStep) : Nat :=
  let d := cabDesc st
  d.noc * d.nic * st.num 8 1 * st.num 9 1 * (fmtBits d.fw / 8)

def cabReads (st : EngStep) : List (Nat × Nat) := (if st.eop = 1 then [(st.num 0x3C 4, weightBytes st)] else []) ++ cabInputs st

/-- The inputs of a step beside its descriptor and line table. -/
def stepReads (k : UnitKind) (st : EngStep) : List (Nat × Nat) :=
  match k with
  | .garland => garReads st
  | .scatter => scReads st
  | .pavilion => walkReads st
  | .charm => charmReads st
  | .cabochon => cabReads st
  | _ => []

/-! ## Outputs: offset, length, and beads from the step's first to their visibility -/

def garOutputs (st : EngStep) : List (Nat × Nat) :=
  let p := garDesc st
  let out := st.num 0x3C 4
  let records := (out, p.kvhN * recordBytes p.d)
  let finals := (out, p.kvhN * p.rows * p.d * (fmtBits p.outFmt / 8))
  match st.eop with
  | 1 => (if p.isPartial then records else finals) :: if p.stats then [(st.num 0x40 4, 256 * p.kvhN)] else []
  | 2 => [if p.final then finals else records]
  | _ => [(out, 4096 * p.kvhN * p.range.length)]

def cabMoves (st : EngStep) : List CabMove := if st.eop = 1 then convMoves st else reformMoves st

def cabOutputs (st : EngStep) : List (Nat × Nat) :=
  (cabMoves st).map (fun m => (m.dst, m.len)) ++ if st.eop = 1 ∧ (st.num 5 1).testBit 1 then [(st.num 0x58 4, 4)] else []

/-- The results of a step. -/
def stepOutputs (k : UnitKind) (st : EngStep) : List (Nat × Nat × Nat) :=
  let end_ := fun (l : List (Nat × Nat)) => l.map fun x => (x.1, x.2, st.len)
  match k with
  | .garland => end_ (garOutputs st)
  | .scatter => if st.eop = 2 then [(st.scSlotOff, 4 + 4 * st.scNmax, selEnd st)] else []
  | .pavilion => if st.eop = 1 then end_ [(st.wOutOff, 24), (st.wOutOff + 0x40, 16 * st.wNblk)] else []
  | .charm => if st.eop = 1 then [(st.cOutOff, 196, 4)] else []
  | .cabochon => end_ (cabOutputs st)
  | _ => []

end Sys2Proof.Machine
end

