-- ==== Sys2Proof/Machine/Engine.lean ====
section
/-! DEFINITION. Engine steps bead by bead (R89, R153, R171, R172) and the engine commands. -/

namespace Sys2Proof.Machine

/-- The EOP values each engine kind defines (R89, Tables 6-2, 6-9, 8-1, R225, R231). -/
def eopDefined (k : UnitKind) (eop : Nat) : Bool :=
  eop = 0x3F ||
    match k with
    | .garland => decide (1 ≤ eop ∧ eop ≤ 3)
    | .scatter => decide (1 ≤ eop ∧ eop ≤ 3)
    | .cabochon => decide (1 ≤ eop ∧ eop ≤ 2)
    | .charm => decide (1 ≤ eop ∧ eop ≤ 2)
    | .pavilion => decide (1 ≤ eop ∧ eop ≤ 2)
    | _ => false

/-- Bytes of a step descriptor. -/
def descBytes : UnitKind → Nat
  | .garland | .cabochon => 128
  | _ => 64

/-- Offset and length of the line table. -/
def lineTable (k : UnitKind) (st : EngStep) : Nat × Nat :=
  match k with
  | .garland => (st.num 0x44 4, st.num 0x48 4)
  | .scatter => (st.num 0x14 4, st.num 0x18 4)
  | .pavilion => (st.num 0x28 4, st.num 0x2C 4)
  | .charm => if st.eop = 2 then (st.num 0x18 4, st.num 0x1C 4) else (0, 0)
  | _ => (0, 0)

/-- The length of a step in beads, at least 1. -/
def stepLen (k : UnitKind) (st : EngStep) : Nat :=
  max 1 (match k with
    | .garland => garLen st.eop st
    | .scatter => st.num 0x0C 4
    | .pavilion => st.num 0x30 4
    | .charm => if st.eop = 1 then 4 else st.cBeads
    | .cabochon => st.num 0x18 4
    | _ => 1)

/-- OPND names a region reference. -/
def takesRef (k : UnitKind) (st : EngStep) : Bool :=
  match k with
  | .garland => decide (st.eop ≠ 2 ∧ st.num 1 1 = 0)
  | .scatter => true
  | _ => false

/-- Segment, offset and legality of the line of an entry; none where the access is suppressed. -/
def stepAddr (s : State) (k : UnitKind) (u : UnitNo) (st : EngStep) (r : LineReq) : Option (Nat × Int × Bool) :=
  let region := fun (seg : Nat) => some (st.region.1, ((st.region.2 + r.line * 1024 : Nat) : Int), regionOk s st seg)
  match k with
  | .garland => if st.num 1 1 = 0 then region (st.num 0x68 1) else some (st.seg, st.off + (r.line * 1024 : Nat), true)
  | .scatter =>
    if st.eop = 3 ∧ r.kind ≠ 3 then
      (groupLineOff s u st r).map fun o => (st.region.1, ((st.region.2 + o : Nat) : Int), regionOk s st st.scSeg)
    else region st.scSeg
  | .pavilion => walkAddr s u st r
  | .charm => fetchAddr s u st r
  | _ => none

/-- The store offset of the buffer a line is read into; none where the step names no buffer. -/
def stepBuffer (k : UnitKind) (st : EngStep) (r : LineReq) : Option Nat :=
  match k with
  | .garland => some (st.num 0x38 4 + 1024 * r.buf)
  | .scatter => some (st.scBufOff + 1024 * (if st.eop = 3 then r.buf % 8 else r.buf))
  | .charm => some (st.cBufOff + 1024 * r.idx)
  | _ => none

/-- Writes to a unit's own store, those that lie within it. -/
def storeWrites (k : UnitKind) (u : UnitNo) (ws : List (Nat × Bytes)) : List (Nat × Bytes) :=
  (ws.filter fun w => decide (w.1 + w.2.length ≤ storeBytes k)).map fun w => (unitKey u w.1, w.2)

def putStep (u : UnitNo) (st : EngStep) (s : State) : State := { s with engines := assocSet u st s.engines }

/-- Free values taken: the counter moves past every number they used (log entry 7). -/
def freeStride : Nat := 2 ^ 33

/-- One line read of a step, whose slot began in bead `t`: the line is kept, and stands in its buffer 18 beads later. -/
def readLineReq (k : UnitKind) (u : UnitNo) (r : LineReq) (st : EngStep) (s : State) : EngStep × State :=
  match stepAddr s k u st r with
  | none => (st, s)
  | some (seg, off, fine) =>
    let t := ((st.began : Int) + r.bead).toNat
    let x := if fine then readSegLineAt t u st.ctx seg off s else (zeros 1024, segFault st.ctx u seg off s)
    let st := { st with lines := assocSet r.idx x.1 st.lines }
    match stepBuffer k st r with
    | some b =>
      (st, { x.2 with effects :=
        { due := max (t + 18) (s.bead + 1), began := s.bead, unit := u, ctx := st.ctx,
          kind := .bytes (storeWrites k u [(b, x.1)]) } :: x.2.effects })
    | none => (st, x.2)

/-- What a line write of a step carries; none where it is not written. -/
def writeContent (s : State) (k : UnitKind) (u : UnitNo) (st : EngStep) (r : LineReq) : Option Bytes :=
  match k with
  | .garland => assoc r.idx st.outLines
  | .scatter =>
    match st.eop with
    | 1 => initLine s u st r
    | 2 => assoc r.idx st.outLines
    | _ => kvLine s u st r
  | .pavilion => if st.eop = 2 then insertLine s u st r else none
  | _ => none

/-- One line write of a step. -/
def writeLineReq (k : UnitKind) (u : UnitNo) (r : LineReq) (st : EngStep) (s : State) : State :=
  match writeContent s k u st r, stepAddr s k u st r with
  | some bs, some (seg, off, fine) =>
    if fine then writeSegLine 18 u st.ctx seg off bs s else segFault st.ctx u seg off s
  | _, _ => s

/-- The step forms what it writes later: the score lines of ATTN, the selection of SELECT (R192, R194). -/
def formResult (k : UnitKind) (u : UnitNo) (st : EngStep) (s : State) : EngStep × State :=
  match k with
  | .garland =>
    ({ st with outLines := if st.eop = 1 then scoreLines s u st else [], formed := true },
      { s with free := s.free + freeStride })
  | .scatter =>
    if st.eop = 2 then
      let r := selectForm s st
      let s := { s with free := s.free + freeStride }
      let s := match r.event with
        | some e => raiseCtx e st.ctx u st.opndArg s
        | none => s
      ({ st with outLines := r.lines, formed := true }, s.later 1 u st.ctx (.bytes (storeWrites k u [(st.scSlotOff, r.list)])))
    else ({ st with formed := true }, s)
  | _ => ({ st with formed := true }, s)

/-- The step forms its results; an input that is uncorrectable raises MEM_UE (R140). -/
def formStep (k : UnitKind) (u : UnitNo) (st : EngStep) (s : State) : EngStep × State :=
  let r := formResult k u st s
  (r.1, unitUe 1 u (stepReads k st) r.2)

/-- The bead in which a step forms its later writes: the end of selection, or the first write or last bead. -/
def formNow (k : UnitKind) (st : EngStep) (j : Nat) : Bool :=
  !st.formed &&
    if k = .scatter ∧ st.eop = 2 then decide (j + 1 = selEnd st ∨ j + 1 = st.len)
    else decide (j + 1 = st.len) || st.plan.any fun r => r.wr && decide (r.bead = j)

/-- The running m and l of the first 16 heads, as the row-statistics store keeps them (Table 6-1). -/
def rowStatsOf (s : State) (u : UnitNo) (st : EngStep) : List (Word × Word) :=
  let p := garDesc st
  (List.range (min p.kvhN 16)).flatMap fun hh =>
    let rows := (headRows s u st p (garView s u st) hh).getD []
    (List.range 32).map fun i => match rows[i]? with | some r => (r.m, r.l) | none => (negInf, 0)

/-- The results of a step, visible when it ends. -/
def finishStep (k : UnitKind) (u : UnitNo) (st : EngStep) (s : State) : State :=
  let ws :=
    match k with
    | .garland => if st.eop = 1 then attnWrites s u st else if st.eop = 2 then mergeWrites s u st else bwdWrites s u st
    | .cabochon => if st.eop = 1 then convWrites s u st else reformWrites s u st
    | .pavilion => if st.eop = 1 then walkWrites s u st else []
    | .charm => if st.eop = 1 then [(st.cOutOff, groupOut (groupIn s u st))] else []
    | _ => []
  let s := if k = .garland ∧ st.eop = 1 then { s with rowStats := assocSet u (rowStatsOf s u st) s.rowStats } else s
  let s := if k = .charm ∧ st.eop = 1 ∧ st.cDmax < (charmDistinct (groupIn s u st)).length then
      raiseCtx evCharmOverflow st.ctx u st.opndArg s
    else s
  { s.later 1 u st.ctx (.bytes (storeWrites k u ws)) with free := s.free + freeStride }

/-- The effects that a bead of a step has put in flight are those of the step's cue, for the order of R99. -/
def stampStep (u : UnitNo) (began : Nat) (s : State) : State :=
  { s with effects := s.effects.map fun e => if e.unit = u ∧ e.began = s.bead then { e with began := began } else e }

/-- The work of one bead of a step: its slots' reads and writes, its selection, and its end (R153, R172). -/
def engineBead (u : UnitNo) (s : State) : State :=
  match assoc u s.engines, unitKind u with
  | some st, some k =>
    let j := s.bead - st.began
    if st.cut ∨ st.len ≤ j then s
    else
      let st := { st with seen := s.bead }
      let reads := st.plan.filter fun r => !r.wr && decide (r.bead = (j : Int) ∨ (j = 0 ∧ r.bead < 0))
      let (st, s) := reads.foldl (fun x r => readLineReq k u r x.1 x.2) (st, s)
      let (st, s) := if formNow k st j then formStep k u st s else (st, s)
      let s := (st.plan.filter fun r => r.wr && decide (r.bead = (j : Int))).foldl (fun t r => writeLineReq k u r st t) s
      let s := if k = .garland ∧ st.eop = 1 ∧ j = 0 ∧ st.num 1 1 = 0 ∧ headerMagic st.header = false then
          raiseCtx evKvHeader st.ctx u st.opndArg s
        else s
      let s := if j + 1 = st.len then finishStep k u st s else s
      stampStep u st.began (putStep u st s)
  | _, _ => s

/-- The first 16 bytes that OPND names and, for a region, its header line as stored. -/
def startRef (k : UnitKind) (u : UnitNo) (st : EngStep) (s : State) : Bytes × State :=
  if takesRef k st then
    let (ref, s) := readStoreSeg 1 u st.ctx st.seg st.off 16 s
    let r := ({ st with ref := ref } : EngStep).region
    let hdr := match segLine s st.ctx r.1 (r.2 : Int) false with
      | some (ch, l) => (readLine st.ctx ch l s).1
      | none => zeros 1024
    (ref ++ hdr, s)
  else ([], s)

/-- An engine cue other than HOLD begins its step (R89). -/
def startStep (u : UnitNo) (i : Issue) (f : EngFields) (s : State) : State :=
  match unitKind u with
  | none => s
  | some k =>
    let dOff := issueAddr s i f.desc.toNat f.descStr.toNat
    let rd := fun (o : Int) (n : Nat) =>
      if 0 ≤ o ∧ o.toNat + n ≤ storeBytes k then readUnit s u o.toNat n else zeros n
    let st : EngStep :=
      { ctx := i.ctx, began := s.bead, len := 1, eop := f.eop.toNat, desc := rd dOff (descBytes k),
        seg := f.opnd.toNat / 2 ^ 34, off := issueAddr s i (f.opnd.toNat % 2 ^ 34) f.opndStr.toNat,
        mask := if k = .garland ∧ f.param.getLsbD 21 then i.mask (bits f.param.toNat 18 3) else 0xFFFFFFFF,
        plan := [], lines := [], ref := [], outLines := [], formed := false, seen := s.bead, cut := false }
    let lt := lineTable k st
    let s := unitUe 1 u [(dOff.toNat, descBytes k), (lt.1, 8 * lt.2)] s
    let st := { st with len := stepLen k st, plan := lineReqs (rd lt.1 (8 * lt.2)) }
    let (ref, s) := startRef k u st s
    engineBead u (putStep u { st with ref := ref } s)

/-- The begun engine cue of a unit of kind `k`, when it is of operation `eop`. -/
def engCue (k : UnitKind) (eop : Nat) (u : UnitNo) (i : Issue) : Option (State → State) :=
  match i.cue with
  | .eng f => if unitKind u = some k ∧ f.eop.toNat = eop then some (startStep u i f) else none
  | _ => none

/-! ## The commands -/

/-- LOOP: its bead counts as a HOLD bead of an engine step in progress (R171). -/
def execLoop (u : UnitNo) (s : State) : Host.Outcome State Fault Refusal :=
  ok (onIssue u (fun i => match i.cue with | .loop b t => some fun s => engineBead u (doLoop u i b t s) | _ => none) s)

/-- HOLD: a continuation bead of the engine's step. -/
def execHold (u : UnitNo) (s : State) : Host.Outcome State Fault Refusal :=
  ok (onIssue u (fun i => match i.cue with
    | .eng f => if f.eop = 0x3F then some (engineBead u) else none
    | _ => none) s)

def execAttn (u : UnitNo) (s : State) : Host.Outcome State Fault Refusal := ok (onIssue u (engCue .garland 1 u) s)
def execMerge (u : UnitNo) (s : State) : Host.Outcome State Fault Refusal := ok (onIssue u (engCue .garland 2 u) s)
def execBwd (u : UnitNo) (s : State) : Host.Outcome State Fault Refusal := ok (onIssue u (engCue .garland 3 u) s)
def execInit (u : UnitNo) (s : State) : Host.Outcome State Fault Refusal := ok (onIssue u (engCue .scatter 1 u) s)
def execSelect (u : UnitNo) (s : State) : Host.Outcome State Fault Refusal := ok (onIssue u (engCue .scatter 2 u) s)
def execWriteKv (u : UnitNo) (s : State) : Host.Outcome State Fault Refusal := ok (onIssue u (engCue .scatter 3 u) s)
def execGroup (u : UnitNo) (s : State) : Host.Outcome State Fault Refusal := ok (onIssue u (engCue .charm 1 u) s)
def execFetch (u : UnitNo) (s : State) : Host.Outcome State Fault Refusal := ok (onIssue u (engCue .charm 2 u) s)
def execWalk (u : UnitNo) (s : State) : Host.Outcome State Fault Refusal := ok (onIssue u (engCue .pavilion 1 u) s)
def execInsert (u : UnitNo) (s : State) : Host.Outcome State Fault Refusal := ok (onIssue u (engCue .pavilion 2 u) s)
def execConv (u : UnitNo) (s : State) : Host.Outcome State Fault Refusal := ok (onIssue u (engCue .cabochon 1 u) s)
def execReform (u : UnitNo) (s : State) : Host.Outcome State Fault Refusal := ok (onIssue u (engCue .cabochon 2 u) s)

end Sys2Proof.Machine
end

