-- ==== Sys2Proof/Machine/StepCheck.lean ====
section
/-! DEFINITION. What the verifier knows of an engine step: the ranges of its descriptor, its line times and its accesses
(R97, R171, R184 to R188, R193, R225, R227, R228, R231, R236 to R245). -/

namespace Sys2Proof.Machine

/-! ## Accesses -/

/-- Where an access goes: the Facet's own scratch, a segment, the unit's own store or buffer, or its mailbox. -/
inductive Place where
  | own | seg (n : Nat) | store | mail
deriving DecidableEq, Repr

/-- One access: place, base and stride set, alignment, length, direction, remote, the last bead it reads in or the beads
to its visibility, and its first fc with the words it moves in each (0: it touches no bank). Beads count from `start`, which
counts from the cue's own. -/
structure Access where
  place : Place
  base : Nat
  set : Nat
  align : Nat
  len : Nat
  wr : Bool
  fab : Bool
  beads : Nat
  fc : Nat
  per : Nat
  start : Int := 0
deriving DecidableEq, Repr

def rdOwn (base set align len fc per : Nat) : Access := ⟨.own, base, set, align, len, false, false, 0, fc, per, 0⟩
def wrOwn (base set align len fc per : Nat) : Access := ⟨.own, base, set, align, len, true, false, 2, fc, per, 0⟩

/-- An access through a 40-bit segment-relative address. -/
def viaSeg (a set align len : Nat) (wr : Bool) (beads fc per : Nat) : Access :=
  ⟨.seg (a / 2 ^ 34), a % 2 ^ 34, set, align, len, wr, false, beads, fc, per, 0⟩

/-- An access to the unit's own store or buffer. -/
def viaStore (base set align len : Nat) (wr : Bool) (beads : Nat) : Access := ⟨.store, base, set, align, len, wr, false, beads, 0, 0, 0⟩

/-- The descriptor that a step's cue names, as the verifier knows it, and its length. -/
def stepOf (k : UnitKind) (f : EngFields) (desc : Bytes) : EngStep :=
  let st : EngStep :=
    { ctx := 0, began := 0, len := 1, eop := f.eop.toNat, desc := slice desc 0 (descBytes k), seg := f.opnd.toNat / 2 ^ 34,
      off := (f.opnd.toNat % 2 ^ 34 : Nat), mask := 0xFFFFFFFF, plan := [], lines := [], ref := [], outLines := [], formed := false,
      seen := 0, cut := false }
  { st with len := stepLen k st }

/-- Every byte of the descriptor's ranges is 0. -/
def EngStep.unused (st : EngStep) (rs : List (Nat × Nat)) : Bool := rs.all fun r => allZero (slice st.desc r.1 r.2)

def powerOfTwo (n : Nat) : Bool := decide (n ≠ 0 ∧ 2 ^ Nat.log2 n = n)

/-! ## Garland (Table 6-6) -/

/-- Fields that a step does not use are 0 (R184); which a step uses is read from its work (log entry 23). -/
def garUnused (st : EngStep) : List (Nat × Nat) :=
  let p := garDesc st
  let opt := fun (used : Bool) (off n : Nat) => if used then [] else [(off, n)]
  let keys := (if p.region then [(0x4C, 4), (0x50, 8)] else [(0x12, 2), (0x64, 4)])
    ++ opt p.fresh 0x34 4 ++ opt p.windowed 0x18 4 ++ opt p.bf 0xC 4
  (0x69, 23) :: match st.eop with
    | 1 => [(0x58, 12)] ++ keys ++ opt p.stats 0x40 4 ++ opt (!p.isPartial) 0xB 1
    | 2 => [(1, 1), (3, 1), (8, 1), (0xA, 1), (0xC, 0x20), (0x38, 4), (0x40, 0x29)] ++ opt p.final 0xB 1
    | _ => [(0xB, 1), (0x2A, 2)] ++ keys

/-- The FLAGS that a step may have set. -/
def garFlags (st : EngStep) : Bool :=
  let p := garDesc st
  match st.eop with
  | 1 => decide (p.flags < 0x80) && (if p.region then !p.packed else !p.score)
  | 2 => decide (p.flags % 0x80 = 0 ∧ p.flags < 0x100)
  | _ => decide (p.flags < 0x10) && !(p.region && p.packed)

/-- FMTS: both BF16, or both FP8 (R173). -/
def garFormats (v : Nat) : Bool :=
  let q := bits v 0 3
  let k := bits v 3 3
  decide (v < 64) && decide ((q = 4 ∧ k = 4) ∨ ((q = 2 ∨ q = 3) ∧ (k = 2 ∨ k = 3)))

/-- The ranges of Table 6-6, and alignment. CHUNK_LO and CHUNK_SPAN are not used by a MERGE, and so are 0 there and not held to
be a power of two (DESIGN CHOICE, log entry 23). -/
def garRanges (st : EngStep) : Bool :=
  let p := garDesc st
  let qp := st.num 5 1
  let outFmt := decide (st.num 0xB 1 = 5 ∨ st.num 0xB 1 = 6)
  decide (st.num 0 1 = st.eop ∧ st.num 1 1 ≤ 1 ∧ st.num 2 1 ≤ 2 ∧ 1 ≤ st.num 4 1 ∧ st.num 4 1 ≤ 16 ∧ 1 ≤ qp ∧ qp ≤ 32
      ∧ st.num 4 1 * qp ≤ 32 ∧ p.fold ≤ 10 ∧ 1 ≤ p.kvhN ∧ p.kvhN ≤ 64)
    && garFlags st && st.unused (garUnused st)
    && (if st.eop = 2 then true
        else garFormats (st.num 3 1) && powerOfTwo p.span && decide (p.lo % p.span = 0) && (!p.windowed || decide (1 ≤ p.window)))
    && (if st.eop = 1 ∧ p.isPartial = false ∨ st.eop = 2 ∧ p.final then outFmt else true)
    && [0x30, 0x34, 0x38, 0x3C, 0x40, 0x44, 0x4C, 0x58, 0x5C].all fun o => decide (st.num o 4 % 64 = 0)

/-- The bytes of K, or V, of a work unit's keys touch a line that LINE counts from OPND (PLAIN mode). -/
def unitTouches (p : GarDesc) (vDelta : Nat) (isV : Bool) (j hh line : Nat) : Bool :=
  let n := p.d * p.ek
  (List.range 32).any fun t =>
    let o := plainOff p vDelta isV (32 * j + t) (p.kvh + hh)
    decide (o / 1024 ≤ line ∧ line ≤ (o + n - 1) / 1024)

/-- R187: some read of the line is visible by bead `b`. -/
def lineBy (lines : List LineReq) (r : LineReq) (b : Int) : Bool :=
  lines.any fun q => !q.wr && decide (q.kind = r.kind ∧ q.line = r.line ∧ q.bead + 18 ≤ b)

/-- R187 for the lines that ATTN reads: K and V by the phases of their units, header, map and scores by bead 2. Which units the K
and V lines of a region serve hangs on its header, which the verifier does not have: their last phase bounds them (log entry 23). -/
def attnReads (st : EngStep) (lines : List LineReq) : Bool :=
  let p := garDesc st
  let u := st.num 0x28 2
  let nu := p.kvhN * p.range.length
  (lines.filter fun r => !r.wr).all fun r =>
    let isV := decide (r.kind = 1)
    if r.kind = 0 ∨ r.kind = 1 then
      if p.region then lineBy lines r ((2 + (nu - 1 + b2n isV) * u : Nat) : Int)
      else
        p.range.zipIdx.all fun jb => (List.range p.kvhN).all fun hh =>
          !unitTouches p (st.num 0x50 8) isV jb.1 hh r.line || lineBy lines r ((2 + (jb.2 * p.kvhN + hh + b2n isV) * u : Nat) : Int)
    else if r.kind = 4 then true
    else decide (r.bead + 18 ≤ 2)

/-- Garland: ranges, U and s, and line times (R184, R186 to R188). -/
def garlandOk (st : EngStep) (lines : List LineReq) : Bool :=
  let p := garDesc st
  let r := if p.bf then 2 else 1
  let pd := if p.d ≤ 128 then 1 else 2
  let unitT := max 1 (cdiv (p.g * st.num 5 1 * p.d * r) 512)
  let u := st.num 0x28 2
  let nu := p.kvhN * p.range.length
  let w := (nu + 1) * u + 2 + 2 * p.kvhN
  garRanges st && decide (st.num 0x2C 4 = st.len)
    && (if st.eop = 1 then
          decide (unitT ≤ u ∧ st.num 0x2C 4 = 2 + pd * w + st.num 0x2A 2) && attnReads st lines
            && lines.all fun l => !l.wr || decide ((2 + pd * w : Nat) ≤ l.bead ∧ l.bead < (st.num 0x2C 4 : Nat))
        else if st.eop = 3 then decide (max unitT 2 ≤ u ∧ nu ≤ 96) else true)

/-! ## Scatter, walker and charm engine -/

def scatterOk (st : EngStep) : Bool :=
  decide (st.num 0 1 = st.eop ∧ 1 ≤ st.scNmax ∧ st.scNmax ≤ 32 ∧ st.scSeg < 64) && st.unused [(3, 1), (0xA, 2), (0x28, 24)]

/-- R227 for a WALK, and the writes of R228 for an INSERT. -/
def walkTimes (st : EngStep) (lines : List LineReq) : Bool :=
  let nodes := lines.filter fun r => !r.wr && decide (r.kind = 8)
  let donors := lines.filter fun r => !r.wr && decide (r.kind = 9 ∨ r.kind = 10)
  let after := fun (r : LineReq) => nodes.all fun n => decide (n.buf ≠ r.buf) || decide (n.bead + 19 ≤ r.bead)
  if st.eop = 1 then
    nodes.all (fun r => decide ((2 + st.wNblk : Nat) ≤ r.bead)) && donors.all after
      && donors.all fun r => decide (r.bead + 20 ≤ (st.num 0x30 4 : Nat))
  else (lines.filter (·.wr)).all after

def walkerOk (st : EngStep) (lines : List LineReq) : Bool :=
  decide (st.num 0 1 = st.eop ∧ 1 ≤ st.wNblk ∧ st.wNblk ≤ 64 ∧ st.wTb ≤ 20 ∧ st.wTableSeg < 64 ∧ st.wPoolSeg < 64)
    && st.unused [(7, 1), (0x38, 8)] && walkTimes st lines

def charmOk (st : EngStep) : Bool := if st.eop = 2 then decide (1 ≤ st.cDmax ∧ st.cDmax ≤ 32 ∧ st.cSeg < 64) else true

/-! ## Cabochon (R236 to R245) -/

/-- R236 for a planar tensor of `h` rows of `w` bytes. -/
def planarOk (base row plane h w : Nat) : Bool :=
  decide (base % 256 = 0 ∧ plane % 256 = 0 ∧ row % 32 = 0 ∧ w ≤ row ∧ h * row ≤ plane)

/-- R237 for a phase-form tile of `c` channels. -/
def phaseOk (o : CabOut) (base e c : Nat) : Bool :=
  decide (1 ≤ o.q ∧ o.q ≤ 64 ∧ o.q ≤ o.p ∧ 1 ≤ o.h ∧ o.h ≤ 255 ∧ c ≤ o.cp ∧ o.cp % (if e = 1 then 16 else 8) = 0 ∧ base % 512 = 0)

/-- Every in-image position of the planar input lies in the buffer (R245). -/
def bufferHolds (st : EngStep) : Bool :=
  let d := cabDesc st
  (planarReads st).all fun p =>
    (planarOff d p.1 p.2.1 p.2.2).isNone
      || decide (d.inY0 ≤ p.2.1 ∧ p.2.1 < d.inY0 + (d.inH : Nat) ∧ d.inX0 ≤ p.2.2 ∧ p.2.2 < d.inX0 + (d.inW : Nat))

/-- Distinct 256-byte words that ranges touch (R244). -/
def words256 (rs : List (Nat × Nat)) : Nat :=
  ((rs.filter fun r => r.2 ≠ 0).flatMap fun r => span (r.1 / 256) ((r.1 + r.2 - 1) / 256 + 1)).eraseDups.length

/-- Rows and columns that the planar output takes. -/
def outExtent (st : EngStep) : Nat × Nat :=
  let d := cabDesc st
  let o := cabOut st
  if st.eop = 1 then (min 16 (o.outH - o.oy), min 16 (o.outW - o.ox))
  else if d.mode = 1 then
    ((phasePlaces o).filter fun (pl : (Nat × Nat × Nat) × Int × Int) =>
        decide (pl.1.2.1 < o.q ∧ (o.oy : Int) ≤ pl.2.1 ∧ pl.2.1 < (o.outH : Int) ∧ (o.ox : Int) ≤ pl.2.2 ∧ pl.2.2 < (o.outW : Int))).foldl
      (fun a pl => (max a.1 ((pl.2.1 - (o.oy : Int)).toNat + 1), max a.2 ((pl.2.2 - (o.ox : Int)).toNat + 1))) (0, 0)
  else (d.inH, d.inW)

/-- Fields that a step does not use are 0 (R240, log entry 24). -/
def cabUnused (st : EngStep) : List (Nat × Nat) :=
  let mode := (cabDesc st).mode
  [(0x16, 2), (0x56, 2), (0x5C, 36)] ++
    if st.eop = 1 then
      (if (st.num 5 1).testBit 1 then [] else [(0x58, 4)]) ++ (if mode = 0 then [(0x14, 2), (0x4C, 10)] else [(0x44, 8)])
    else
      [(3, 3), (7, 10), (0x14, 2), (0x3C, 4), (0x58, 4)] ++ match mode with
        | 0 => [(0x34, 8), (0x44, 8)]
        | 1 => [(0x12, 2), (0x1C, 4), (0x24, 16)]
        | _ => [(0x12, 2), (0x1C, 4), (0x2C, 4), (0x34, 8), (0x4C, 10)]

/-- A format whose elements are whole bytes: planar and phase forms place elements by bytes (R236, R237; DEDUCED, log entry 24). -/
def wholeBytes (code : Nat) : Bool := decide (1 ≤ code) && (roundFmt code).isSome

/-- What both operations are held to. -/
def cabCommon (st : EngStep) : Bool :=
  let d := cabDesc st
  let o := cabOut st
  let eo := if st.eop = 1 then fmtBits d.fout / 8 else fmtBits d.fin / 8
  let phaseOut := decide (st.eop = 1 ∧ d.mode = 1 ∨ st.eop = 2 ∧ d.mode = 0)
  let phaseIn := decide (st.eop = 2 ∧ d.mode = 1)
  let ext := outExtent st
  decide (st.num 0 1 = st.eop ∧ st.num 5 1 < 4 ∧ d.inOff % 64 = 0 ∧ o.outOff % 64 = 0 ∧ st.num 0x3C 4 % 64 = 0 ∧ st.num 0x58 4 % 4 = 0)
    && st.unused (cabUnused st) && wholeBytes (st.num 2 1)
    && decide (1 ≤ st.num 0x11 1 ∧ st.num 0x11 1 ≤ 16 ∧ (st.num 0x11 1 = 1 ∨ st.eop = 2 ∧ d.mode = 0))
    && (if phaseOut then phaseOk o o.outOff eo (if st.eop = 1 then d.noc else d.nic * d.xexp)
        else planarOk o.outOff o.outRow o.outPlane ext.1 (ext.2 * eo))
    && (if phaseIn then phaseOk o d.inOff eo d.nic else planarOk d.inOff d.inRow d.inPlane d.inH (d.inW * (fmtBits d.fin / 8)))
    && (st.eop = 2 && d.mode ≠ 0 || bufferHolds st)

/-- CONV: R239, the weights, and s (R244). -/
def convOk (st : EngStep) : Bool :=
  let d := cabDesc st
  let kh := st.num 8 1
  let kw := st.num 9 1
  let r := if d.fin = .bf16 then 2 else 1
  let stride := fun (n : Nat) => decide (n = 1 ∨ n = 2 ∨ n = 4)
  let input := fun (c : Nat) => decide (c ≠ 0 ∧ c ≠ 2 ∧ c < 6)
  let ne := ((convMoves st).filter fun m => m.src ≠ .zero).length
  decide (1 ≤ d.nic ∧ d.nic ≤ 64 ∧ 1 ≤ d.noc ∧ d.noc ≤ 64 ∧ (d.nic ≤ 4 ∨ d.noc ≤ 4) ∧ 1 ≤ kh ∧ kh ≤ 11 ∧ 1 ≤ kw ∧ kw ≤ 11
      ∧ st.num 0xC 1 ≤ 10 ∧ st.num 0xD 1 ≤ 10 ∧ 1 ≤ st.num 4 1 ∧ st.num 4 1 ≤ 6 ∧ d.mode ≤ 1 ∧ (d.fin = .bf16 ∨ st.num 0xE 2 = 0))
    && input (st.num 2 1) && input (st.num 3 1) && (macDepth d.fin d.fw).isSome && stride (st.num 0xA 1) && stride (st.num 0xB 1)
    && decide (st.num 0x18 4 = 4 + max (cdiv (d.nic * d.noc * kh * kw * r) 16) (max (cdiv (words256 (cabInputs st)) 16) (cdiv ne 1024)))

/-- REFORM: its channels and s (R244). -/
def reformOk (st : EngStep) : Bool :=
  let d := cabDesc st
  decide (d.mode ≤ 2 ∧ 1 ≤ d.nic ∧ d.nic ≤ 64)
    && decide (st.num 0x18 4 = 3 + max (cdiv (words256 (cabInputs st)) 16) (cdiv (words256 (cabOutputs st)) 16))

def cabochonOk (st : EngStep) : Bool := cabCommon st && if st.eop = 1 then convOk st else reformOk st

/-- A step's descriptor is in its ranges, by engine kind (R184, R193, R225, R231, R245); that its bytes lie in the store is a check
of its accesses. -/
def descOk (k : UnitKind) (st : EngStep) : Bool :=
  match k with
  | .garland => garlandOk st st.plan
  | .cabochon => cabochonOk st
  | .scatter => scatterOk st
  | .pavilion => walkerOk st st.plan
  | .charm => charmOk st
  | _ => true

/-! ## The accesses of a step (R97, log entry 23) -/

/-- A line read: its buffer is in flight until 18 beads after the slot's start, and read from then on. -/
def bufferAccesses (st : EngStep) (r : LineReq) (b : Nat) : List Access :=
  [{ viaStore b 0 1 1024 true 18 with start := r.bead },
    { viaStore b 0 1 1024 false ((st.len : Int) - 1 - (r.bead + 18)).toNat with start := r.bead + 18 }]

/-- The line itself, where its place is static: a PLAIN tensor's. -/
def lineAccesses (k : UnitKind) (f : EngFields) (st : EngStep) (r : LineReq) : List Access :=
  if k = .garland ∧ st.eop ≠ 2 ∧ st.num 1 1 = 1 then
    [{ place := .seg (f.opnd.toNat / 2 ^ 34), base := f.opnd.toNat % 2 ^ 34 + 1024 * r.line, set := f.opndStr.toNat, align := 1024,
       len := 1024, wr := r.wr, fab := false, beads := if r.wr then 18 else 13, fc := 0, per := 0, start := r.bead }]
  else []

/-- Inputs are read in every bead of the step (R245 for the Cabochon); results are in flight until they are visible. -/
def stepAccesses (k : UnitKind) (f : EngFields) (st : EngStep) : List Access :=
  let lt := lineTable k st
  viaStore f.desc.toNat f.descStr.toNat 64 (descBytes k) false (st.len - 1)
    :: (if lt.2 = 0 then [] else [viaStore lt.1 0 1 (8 * lt.2) false (st.len - 1)])
    ++ (if takesRef k st then [viaSeg f.opnd.toNat f.opndStr.toNat 1 16 false 0 0 0] else [])
    ++ (stepReads k st).map (fun r => viaStore r.1 0 1 r.2 false (st.len - 1))
    ++ (stepOutputs k st).map (fun r => viaStore r.1 0 1 r.2.1 true r.2.2)
    ++ (st.plan.flatMap fun r => match stepBuffer k st r with | some b => if r.wr then [] else bufferAccesses st r b | none => [])
    ++ st.plan.flatMap (lineAccesses k f st)

/-- Beads after its cue's own in which a step, or a line that it has moved, is in flight (R359). -/
def stepTail (st : EngStep) : Nat := st.plan.foldl (fun a r => max a (r.bead + 17).toNat) (st.len - 1)

end Sys2Proof.Machine
end

