-- ==== Sys2Proof/Machine/Vec.lean ====
section
/-! DEFINITION. The vector cues of the edge lanes (R61 to R64, R87, R88). -/

namespace Sys2Proof.Machine

/-- How an operation reads and writes: formats of A and D, and the operands it takes beside A. -/
inductive VShape where
  /-- one operand -/
  | un (f : Nat → Nat)
  /-- two operands -/
  | bin (f : Word → Word → Word)
  /-- three operands -/
  | tern (f : Word → Word → Word → Word)
  /-- a tree operation: B where the lane mask says it is present -/
  | tree (f : Word → Word → Word)
  /-- PACK -/
  | pack

/-- The format of operand A of an operation (R87). -/
def vopIn : VOp → Fmt
  | .fromBf16 => .bf16 | .fromE4m3 => .e4m3 | .fromE5m2 => .e5m2 | .fromI8 => .int8 | .fromI4 => .int4 | _ => .fp32

/-- The format of the destination of an operation (R87). -/
def vopOut : VOp → Fmt
  | .toBf16 => .bf16 | .toE4m3 => .e4m3 | .toE5m2 => .e5m2 | .toI8 => .int8 | .toI4 => .int4 | _ => .fp32

/-- A function of one FP32 word as a function of codes. -/
def onWord (f : Word → Word) (a : Nat) : Nat := (f (BitVec.ofNat 32 a)).toNat

/-- An INT32 1 or 0 for a comparison. -/
def flagWord (f : Word → Word → Bool) (a b : Word) : Word := if f a b then 1 else 0

/-- What each operation computes (Table 3-11, Table 2-8), with E_OUT and SAT of a narrowing conversion. -/
def vopShape (eOut : Int) (sat : Bool) : VOp → VShape
  | .add => .bin fpAdd
  | .sub => .bin fpSub
  | .mul => .bin fpMul
  | .fma => .tern fpFma
  | .min => .bin fpMin
  | .max => .bin fpMax
  | .abs => .un (onWord fpAbs)
  | .neg => .un (onWord fpNeg)
  | .cmpEq => .bin (flagWord fpEq)
  | .cmpLt => .bin (flagWord fpLt)
  | .cmpLe => .bin (flagWord fpLe)
  | .rcp => .un (onWord fpRcp)
  | .rsqrt => .un (onWord fpRsqrt)
  | .sqrt => .un (onWord fpSqrt)
  | .exp2 => .un (onWord fpExp2)
  | .log2 => .un (onWord fpLog2)
  | .sin2pi => .un (onWord fpSin2pi)
  | .cos2pi => .un (onWord fpCos2pi)
  | .cvtFromI32 => .un (onWord fpOfI32)
  | .cvtToI32 => .un (onWord fpToI32)
  | .fromBf16 => .un fun a => (fpFrom .bf16 a).toNat
  | .fromE4m3 => .un fun a => (fpFrom .e4m3 a).toNat
  | .fromE5m2 => .un fun a => (fpFrom .e5m2 a).toNat
  | .fromI8 => .un fun a => (fpFrom .int8 a).toNat
  | .fromI4 => .un fun a => (fpFrom .int4 a).toNat
  | .toBf16 => .un fun a => fpTo .bf16 eOut sat (BitVec.ofNat 32 a)
  | .toE4m3 => .un fun a => fpTo .e4m3 eOut sat (BitVec.ofNat 32 a)
  | .toE5m2 => .un fun a => fpTo .e5m2 eOut sat (BitVec.ofNat 32 a)
  | .toI8 => .un fun a => fpTo .int8 eOut sat (BitVec.ofNat 32 a)
  | .toI4 => .un fun a => fpTo .int4 eOut sat (BitVec.ofNat 32 a)
  | .copy => .un id
  | .pick => .tern fun a b c => if c ≠ 0 then a else b
  | .tadd => .tree fpAdd
  | .tmin => .tree fpMin
  | .tmax => .tree fpMax
  | .pack => .pack

/-- The byte writes of elements in lanes the mask names; a nibble beside one that is not written keeps its value. -/
def laneWrites (f : Fmt) (mask : Word) (codes : List Nat) (old : Bytes) : List (Nat × Bytes) :=
  if mask = 0xFFFFFFFF then [(0, packElems f codes)]
  else
    match f with
    | .int4 =>
      let merged := ((codes.zip (elems .int4 old)).zipIdx.map fun x => if bit mask (x.2 % 32) then x.1.1 else x.1.2)
      ((packElems .int4 merged).zipIdx.filter fun x => bit mask (2 * x.2 % 32) || bit mask ((2 * x.2 + 1) % 32)).map
        fun x => (x.2, [x.1])
    | _ =>
      let k := fmtBits f / 8
      (codes.zipIdx.filter fun x => bit mask (x.2 % 32)).map fun x => (x.2 * k, leBytes k x.1)

/-- The words of PACK: bit l of word e tells whether element (e, l) is not zero; a masked lane gives 0 (R88). -/
def packWords (mask : Word) (codes : List Nat) : List Nat :=
  (chunks 32 codes).map fun r => (r.zipIdx.filter fun x => bit mask x.2 && decide (x.1 ≠ 0)).foldl (fun a x => a + 2 ^ x.2) 0

/-- A 32-bit word from a code. -/
abbrev wordOf (a : Nat) : Word := BitVec.ofNat 32 a

/-- The codes of an operand of `n` elements (R87). -/
def readElems (u : UnitNo) (i : Issue) (n : Nat) (off : BitVec 16) (str : BitVec 6) (fm : Fmt) (s : State) :
    List Nat × State :=
  let r := readOwn 2 u i.ctx (issueAddr s i (4 * off.toNat) str.toNat) (elemBytes fm n) s
  (elems fm r.1, r.2)

/-- The codes of the result elements (R88), with the state that the reads leave. -/
def vecCodes (op : VOp) (u : UnitNo) (i : Issue) (f : VecFields) (s : State) : List Nat × State :=
  let n := 32 * (f.n.toNat + 1)
  let mask := i.rowMask f.lmen f.lmreg
  let a := readElems u i n f.aOff f.aStr (vopIn op) s
  match vopShape (f.cOff.extractLsb' 8 8).toInt (f.cOff.getLsbD 7) op with
  | .un g => (a.1.map g, a.2)
  | .bin g =>
    let b := readElems u i n f.bOff f.bStr .fp32 a.2
    (List.zipWith (fun x y => (g (wordOf x) (wordOf y)).toNat) a.1 b.1, b.2)
  | .tern g =>
    let b := readElems u i n f.bOff f.bStr .fp32 a.2
    let c := readElems u i n f.cOff f.cStr .fp32 b.2
    (List.zipWith (fun x (yz : Nat × Nat) => (g (wordOf x) (wordOf yz.1) (wordOf yz.2)).toNat) a.1 (b.1.zip c.1), c.2)
  | .tree g =>
    let b := readElems u i n f.bOff f.bStr .fp32 a.2
    ((a.1.zip b.1).zipIdx.map fun x =>
      if bit mask (x.2 % 32) then (g (wordOf x.1.1) (wordOf x.1.2)).toNat else x.1.1, b.2)
  | .pack => (packWords mask a.1, a.2)

/-- The operations whose mask does not say which elements are written (R88). -/
def vopWhole : VOp → Bool
  | .tadd | .tmin | .tmax | .pack => true
  | _ => false

/-- Bytes of the destination of an operation over `n + 1` elements per lane (R87, R88). -/
def vopBytes (op : VOp) (n : Nat) : Nat := if op = .pack then 4 * (n + 1) else elemBytes (vopOut op) (32 * (n + 1))

/-- A vector cue (R87, R88): reads in its bead, writes visible two beads later. -/
def doVec (op : VOp) (u : UnitNo) (i : Issue) (f : VecFields) (s : State) : State :=
  let mask := if vopWhole op then 0xFFFFFFFF else i.rowMask f.lmen f.lmreg
  let dst := issueAddr s i (4 * f.dOff.toNat) f.dStr.toNat
  let bytes := vopBytes op f.n.toNat
  let old := match ownKey s i.ctx (unitIdx u) dst bytes with
    | some k => memRead s.store k bytes
    | none => []
  let (codes, s) := vecCodes op u i f s
  let (ws, s) := writeOwn u i.ctx dst bytes (laneWrites (vopOut op) mask codes old) s
  s.later 2 u i.ctx (.bytes ws)

/-- The begun vector cue of a unit, when it is of operation `op`. -/
def vecCue (op : VOp) (u : UnitNo) (i : Issue) : Option (State → State) :=
  match i.cue with
  | .vec o f => if o = op then some (doVec op u i f) else none
  | _ => none

/-! ## The commands -/

def execAdd (u : UnitNo) (s : State) : Host.Outcome State Fault Refusal := ok (onIssue u (vecCue .add u) s)
def execSub (u : UnitNo) (s : State) : Host.Outcome State Fault Refusal := ok (onIssue u (vecCue .sub u) s)
def execMul (u : UnitNo) (s : State) : Host.Outcome State Fault Refusal := ok (onIssue u (vecCue .mul u) s)
def execFma (u : UnitNo) (s : State) : Host.Outcome State Fault Refusal := ok (onIssue u (vecCue .fma u) s)
def execMin (u : UnitNo) (s : State) : Host.Outcome State Fault Refusal := ok (onIssue u (vecCue .min u) s)
def execMax (u : UnitNo) (s : State) : Host.Outcome State Fault Refusal := ok (onIssue u (vecCue .max u) s)
def execAbs (u : UnitNo) (s : State) : Host.Outcome State Fault Refusal := ok (onIssue u (vecCue .abs u) s)
def execNeg (u : UnitNo) (s : State) : Host.Outcome State Fault Refusal := ok (onIssue u (vecCue .neg u) s)
def execCmpEq (u : UnitNo) (s : State) : Host.Outcome State Fault Refusal := ok (onIssue u (vecCue .cmpEq u) s)
def execCmpLt (u : UnitNo) (s : State) : Host.Outcome State Fault Refusal := ok (onIssue u (vecCue .cmpLt u) s)
def execCmpLe (u : UnitNo) (s : State) : Host.Outcome State Fault Refusal := ok (onIssue u (vecCue .cmpLe u) s)
def execRcp (u : UnitNo) (s : State) : Host.Outcome State Fault Refusal := ok (onIssue u (vecCue .rcp u) s)
def execRsqrt (u : UnitNo) (s : State) : Host.Outcome State Fault Refusal := ok (onIssue u (vecCue .rsqrt u) s)
def execSqrt (u : UnitNo) (s : State) : Host.Outcome State Fault Refusal := ok (onIssue u (vecCue .sqrt u) s)
def execExp2 (u : UnitNo) (s : State) : Host.Outcome State Fault Refusal := ok (onIssue u (vecCue .exp2 u) s)
def execLog2 (u : UnitNo) (s : State) : Host.Outcome State Fault Refusal := ok (onIssue u (vecCue .log2 u) s)
def execSin2pi (u : UnitNo) (s : State) : Host.Outcome State Fault Refusal := ok (onIssue u (vecCue .sin2pi u) s)
def execCos2pi (u : UnitNo) (s : State) : Host.Outcome State Fault Refusal := ok (onIssue u (vecCue .cos2pi u) s)
def execCvtFromI32 (u : UnitNo) (s : State) : Host.Outcome State Fault Refusal := ok (onIssue u (vecCue .cvtFromI32 u) s)
def execCvtToI32 (u : UnitNo) (s : State) : Host.Outcome State Fault Refusal := ok (onIssue u (vecCue .cvtToI32 u) s)
def execFromBf16 (u : UnitNo) (s : State) : Host.Outcome State Fault Refusal := ok (onIssue u (vecCue .fromBf16 u) s)
def execFromE4m3 (u : UnitNo) (s : State) : Host.Outcome State Fault Refusal := ok (onIssue u (vecCue .fromE4m3 u) s)
def execFromE5m2 (u : UnitNo) (s : State) : Host.Outcome State Fault Refusal := ok (onIssue u (vecCue .fromE5m2 u) s)
def execFromI8 (u : UnitNo) (s : State) : Host.Outcome State Fault Refusal := ok (onIssue u (vecCue .fromI8 u) s)
def execFromI4 (u : UnitNo) (s : State) : Host.Outcome State Fault Refusal := ok (onIssue u (vecCue .fromI4 u) s)
def execToBf16 (u : UnitNo) (s : State) : Host.Outcome State Fault Refusal := ok (onIssue u (vecCue .toBf16 u) s)
def execToE4m3 (u : UnitNo) (s : State) : Host.Outcome State Fault Refusal := ok (onIssue u (vecCue .toE4m3 u) s)
def execToE5m2 (u : UnitNo) (s : State) : Host.Outcome State Fault Refusal := ok (onIssue u (vecCue .toE5m2 u) s)
def execToI8 (u : UnitNo) (s : State) : Host.Outcome State Fault Refusal := ok (onIssue u (vecCue .toI8 u) s)
def execToI4 (u : UnitNo) (s : State) : Host.Outcome State Fault Refusal := ok (onIssue u (vecCue .toI4 u) s)
def execVecCopy (u : UnitNo) (s : State) : Host.Outcome State Fault Refusal := ok (onIssue u (vecCue .copy u) s)
def execPick (u : UnitNo) (s : State) : Host.Outcome State Fault Refusal := ok (onIssue u (vecCue .pick u) s)
def execTadd (u : UnitNo) (s : State) : Host.Outcome State Fault Refusal := ok (onIssue u (vecCue .tadd u) s)
def execTmin (u : UnitNo) (s : State) : Host.Outcome State Fault Refusal := ok (onIssue u (vecCue .tmin u) s)
def execTmax (u : UnitNo) (s : State) : Host.Outcome State Fault Refusal := ok (onIssue u (vecCue .tmax u) s)
def execPack (u : UnitNo) (s : State) : Host.Outcome State Fault Refusal := ok (onIssue u (vecCue .pack u) s)

end Sys2Proof.Machine
end

