-- ==== Sys2Proof/Machine/Verify.lean ====
section
/-! DEFINITION. The Strand verifier: the encoding checks of one image (R42, R53, R56, R57, R78, R82, R84 to R86, R101,
R107, R171, R184 to R188, R204, R225, R231, R238 to R245, R272, R359, R473, R474, Table 3-15). -/

namespace Sys2Proof.Machine

/-! ## Classes (R66, R76, R78, R89, R90, R473) -/

/-- The POP values that a port kind defines. -/
def popDefined (k : UnitKind) (pop : Nat) : Bool :=
  match k with
  | .clasp => decide (1 ≤ pop ∧ pop ≤ 2)
  | .fabric => decide (1 ≤ pop ∧ pop ≤ 3)
  | .host => decide (1 ≤ pop ∧ pop ≤ 5)
  | _ => false

/-- The cue may run on the unit kind: its class is the kind's, and its operation is defined there. -/
def cueAllowed (k : UnitKind) : Cue → Bool
  | .idleLoad _ => decide (k = .facet ∨ k = .edge ∨ k = .garland ∨ k = .cabochon)
  | .mac _ | .macClr _ | .round _ | .lsumOut _ | .lsumIn _ | .clear => decide (k = .facet)
  | .copy _ | .fill _ => decide (k = .mover)
  | .read _ | .write _ => decide (k = .channel)
  | .vec _ _ => decide (k = .edge)
  | .eng f => decide (k = .garland ∨ k = .cabochon ∨ k = .scatter ∨ k = .charm ∨ k = .pavilion) && eopDefined k f.eop.toNat
  | .port f => popDefined k f.pop.toNat
  | _ => true

/-! ## The accesses of a cue -/

/-- The operands of a vector operation: A and, where the operation takes them, B and C. -/
def vecOperands (op : VOp) : Bool × Bool :=
  match vopShape 0 false op with
  | .bin _ | .tree _ => (true, false)
  | .tern _ => (true, true)
  | _ => (false, false)

/-- The accesses of a port cue. -/
def portAccesses (k : UnitKind) (f : PortFields) : List Access :=
  let n := 32 * (f.len.toNat + 1)
  let at_ := fun (len : Nat) (wr : Bool) => viaStore f.loff.toNat f.lstr.toNat 32 len wr (b2n wr)
  let remote : Access := { viaSeg f.raddr.toNat f.rstr.toNat 1 n true 0 0 0 with fab := true }
  match k, f.pop.toNat with
  | .clasp, 1 => [at_ 2080 true]
  | .clasp, _ => [at_ (16 * (f.param.toNat % 128)) false]
  | .fabric, 1 => [at_ n false, remote]
  | .fabric, 2 => [at_ n true]
  | .fabric, _ => [at_ n false, { at_ n true with base := f.loff.toNat + 0x20000 }, remote]
  | .host, 1 => [at_ n true]
  | .host, 5 => [at_ n true]
  | _, _ => [at_ n false]

/-- The accesses of a cue on a unit kind, with `same` for a same-die move and `step` for what is known of a step (Tables 3-14 and
5-5). -/
def cueAccesses (k : UnitKind) (same : Bool) (step : EngFields → EngStep) : Cue → List Access
  | .mac f | .macClr f =>
    match macFmt f.fmtA.toNat, macFmt f.fmtB.toNat with
    | some a, some b =>
      let n := (macDepth a b).getD 16
      [rdOwn f.aBase.toNat f.aStr.toNat 64 (elemBytes a (32 * n)) 0 1, rdOwn f.bBase.toNat f.bStr.toNat 64 (elemBytes b (32 * n)) 8 1]
    | _, _ => []
  | .round f =>
    [wrOwn f.dBase.toNat f.dStr.toNat 64 (elemBytes ((roundFmt f.fmtOut.toNat).getD .int32) 1024) 16 4]
      ++ if f.sten = 1 then [wrOwn f.sBase.toNat f.sStr.toNat 4 4 31 1] else []
  | .lsumOut f => [wrOwn f.dBase.toNat f.dStr.toNat 256 16384 0 8]
  | .lsumIn f => [rdOwn f.sBase.toNat f.sStr.toNat 256 16384 0 16]
  | .copy f =>
    let n := 32 * (f.len.toNat + 1)
    [viaSeg f.src.toNat f.srcStr.toNat 32 n false (if same then 1 else 3) 0 2,
      viaSeg f.dst.toNat f.dstStr.toNat 32 n true (if same then 2 else 4) (if same then 8 else 40) 2]
  | .fill f =>
    [viaSeg f.dst.toNat f.dstStr.toNat 32 (32 * (f.len.toNat + 1)) true (if same then 2 else 4) (if same then 8 else 40) 2]
  | .read f =>
    [viaSeg f.laddr.toNat f.lStr.toNat 1024 1024 false 13 0 0, viaSeg f.saddr.toNat f.sStr.toNat 32 1024 true 18 272 2]
  | .write f =>
    [viaSeg f.saddr.toNat f.sStr.toNat 32 1024 false 3 0 2, viaSeg f.laddr.toNat f.lStr.toNat 1024 1024 true 18 0 0]
  | .vec op f =>
    let n := 32 * (f.n.toNat + 1)
    let i := elemBytes (vopIn op) n
    let two := vecOperands op
    [rdOwn (4 * f.aOff.toNat) f.aStr.toNat 4 i 0 3]
      ++ (if two.1 then [rdOwn (4 * f.bOff.toNat) f.bStr.toNat 4 i 0 3] else [])
      ++ (if two.2 then [rdOwn (4 * f.cOff.toNat) f.cStr.toNat 4 i 0 3] else [])
      ++ [wrOwn (4 * f.dOff.toNat) f.dStr.toNat 4 (if op = .pack then 4 * (f.n.toNat + 1) else elemBytes (vopOut op) n) 16 3]
  | .mload _ off str _ _ =>
    if k = .facet ∨ k = .edge then [rdOwn off.toNat str.toNat 4 4 0 1]
    else if hasMailbox k then [⟨.mail, off.toNat, str.toNat, 4, 4, false, false, 0, 0, 0, 0⟩]
    else [viaStore off.toNat str.toNat 4 4 false 0]
  | .eng f => if f.eop = 0x3F then [] else stepAccesses k f (step f)
  | .port f => portAccesses k f
  | _ => []

/-- Every stride set that a cue names, used or not. -/
def cueSets : Cue → List Nat
  | .mac f | .macClr f => [f.aStr.toNat, f.bStr.toNat]
  | .round f => [f.dStr.toNat, f.sStr.toNat]
  | .lsumOut f => [f.dStr.toNat]
  | .lsumIn f => [f.sStr.toNat]
  | .copy f | .fill f => [f.srcStr.toNat, f.dstStr.toNat]
  | .read f | .write f => [f.lStr.toNat, f.sStr.toNat]
  | .vec _ f => [f.aStr.toNat, f.bStr.toNat, f.cStr.toNat, f.dStr.toNat]
  | .mload _ _ str _ _ => [str.toNat]
  | .eng f => [f.descStr.toNat, f.opndStr.toNat]
  | .port f => [f.lstr.toNat, f.rstr.toNat]
  | _ => []

/-! ## Translation before a grant -/

/-- The request of a segment. -/
def segReqOf (t : Strand) (n : Nat) : Option SegReq := t.segs.find? fun r => r.seg = n

/-- The static place of bytes of a segment, as space and offset, LP4X bases taken as 0 and scratch offsets
partition-relative: R133 with the requests; none where a piece fails. -/
def staticPlace (g : Nat) (t : Strand) (seg : Nat) (o : Int) (n : Nat) (wr fab : Bool) : Option (Nat × Nat) :=
  match segReqOf t seg with
  | none => none
  | some r =>
    if o < 0 ∨ (r.sizeKib * 1024 : Nat) < o + n then none
    else if (r.access.testBit (if wr then 1 else 0)) = false then none
    else if fab then some (r.space, r.base + o.toNat)
    else if r.access.testBit 2 then none
    else
      let a := r.base + o.toNat
      match r.space with
      | 0 =>
        let l := o.toNat / 1024
        some (0, (r.chBase + l % 2 ^ r.stripe) * 2 ^ 34 + (l / 2 ^ r.stripe * 1024 + o.toNat % 1024))
      | 1 =>
        if (span a (a + n)).all fun x => decide (x % 2 ^ 18 < t.scratchBytes ∧ x / 2 ^ 18 < facetCount g) then some (1, a) else none
      | sp => if (span a (a + n)).all fun x => spaceDefines g sp x then some (sp, a) else none

/-- The effective offset of an access of a bead of a window. -/
def accessOff (t : Strand) (d : DirEntry) (x : XCue) (a : Access) : Int := effAddr a.base (strideSet t d a.set) x.idx

/-- Alignment of a base address and of every stride that steps it, whatever the trips of its loop. -/
def alignOk (t : Strand) (d : DirEntry) (x : XCue) (a : Access) : Bool :=
  decide (a.base % a.align = 0) && ((strideSet t d a.set).take x.idx.length).all fun n => decide (n % (a.align : Int) = 0)

/-- The unit's kind reaches the space through a segment (Table 5-2): engines the spaces 0 to 2. -/
def kindReaches (k : UnitKind) (space : Nat) : Bool :=
  match k with
  | .garland | .scatter | .pavilion | .charm | .cabochon => decide (space ≤ 2)
  | _ => true

/-- Alignment and Bounds of one access. -/
def accessOk (g : Nat) (t : Strand) (d : DirEntry) (k : UnitKind) (x : XCue) (a : Access) : Bool :=
  let o := accessOff t d x a
  alignOk t d x a &&
    match a.place with
    | .own => decide (0 ≤ o ∧ o + a.len ≤ t.scratchBytes)
    | .store => decide (0 ≤ o ∧ o + a.len ≤ if k = .clasp then 262144 else (storeBytes k : Int))
    | .mail => decide (0 ≤ o ∧ o + a.len ≤ 256)
    | .seg n => (staticPlace g t n o a.len a.wr a.fab).any fun p => kindReaches k p.1

/-! ## Moves and memory slots (R85, R86) -/

/-- A place of spaces 1 and 2 lies on a Setting die. -/
def placeDie (p : Nat × Nat) : Option Nat :=
  match p.1 with
  | 1 => some (p.2 / 2 ^ 18 / 256)
  | 2 => unitDie (p.2 / 2 ^ 24)
  | _ => none

/-- The static places of a move's ends, the destination first: each end is placed by its first byte, also where the bytes run from
one Setting die's scratch into the next one's (DESIGN CHOICE, log entry 23). -/
def moveEnds (g : Nat) (t : Strand) (d : DirEntry) (x : XCue) : Cue → List (Option (Nat × Nat))
  | .copy f =>
    [staticPlace g t (f.dst.toNat / 2 ^ 34) (effAddr (f.dst.toNat % 2 ^ 34) (strideSet t d f.dstStr.toNat) x.idx) 1 true false,
      staticPlace g t (f.src.toNat / 2 ^ 34) (effAddr (f.src.toNat % 2 ^ 34) (strideSet t d f.srcStr.toNat) x.idx) 1 false false]
  | .fill f =>
    [staticPlace g t (f.dst.toNat / 2 ^ 34) (effAddr (f.dst.toNat % 2 ^ 34) (strideSet t d f.dstStr.toNat) x.idx) 1 true false]
  | _ => []

/-- How many ends of a move lie on its mover's die. -/
def endsHere (u : UnitNo) (ends : List (Option (Nat × Nat))) : Nat :=
  (ends.filter fun e => match e with | some p => decide ((placeDie p).isSome ∧ placeDie p = unitDie u) | none => false).length

/-- The move is same-die. -/
def moveSame (g : Nat) (t : Strand) (d : DirEntry) (x : XCue) (c : Cue) : Bool :=
  let ends := moveEnds g t d x c
  decide (endsHere d.unit ends = ends.length)

/-- Moves: R84, R85 and the slot. -/
def moveOk (g : Nat) (t : Strand) (d : DirEntry) (x : XCue) (c : Cue) : Bool :=
  let ends := moveEnds g t d x c
  let reach := ends.all fun e => match e with | some p => decide (p.1 ≠ 0) | none => false
  match c with
  | .copy f => reach && decide (endsHere d.unit ends ≠ 0) && (moveSame g t d x c == decide (f.slot.toNat < 512))
  | .fill f =>
    reach && decide (f.srcStr = 0 ∧ f.src.toNat < 2 ^ 32) && (moveSame g t d x c == decide (f.slot.toNat < 512))
  | _ => true

/-- A MEM cue: its line on the unit's own channel, its other end in scratch or an engine store, a package slot. -/
def memOk (g : Nat) (t : Strand) (d : DirEntry) (x : XCue) (f : MemFields) (wr : Bool) : Bool :=
  let l := staticPlace g t (f.laddr.toNat / 2 ^ 34) (effAddr (f.laddr.toNat % 2 ^ 34) (strideSet t d f.lStr.toNat) x.idx) 1024 wr false
  let e := staticPlace g t (f.saddr.toNat / 2 ^ 34) (effAddr (f.saddr.toNat % 2 ^ 34) (strideSet t d f.sStr.toNat) x.idx) 1024 (!wr) false
  (match l with | some p => decide (p.1 = 0 ∧ p.2 / 2 ^ 34 = unitIdx d.unit) | none => false)
    && (match e with | some p => decide (p.1 = 1 ∨ p.1 = 2) | none => false) && decide (512 ≤ f.slot.toNat)

/-! ## Descriptors: as the initial loads leave them in the engine's store (log entry 23) -/

/-- `n` bytes of a unit's store at `off`, as the initial loads of the image leave them over a cleared store. -/
def loadedBytes (g : Nat) (t : Strand) (u : UnitNo) (off n : Nat) : Bytes :=
  t.inits.foldl (fun acc r =>
    match (staticPlace g t (r.dest / 2 ^ 34) ((r.dest % 2 ^ 34 : Nat) : Int) r.bytes.length true false).or
        (staticPlace g t (r.dest / 2 ^ 34) ((r.dest % 2 ^ 34 : Nat) : Int) r.bytes.length false false) with
    | some (2, o) =>
      let base := u * 2 ^ 24 + off
      if o + r.bytes.length ≤ base ∨ base + n ≤ o then acc
      else (List.range n).map fun i =>
        if o ≤ base + i ∧ base + i < o + r.bytes.length then r.bytes.getD (base + i - o) 0 else acc.getD i 0
    | _ => acc) (zeros n)

/-- The place of an access as space, segment of space 0 and first byte; scratch is partition-relative by Facet. -/
def accessPlace (t : Strand) (d : DirEntry) (x : XCue) (a : Access) : Option (Nat × Nat × Nat) :=
  let o := accessOff t d x a
  let u := d.unit
  match a.place with
  | .own => some (1, 0, unitIdx u * 2 ^ 18 + o.toNat)
  | .store => if unitKind u = some .clasp then some (4, 0, unitIdx u * 2 ^ 20 + o.toNat) else some (2, 0, u * 2 ^ 24 + o.toNat)
  | .mail => some (2, 0, u * 2 ^ 24 + 0xFFFF00 + o.toNat)
  | .seg n =>
    if a.fab then none else (segReqOf t n).map fun r => if r.space = 0 then (0, n, o.toNat) else (r.space, 0, r.base + o.toNat)

/-- The descriptor of a step cue. -/
def stepDesc (g : Nat) (t : Strand) (d : DirEntry) (k : UnitKind) (x : XCue) (f : EngFields) : Bytes :=
  let o := effAddr f.desc.toNat (strideSet t d f.descStr.toNat) x.idx
  if o < 0 then zeros (descBytes k) else loadedBytes g t d.unit o.toNat (descBytes k)

/-- A step with its line table. -/
def stepAt (g : Nat) (t : Strand) (d : DirEntry) (k : UnitKind) (x : XCue) (f : EngFields) : EngStep :=
  let st := stepOf k f (stepDesc g t d k x f)
  let lt := lineTable k st
  { st with plan := lineReqs (loadedBytes g t d.unit lt.1 (8 * lt.2)) }

/-! ## Fixed fields (R170, R204, R238, R272, Table 4-3) -/

def engFixed (k : UnitKind) (f : EngFields) : Bool :=
  if f.eop = 0x3F then decide (f.desc = 0 ∧ f.descStr = 0 ∧ f.opnd = 0 ∧ f.opndStr = 0 ∧ f.slot = 0 ∧ f.param = 0)
  else
    match k with
    | .garland => decide (f.param.toNat % 2 ^ 18 = 0)
    | .cabochon => decide (f.opnd = 0 ∧ f.opndStr = 0 ∧ f.slot = 0 ∧ f.param = 0)
    | _ => true

def portFixed (k : UnitKind) (f : PortFields) : Bool :=
  let p := f.param.toNat
  match k, f.pop.toNat with
  | .host, 1 => decide (f.len.toNat % 2 = 1 ∧ p = 0)
  | .host, 2 => decide (p < 4)
  | .host, 3 => decide (f.len.toNat = 7 ∧ p < 256)
  | .host, _ => decide (f.len.toNat = 0 ∧ p < 256)
  | .clasp, 1 => decide (f.len = 0 ∧ f.lstr = 0 ∧ f.rmod = 0 ∧ f.raddr = 0 ∧ f.rstr = 0 ∧ p = 0)
  | .clasp, _ => decide (f.len = 31 ∧ f.lstr = 0 ∧ f.rmod = 0 ∧ f.raddr = 0 ∧ f.rstr = 0 ∧ p ≤ 64)
  | .fabric, _ => decide (p < 4096)
  | _, _ => true

/-- The bytes of a fabric port cue stay in the port's buffer (R121, Table 3-15 Bounds); an exchange's received bytes stand
0x2_0000 above. A Clasp port's regions are R274's, checked with it. -/
def portRegion (k : UnitKind) (f : PortFields) (o : Int) : Bool :=
  let n := 32 * (f.len.toNat + 1)
  match k, f.pop.toNat with
  | .fabric, 3 => decide (0 ≤ o ∧ o + n ≤ 0x20000)
  | .fabric, _ => decide (0 ≤ o ∧ o + n ≤ 0x40000)
  | _, _ => true

/-! ## Engine steps and HOLD (R89, R171) -/

/-- HOLD beads still due after the cues from `p` to before `stop`, from those that may be due before them: one number for each run
of arms; none where a step is not followed by exactly its HOLD beads, or a HOLD stands elsewhere. `len` gives the length of the
step at a position under loop indices; LOOP beads over a lone HOLD count as HOLD beads (R171). -/
def holdWalk (cs : List (Option CueWord)) (len : Nat → List Nat → Nat) : Nat → Nat → Nat → List Nat → List Nat → Option (List Nat)
  | 0, _, _, _, ls => some ls
  | f + 1, p, stop, idx, ls =>
    if stop ≤ p then some ls
    else
      let none_ := ls.all fun l => decide (l = 0)
      let take := if ls.all fun l => decide (0 < l) then some (ls.map (· - 1)) else none
      match cueAt cs p with
      | .eng g =>
        (if g.eop = 0x3F then take else if none_ then some [len p idx - 1] else none).bind fun ls => holdWalk cs len f (p + 1) stop idx ls
      | .loop b t =>
        let hold := match cueAt cs (p + 1) with | .eng g => decide (g.eop = 0x3F ∧ b = 0) | _ => false
        let e := p + 2 + b.toNat
        ((List.range (t.toNat + 1)).foldl (fun r i => r.bind fun ls => holdWalk cs len f (p + 1) e (idx ++ [i]) ls)
          (if hold then take else if none_ then some ls else none)).bind fun ls => holdWalk cs len f e stop idx ls
      | .arms a1 a2 _ _ _ =>
        let m := p + 2 + a1.toNat
        let e := m + a2.toNat + 1
        if none_ then
          match holdWalk cs len f (p + 1) m idx ls, holdWalk cs len f m e idx ls with
          | some x, some y => holdWalk cs len f e stop idx (x ++ y).eraseDups
          | _, _ => none
        else none
      | _ => if none_ then holdWalk cs len f (p + 1) stop idx ls else none

/-- Engine steps of Table 3-15, along every run of arms. -/
def holdsOk (cs : List (Option CueWord)) (len : Nat → List Nat → Nat) : Bool :=
  match holdWalk cs len (cs.length + 1) 0 cs.length [] [0] with
  | some ls => ls.all fun l => decide (l = 0)
  | none => false

/-! ## Accumulators (R53, R56, R57, R82) -/

/-- What is known of a Facet's accumulators: cleared since the rotation or window began, the window shifts of the run,
its products, the rotation of the last cue, and the products of each record written, by bead of the window. -/
structure AccState where
  clear : Bool
  ws : List Nat
  count : Nat
  rot : Nat
  fine : Bool
  outs : List (Nat × Nat)
deriving DecidableEq, Repr

def addW (w : Nat) (ws : List Nat) : List Nat := if ws.contains w then ws else w :: ws

/-- An accumulation run holds at most 2^22 products (R53). -/
def runMax : Nat := 2 ^ 22

/-- One tile cue in bead `b` of its window; `sure` when it executes in every run, `carried` the products of the record that an
LSUM_IN reads. -/
def AccState.cue (sure : Bool) (b carried : Nat) (a : AccState) : Cue → AccState
  | .mac f =>
    let n := match macFmt f.fmtA.toNat, macFmt f.fmtB.toNat with | some x, some y => (macDepth x y).getD 0 | _, _ => 0
    { a with ws := addW f.w.toNat a.ws, count := a.count + n,
             fine := a.fine && a.clear && a.ws.all (· == f.w.toNat) && decide (a.count + n ≤ runMax) }
  | .macClr f =>
    let n := match macFmt f.fmtA.toNat, macFmt f.fmtB.toNat with | some x, some y => (macDepth x y).getD 0 | _, _ => 0
    if sure then { a with clear := true, ws := [f.w.toNat], count := n }
    else { a with ws := addW f.w.toNat a.ws, count := max a.count n }
  | .clear => if sure then { a with clear := true, ws := [], count := 0 } else a
  | .lsumIn f =>
    { a with ws := addW f.w.toNat a.ws, count := a.count + carried,
             fine := a.fine && a.ws.all (· == f.w.toNat) && decide (a.count + carried ≤ runMax) }
  | .round f => { a with fine := a.fine && a.clear && a.ws.all (· == f.w.toNat) }
  | .lsumOut _ => { a with fine := a.fine && a.clear, outs := (b, a.count) :: a.outs }
  | _ => a

/-- Both arms of a select have run from one state. -/
def AccState.join (a b : AccState) : AccState :=
  { clear := a.clear && b.clear, ws := b.ws.foldl (fun l w => addW w l) a.ws, count := max a.count b.count, rot := max a.rot b.rot,
    fine := a.fine && b.fine, outs := a.outs ++ b.outs.filter fun x => !a.outs.contains x }

/-- The state as a bead of rotation `rot` begins. -/
def AccState.at (rot : Nat) (a : AccState) : AccState :=
  if rot = a.rot then a else { a with clear := false, ws := [], count := 0, rot := rot }

/-- The rotation of a bead counted from the first bead of the period, in a phase; `fuel` bounds the rotations. -/
def rotOf (rate : Nat) : Nat → Nat → Nat → Nat
  | 0, _, _ => 0
  | f + 1, ph, b => if b < lrot rate ph then 0 else 1 + rotOf rate f (ph + 1) (b - lrot rate ph)

/-- The cues from `p` to before `stop`, from bead `b` on; `rot` gives a bead's rotation, `sure` as in `expand`. -/
def accWalk (cs : List (Option CueWord)) (rot carried : Nat → Nat) : Nat → Nat → Nat → Nat → Bool → AccState → AccState
  | 0, _, _, _, _, a => a
  | f + 1, p, stop, b, sure, a =>
    if stop ≤ p then a
    else
      let a := a.at (rot b)
      let here := sure && !predAt cs p
      match cueAt cs p with
      | .loop bd t =>
        let e := p + 2 + bd.toNat
        let n := rangeLen cs f (p + 1) e
        let a := (List.range (t.toNat + 1)).foldl (fun a i => accWalk cs rot carried f (p + 1) e (b + 1 + n * i) here a) a
        accWalk cs rot carried f e stop (b + 1 + n * (t.toNat + 1)) sure a
      | .arms a1 a2 _ _ _ =>
        let m := p + 2 + a1.toNat
        let e := m + a2.toNat + 1
        let x := accWalk cs rot carried f (p + 1) m (b + 1) here a
        let y := accWalk cs rot carried f m e (b + 1) here a
        accWalk cs rot carried f e stop (b + 1 + rangeLen cs f (p + 1) m) sure (x.join y)
      | c => accWalk cs rot carried f (p + 1) stop (b + 1) sure (a.cue here b (carried b) c)

/-- A Facet window, walked in one phase; `carried` gives the products of the record that each bead reads. -/
def accRun (t : Strand) (d : DirEntry) (ph : Nat) (carried : Nat → Nat) : AccState :=
  let cs := windowDecoded t d
  let st := winStart t.rateKhz ph d
  accWalk cs (fun b => rotOf t.rateKhz (t.periodRot + 1) ph (st + b)) carried (cs.length + 1) 0 cs.length 0 true
    { clear := false, ws := [], count := 0, rot := rotOf t.rateKhz (t.periodRot + 1) ph st, fine := true, outs := [] }

/-! ### Products carried by long-sum records (R53): what scratch, stores and lines hold of them -/

/-- Bytes of a record's run: their place as space, segment and offset, length, and products. -/
structure RecRange where
  space : Nat
  seg : Nat
  off : Nat
  len : Nat
  count : Nat
deriving DecidableEq, Repr

/-- What of a range lies outside `[off, off + n)` of the same place. -/
def RecRange.outside (r : RecRange) (space seg off n : Nat) : List RecRange :=
  if r.space = space ∧ r.seg = seg ∧ r.off < off + n ∧ off < r.off + r.len then
    [{ r with len := off - r.off }, { r with off := off + n, len := r.off + r.len - (off + n) }].filter fun x => decide (0 < x.len)
  else [r]

/-- What of a range lies inside. -/
def RecRange.inside (r : RecRange) (space seg off n : Nat) : Option RecRange :=
  if r.space = space ∧ r.seg = seg ∧ r.off < off + n ∧ off < r.off + r.len then
    some { r with off := max r.off off, len := min (r.off + r.len) (off + n) - max r.off off }
  else none

/-- A write puts new ranges into `[off, off + n)`: in place of the old where it happens in every run, else beside them. -/
def putRecs (sure : Bool) (p : Nat × Nat × Nat) (n : Nat) (new l : List RecRange) : List RecRange :=
  let l := if sure then l.flatMap fun r => r.outside p.1 p.2.1 p.2.2 n else l
  new.filter (fun r => !l.contains r) ++ l

/-- The products that a read of `n` bytes brings. -/
def recsAt (l : List RecRange) (p : Nat × Nat × Nat) (n : Nat) : Nat :=
  (l.filterMap fun r => r.inside p.1 p.2.1 p.2.2 n).foldl (fun a r => max a r.count) 0

/-- The ranges of `n` bytes, as a copy of them to another place holds them. -/
def movedRecs (l : List RecRange) (p q : Nat × Nat × Nat) (n : Nat) : List RecRange :=
  (l.filterMap fun r => r.inside p.1 p.2.1 p.2.2 n).map fun r => { r with space := q.1, seg := q.2.1, off := r.off - p.2.2 + q.2.2 }

/-- A bead of the period: bead, window, its place in the expansion and its cue. -/
structure RecBead where
  bead : Nat
  win : Nat × DirEntry
  at_ : XCue
  cue : Cue
deriving DecidableEq, Repr

/-- The beads of a Strand period in a phase, in order. -/
def recBeads (t : Strand) (ph : Nat) : List RecBead :=
  sortBy (fun a b => decide (a.bead ≤ b.bead)) (t.dir.zipIdx.flatMap fun d =>
    let cs := windowDecoded t d.1
    (windowExpand t d.1).map fun x => ⟨winStart t.rateKhz ph d.1 + x.bead, (d.2, d.1), x, cueAt cs x.pos⟩)

/-- A window and one of its beads as one key. -/
def carryKey (w b : Nat) : Nat := w * 2 ^ 32 + b

/-- Products by window and bead (`carryKey`). -/
abbrev Carried := List (Nat × Nat)

def carriedAt (l : Carried) (w b : Nat) : Nat := (assoc (carryKey w b) l).getD 0

/-- The ranges that a bead reads and writes: those that a copy moves, a record, or other bytes in their place. -/
def recWrites (g : Nat) (t : Strand) (outs : Carried) (l : List RecRange) (x : RecBead) : List ((Nat × Nat × Nat) × Nat × List RecRange) :=
  match unitKind x.win.2.unit with
  | none => []
  | some k =>
    let d := x.win.2
    let as := cueAccesses k (moveSame g t d x.at_ x.cue) (stepAt g t d k x.at_) x.cue
    let src := (as.find? fun a => !a.wr).bind (accessPlace t d x.at_)
    (as.filter (·.wr)).filterMap fun a => (accessPlace t d x.at_ a).map fun q =>
      (q, a.len, match x.cue with
        | .lsumOut _ => [⟨q.1, q.2.1, q.2.2, a.len, carriedAt outs x.win.1 x.at_.bead⟩]
        | .copy _ | .read _ | .write _ => match src with | some p => movedRecs l p q a.len | none => []
        | _ => [])

/-- One bead: the products that its LSUM_IN reads; what it writes counts from the next bead on (R97). -/
def recBead (g : Nat) (t : Strand) (outs : Carried) (x : Nat × List RecRange × List RecRange × Carried) (b : RecBead) :
    Nat × List RecRange × List RecRange × Carried :=
  let old := if b.bead = x.1 then x.2.1 else x.2.2.1
  let ins := match b.cue, unitKind b.win.2.unit with
    | .lsumIn _, some k =>
      match ((cueAccesses k false (stepAt g t b.win.2 k b.at_) b.cue).head?).bind (accessPlace t b.win.2 b.at_) with
      | some p => assocSet (carryKey b.win.1 b.at_.bead) (max (carriedAt x.2.2.2 b.win.1 b.at_.bead) (recsAt old p 16384)) x.2.2.2
      | none => x.2.2.2
    | _, _ => x.2.2.2
  let sure := b.at_.sure && b.at_.arms.isEmpty
  (b.bead, old, (recWrites g t outs old b).foldl (fun l w => putRecs sure w.1 w.2.1 w.2.2 l) x.2.2.1, ins)

/-- The Facet windows of a Strand, with their places in the directory. -/
def facetWindows (t : Strand) : List (DirEntry × Nat) := t.dir.zipIdx.filter fun d => unitKind d.1.unit == some .facet

/-- The runs stay within their bound, from what the records of one period bring into the next, until they bring no more; a bound that
is never reached is broken. -/
def accFix (g : Nat) (t : Strand) (ph : Nat) : Nat → Carried → List RecRange → Bool
  | 0, _, _ => false
  | f + 1, ins, mem =>
    let runs := (facetWindows t).map fun d => (d.2, accRun t d.1 ph (carriedAt ins d.2))
    if runs.all (·.2.fine) then
      let outs : Carried := runs.flatMap fun r => r.2.outs.foldl (fun l o => assocSet (carryKey r.1 o.1) (max o.2 (carriedAt l r.1 o.1)) l) []
      let x := (recBeads t ph).foldl (recBead g t outs) (0, mem, mem, [])
      if x.2.2.2 = ins ∧ x.2.2.1.all (fun r => mem.contains r) then true else accFix g t ph f x.2.2.2 x.2.2.1
    else false

/-- Beads of the expansion that read long-sum records. -/
def lsumBeads (t : Strand) : Nat :=
  ((facetWindows t).map fun d =>
    let cs := windowDecoded t d.1
    ((windowExpand t d.1).filter fun x => match cueAt cs x.pos with | .lsumIn _ => true | _ => false).length).sum

/-- Accumulators of Table 3-15, in every phase. Where no record is read, each window stands for itself. -/
def accOk (g : Nat) (t : Strand) : Bool :=
  let n := lsumBeads t
  phases.all fun ph =>
    if n = 0 then (facetWindows t).all fun d => (accRun t d.1 ph fun _ => 0).fine else accFix g t ph (n + 3) [] []

/-! ## MOVABLE (R359) -/

/-- Beads `a` to `b` of a period meet one of the last three beads of a rotation, in a phase. -/
def tailHit (rate ph n a b : Nat) : Bool :=
  (span (rotOf rate (n + 1) ph a) (rotOf rate (n + 1) ph b + 1)).any fun r =>
    let e := lrotSum rate ph (r + 1)
    decide (a < e ∧ e ≤ b + 3)

/-- Beads after its own in which a cue's effect is in flight or it holds a Chain slot. -/
def cueTail (same : Bool) (step : EngFields → EngStep) : Cue → Nat
  | .round _ | .lsumOut _ | .vec _ _ => 1
  | .copy _ | .fill _ => if same then 1 else 3
  | .read _ | .write _ => 17
  | .eng f => if f.eop = 0x3F then 0 else stepTail (step f)
  | _ => 0

/-! ## The verifier -/

/-- The checks of one bead of a window's expansion. -/
def beadOk (g : Nat) (t : Strand) (d : DirEntry) (k : UnitKind) (cs : List (Option CueWord)) (x : XCue) : Bool :=
  let c := cueAt cs x.pos
  (cueAccesses k (moveSame g t d x c) (stepAt g t d k x) c).all (accessOk g t d k x) &&
    match c with
    | .copy _ => moveOk g t d x c
    | .fill _ => moveOk g t d x c
    | .read f => memOk g t d x f false
    | .write f => memOk g t d x f true
    | .port f => portRegion k f (effAddr f.loff.toNat (strideSet t d f.lstr.toNat) x.idx)
    | .eng f => if f.eop = 0x3F then true else descOk k (stepAt g t d k x f)
    | _ => true

/-- The checks of one cue as it stands: Classes, Reserved values, Window shift, Stride index, Fixed fields. -/
def wordOk (d : DirEntry) (k : UnitKind) (w : Option CueWord) : Bool :=
  match w with
  | none => false
  | some c =>
    cueAllowed k c.cue && (cueSets c.cue).all (fun n => decide (n ≤ d.strideSets)) &&
      match c.cue with
      | .mac f | .macClr f =>
        match macFmt f.fmtA.toNat, macFmt f.fmtB.toNat with
        | some a, some b => (macDepth a b).isSome && decide ((a = .bf16 ∧ b = .bf16) ∨ f.w = 0)
        | _, _ => false
      | .vec op f =>
        if op = .toBf16 ∨ op = .toE4m3 ∨ op = .toE5m2 ∨ op = .toI8 ∨ op = .toI4 then decide (f.cOff.toNat % 128 = 0) else true
      | .eng f => engFixed k f
      | .port f => portFixed k f
      | _ => true

/-- The length of the step at a position under loop indices. -/
def stepLenAt (g : Nat) (t : Strand) (d : DirEntry) (k : UnitKind) (cs : List (Option CueWord)) (p : Nat) (idx : List Nat) : Nat :=
  match cueAt cs p with
  | .eng f => if f.eop = 0x3F then 1 else (stepAt g t d k ⟨0, p, idx, true, []⟩ f).len
  | _ => 1

/-- The window keeps clear of every rotation's last three beads (R359). -/
def movableOk (g : Nat) (t : Strand) (d : DirEntry) (k : UnitKind) (cs : List (Option CueWord)) (xs : List XCue) : Bool :=
  phases.all fun ph =>
    let st := winStart t.rateKhz ph d
    !(d.beads != 0 && tailHit t.rateKhz ph t.periodRot st (st + d.beads - 1))
      && xs.all fun x =>
        let c := cueAt cs x.pos
        !tailHit t.rateKhz ph t.periodRot (st + x.bead) (st + x.bead + cueTail (moveSame g t d x c) (stepAt g t d k x) c)

/-- The checks of one window. -/
def strandWindowOk (s : State) (t : Strand) (d : DirEntry) : Bool :=
  match unitKind d.unit with
  | none => false
  | some k =>
    let cs := windowDecoded t d
    let xs := windowExpand t d
    cs.all (wordOk d k) && windowShapeOk t d && xs.all (beadOk s.grade t d k cs)
      && holdsOk cs (stepLenAt s.grade t d k cs)
      && (if t.movable then movableOk s.grade t d k cs xs else true)

/-- An initial load's destination lies within a requested segment, which the Strand itself may read or write (R73). -/
def initOk (g : Nat) (t : Strand) (r : InitLoad) : Bool :=
  [true, false].any fun wr => (staticPlace g t (r.dest / 2 ^ 34) ((r.dest % 2 ^ 34 : Nat) : Int) r.bytes.length wr false).isSome

/-- Check 0x01 ENCODING: every check of Table 3-15 that concerns the image alone, and R107. -/
def encodingOk (s : State) (raw : Bytes) : Bool :=
  let t := readStrand raw
  headerOk_ s raw && offsetsOk raw && zerosOk raw && directoryOk s.grade t && t.dir.all (strandWindowOk s t) && accOk s.grade t && t.inits.all (initOk s.grade t)

end Sys2Proof.Machine
end

