-- ==== Sys2Proof/Machine/AdmitCheck.lean ====
section
/-! DEFINITION. The admission checks of Table 4-2 and the grants they make (R106 to R111, R134, R136, R152 to R154, R203,
R274, R474). -/

namespace Sys2Proof.Machine

/-! ## The schedule over the span -/

/-- One bead of a Strand in the schedule: bead counted from the first bead of the admission rotation, context, Strand,
window, first bead of the window's run, its place in the expansion and its cue. -/
structure Sched where
  bead : Int
  ctx : CtxNo
  strand : Strand
  win : DirEntry
  run : Int
  at_ : XCue
  cue : Cue
deriving DecidableEq, Repr

/-- A period counter of rotation `j` counted from the admission rotation, made positive by whole cycles of four. -/
def spanPeriod (s : State) (j : Int) : Nat := ((s.period.toNat : Int) + 1 + 4 * 65536 + j).toNat

/-- First bead of rotation `j`. -/
def spanStart (s : State) (j : Int) : Int :=
  if 0 ≤ j then (lrotSum s.rate (spanPeriod s 0) j.toNat : Nat) else -((lrotSum s.rate (spanPeriod s j) (-j).toNat : Nat) : Int)

/-- Rotations of a range. -/
def rotations (lo hi : Int) : List Int := (List.range (hi - lo).toNat).map fun (i : Nat) => lo + (i : Int)

/-- The schedule of a Strand in rotations `lo` to before `hi`; rotation 0 is rotation `r0` of its period. -/
def strandSched (s : State) (c : CtxNo) (t : Strand) (r0 : Nat) (lo hi : Int) : List Sched :=
  (rotations lo hi).flatMap fun j =>
    (t.dir.filter fun d => decide ((d.firstRot : Int) = ((r0 : Int) + j) % (max 1 t.periodRot : Nat))).flatMap fun d =>
      let run := spanStart s j + d.firstBead
      let cs := windowDecoded t d
      (windowExpand t d).map fun x => ⟨run + x.bead, c, t, d, run, x, cueAt cs x.pos⟩

/-- The admitted contexts with Strands. -/
def admittedStrands (s : State) : List (CtxNo × Strand × Nat) :=
  s.admitted.filterMap fun c => ((s.ctx c).strand).map fun t => (c, t, (s.ctx c).rot + 1)

/-- The span in rotations (check 0x05). -/
def spanOf (s : State) (t : Strand) : Nat := lcmAll (t.periodRot :: (admittedStrands s).map fun x => x.2.1.periodRot)

/-- Rotations after which the rotation lengths of a rate repeat (Table 9-7). -/
def phaseCycle (rate : Nat) : Nat := if rate = 16 then 2 else if rate = 32 then 4 else 1

/-- The rotations that are checked: whole spans, until the rotation lengths repeat with them (log entry 12). -/
def checkedSpan (s : State) (t : Strand) : Nat := Nat.lcm (spanOf s t) (phaseCycle s.rate)

/-- Every bead of every Strand over the span, with what runs into it from the repetition before. -/
def allSched (s : State) (c : CtxNo) (t : Strand) : List Sched :=
  let n := checkedSpan s t
  strandSched s c t 0 (-((t.periodRot : Nat) : Int)) n
    ++ (admittedStrands s).flatMap fun x => strandSched s x.1 x.2.1 x.2.2 (-((x.2.1.periodRot : Nat) : Int)) n

/-- Two beads that no run of the Strands has both of, or one bead. -/
def Sched.apart (a b : Sched) : Bool := decide (a.win = b.win ∧ a.ctx = b.ctx ∧ a.run = b.run) && (a.at_.apart b.at_ || decide (a.at_ = b.at_))

/-- The bead issues IDLE whatever its predicate (R91 to R93): it holds no slot and accesses no byte. -/
def Sched.quiet (x : Sched) : Bool :=
  match x.cue with
  | .idle | .idleLoad .. | .loop .. | .arms .. => true
  | _ => false

/-- Some two beads conflict. -/
def conflict (f : Sched → Sched → Bool) (l : List Sched) : Bool :=
  anyPair (fun a b => !a.apart b && f a b) (l.filter fun x => !x.quiet)

/-! ## 0x04 REALTIME (R110, R274) -/

/-- A Clasp cue stands in a bead the rule allows it, `b` beads into its rotation, and its bytes in their region; the beads
of LOOP and ARMS issue IDLE (R92). -/
def rtCueOk (due b : Nat) (o : Int) : Cue → Bool
  | .idle | .loop .. | .arms .. => decide (b ≠ due + 1 ∧ b ≠ due + 277)
  | .port f =>
    if b = due + 1 then decide (f.pop = 1 ∧ f.len = 0 ∧ 0 ≤ o ∧ o + 2080 ≤ 0x20000)
    else if b = due + 277 then decide (f.pop = 2 ∧ f.len = 31 ∧ f.param.toNat ≤ 64 ∧ 0x20000 ≤ o ∧ o + 16 * f.param.toNat ≤ 0x40000)
    else false
  | _ => false

/-- R274 for one port: the windows cover the period and every bead is as the rule says, in every phase. -/
def rtPortOk (s : State) (t : Strand) (p : Nat) : Bool :=
  let u := unitNo .clasp p
  let ds := t.dir.filter fun d => d.unit = u
  let c := s.clasp p
  decide ((c.mode = 1 ∨ c.mode = 2)) && dueValid s.rate c.due &&
    phases.all fun ph =>
      decide ((ds.map (·.beads)).sum = lrotSum t.rateKhz ph t.periodRot) &&
        ds.all fun d =>
          let cs := windowDecoded t d
          (windowExpand t d).all fun x =>
            let at_ := winStart t.rateKhz ph d + x.bead
            let r := rotOf t.rateKhz (t.periodRot + 1) ph at_
            let cue := cueAt cs x.pos
            let o := match cue with | .port f => effAddr f.loff.toNat (strideSet t d f.lstr.toNat) x.idx | _ => 0
            rtCueOk c.due (at_ - lrotSum t.rateKhz ph r) o cue

/-- Ports on which a Strand has a window. -/
def claspWindows (t : Strand) : List Nat := ((t.dir.filter fun d => unitKind d.unit == some .clasp).map fun d => unitIdx d.unit).eraseDups

def realtimeOk (s : State) (t : Strand) (r : Record) : Bool :=
  let ports := claspWindows t
  (ports.isEmpty || t.realtime) && ports.all (fun p => ownsPort r p && rtPortOk s t p)
    && (!t.realtime || (decide (s.clock.opp = 0) && (List.range 4).all fun p => !ownsPort r p || ports.contains p))

/-! ## 0x06 UNIT (R106, R203) -/

/-- Beads of a window's run that a bead belongs to meet beads of another context's. -/
def windowsMeet (a b : Int × CtxNo × DirEntry) : Bool :=
  decide (a.2.1 ≠ b.2.1 ∧ a.2.2.unit = b.2.2.unit ∧ a.1 < b.1 + b.2.2.beads ∧ b.1 < a.1 + a.2.2.beads)

/-- The window runs of a Strand. -/
def windowRuns (s : State) (c : CtxNo) (t : Strand) (r0 : Nat) (lo hi : Int) : List (Int × CtxNo × DirEntry) :=
  (rotations lo hi).flatMap fun j =>
    (t.dir.filter fun d => decide ((d.firstRot : Int) = ((r0 : Int) + j) % (max 1 t.periodRot : Nat))).map fun d =>
      (spanStart s j + d.firstBead, c, d)

/-- The live words that a Strand names. -/
def liveWords (t : Strand) : List Nat :=
  (t.dir.flatMap fun d => (windowDecoded t d).filterMap fun w =>
    match w with
    | some c =>
      match c.cue with
      | .mload _ _ _ b l => if b = 1 then some l.toNat else none
      | .port f => if unitKind d.unit = some .host ∧ 3 ≤ f.pop.toNat then some (f.param.toNat % 256) else none
      | _ => none
    | none => none).eraseDups

def unitsFree (s : State) (c : CtxNo) (t : Strand) : Bool :=
  let n := checkedSpan s t
  let new := windowRuns s c t 0 0 n
  let old := (admittedStrands s).flatMap fun x => windowRuns s x.1 x.2.1 x.2.2 (-((x.2.1.periodRot : Nat) : Int)) n
  !(new.any fun a => old.any (windowsMeet a))
    && (admittedStrands s).all fun x => (liveWords t).all fun l => !(liveWords x.2.1).contains l

/-! ## 0x07 CHAIN (R30, R31, R100) -/

/-- The Chain slot a bead holds: die (255 for package slots), slot, first and last bead. -/
def Sched.hold (g : Nat) (x : Sched) : Option (Nat × Nat × Int × Int) :=
  let slot := fun (n : Nat) (from_ to_ : Int) =>
    some (if n < 512 then (unitDie x.win.unit).getD 254 else 255, n, x.bead + from_, x.bead + to_)
  match x.cue with
  | .copy f => slot f.slot.toNat 0 (if moveSame g x.strand x.win x.at_ x.cue then 1 else 3)
  | .fill f => slot f.slot.toNat 0 (if moveSame g x.strand x.win x.at_ x.cue then 1 else 3)
  | .read f => slot f.slot.toNat 14 17
  | .write f => slot f.slot.toNat 0 3
  | _ => none

def chainMeet (g : Nat) (a b : Sched) : Bool :=
  match a.hold g, b.hold g with
  | some x, some y => decide (x.1 = y.1 ∧ x.2.1 = y.2.1 ∧ x.2.2.1 ≤ y.2.2.2 ∧ y.2.2.1 ≤ x.2.2.2)
  | _, _ => false

/-! ## 0x08 MEMSLOT (R149 to R153, R300) -/

/-- Static segment and offset of a line table entry, its data-dependent part left out (R153). -/
def staticLine (k : UnitKind) (st : EngStep) (r : LineReq) : Nat × Nat :=
  match k with
  | .garland => if st.num 1 1 = 0 then (st.num 0x68 1, r.line * 1024) else (st.seg, st.off.toNat + r.line * 1024)
  | .scatter => (st.scSeg, r.line * 1024)
  | .pavilion => if r.kind = 8 then (st.wTableSeg, st.wTable + r.line * 1024) else (st.wPoolSeg, r.line * 1024)
  | _ => (st.cSeg, st.off.toNat + r.line * 1024)

/-- The LP4X accesses of a bead: channel, bank class and first bead. -/
def Sched.lines (g : Nat) (x : Sched) : List (Nat × Nat × Int) :=
  let t := x.strand
  let place := fun (seg off : Nat) (b : Int) =>
    (segReqOf t seg).map fun r => (r.chBase + off / 1024 % 2 ^ r.stripe, off / 1024 / 2 ^ r.stripe % 8, b)
  let mem := fun (f : MemFields) =>
    (place (f.laddr.toNat / 2 ^ 34) (effAddr (f.laddr.toNat % 2 ^ 34) (strideSet t x.win f.lStr.toNat) x.at_.idx).toNat x.bead).toList
  match x.cue with
  | .read f => mem f
  | .write f => mem f
  | .eng f =>
    match unitKind x.win.unit with
    | none => []
    | some k =>
      if f.eop = 0x3F then []
      else
        let o := effAddr (f.opnd.toNat % 2 ^ 34) (strideSet t x.win f.opndStr.toNat) x.at_.idx
        let st := { stepAt g t x.win k x.at_ f with off := o }
        st.plan.filterMap fun r =>
          let p := staticLine k st r
          place p.1 p.2 (x.bead + r.bead)
  | _ => []

/-- Rotation and bead within it of a bead of the span; `fuel` bounds the rotations. -/
def spanBead (s : State) (b : Int) : Nat × Nat :=
  let back : Int := if b < 0 then -((b.natAbs / lrotMin s.rate + 1 : Nat) : Int) else 0
  let n := (b - spanStart s back).toNat
  let r := rotOf s.rate (n / lrotMin s.rate + 2) (spanPeriod s back) n
  (lrot s.rate (spanPeriod s (back + (r : Int))), n - lrotSum s.rate (spanPeriod s back) r)

/-- The access begins at the start of a slot that Strands may use. -/
def slotOpen (s : State) (a : Nat × Nat × Int) : Bool :=
  let p := spanBead s a.2.2
  match slotAt p.1 p.2 with
  | none => false
  | some k =>
    let n := slotCount p.1
    decide (k < n - hostSlots s) && !(castChannel s a.1 && decide (n - hostSlots s - castSlots s ≤ k))

/-- Its occupancy, twelve beads from its first, meets no refresh of its class. -/
def refreshClear (s : State) (a : Nat × Nat × Int) : Bool :=
  (rotations (a.2.2 - 3) (a.2.2 + 12)).all fun b =>
    let p := spanBead s b
    !decide (p.2 % 3 = 0 ∧ p.2 + 4 ≤ p.1 ∧ p.2 / 3 % 8 = a.2.1)

def linesMeet (g : Nat) (a b : Sched) : Bool :=
  (a.lines g).any fun x => (b.lines g).any fun y =>
    decide (x.1 = y.1 ∧ (x.2.2 = y.2.2 ∨ (x.2.1 = y.2.1 ∧ x.2.2 ≤ y.2.2 + 11 ∧ y.2.2 ≤ x.2.2 + 11)))

/-- The lines of one engine step do not meet each other. -/
def stepLinesMeet (g : Nat) (a : Sched) : Bool :=
  anyPair (fun (x y : Nat × Nat × Int) =>
    decide (x.1 = y.1 ∧ (x.2.2 = y.2.2 ∨ (x.2.1 = y.2.1 ∧ x.2.2 ≤ y.2.2 + 11 ∧ y.2.2 ≤ x.2.2 + 11)))) (a.lines g)

/-- An engine's access finds an IDLE cue of its context on its channel's unit. -/
def slotUnitIdle (l : List Sched) (x : Sched) (a : Nat × Nat × Int) : Bool :=
  match x.cue with
  | .eng _ => l.any fun y => decide (y.win.unit = unitNo .channel a.1 ∧ y.ctx = x.ctx ∧ y.bead = a.2.2) && y.quiet
  | _ => true

def memslotOk (s : State) (new all : List Sched) : Bool :=
  new.all (fun x => (x.lines s.grade).all fun a => slotOpen s a && refreshClear s a && slotUnitIdle all x a)
    && !new.any (stepLinesMeet s.grade) && !conflict (linesMeet s.grade) all

/-! ## 0x09 BANK and 0x0A INFLIGHT (R97, R137, R138) -/

/-- The place of an access as space, owner and first byte: LP4X by context and segment, scratch by context. -/
def Sched.place (x : Sched) (a : Access) : Option (Nat × Nat × Nat) :=
  (accessPlace x.strand x.win x.at_ a).map fun p => (p.1, if p.1 = 0 then x.ctx * 64 + p.2.1 else if p.1 = 1 then x.ctx else 0, p.2.2)

/-- The accesses of a bead. -/
def Sched.accesses (g : Nat) (x : Sched) : List Access :=
  match unitKind x.win.unit with
  | none => []
  | some k =>
    cueAccesses k (moveSame g x.strand x.win x.at_ x.cue) (stepAt g x.strand x.win k x.at_) x.cue

/-- The scratch words of a bead: Facet, bank, fc, word and direction. -/
def Sched.bankWords (g : Nat) (x : Sched) : List (Nat × Nat × Int × Nat × Bool) :=
  (x.accesses g).flatMap fun a =>
    match x.place a with
    | some (1, _, b) =>
      if a.per = 0 then []
      else
        let w := b / 64
        (List.range ((b + a.len - 1) / 64 + 1 - w)).map fun i =>
          (b / 2 ^ 18, (w + i) % 32, 16 * x.bead + (a.fc : Int) + ((i / a.per : Nat) : Int), w + i, a.wr)
    | _ => []

def banksMeet (g : Nat) (a b : Sched) : Bool :=
  (a.bankWords g).any fun x => (b.bankWords g).any fun y => decide (x.1 = y.1 ∧ x.2.1 = y.2.1 ∧ x.2.2.1 = y.2.2.1)

/-- Two operands of one cue meet in a bank; two reads of one word count as one access (R138). -/
def ownBanksMeet (g : Nat) (a : Sched) : Bool :=
  anyPair (fun (x y : Nat × Nat × Int × Nat × Bool) =>
    decide (x.1 = y.1 ∧ x.2.1 = y.2.1 ∧ x.2.2.1 = y.2.2.1) && !(decide (x.2.2.2.1 = y.2.2.2.1) && !x.2.2.2.2 && !y.2.2.2.2)) (a.bankWords g)

/-- Access `a` writes and breaks R97 against access `b`, which begins in bead `bb`; a second effect writes from its cue's
bead to the bead before its visibility bead. -/
def inflightHit (ba : Int) (a : Access) (bb : Int) (b : Access) : Bool :=
  a.wr &&
    if b.wr then decide (2 ≤ a.beads ∧ ba + 2 ≤ bb + (b.beads : Nat) ∧ bb + 1 ≤ ba + (a.beads : Nat))
    else
      decide ((ba + 1 ≤ bb + (b.beads : Nat) ∧ bb ≤ ba + (a.beads : Nat) - 1) ∨ (bb < ba + (a.beads : Nat) ∧ ba + (a.beads : Nat) ≤ bb + (b.beads : Nat)))

/-- The bytes of two accesses overlap. -/
def bytesMeet (p q : Option (Nat × Nat × Nat)) (n m : Nat) : Bool :=
  match p, q with
  | some (s, o, x), some (s', o', y) => decide (s = s' ∧ o = o' ∧ x < y + m ∧ y < x + n)
  | _, _ => false

def inflightMeet (g : Nat) (x y : Sched) : Bool :=
  (x.accesses g).any fun a => (y.accesses g).any fun b =>
    bytesMeet (x.place a) (y.place b) a.len b.len
      && (inflightHit (x.bead + a.start) a (y.bead + b.start) b || inflightHit (y.bead + b.start) b (x.bead + a.start) a)

/-! ## 0x0B SCRATCH (R136) -/

/-- The Facets on which a Strand receives a partition. -/
def partFacets (t : Strand) : List Nat :=
  let wins := (t.dir.filter fun d => unitKind d.unit == some .facet || unitKind d.unit == some .edge).map fun d => unitIdx d.unit
  let segs := (t.segs.filter fun r => r.space = 1).flatMap fun r => span (r.base / 2 ^ 18) ((r.base + r.sizeKib * 1024 - 1) / 2 ^ 18 + 1)
  sortBy (fun a b => decide (a ≤ b)) (wins ++ segs).eraseDups

/-- The partitions on a Facet: base and size, of contexts that are not free. -/
def partsOn (s : State) (f : Nat) : List (Nat × Nat) :=
  sortBy (fun a b => decide (a.1 ≤ b.1)) ((span 1 16).filterMap fun c => (assoc f (s.ctx c).parts).map fun b => (b, partSize s c))

/-- The free base that Addaso takes is the lowest that fits (R134, R136 leave the choice to it: DESIGN CHOICE, log entry 12): the
lowest free base of `n` bytes between ranges in rising order, in steps of `step`, below `top`. -/
def firstFit (n step top : Nat) : Nat → List (Nat × Nat) → Option Nat
  | at_, [] => if at_ + n ≤ top then some at_ else none
  | at_, (b, m) :: r => if at_ + n ≤ b then some at_ else firstFit n step top (max at_ (cdiv (b + m) step * step)) r

/-- The partition base on each Facet; none where a Facet has no room. -/
def grantParts (s : State) (t : Strand) : Option (List (Nat × Nat)) :=
  if t.scratchBytes = 0 then some []
  else
    (partFacets t).foldr (fun f acc =>
      match acc, firstFit t.scratchBytes 4096 262144 0 (partsOn s f) with
      | some l, some b => if ((partsOn s f).map (·.2)).sum + t.scratchBytes ≤ 262144 then some ((f, b) :: l) else none
      | _, _ => none) (some [])

/-! ## 0x0C SEGMENT (R134, R154) -/

/-- The LP4X ranges held on a channel: segments of contexts that are not free, the Cast ring, the image staging area. -/
def linesOn (s : State) (ch : Nat) : List (Nat × Nat) :=
  let segs := (span 1 16).flatMap fun c => (s.ctx c).segs.filterMap fun e =>
    if e.2.space = 0 ∧ e.2.chBase ≤ ch ∧ ch < e.2.chBase + 2 ^ e.2.stripe then
      some (e.2.base, cdiv (e.2.size * 1024 / 2 ^ e.2.stripe) 65536 * 65536)
    else none
  let ring := if castChannel s ch then [(s.cast.ringBase, castRingBytes s.cast / 2 ^ s.cast.stripe)] else []
  let stage := match s.mgmt.imageBase with | some b => if ch = 0 then [(b, 2 ^ 32)] else [] | none => []
  sortBy (fun a b => decide (a.1 ≤ b.1)) (segs ++ ring ++ stage)

/-- Ranges held on any of the channels of a stripe, and by the grants already made to this Strand. -/
def stripeRanges (s : State) (chBase stripe : Nat) (made : List (Nat × SegEntry)) : List (Nat × Nat) :=
  let here := (span chBase (chBase + 2 ^ stripe)).flatMap (linesOn s)
  let mine := made.filterMap fun e =>
    if e.2.space = 0 ∧ e.2.chBase < chBase + 2 ^ stripe ∧ chBase < e.2.chBase + 2 ^ e.2.stripe then
      some (e.2.base, cdiv (e.2.size * 1024 / 2 ^ e.2.stripe) 65536 * 65536)
    else none
  sortBy (fun a b => decide (a.1 ≤ b.1)) (here ++ mine)

/-- Groups of R134. -/
def groupsOk (t : Strand) : Bool :=
  let heads := t.segs.filter fun r => 2 ≤ r.group
  heads.all (fun r => decide (r.group ≤ 64 ∧ r.seg + r.group ≤ 64) && (List.range r.group).all fun i =>
      match segReqOf t (r.seg + i) with
      | some q => decide (q.space = 0 ∧ q.stripe = r.stripe ∧ q.chBase = r.chBase)
      | none => false)
    && !anyPair (fun a b => decide (a.seg < b.seg + b.group ∧ b.seg < a.seg + a.group)) heads

/-- Units that a space 2 range covers. -/
def coversUnits (base kib : Nat) : List Nat := span (base / 2 ^ 24) ((base + kib * 1024 - 1) / 2 ^ 24 + 1)

/-- Another context holds a local space 2 segment over one of the units. -/
def unitsHeld (s : State) (us : List Nat) : Bool :=
  (span 1 16).any fun c => (s.ctx c).segs.any fun e =>
    decide (e.2.space = 2) && !e.2.fab && (coversUnits e.2.base e.2.size).any us.contains

/-- One request, with the grants already made: its entry, where it can be granted. -/
def grantSeg (s : State) (rec : Record) (made : List (Nat × SegEntry)) (r : SegReq) : Option (Nat × SegEntry) :=
  let e : SegEntry :=
    { rd := r.access.testBit 0, wr := r.access.testBit 1, fab := r.access.testBit 2, space := r.space, stripe := r.stripe,
      chBase := r.chBase, size := r.sizeKib, base := r.base, group := if 2 ≤ r.group then r.group else 0 }
  match r.space with
  | 0 =>
    if r.stripe ≤ 5 ∧ r.chBase + 2 ^ r.stripe ≤ channelCount s.grade ∧ r.sizeKib % 2 ^ r.stripe = 0 then
      (firstFit (r.sizeKib * 1024 / 2 ^ r.stripe) 65536 channelBytes 0 (stripeRanges s r.chBase r.stripe made)).map fun b =>
        (r.seg, { e with base := b })
    else none
  | 1 => if (r.base + r.sizeKib * 1024 - 1) / 2 ^ 18 < facetCount s.grade then some (r.seg, e) else none
  | 2 =>
    let us := coversUnits r.base r.sizeKib
    if e.fab ∨ (us.all (unitExists s.grade) ∧ unitsHeld s us = false) then some (r.seg, e) else none
  | 4 =>
    let p := r.base / 2 ^ 20
    if p < 4 ∧ r.base % 2 ^ 20 + r.sizeKib * 1024 ≤ 262144 ∧ ownsPort rec p then some (r.seg, e) else none
  | _ => none

/-- The segment table of a Strand; none where a request cannot be granted. -/
def grantSegs (s : State) (t : Strand) (rec : Record) : Option (List (Nat × SegEntry)) :=
  if groupsOk t ∧ t.segs.all (fun r => decide (r.seg < 64)) ∧ (t.segs.map (·.seg)).eraseDups.length = t.segs.length then
    (sortBy (fun a b => decide (a.seg ≤ b.seg)) t.segs).foldl (fun acc r =>
      match acc with
      | some l => (grantSeg s rec l r).map fun e => l ++ [e]
      | none => none) (some [])
  else none

/-! ## 0x0D and 0x0E -/

/-- The Strand holds fabric port cues. -/
def usesFabric (t : Strand) : Bool :=
  t.dir.any fun d => unitKind d.unit == some .fabric && (windowDecoded t d).any fun w =>
    match w with | some c => (match c.cue with | .port _ => true | _ => false) | none => false

/-- Cues of a Strand on a unit. -/
def cueCount (t : Strand) (u : UnitNo) : Nat := ((t.dir.filter fun d => d.unit = u).map (·.cues)).sum

def storesFit (s : State) (t : Strand) : Bool :=
  t.dir.all fun d => decide (cueCount t d.unit + ((admittedStrands s).map fun x => cueCount x.2.1 d.unit).sum ≤ 2048)

/-! ## The verdict (R111) -/

/-- The reason code of the first row of Table 4-2 that a Strand fails; 0 when it passes them all. -/
def admissionReason (s : State) (raw : Bytes) (rec : Record) : Nat :=
  let t := readStrand raw
  let c := rec.ctx
  let all := allSched s c t
  let new := strandSched s c t 0 0 (checkedSpan s t)
  if encodingOk s raw = false then 0x01
  else if s.admitted.length = 15 then 0x02
  else if t.rateKhz ≠ s.rate then 0x03
  else if realtimeOk s t rec = false then 0x04
  else if 65536 < spanOf s t then 0x05
  else if unitsFree s c t = false then 0x06
  else if conflict (chainMeet s.grade) all then 0x07
  else if memslotOk s new all = false then 0x08
  else if new.any (ownBanksMeet s.grade) ∨ conflict (banksMeet s.grade) all then 0x09
  else if conflict (inflightMeet s.grade) all then 0x0A
  else if (grantParts s t).isNone then 0x0B
  else if (grantSegs s t rec).isNone then 0x0C
  else if usesFabric t ∧ takesPart s = false then 0x0D
  else if storesFit s t = false then 0x0E
  else 0

end Sys2Proof.Machine
end

