-- ==== Sys2Proof/Machine/Mem.lean ====
section
/-! DEFINITION. The memory slot cues READ and WRITE (R86, R155 to R160, R164). -/

namespace Sys2Proof.Machine

/-- The LP4X line that LADDR names, when it lies on the unit's own channel (R86). -/
def cueLine (s : State) (u : UnitNo) (i : Issue) (f : MemFields) (wr : Bool) : Option (Nat × Nat) :=
  match segLine s i.ctx (f.laddr.toNat / 2 ^ 34) (issueAddr s i (f.laddr.toNat % 2 ^ 34) f.lStr.toNat) wr with
  | some (ch, l) => if ch = unitIdx u then some (ch, l) else none
  | none => none

/-- READ: the line goes to the scratch or store address, visible 18 beads later; it drives its Chain slot in beads
14 to 17 (Table 3-14). -/
def doRead (u : UnitNo) (i : Issue) (f : MemFields) (s : State) : State :=
  let lo := issueAddr s i (f.laddr.toNat % 2 ^ 34) f.lStr.toNat
  let so := issueAddr s i (f.saddr.toNat % 2 ^ 34) f.sStr.toNat
  let r :=
    match cueLine s u i f false with
    | none => (zeros 1024, segFault i.ctx u (f.laddr.toNat / 2 ^ 34) lo s)
    | some (ch, l) =>
      let (bs, ue, s) := readLine i.ctx ch l s
      (bs, if ue then lineUe 18 u i.ctx (f.laddr.toNat / 2 ^ 34) lo.toNat ch l s else s)
  let w := writeStoreSeg u i.ctx (f.saddr.toNat / 2 ^ 34) so r.1 (drive u i.ctx f.slot.toNat 14 17 r.2)
  w.2.later 18 u i.ctx (.bytes w.1)

/-- WRITE: the source is taken in its bead and the line is there for READs 18 beads later (Table 3-14). -/
def doWrite (u : UnitNo) (i : Issue) (f : MemFields) (s : State) : State :=
  let lo := issueAddr s i (f.laddr.toNat % 2 ^ 34) f.lStr.toNat
  let so := issueAddr s i (f.saddr.toNat % 2 ^ 34) f.sStr.toNat
  let r := readStoreSeg 18 u i.ctx (f.saddr.toNat / 2 ^ 34) so 1024 (drive u i.ctx f.slot.toNat 0 3 s)
  match cueLine r.2 u i f true with
  | none => segFault i.ctx u (f.laddr.toNat / 2 ^ 34) lo r.2
  | some _ => writeSegLine 18 u i.ctx (f.laddr.toNat / 2 ^ 34) lo r.1 r.2

def execRead (u : UnitNo) (s : State) : Host.Outcome State Fault Refusal :=
  ok (onIssue u (fun i => match i.cue with | .read f => some (doRead u i f) | _ => none) s)

def execWrite (u : UnitNo) (s : State) : Host.Outcome State Fault Refusal :=
  ok (onIssue u (fun i => match i.cue with | .write f => some (doWrite u i f) | _ => none) s)

end Sys2Proof.Machine
end

