-- ==== Sys2Proof/Machine/Serve.lean ====
section
/-! DEFINITION. The host port: its cues, the request and step-record rings, and cancels (R202 to R213, R390, R391,
R438). -/

namespace Sys2Proof.Machine

/-! ## Rings (Tables 7-9 to 7-11) -/

/-- LOG2_N of RQ_CTL as it acts. -/
def rqLog (v : Word) : Nat := let n := v.toNat % 32; if 4 ≤ n ∧ n ≤ 16 then n else 4

/-- LOG2_N of SR_CTL as it acts. -/
def srLog (v : Word) : Nat := let n := v.toNat % 32; if 1 ≤ n ∧ n ≤ 16 then n else 1

/-- SLOT_KIB of SR_CTL in bytes, as it acts. -/
def srSlot (v : Word) : Nat := let n := bits v.toNat 8 8; 1024 * if 4 ≤ n ∧ n ≤ 64 then n else 4

/-- Records committed that still wait to be written to the ring. -/
def srWaiting (r : Ring) : Nat := (r.committed.filter fun x => !x.delivered && !x.lost).length

/-- The step-record ring is full (R213): the records that wait for their Signets hold their slots. -/
def srFull (r : Ring) : Bool := r.srHead + BitVec.ofNat 32 (srWaiting r) - r.srTail == BitVec.ofNat 32 (2 ^ srLog r.srCtl)

/-- A host address from its two registers, low bits cleared. -/
def hostAddr (lo hi : Word) : Nat := lo.toNat / 64 * 64 + hi.toNat * 2 ^ 32

/-! ## Cues of the host port (Table 7-1) -/

/-- The live word of a host port cue. -/
def liveNo (f : PortFields) : Nat := f.param.toNat % 256

/-- RQ_TAKE (R209). -/
def doRqTake (u : UnitNo) (i : Issue) (f : PortFields) (s : State) : State :=
  let q := (s.ring i.ctx).queue
  let n := min q.length ((portBytes f - 32) / 64)
  let s' := s.modRing (fun r => { r with queue := r.queue.drop n }) i.ctx
  portWrite u i.ctx (portOff s i f) (leBytes 4 n ++ leBytes 4 (q.length - n) ++ zeros 24 ++ ((q.take n).map fun e => slice e 0 64).flatten)
    s'

/-- LIVE_SET. -/
def doLiveSet (u : UnitNo) (i : Issue) (f : PortFields) (s : State) : State :=
  match portRead s u (portOff s i f) 256 with
  | some bs =>
    let rows := ((chunks 8 bs).zipIdx.map fun x => (x.2, (BitVec.ofNat 64 (leNat x.1) : DWord))).filter fun x => x.2 ≠ 0
    (portUe u (portOff s i f) 256 s).later 1 u i.ctx (.liveSet (liveNo f) rows)
  | none => s

/-- LIVE_CLR. -/
def doLiveClr (u : UnitNo) (i : Issue) (f : PortFields) (s : State) : State :=
  match portRead s u (portOff s i f) 4 with
  | some bs => (portUe u (portOff s i f) 4 s).later 1 u i.ctx (.liveClr (liveNo f) (BitVec.ofNat 32 (leNat bs)))
  | none => s

/-- STATE_GET. -/
def doStateGet (u : UnitNo) (i : Issue) (f : PortFields) (s : State) : State :=
  let l := s.liveWord (liveNo f)
  portWrite u i.ctx (portOff s i f) (leBytes 4 l.live.toNat ++ leBytes 4 l.cxl.toNat ++ leBytes 4 l.rep.toNat ++ zeros 20) s

/-- The rows of a live word become live (R204). -/
def liveSet (w : Nat) (c : CtxNo) (rows : List (Nat × DWord)) (s : State) : State :=
  let m : Word := rows.foldl (fun a x => a ||| BitVec.ofNat 32 (2 ^ x.1)) 0
  let l := s.liveWord w
  let s := s.setLive w ⟨l.live ||| m, l.cxl &&& ~~~m, l.rep &&& ~~~m⟩
  { s with rows := rows.foldl (fun r x => assocSet (w * 32 + x.1) ⟨x.2, c⟩ r) s.rows }

/-- The rows of a live word end. -/
def liveClr (w : Nat) (m : Word) (s : State) : State :=
  let l := s.liveWord w
  let s := s.setLive w ⟨l.live &&& ~~~m, l.cxl &&& ~~~m, l.rep &&& ~~~m⟩
  { s with rows := s.rows.map fun r => if r.1 / 32 = w ∧ bit m (r.1 % 32) then (r.1, { r.2 with seqId := 0 }) else r }

/-! ## Step records (R210 to R213) -/

/-- SREC_FORMAT (R234). -/
def srecFormat (c : CtxNo) (s : State) : State := raiseCtx evSrecFormat c 0xB000 [] s

/-- A record is lost: GAP of the next one and SR_GAP count it. -/
def loseRecord (c : CtxNo) (s : State) : State :=
  s.modRing (fun r => { r with gap := r.gap + 1, srGap := r.srGap + 1 }) c

/-- A row entry of a record is one to cancel (R212). -/
def entryCancelled (s : State) (c : CtxNo) (e : Bytes) : Bool :=
  let row := leAt e 0xE 2
  match assoc row s.rows with
  | some r =>
    decide (row ≠ 0xFFFF ∧ r.owner = c ∧ leAt e 0xB 1 ≤ 1 ∧ leAt e 0xC 1 % 2 = 0) && bit (s.liveWord (row / 32)).cxl (row % 32)
  | none => false

/-- The row entries of a record, by index; an entry beyond the gathered bytes reads as zeros (R212; DESIGN CHOICE, log entry 53). -/
def recordRows (rec : Bytes) : List (Nat × Bytes) := (List.range (leAt rec 0x18 4)).map fun k => (k, slice rec (128 + 16 * k) 16)

/-- The cancelled entries of a record: STATUS becomes CANCELLED and NTOK 0, and REP of the row sets. -/
def cancelRows (c : CtxNo) (rec : Bytes) (s : State) : Bytes × State :=
  ((recordRows rec).filter fun x => entryCancelled s c x.2).foldl (fun (acc : Bytes × State) x =>
    let row := leAt x.2 0xE 2
    let l := acc.2.liveWord (row / 32)
    (overlay acc.1 (128 + 16 * x.1 + 0xA) [0, 2],
      acc.2.setLive (row / 32) { l with rep := l.rep ||| BitVec.ofNat 32 (2 ^ (row % 32)) })) (rec, s)

/-- The record cannot be written at its commit bead (R213, R391, R437). A follower decides when it delivers. -/
def recordLost (s : State) (c : CtxNo) : Bool :=
  s.held c ||
    (s.leads &&
      (lacksSession s c || !s.ports.linkUp || !bit (s.ring c).srCtl 31 || srFull (s.ring c)))

/-- The record is committed (R212, R309). -/
def commitRecord (c : CtxNo) (rec : Bytes) (s : State) : State :=
  let max := srSlot (s.ring c).srCtl - if (s.ctx c).sec.session.isSome then 16 else 0
  let rejected := decide (rec.length ≠ leAt rec 0x24 4 ∨ max < rec.length)
  let s := chainEvent true c s
  let s := if rejected then srecFormat c s else s
  let x := if rejected then (rec, s) else cancelRows c rec s
  let s := x.2
  let lost := rejected || recordLost s c
  let entry : Committed :=
    { bead := s.bead, step := leAt rec 8 8, record := overlay x.1 0x10 (leBytes 8 s.bead), inputs := (s.ring c).chain,
      signet := none, delivered := false, lost := lost, gap := if lost then 0 else (s.ring c).gap }
  let s := if lost then loseRecord c s else s.modRing (fun r => { r with gap := 0 }) c
  s.modRing (fun r =>
    { r with committed := (r.committed.filter fun y => decide (s.bead < y.bead + 512) || y.signet.isNone ||
               (s.leads && !y.delivered && !y.lost)) ++ [entry] }) c

/-- A record committed in the present bead counts as not delivered: an event of the bead withholds the outputs (R115, R213). -/
def loseEntry (x : Committed) (c : CtxNo) (s : State) : State :=
  s.modRing (fun r =>
    { r with committed := r.committed.map fun y => if y = x then { y with lost := true, gap := 0 } else y,
             gap := r.gap + x.gap + 1, srGap := r.srGap + 1 }) c

/-- The commits of the present bead of a context whose outputs are withheld by the bead's end are lost (R115). -/
def withdrawCommits (s : State) : State :=
  (List.range 16).foldl (fun t c =>
    if t.held c then
      ((t.ring c).committed.filter fun x => decide (x.bead = t.bead) && !x.lost && !x.delivered).foldl (fun v x => loseEntry x c v) t
    else t) s

/-- SREC_PUT (R212). -/
def doSrecPut (u : UnitNo) (i : Issue) (f : PortFields) (s : State) : State :=
  let c := i.ctx
  let first := f.param.getLsbD 0
  let last := f.param.getLsbD 1
  match portRead s u (portOff s i f) (portBytes f) with
  | none => s
  | some bs =>
    let s := portUe u (portOff s i f) (portBytes f) s
    let s := if first ∧ (s.ring c).gather.isSome then loseRecord c (srecFormat c s) else s
    match (if first then some [] else (s.ring c).gather) with
    | none => srecFormat c s
    | some g =>
      let s := s.modRing (fun r => { r with gather := if last then none else some (g ++ bs) }) c
      if last then commitRecord c (g ++ bs) s else s

/-! ## Delivery (R212, R312, R390) -/

/-- The oldest record of a context that is to be written. -/
def nextRecord (r : Ring) : Option Committed := r.committed.find? fun x => !x.delivered && !x.lost

def replaceRecord (x y : Committed) (r : Ring) : Ring := { r with committed := r.committed.map fun z => if z = x then y else z }

/-- The record's bytes with GAP and SIGNET filled in. -/
def finishRecord (r : Ring) (x : Committed) (g : Bytes) : Bytes :=
  overlay (overlay x.record 0x20 (leBytes 4 x.gap.toNat)) 0x40 (signetField (bit r.srCtl 30) g)

/-- The host writes of a record in its slot: encrypted with its tag in a session (R390). -/
def writeRecord (c : CtxNo) (rec : Bytes) (s : State) : State :=
  let r := s.ring c
  let slot := srSlot r.srCtl
  let a := hostAddr r.srBaseLo r.srBaseHi + slot * (r.srHead.toNat % 2 ^ srLog r.srCtl)
  match (s.ctx c).sec.session with
  | none => s.emit (.hostWrite a rec)
  | some k =>
    let ct := sessCrypt k.mhEnc 2 3 c k.srIdx rec
    ((s.emit (.hostWrite a ct)).emit (.hostWrite (a + slot - 16) (sessTag k.mhMac 2 3 c k.srIdx ct))).modSec
      (fun y => { y with session := some { k with srIdx := k.srIdx + 1 } }) c

/-- A committed record cannot be written any more: the link, the ring's EN or a CONFIDENTIAL context's session is gone (R213,
R391, R437), or it does not fit beside the tag of a session that has come (R390). -/
def recordGone (s : State) (c : CtxNo) (x : Committed) : Bool :=
  !s.ports.linkUp || !bit (s.ring c).srCtl 31 || lacksSession s c
    || ((s.ctx c).sec.session.isSome && decide (srSlot (s.ring c).srCtl < x.record.length + 16))

/-- One record is delivered once its Signet is complete; a follower delivers none (R318). A record that cannot be written any
more counts as not delivered. -/
def deliverRecord (c : CtxNo) (s : State) : State :=
  match nextRecord (s.ring c) with
  | none => s
  | some x =>
    match x.signet with
    | none => s
    | some g =>
      if s.follows then s
      else if recordGone s c x then
        let s := if s.ports.linkUp && bit (s.ring c).srCtl 31 && !lacksSession s c then srecFormat c s else s
        s.modRing (fun r =>
          let r := replaceRecord x { x with lost := true } r
          { r with srGap := r.srGap + 1, gap := if (nextRecord r).isSome then r.gap else r.gap + x.gap + 1,
                   committed := match nextRecord r with
                     | some y => r.committed.map fun z => if z = y then { z with gap := z.gap + x.gap + 1 } else z
                     | none => r.committed }) c
      else
        let s := writeRecord c (finishRecord (s.ring c) x g) s
        let s := setRing (fun r => { replaceRecord x { x with delivered := true } r with srHead := r.srHead + 1 }) c s
        let s := s.emit (.msix (bits (s.ring c).srCtl.toNat 16 11))
        if relays s then sendItem 3 c (leBytes 8 x.step ++ leBytes 4 (s.ring c).srHead.toNat) s else s

/-! ## Requests (R206, R390, R438) -/

/-- Ring entries of a context that the port holds. -/
def entriesHeld (s : State) (c : CtxNo) : Nat :=
  (s.ring c).queue.length + (s.ring c).fetched.length
    + (s.inbox.filter fun i => match i.kind with | .request d _ => d = c | _ => false).length

/-- The port may fetch the ring's next entry (R206, R318, R391, R437). -/
def mayFetch (s : State) (c : CtxNo) : Bool :=
  let r := s.ring c
  bit r.rqCtl 31 && decide (r.rqTail ≠ r.rqHead) && s.leads && s.ports.linkUp && s.running c && !lacksSession s c && !r.authStop
    && decide (entriesHeld s c < 256) && !s.cast.replay && s.startup.ready

/-- Position of entry RQ_HEAD in the ring (R235). -/
def rqPlace (r : Ring) : Nat := r.rqHead.toNat % 2 ^ rqLog r.rqCtl

/-- The reads of host memory for the next entry: the entry, and in a session its tag (R206, R390). -/
def fetchReads (c : CtxNo) (s : State) : State :=
  let r := s.ring c
  let x := (s.ctx c).sec
  let s := s.emit (.ringFetch (hostAddr r.rqBaseLo r.rqBaseHi + 64 * rqPlace r) 64)
  if x.session.isSome then s.emit (.ringFetch (x.rqTagLo.toNat / 16 * 16 + x.rqTagHi.toNat * 2 ^ 32 + 16 * rqPlace r) 16) else s

/-- An entry answered by host memory: in a session its tag is checked and it is decrypted (R390). -/
def takeEntry (c : CtxNo) (data tag : Bytes) (s : State) : State :=
  let d := (s.ring c).doorbell
  let s := setRing (fun r => { r with rqHead := r.rqHead + 1, fails := 0 }) c s
  match (s.ctx c).sec.session with
  | none => s.modRing (fun r => { r with fetched := r.fetched ++ [(slice data 0 64, d)] }) c
  | some k =>
    let ct := slice data 0 64
    let s' := s.modSec (fun y => { y with session := some { k with rqIdx := k.rqIdx + 1 } }) c
    if sessTag k.hmMac 1 2 c k.rqIdx ct = slice tag 0 16 then
      s'.modRing (fun r => { r with fetched := r.fetched ++ [(sessCrypt k.hmEnc 1 2 c k.rqIdx ct, d)] }) c
    else
      raiseAt evSessionAuth (some c) 0xB000 0xFFFF false false []
        (endSession c (s.modRing (fun r => { r with authStop := true }) c))

/-- REQUEST_FETCH: a poisoned completion is fetched again, and the fourth failure of one entry stops the ring (R438). -/
def fetchRequest (c : CtxNo) (reply : FetchReply) (s : State) : State :=
  if mayFetch s c then
    let s := fetchReads c s
    match reply with
    | .entry data tag => takeEntry c data tag s
    | .poisoned =>
      let n := (s.ring c).fails + 1
      if n < 4 then s.modRing (fun r => { r with fails := n }) c
      else raise evPcieDown [] (s.modRing (fun r => { r with fails := 0, rqCtl := r.rqCtl &&& 0x7FFFFFFF }) c)
  else s

/-- Aperture writes posted before the doorbell have all become visible (R206). -/
def doorbellMet (s : State) (d : Nat) : Bool :=
  !(s.bezel.queue.any fun q => match q.2 with | .write _ _ _ p _ _ => decide (p < d) | _ => false)
    && !(s.effects.any fun e => match e.kind with | .hostWrite _ _ _ _ p => decide (p < d ∧ s.bead + 1 < e.due) | _ => false)

/-- Places of a context's queue that are taken, with those of the requests and cancels on their way (R206). -/
def placesTaken (s : State) (c : CtxNo) : Nat :=
  (s.ring c).queue.length
    + (s.inbox.filter fun i => match i.kind with | .request d _ => d = c | .cancel d _ => d = c | _ => false).length

/-- REQUEST_LATCH: the oldest fetched entry passes the host synchroniser, while the queue has a place for it: no ring entry is
lost (R206). -/
def latchRequest (c : CtxNo) (s : State) : State :=
  match (s.ring c).fetched with
  | [] => s
  | (e, d) :: r =>
    if doorbellMet s d && decide (placesTaken s c < 512) then pushInput 9 (.request c e) (s.modRing (fun x => { x with fetched := r }) c) else s

/-- A latched entry joins its context's queue. -/
def applyRequest (c : CtxNo) (e : Bytes) (sub : Nat) (s : State) : State :=
  if s.running c then
    let s := assign c false 0x40 e (castInput 0x40 9 c sub e s)
    setRing (fun r => { r with queue := r.queue ++ [e], rqHead := if s.follows then r.rqHead + 1 else r.rqHead }) c s
  else s

/-- A latched RQ_TAIL or SR_TAIL write (R206, R235). -/
def applyIndex (off : Nat) (v : Word) (sub : Nat) (s : State) : State :=
  let c := (off - 0x701000) / 0x40
  if s.running c then
    let s := castInput 0x43 9 c sub (leBytes 4 off ++ leBytes 4 v.toNat) s
    if off % 0x40 = 0x0C then setRing (fun r => { r with rqTail := v, doorbell := s.bezel.posted }) c s
    else setRing (fun r => { r with srTail := v }) c s
  else s

/-! ## Cancels (R208) -/

/-- The TYPE 2 entry of an unmatched cancel. -/
def cancelEntry (q : DWord) : Bytes := [2] ++ zeros 7 ++ leBytes 8 q.toNat ++ zeros 48

/-- The live rows of a context that hold a sequence. -/
def cancelRowsOf (s : State) (c : CtxNo) (q : DWord) : List Nat :=
  (s.rows.filter fun r => decide (r.2.owner = c ∧ r.2.seqId = q) && bit (s.liveWord (r.1 / 32)).live (r.1 % 32)).map (·.1)

/-- A row is cancelled: LIVE clears and CXL sets. -/
def cancelRow (row : Nat) (s : State) : State :=
  let m : Word := BitVec.ofNat 32 (2 ^ (row % 32))
  let l := s.liveWord (row / 32)
  s.setLive (row / 32) { l with live := l.live &&& ~~~m, cxl := l.cxl ||| m }

/-- A latched cancel. -/
def applyCancel (c : CtxNo) (q : DWord) (sub : Nat) (s : State) : State :=
  if s.running c then
    let s := assign c true 0x41 (leBytes 8 q.toNat) (castInput 0x41 9 c sub (leBytes 8 q.toNat) s)
    match cancelRowsOf s c q with
    | [] =>
      if (s.ring c).queue.length < 512 then s.modRing (fun r => { r with queue := r.queue ++ [cancelEntry q] }) c
      else raiseAt evRqCancelLost (some c) 0xB000 0xFFFF false false (leBytes 8 q.toNat) s
    | rows => chainDirty c (rows.foldl (fun t r => cancelRow r t) s)
  else s

/-- A write to CANCEL_HI. -/
def cancelWrite (c : CtxNo) (hi : Word) (s : State) : State :=
  if s.running c ∧ c < 16 ∧ s.leads ∧ s.ports.linkUp ∧ s.startup.ready ∧ s.cast.replay = false then
    pushInput 9 (.cancel c (hi ++ (s.ring c).cancelLo)) s
  else s

/-- A write to RQ_TAIL or SR_TAIL: on a follower it is stored until promotion (R318). -/
def indexWrite (off : Nat) (c : CtxNo) (v : Word) (s : State) : State :=
  if s.running c ∧ c < 16 ∧ s.ports.linkUp ∧ s.startup.ready then
    if s.follows then
      s.modRing (fun r => if off = 0x0C then { r with rqTail := v } else { r with srTail := v }) c
    else if s.cast.replay ∧ off = 0x0C then s
    else pushInput 9 (.index (ringOffset c + off) v) s
  else s

/-! ## The commands -/

def execRqTake (u : UnitNo) (s : State) : Host.Outcome State Fault Refusal := ok (onIssue u (portCue .host 1 u (doRqTake u)) s)
def execSrecPut (u : UnitNo) (s : State) : Host.Outcome State Fault Refusal := ok (onIssue u (portCue .host 2 u (doSrecPut u)) s)
def execLiveSet (u : UnitNo) (s : State) : Host.Outcome State Fault Refusal := ok (onIssue u (portCue .host 3 u (doLiveSet u)) s)
def execLiveClr (u : UnitNo) (s : State) : Host.Outcome State Fault Refusal := ok (onIssue u (portCue .host 4 u (doLiveClr u)) s)
def execStateGet (u : UnitNo) (s : State) : Host.Outcome State Fault Refusal := ok (onIssue u (portCue .host 5 u (doStateGet u)) s)

def execStepRecordDelivery (ctx : CtxNo) (s : State) : Host.Outcome State Fault Refusal := ok (deliverRecord ctx s)
def execRqTailWrite (ctx : CtxNo) (value : Word) (s : State) : Host.Outcome State Fault Refusal := ok (indexWrite 0x0C ctx value s)
def execSrTailWrite (ctx : CtxNo) (value : Word) (s : State) : Host.Outcome State Fault Refusal := ok (indexWrite 0x30 ctx value s)
def execRequestFetch (ctx : CtxNo) (reply : FetchReply) (s : State) : Host.Outcome State Fault Refusal := ok (fetchRequest ctx reply s)
def execRequestLatch (ctx : CtxNo) (s : State) : Host.Outcome State Fault Refusal := ok (latchRequest ctx s)
def execCancel (ctx : CtxNo) (hi : Word) (s : State) : Host.Outcome State Fault Refusal := ok (cancelWrite ctx hi s)

end Sys2Proof.Machine
end

