-- ==== Sys2Proof/Machine/Host.lean ====
section
/-! DEFINITION. The BAR2 aperture, host slots, patrol and line repair (R149, R157, R162 to R166, R390, R396, R401). -/

namespace Sys2Proof.Machine

/-! ## Which slots of the present bead are open -/

/-- The slot of the present bead, if one starts in it. -/
def slotNow (s : State) : Option Nat := slotAt s.rotLen s.beadInRot

/-- The channel's slot start of the present bead has been taken. -/
def slotTaken (s : State) (ch : Nat) : Bool := decide ((s.chan ch).taken = some s.bead)

def takeSlot (ch : Nat) (s : State) : State := s.modChan (fun x => { x with taken := some s.bead }) ch

/-- A slot start that is neither a host slot nor a Cast slot and that no admitted Strand owns (R401). -/
def freeStart (s : State) (ch : Nat) : Bool :=
  match slotNow s with
  | some k => !isHostSlot s k && !isCastSlot s ch k && decide (s.owner (unitNo .channel ch) = 0) && !slotTaken s ch
  | none => false

/-- The channel has scrub lines to write (R401). -/
def scrubWants (s : State) (ch : Nat) : Bool :=
  s.ctxs.any fun c => match c.scrub with | some r => r.keyLoaded && r.lines.any fun l => l.1 = ch | none => false

/-- A start that a host access may take: a host slot, or with H = 0 a free start that no scrub write wants (R162). -/
def hostStart (s : State) (ch : Nat) : Bool :=
  if hostSlots s = 0 then freeStart s ch && !scrubWants s ch
  else
    match slotNow s with
    | some k => isHostSlot s k && !slotTaken s ch
    | none => false

/-! ## Windows (R162) -/

/-- The segment address of a window offset. -/
def windowSeg (s : State) (n x : Nat) : Nat × Nat :=
  let a := s.bezel.apertures.getD n ⟨false, 0, 0⟩
  (a.seg, a.win * 2 ^ 32 + x)

/-- Window n is open, and has the session its mode asks for. -/
def windowOpen (s : State) (n : Nat) : Bool :=
  (s.bezel.apertures.getD n ⟨false, 0, 0⟩).open_ && s.running n &&
    match (s.ctx n).record with
    | some r => !r.apertureSession || (s.ctx n).sec.session.isSome
    | none => false

/-- The window is in session mode. -/
def windowSession (s : State) (n : Nat) : Option Session :=
  match (s.ctx n).record with
  | some r => if r.apertureSession then (s.ctx n).sec.session else none
  | none => none

/-- The line that a window offset lies in. -/
def windowLine (s : State) (n x : Nat) (wr : Bool) : Option (Nat × Nat) :=
  let a := windowSeg s n x
  match translate s n a.1 a.2 wr with
  | some (0, off) => some (lineOf off)
  | _ => none

/-- A window access cut at line boundaries: offset and length. -/
def linePieces : Nat → Nat → Nat → List (Nat × Nat)
  | 0, _, _ => []
  | f + 1, o, n =>
    if n = 0 then []
    else
      let k := min n (1024 - o % 1024)
      (o, k) :: linePieces f (o + k) (n - k)

/-- Every line of the access translates. -/
def windowOk (s : State) (n x len : Nat) (wr : Bool) : Bool :=
  windowOpen s n && (linePieces (len / 1024 + 2) x len).all fun p => (windowLine s n p.1 wr).isSome

/-- HOST_APERTURE (Table 16-14). -/
def apertureEvent (n x : Nat) (s : State) : State := raise evHostAperture (BitVec.ofNat 8 n :: leBytes 5 x) s

/-! ## Sealed loads (R396) -/

/-- The write falls in the range of a sealed load. -/
def sealedHit (s : State) (n x len : Nat) : Option SealedLoad :=
  match (s.ctx n).sec.load with
  | some l => if x < l.target + l.bodyBytes ∧ l.target < x + len then some l else none
  | none => none

/-- The measurement that a load of a kind gives (R396). -/
def setMeasure (kind : Nat) (m : Bytes) (x : Sec) : Sec := if kind = 1 then { x with mWeights := m } else { x with mCharms := m }

/-- The load ends with PACKAGE_FAIL; the content key is destroyed and the measurement is zero. -/
def loadFails (n : CtxNo) (s : State) : State :=
  raiseAt evPackageFail (some n) 0xFFFF 0xFFFF false false [5]
    (s.modSec (fun x => { (match x.load with | some l => setMeasure l.kind (zeros 32) x | none => x) with load := none }) n)

/-- The plain line of a write in the sealed range; none where the write is not the next whole line. -/
def sealedLine (l : SealedLoad) (x : Nat) (data : Bytes) : Option Bytes :=
  if x = l.target + 1024 * l.next ∧ data.length = 1024 then some (xts false l.key1 l.key2 l.next data) else none

/-- Every line has been performed: the digest decides (R396). -/
def loadComplete (n : CtxNo) (s : State) : State :=
  match (s.ctx n).sec.load with
  | none => s
  | some l =>
    let waits := s.bezel.queue.any fun q => match q.2 with
      | .write w o _ _ _ _ => decide (w = n ∧ l.target ≤ o ∧ o < l.target + l.bodyBytes)
      | _ => false
    if l.next * 1024 = l.bodyBytes ∧ waits = false then
      if sm3 l.plain = l.setDigest then
        s.modSec (fun x => { setMeasure l.kind l.setDigest x with load := none }) n
      else loadFails n s
    else s

/-! ## Arrival -/

/-- A plain write to one line waits for its slot; the lead relays it (R325). -/
def queueWrite (n x : Nat) (plain : Bytes) (notBefore : Nat) (s : State) : State :=
  match windowLine s n x true with
  | none => s
  | some (ch, _) =>
    s.modBezel fun b => { b with queue := b.queue ++ [(ch, .write n x plain b.posted none notBefore)], posted := b.posted + 1 }

/-- A write accepted into its window. -/
def acceptWrite (n x : Nat) (plain : Bytes) (s : State) : State :=
  let s := if relays s then
      sendItem 1 n (leBytes 8 (s.bead + 16) ++ [0x42, 9, 0, 0] ++ leBytes 8 (n * 2 ^ 32 + x) ++ plain) s
    else s
  queueWrite n x plain (latchBead s) s

/-- A host write that arrives (R162, R163, R390, R396, R438, R452). -/
def hostWriteArrives (off : Nat) (data : Bytes) (poisoned : Bool) (s : State) : State :=
  let n := off / 2 ^ 32
  let x := off % 2 ^ 32
  if s.ports.linkUp = false then s
  else if poisoned then s.emit .aerUncorrectable
  else if s.startup.ready = false ∨ data = [] then s
  else if s.follows ∨ 2 ^ 32 < x + data.length ∨ 16 ≤ n ∨ windowOk s n x data.length true = false then apertureEvent n x s
  else if s.cast.replay then s
  else
    match sealedHit s n x data.length with
    | some l =>
      match sealedLine l x data with
      | some plain =>
        acceptWrite n x plain
          (s.modSec (fun y => { y with load := some { l with next := l.next + 1, plain := l.plain ++ plain } }) n)
      | none => loadFails n s
    | none =>
      match windowSession s n with
      | some k =>
        if x % 1024 = 0 ∧ data.length % 1024 = 0 then
          (chunks 1024 data).zipIdx.foldl (fun t p =>
            acceptWrite n (x + 1024 * p.2) (xts false k.hmEnc k.mhEnc (x + 1024 * p.2) p.1) t) s
        else apertureEvent n x s
      | none =>
        (linePieces (data.length / 1024 + 2) x data.length).foldl (fun t p =>
          acceptWrite n p.1 (slice data (p.1 - x) p.2) t) s

/-- A read that completes with all ones. -/
def onesRead (off len : Nat) (s : State) : State := s.emit (.hostReadDone off (List.replicate len 0xFF))

/-- A host read that arrives: each of its lines waits for a slot. -/
def hostReadArrives (off len : Nat) (s : State) : State :=
  let n := off / 2 ^ 32
  let x := off % 2 ^ 32
  let fit := match windowSession s n with
    | some _ => decide (x % 1024 = 0 ∧ len % 1024 = 0)
    | none => true
  if s.ports.linkUp = false then s
  else if s.startup.ready = false then onesRead off len s
  else if s.follows ∨ 2 ^ 32 < x + len ∨ 16 ≤ n ∨ windowOk s n x len false = false ∨ fit = false then
    apertureEvent n x (onesRead off len s)
  else
    (linePieces (len / 1024 + 2) x len).foldl (fun t p =>
      match windowLine t n p.1 false with
      | some (ch, _) =>
        t.modBezel fun b => { b with queue := b.queue ++ [(ch, .read n p.1 p.2 b.posted)], posted := b.posted + 1 }
      | none => t) s

/-! ## Host slots -/

/-- The access may be performed now: reads wait for every earlier write (R162). -/
def accessReady (s : State) (q : Nat × HostAccess) : Bool :=
  match q.2 with
  | .write _ _ _ _ _ nb => decide (nb ≤ s.bead)
  | .read _ _ _ p => !(s.bezel.queue.any fun r => match r.2 with | .write _ _ _ p' _ _ => decide (p' < p) | _ => false)

/-- A write, in the queue of accesses. -/
def isWrite (q : Nat × HostAccess) : Bool := match q.2 with | .write .. => true | .read .. => false

/-- The channel's next access: its oldest write, whose slot both members of a pair use (R163); where that must still wait or
none is queued, its oldest read. -/
def nextAccess (s : State) (ch : Nat) : Option (Nat × HostAccess) :=
  let on := s.bezel.queue.filter fun q => decide (q.1 = ch)
  match (on.find? isWrite).filter (accessReady s) with
  | some q => some q
  | none => (on.find? fun q => !isWrite q).filter (accessReady s)

/-- The request line of the channel, if an on-request Signet waits for one. -/
def nextRequest (s : State) (ch : Nat) : Option SigRequest :=
  match s.signets.req with
  | some r =>
    if r.left = 0 ∨ r.inputs.isEmpty then none
    else
      match requestLine s r with
      | some (k, _) => if k = ch then some r else none
      | none => some r
  | none => none

/-- The host claims the channel's start (R157). -/
def hostClaims (s : State) (ch : Nat) : Bool := (nextAccess s ch).isSome || (nextRequest s ch).isSome

def dropAccess (q : Nat × HostAccess) (s : State) : State := s.modBezel fun b => { b with queue := b.queue.erase q }

/-- A write performed in its slot: the line is there, and the input latched, 18 beads later (R163). -/
def performWrite (n x : Nat) (data : Bytes) (line : Bytes) (ch u seq : Nat) (s : State) : State :=
  let e := sealLine s n ch u line
  let s := if stopped s ch then
      let a := windowSeg s n x
      lineUe 18 0xB000 n a.1 a.2 ch u s
    else s
  s.later 18 0xB000 n (.hostWrite n x data (if stopped s ch then [] else [(ch, u, e.1, e.2)]) seq)

/-- The newest host write of a line that is performed and not yet visible. -/
def postedLine (s : State) (ch u : Nat) : Option (Bytes × Bytes) :=
  s.effects.findSome? fun e =>
    match e.kind with
    | .hostWrite _ _ _ ls _ => (ls.find? fun l => decide (l.1 = ch ∧ l.2.1 = u)).map (·.2.2)
    | _ => none

/-- A line as a host slot reads it: host writes performed in earlier slots are in it (R162, R163). -/
def readPosted (n ch u : Nat) (s : State) : Bytes × Bool × State :=
  match postedLine s ch u with
  | some l =>
    let x := readLine n ch u (putLine ch u l.1 l.2 s)
    (x.1, x.2.1, { x.2.2 with lp4x := s.lp4x, lp4xCheck := s.lp4xCheck })
  | none => readLine n ch u s

/-- The line as a host read delivers it. -/
def performRead (n x len ch u : Nat) (s : State) : State :=
  let (bs, ue, s) := readPosted n ch u s
  let a := windowSeg s n x
  let s := if ue then lineUe 18 0xB000 n a.1 a.2 ch u s else s
  let out := match windowSession s n with
    | some k => xts true k.hmEnc k.mhEnc (x / 1024 * 1024) bs
    | none => bs
  s.emit (.hostReadDone (n * 2 ^ 32 + x) (slice out (x % 1024) len))

/-- A host access performed in its slot. -/
def performAccess (ch : Nat) (q : Nat × HostAccess) (s : State) : State :=
  let s := takeSlot ch (dropAccess q s)
  match q.2 with
  | .write n x data seq back _ =>
    match if windowOpen s n then windowLine s n x true else none with
    | none => apertureEvent n x s
    | some (k, u) =>
      if k ≠ ch then apertureEvent n x s
      else if data.length = 1024 then loadComplete n (performWrite n x data data ch u seq s)
      else
        match back with
        | some old => performWrite n x data (overlay old (x % 1024) data) ch u seq s
        | none =>
          let (bs, ue, s) := readPosted n ch u s
          let a := windowSeg s n x
          let s := if ue then lineUe 18 0xB000 n a.1 a.2 ch u s else s
          s.modBezel fun b => { b with queue := (ch, .write n x data seq (some bs) s.bead) :: b.queue }
  | .read n x len _ =>
    match if windowOpen s n then windowLine s n x false else none with
    | none => apertureEvent n x (onesRead (n * 2 ^ 32 + x) len s)
    | some (k, u) => if k = ch then performRead n x len ch u s else s

/-- HOST_SLOT_ACCESS. -/
def hostSlotAccess (ch : Nat) (s : State) : State :=
  if hostStart s ch then
    match nextAccess s ch with
    | some q => performAccess ch q s
    | none =>
      match nextRequest s ch with
      | some r => requestRead ch r (takeSlot ch s)
      | none => s
  else s

/-- A host write that takes effect as a latched input at its visibility bead (R163, R309). -/
def applyHostWrite (n x : Nat) (data : Bytes) (lines : List (Nat × Nat × Bytes × Bytes)) (slotBead sub : Nat) (s : State) : State :=
  let s := lines.foldl (fun t l => putLine l.1 l.2.1 l.2.2.1 l.2.2.2 (keepOld l.1 l.2.1 t)) s
  let p := leBytes 8 (n * 2 ^ 32 + x) ++ data
  let s := if (s.ctx n).castOn then castPut 0x42 9 n 0 slotBead sub (s.periodAt slotBead) p s else s
  assign n false 0x42 p s

/-! ## Patrol and repair (R157, R164, R166) -/

/-- Usable lines of a channel. -/
def channelLines : Nat := 15728640

/-- A start that patrol may take now, on a channel of the grade. -/
def patrolStart (s : State) (ch : Nat) : Bool := decide (ch < channelCount s.grade) && hostStart s ch && !hostClaims s ch

/-- PATROL: a corrected line is written, or the next line is read. -/
def patrol (ch : Nat) (s : State) : State :=
  if s.bezel.patrolEn ∧ patrolStart s ch then
    let s := (takeSlot ch s).modChan (fun x => { x with patrolled := true }) ch
    match (s.chan ch).patrolFix with
    | some u =>
      let (pay, _, _) := checkLine s ch u
      let s := s.modChan (fun x => { x with patrolFix := none }) ch
      if stopped s ch then channelUe ch u s else putLine ch u pay (lineCheck pay) s
    | none =>
      let u := (s.chan ch).patrolAt
      let (_, fixed, ue) := checkLine s ch u
      let bad := ue || stopped s ch
      let s := s.modChan (fun x =>
        { x with patrolAt := if u + 1 < channelLines then u + 1 else 0, ce := if fixed && !bad then noteBead s.bead x.ce else x.ce,
                 patrolFix := if fixed && !bad then some u else none }) ch
      if bad then channelUe ch u s else s
  else s

/-- PATROL_STARVED: no slot for 2^20 rotations. -/
def patrolStarves (ch : Nat) (s : State) : State :=
  if s.bezel.patrolEn ∧ ch < channelCount s.grade ∧ 2 ^ 20 ≤ (s.chan ch).noPatrol then s.modChan (fun x => { x with patrolStarved := true }) ch else s

/-- UE_LINE_REPAIR: in a pair the line is written with the partner's contents; unpaired it stays as it is (R166). -/
def repairLine (ch : Nat) (plain : Bytes) (s : State) : State :=
  match (s.chan ch).repair with
  | [] => s
  | u :: r =>
    if patrolStart s ch then
      let s := (takeSlot ch s).modChan (fun x => { x with repair := r }) ch
      match holderOf s ch u with
      | some (c, _, _) => if s.pair.regs.state = .lockstep then storeLine c ch u plain s else s
      | none => s
    else s

/-! ## The commands -/

def execApertureWrite (offset : Nat) (data : Bytes) (poisoned : Bool) (s : State) : Host.Outcome State Fault Refusal :=
  ok (hostWriteArrives offset data poisoned s)

def execApertureRead (offset : Nat) (len : Nat) (s : State) : Host.Outcome State Fault Refusal := ok (hostReadArrives offset len s)
def execHostSlotAccess (ch : Nat) (s : State) : Host.Outcome State Fault Refusal := ok (hostSlotAccess ch s)
def execPatrol (ch : Nat) (s : State) : Host.Outcome State Fault Refusal := ok (patrol ch s)
def execPatrolStarved (ch : Nat) (s : State) : Host.Outcome State Fault Refusal := ok (patrolStarves ch s)
def execUeLineRepair (ch : Nat) (plain : Bytes) (s : State) : Host.Outcome State Fault Refusal := ok (repairLine ch plain s)

end Sys2Proof.Machine
end

