-- ==== Sys2Proof/Machine/Scrub.lean ====
section
/-! DEFINITION. Which slot starts of a rotation Strands own, and what a scrub has left to write (R106, R400, R401). -/

namespace Sys2Proof.Machine

/-! ## Ownership over the present rotation (R106) -/

/-- A window of a Strand in rotation `rot` of its run covers bead `b` of the present rotation. A window never leaves its
Strand period (Table 3-15). -/
def runCovers (s : State) (rot : Nat) (t : Strand) (d : DirEntry) (b : Nat) : Bool :=
  let r := rot % max 1 t.periodRot
  if r < d.firstRot then false
  else
    let n := r - d.firstRot
    let back := lrotSum s.rate (s.period.toNat + 4 * n - n) n
    decide (d.firstBead ≤ b + back ∧ b + back < d.firstBead + d.beads)

/-- A window of a context covers bead `b` of the present rotation on its unit. -/
def windowCovers (s : State) (c : CtxNo) (t : Strand) (d : DirEntry) (b : Nat) : Bool :=
  decide ((s.ctx c).admitBead ≤ s.bead) && runCovers s (s.ctx c).rot t d b

/-- Some Strand owns bead `b` of the present rotation on a unit. -/
def beadOwned (s : State) (u : UnitNo) (b : Nat) : Bool :=
  s.admitted.any fun c =>
    match (s.ctx c).strand with
    | some t => t.dir.any fun d => d.unit == u && windowCovers s c t d b
    | none => false

/-- The present rotation's slot starts of a channel that are neither host nor Cast slots and that no Strand owns. -/
def freeStarts (s : State) (ch : Nat) : List Nat :=
  (List.range (slotCount s.rotLen)).filter fun k =>
    !isHostSlot s k && !isCastSlot s ch k && !beadOwned s (unitNo .channel ch) (51 * k / 16)

/-! ## Lines of a context -/

/-- First line and number of lines of a context's space 0 segments on a channel, in ascending order. -/
def ctxLines (s : State) (c : CtxNo) (ch : Nat) : List (Nat × Nat) :=
  sortBy (fun a b => decide (a.1 ≤ b.1)) ((s.ctx c).segs.filterMap fun e =>
    let g := e.2
    if g.space = 0 ∧ g.chBase ≤ ch ∧ ch < g.chBase + 2 ^ g.stripe then some (g.base / 1024, g.size / 2 ^ g.stripe) else none)

/-- Lines of a context on a channel. -/
def ctxLineCount (s : State) (c : CtxNo) (ch : Nat) : Nat := ((ctxLines s c ch).map (·.2)).sum

/-- The `i`-th line of ranges of lines. -/
def nthLine : List (Nat × Nat) → Nat → Option Nat
  | [], _ => none
  | (b, n) :: r, i => if i < n then some (b + i) else nthLine r (i - n)

/-- The next line that the scrub of a context writes on a channel. -/
def scrubLine (s : State) (c : CtxNo) (ch : Nat) : Option Nat :=
  match (s.ctx c).scrub with
  | some r =>
    match assoc ch r.lines with
    | some left => if r.keyLoaded then nthLine (ctxLines s c ch) (ctxLineCount s c ch - left) else none
    | none => none
  | none => none

/-- The scrub may write in the start of the present bead: a free start, or slot N − H in a rotation that has none. -/
def scrubStart (s : State) (ch : Nat) : Bool :=
  freeStart s ch ||
    (decide (1 ≤ hostSlots s) && (freeStarts s ch).isEmpty && !slotTaken s ch
      && slotNow s == some (slotCount s.rotLen - hostSlots s))

/-! ## SCRUB_BOUND (R401, Table 13-7) -/

/-- Rotations that `lines` lines of a channel take at the present free starts; none where the scrub waits. -/
def channelBound (s : State) (ch lines : Nat) : Option Nat :=
  let f := (freeStarts s ch).length
  if lines = 0 then some 0
  else if f = 0 then (if hostSlots s = 0 then none else some lines)
  else some (cdiv lines f)

/-- SCRUB_BOUND of a context: the rotations left of its scrub. -/
def scrubBound (s : State) (c : CtxNo) : Word :=
  match (s.ctx c).scrub with
  | none => 0
  | some r =>
    let left := if r.keyLoaded then r.lines else (List.range (channelCount s.grade)).map fun ch => (ch, ctxLineCount s c ch)
    if left.any fun x => (channelBound s x.1 x.2).isNone then 0xFFFFFFFF
    else BitVec.ofNat 32 (left.foldl (fun a x => max a ((channelBound s x.1 x.2).getD 0)) 0)

end Sys2Proof.Machine
end

