-- ==== Sys2Proof/Machine/Clock.lean ====
section
/-! DEFINITION. Clock references, the monitor, operating points and spread spectrum (R350 to R360). -/

namespace Sys2Proof.Machine

/-- SRC as it acts (Table 12-7): a module in replay mode is free-running (R303). -/
def driveLocked (s : State) : Bool := decide (s.clock.src = 1) && !s.cast.replay

/-- The drive-lock port may be the reference (R352). -/
def lockPortReady (s : State) : Bool :=
  let c := s.clasp s.clock.lockPort
  c.blockLock && decide (64 ≤ c.nearWindows) && decide (c.offWindows < 2)

/-- The module's own reference: the crystal, or the internal oscillator once that has failed (R355). -/
def ownRef (s : State) : Ref := if s.clock.xtalFailed then .oscillator else .crystal

/-- The reference that Table 12-1 gives. -/
def wantedRef (s : State) : Ref :=
  if s.follows then .twin
  else if driveLocked s && lockPortReady s then .clasp
  else ownRef s

/-- The root goes to holdover and slews toward a reference (R353). -/
def slewTo (r : Ref) (s : State) : State :=
  let s := if s.clock.ref = .clasp then s.modClasp (fun c => { c with lockSrc := false }) s.clock.lockPort else s
  s.modClock fun c => { c with ref := .holdover, toward := some r, nearWindows := 0 }

/-- CLOCK_SOURCE_LOST is a local fault of every context (R330), and a lead sets FAULT (R334). -/
def sourceLost (s : State) : State :=
  leadFault (s.admitted.foldl (fun t c => noteLocalFault c t) (raise evClockSourceLost [] s))

/-- The crystal fails (R354, R355): a root that follows it, or slews to it, goes to holdover and slews to the internal
oscillator (R353). -/
def crystalFails (s : State) : State :=
  let s := s.modClock fun c => { c with xtalFailed := true, offset := 0x8000 }
  sourceLost (if s.clock.ref = .crystal ∨ s.clock.toward = some .crystal then slewTo .oscillator s else s)

/-- Consecutive windows of a Clasp port, counted. -/
def claspWindow (p : Nat) (off near : Bool) (s : State) : State :=
  s.modClasp (fun c => { c with offWindows := if off then c.offWindows + 1 else 0, nearWindows := if near then c.nearWindows + 1 else 0 }) p

/-- The drive-lock source, which the root follows or slews to, has failed (Table 12-2). -/
def lockSourceFails (s : State) : Bool :=
  decide (s.clock.ref = .clasp ∨ s.clock.toward = some .clasp) &&
    let c := s.clasp s.clock.lockPort
    !c.blockLock || decide (2 ≤ c.offWindows)

/-- CLOCK_MONITOR_WINDOW: every source is judged. -/
def monitorWindow (w : MonitorWindow) (s : State) : State :=
  let s := s.modClock fun c =>
    { c with xtalOff := if w.xtalOff then c.xtalOff + 1 else 0, oscOff := if w.oscOff then c.oscOff + 1 else 0,
             twinOff := if w.twinOff then c.twinOff + 1 else 0, nearWindows := if w.rootNear then c.nearWindows + 1 else 0,
             offset := if c.xtalFailed then 0x8000 else w.offset }
  let s := (List.range 4).foldl (fun t p => claspWindow p (w.claspOff.getD p false) (w.claspNear.getD p false) t) s
  let s := if s.clock.xtalFailed = false ∧ (w.xtalNoEdge ∨ (s.clock.oscFault = false ∧ 2 ≤ s.clock.xtalOff)) then crystalFails s else s
  let s := if s.clock.oscFault = false ∧ 16 ≤ s.clock.oscOff then
      raise evClockMonitorFault [] (s.modClock fun c => { c with oscFault := true })
    else s
  let s := if w.rootLockDropped ∧ s.clock.rootLock then
      setHealth (fun h => { h with fatal := true }) evClockSourceLost (sourceLost (s.modClock fun c => { c with rootLock := false }))
    else s
  let s := if lockSourceFails s then
      let p := s.clock.lockPort
      raise evLockSourceLost [] (slewTo (ownRef s) (s.modClasp (fun c => { c with lockSrc := false, aligned := false, alignFailed := false }) p))
    else s
  if s.clock.ref = .twin ∧ 2 ≤ s.clock.twinOff then slewTo (ownRef s) s else s

/-- REFERENCE_CHANGE: the reference of Table 12-1 is another than the present one. -/
def referenceChange (s : State) : State :=
  let r := wantedRef s
  if 8 ≤ s.startup.step ∧ r ≠ s.clock.ref ∧ s.clock.toward ≠ some r then slewTo r s else s

/-- REFERENCE_LOCK: 16 consecutive windows within 0.1 ppm. -/
def referenceLock (s : State) : State :=
  match s.clock.toward with
  | some r =>
    if 16 ≤ s.clock.nearWindows then
      let s := s.modClock fun c => { c with ref := r, toward := none }
      let s := if r = .clasp then s.modClasp (fun c => { c with lockSrc := true }) s.clock.lockPort else s
      if r = .twin ∧ s.pair.regs.role = .joining ∧ s.pair.join.step = 2 then s.modJoin fun j => { j with step := 3 } else s
    else s
  | none => s

/-! ## Operating points (R356 to R359) -/

/-- TARGET as it acts. -/
def oppTarget (v : Word) : Nat := let t := v.toNat % 4; if t = 3 then 0 else t

def strandRealtime (s : State) (c : CtxNo) : Bool := match (s.ctx c).strand with | some t => t.realtime | none => false
def strandMovable (s : State) (c : CtxNo) : Bool := match (s.ctx c).strand with | some t => t.movable | none => true

/-- R357 and R37 allow leaving P-nominal. -/
def mayLeaveNominal (s : State) : Bool :=
  !s.paired && decide (s.fabric.state ≠ .locked) && !(s.admitted.any (strandRealtime s))
    && !(s.clasps.any fun c => decide (c.state = .up))
    && (s.bezel.channels.take (channelCount s.grade)).all fun c => decide (c.temp.toNat ≤ 4)

/-- The change is allowed (R358). -/
def oppAllowed (s : State) (t : Nat) : Bool :=
  (decide (t = 0) || mayLeaveNominal s) && (decide (s.grade = 4) || s.admitted.all (strandMovable s))

/-- A request, judged. -/
def oppJudge (t : Nat) (s : State) : State :=
  if t = s.clock.opp then s
  else if oppAllowed s t then s.modClock fun c => { c with oppBusy := true, oppNext := some t }
  else raise evOppRefused [BitVec.ofNat 8 t] s

/-- A write to CLK_OPP: a request that arrives during a change waits. -/
def oppRequest (v : Word) (s : State) : State :=
  let t := oppTarget v
  let s := s.modClock fun c => { c with oppTarget := v.toNat % 4 }
  if bit v 31 = false then s
  else if s.clock.oppBusy then s.modClock fun c => { c with oppWaiting := c.oppWaiting ++ [t] }
  else oppJudge t s

/-- On CX-1 and CX-2 the last three beads belong to context 0 and no effect crosses the boundary (R359). -/
def oppQuiet (s : State) : Bool :=
  decide (s.grade = 4) ||
    (!(s.effects.any fun e => decide (s.bead + 1 < e.due)) && !(s.drives.any fun d => decide (s.bead < d.until_)) && !s.clock.tailUsed)

/-- The requests that wait, in their order: judged until one begins a change (R358). -/
def oppTake : List Nat → State → State
  | [], s => s.modClock fun c => { c with oppWaiting := [] }
  | t :: r, s =>
    let s := oppJudge t s
    if s.clock.oppBusy then s.modClock fun c => { c with oppWaiting := r } else oppTake r s

/-- The change in progress is over, with the point now in force, and the requests that waited are judged. -/
def oppOver (t : Nat) (s : State) : State :=
  let s := s.modClock fun c => { c with opp := t, oppBusy := false, oppNext := none, oppForced := false, oppSince := none }
  oppTake s.clock.oppWaiting s

/-- On CX-4 the divider moves from the change boundary on, in 8 steps of 4 beads (R359): the step of the present bead, 8 where
no change is in progress. -/
def dividerStep (s : State) : Nat :=
  match s.clock.oppSince with
  | some b => min 8 ((s.bead - b) / 4 + 1)
  | none => 8

/-- OPP_CHANGE: at a rotation boundary, after its admissions and releases. A forced return that cannot be made waits (R357). -/
def oppChange (s : State) : State :=
  match s.clock.oppNext with
  | none => s
  | some t =>
    if s.rotDone = false ∨ oppQuiet s = false ∨ s.clock.oppSince.isSome then s
    else if oppAllowed s t then
      if s.grade = 4 then s.modClock fun c => { c with oppSince := some (s.bead + 1) } else oppOver t s
    else if s.clock.oppForced then s
    else oppOver s.clock.opp (raise evOppRefused [BitVec.ofNat 8 t] s)

/-- On CX-4 the change is complete 32 beads after its boundary. -/
def oppStep (s : State) : State :=
  match s.clock.oppSince, s.clock.oppNext with
  | some b, some t => if b + 32 ≤ s.bead then oppOver t s else s
  | _, _ => s

/-- A TEMP code above 0b100 below P-nominal forces the return (R357). -/
def oppForce (s : State) : State :=
  if s.clock.opp ≠ 0 ∧ s.clock.oppNext ≠ some 0 ∧ s.clock.oppWaiting.head? ≠ some 0 ∧ mayLeaveNominal s = false
      ∧ (s.bezel.channels.take (channelCount s.grade)).any (fun c => decide (4 < c.temp.toNat)) then
    raise evOppForced [0] (s.modClock fun c =>
      if c.oppSince.isSome then { c with oppWaiting := 0 :: c.oppWaiting }
      else { c with oppBusy := true, oppNext := some 0, oppForced := true })
  else s

/-! ## Spread spectrum (R360) -/

/-- The conditions of R360. -/
def sscAllowed (s : State) : Bool :=
  s.clock.sscEn && !driveLocked s && !s.paired && !(s.clasps.any fun c => decide (c.mode = 2))
    && decide (s.fabric.state ≠ .locked)

/-- SSC_START: at the first rotation boundary after alignment. -/
def sscStart (s : State) : State :=
  if sscAllowed s ∧ 9 ≤ s.startup.step ∧ (s.rotDone ∨ s.beadInRot = 0) then s.modClock fun c => { c with sscActive := true } else s

/-! ## The commands -/

def execClockMonitorWindow (w : MonitorWindow) (s : State) : Host.Outcome State Fault Refusal := ok (monitorWindow w s)
def execReferenceChange (s : State) : Host.Outcome State Fault Refusal := ok (referenceChange s)
def execReferenceLock (s : State) : Host.Outcome State Fault Refusal := ok (referenceLock s)
def execOppRequest (value : Word) (s : State) : Host.Outcome State Fault Refusal := ok (oppRequest value s)
def execOppChange (s : State) : Host.Outcome State Fault Refusal := ok (oppChange s)
def execSscStart (s : State) : Host.Outcome State Fault Refusal := ok (sscStart s)

end Sys2Proof.Machine
end

