-- ==== Sys2Proof/Machine/Spare.lean ====
section
/-! DEFINITION. Spare Facets: the map, the copy and the swap (R34, R36, R68, R370, Table 12-15). -/

namespace Sys2Proof.Machine

def Sensor.new : Sensor := { samples := [], level := 0, filtered := 0, below := none }

def State.spare (s : State) (d : Nat) : SpareDie := s.spares.getD d SpareDie.reset
def State.modSpare (f : SpareDie → SpareDie) (d : Nat) (s : State) : State := { s with spares := modifyAt f d s.spares }

/-- Physical Facets of a die that are healthy spares: neither mapped nor retired. -/
def SpareDie.free (d : SpareDie) : List Nat := (List.range 272).filter fun p => !d.map.contains p && !d.retired.contains p

/-- The spares that a substitution may take. -/
def SpareDie.usable (d : SpareDie) : List Nat := d.free.filter fun p => !d.resting.contains p

/-- Filtered temperature of a zone. -/
def zoneTemp (s : State) (die z : Nat) : Int := ((assoc (16 * die + z) s.thermal.sensors).getD Sensor.new).filtered

/-- Non-IDLE cue beads of a logical Facet over the last 2^16 rotations. -/
def facetUse (s : State) (f : Nat) : Nat :=
  (s.thermal.use.map fun r => (assoc f r.2).getD 0).sum + (assoc f s.thermal.useNow).getD 0

/-- The element with the least key; the first on a tie. -/
def leastBy (key : Nat → Int) : List Nat → Option Nat
  | [] => none
  | a :: r =>
    match leastBy key r with
    | some b => if key b < key a then some b else some a
    | none => some a

/-- The outgoing logical Facet of a zone: the busiest, ties to the lowest physical number. -/
def outgoingFacet (s : State) (die z : Nat) : Option Nat :=
  let d := s.spare die
  let phys := (span (17 * z) (17 * z + 17)).filter d.map.contains
  (leastBy (fun p => -((facetUse s (256 * die + d.map.idxOf p) : Nat) : Int)) phys).map d.map.idxOf

/-- The incoming spare: in the coolest zone, ties to the lowest physical number. -/
def incomingSpare (s : State) (die : Nat) : Option Nat := leastBy (fun p => zoneTemp s die (p / 17)) (s.spare die).usable

/-! ## The copy (R370 steps 1 to 5) -/

/-- A trigger that finds no copy under way and a usable spare begins the copy; else it waits (log entry 25). -/
def startCopy (die logical : Nat) (s : State) : State :=
  match (s.spare die).copying, incomingSpare s die with
  | none, some p => s.modSpare (fun d => { d with copying := some ⟨logical, p, s.rotCount, 128⟩, waits := d.waits.filter (· ≠ logical) }) die
  | _, _ => s.modSpare (fun d => if d.waits.contains logical then d else { d with waits := d.waits ++ [logical] }) die

/-- The first trigger that waits on a die is tried again. -/
def retryCopy (die : Nat) (s : State) : State :=
  match (s.spare die).copying, (s.spare die).waits with
  | none, l :: _ => startCopy die l s
  | _, _ => s

/-- The copy under way is abandoned. -/
def dropCopy (die : Nat) (s : State) : State := s.modSpare (fun d => { d with copying := none }) die

/-- A physical Facet is retired (R34, R36, R451): it is never mapped again, and a copy to it begins anew to another. -/
def retire (die p : Nat) (s : State) : State :=
  let d := s.spare die
  if d.retired.contains p then s
  else
    let s := s.modSpare (fun d => { d with retired := d.retired ++ [p], resting := d.resting.erase p }) die
    if d.map.contains p then startCopy die (d.map.idxOf p) s
    else
      match d.copying with
      | some k => if k.spare = p then startCopy die k.logical (dropCopy die s) else s
      | none => s

/-- In a bead in which no unit runs a window and no effect is in flight, every bank idles in all 16 fc; in another bead the
fc in which every bank of the Facet idles are a free number (log entry 25). -/
def idleFc (s : State) (die tok : Nat) : Nat :=
  if s.effects.isEmpty && s.seqs.all (fun q => q.2.win.isNone) then 16 else Config.freeNat (4 * tok + die) % 17

/-- One bead of the copies under way: a word of every bank in each such fc. Every write made to the outgoing Facet's scratch is
made to the incoming one's too, so that the store, which is kept by logical Facet, holds the bytes of both. -/
def copyStep (s : State) : State :=
  if s.spares.all fun d => d.copying.isNone then s
  else
    let x := s.fresh
    { x.2 with spares := s.spares.zipIdx.map fun d =>
        { d.1 with copying := d.1.copying.map fun k => { k with left := k.left - idleFc s d.2 x.1 } } }

/-! ## The swap (R34, R370 step 6) -/

/-- A substitution is due at the boundary that ends the present rotation: the copy is complete, and none has been made on the
die at that boundary. -/
def swapDue (s : State) (die : Nat) : Bool :=
  decide (die < settingDies s.grade) &&
    (match (s.spare die).copying with | some k => k.left == 0 | none => false)
    && (match (s.spare die).swapped with | some w => decide (w.1 ≠ s.rotCount) | none => true)

/-- Some substitution is due. -/
def anySwapDue (s : State) : Bool := (List.range 4).any (swapDue s)

/-- A substitution has been made at this boundary. -/
def swapMade (s : State) : Bool := s.spares.any fun d => match d.swapped with | some w => decide (w.1 = s.rotCount) | none => false

/-- The cue stores of a Facet and its edge lanes come from the admitted images: damaged entries go. -/
def freshStores (facet : Nat) (x : Ctx) : Ctx :=
  { x with damage := x.damage.filter fun e =>
      match x.strand with
      | some t =>
        match t.dir[e.1 / 2048]? with
        | some d => !((unitKind d.unit == some .facet || unitKind d.unit == some .edge) && unitIdx d.unit == facet)
        | none => true
      | none => true }

/-- The map changes, and the outgoing Facet rests. Masks, bindings, loop states and scratch are kept by logical Facet and pass
with it; accumulators are undefined at every rotation boundary (R57). -/
def swapNow (die : Nat) (s : State) : State :=
  match (s.spare die).copying with
  | some k =>
    let t := s.modSpare (fun d =>
      let out := d.map.getD k.logical 0
      { d with map := modifyAt (fun _ => k.spare) k.logical d.map, subst := (d.subst + 1) % 256, copying := none,
               resting := if d.retired.contains out then d.resting else d.resting ++ [out],
               swapped := some (s.rotCount, k.logical, out) }) die
    { t with ctxs := t.ctxs.map (freshStores (256 * die + k.logical)) }
  | none => s

/-- SPARE_STARVED: a copy not complete within 2^16 rotations is abandoned. -/
def spareStarves (die : Nat) (s : State) : State :=
  match (s.spare die).copying with
  | some k =>
    if die < settingDies s.grade ∧ 0 < k.left ∧ k.began + 65536 ≤ s.rotCount then
      raiseAt evSpareStarved none 0xFFFF 0xFFFF false true (leBytes 2 (256 * die + k.logical) ++ zeros 4 ++ leBytes 2 k.spare) (dropCopy die s)
    else s
  | none => s

end Sys2Proof.Machine
end

