-- ==== Sys2Proof/Machine/Thermal.lean ====
section
/-! DEFINITION. Sensors, thermal actions, spares, channel stops and MR4 (R34, R158, R367 to R373). Temperatures in
1/16 °C. -/

namespace Sys2Proof.Machine

/-! ## Sensors (Table 12-5) -/

/-- Sensor n exists on the grade. -/
def sensorPresent (g n : Nat) : Bool :=
  if n < 64 then decide (n / 16 < settingDies g)
  else if n < 76 then decide ((n - 64) / 4 < bezelDies g)
  else if n < 79 then decide (n - 76 < bezelDies g)
  else decide (n < 82)

/-- Warn, Act and Stop of a sensor (Table 12-6). -/
def sensorLimits (n : Nat) : Option Int × Option Int × Option Int :=
  if n < 64 then (some 1520, some 1600, some 1840)
  else if n < 76 then (some 1360, some 1520, some 1680)
  else if n < 80 then (some 1520, none, some 1840)
  else (none, none, none)

/-- The four channels of package k. -/
def packageChannels (k : Nat) : List Nat := span (4 * k) (4 * k + 4)

/-- The floor of a TEMP code (R368). -/
def tempFloor (code : Nat) : Option Int :=
  if code ≤ 3 then none else if code = 4 then some 1360 else if code ≤ 6 then some 1520 else some 1680

/-- A sensor's reading: a package takes the floor of its channels' hotter code (R368). -/
def sensorReading (s : State) (n : Nat) (raw : Int) : Int :=
  if 64 ≤ n ∧ n < 76 then
    match tempFloor ((packageChannels (n - 64)).foldl (fun a ch => max a (s.chan ch).temp.toNat) 0) with
    | some f => max raw f
    | none => raw
  else raw

/-- A reading reaches a limit. -/
def reaches (x : Int) : Option Int → Bool
  | some l => decide (l ≤ x)
  | none => false

/-- A sensor after a sample (R367): the mean of the last four samples, and the level; Stop takes two raw samples. -/
def Sensor.take (n : Nat) (x : Int) (q : Sensor) : Sensor :=
  let xs := (x :: q.samples).take 4
  let f := xs.foldl (· + ·) 0 / ((xs.length : Nat) : Int)
  let l := sensorLimits n
  { q with samples := xs, filtered := f,
           level := if (xs.take 2).all (fun y => reaches y l.2.2) && decide (2 ≤ xs.length) then 3
             else if reaches f l.2.1 then 2 else if reaches f l.1 then 1 else 0 }

/-- The filtered value comes to a limit with this sample. -/
def rises (o q : Sensor) (l : Int) : Bool := decide (o.filtered < l ∧ l ≤ q.filtered)

/-- The argument of a thermal event. -/
def thermArg (n : Nat) (v : Int) : Bytes := [BitVec.ofNat 8 n, 0] ++ leBytes 2 (wrap 16 v)

/-! ## Thermal actions -/

/-- A trip (R371). -/
def trip (n : Nat) (v : Int) (s : State) : State :=
  if s.thermal.tripped then s
  else
    let s := s.modThermal fun t => { t with tripped := true }
    let cs := s.admitted
    let s := if cs.isEmpty then raise evThermalTrip (thermArg n v) s
      else cs.foldl (fun t c => noteLocalFault c (raiseAt evThermalTrip (some c) 0xFFFF 0xFFFF true false (thermArg n v) t)) s
    setHealth (fun h => { h with tripped := true }) evThermalTrip (leadFault (forceAll s))

/-- A resting Facet becomes usable when its zone has cooled below 90 °C. -/
def wakeZone (n : Nat) (s : State) : State :=
  s.modSpare (fun d => { d with resting := d.resting.filter fun p => !decide (p / 17 = n % 16) }) (n / 16)

/-- What a zone does with a sample, `o` its sensor before. -/
def zoneActs (n : Nat) (o q : Sensor) (s : State) : State :=
  let s := if rises o q 1520 then raise evThermalWarn (thermArg n q.filtered) s else s
  let s := s.modThermal fun t =>
    { t with zonesIdle := if 1520 ≤ q.filtered then (if t.zonesIdle.contains n then t.zonesIdle else t.zonesIdle ++ [n])
               else t.zonesIdle.filter fun z => z ≠ n }
  let s := if q.filtered < 1440 then wakeZone n s else s
  let s := if rises o q 1600 then
      match outgoingFacet s (n / 16) (n % 16) with
      | some l => startCopy (n / 16) l s
      | none => s
    else s
  if q.level = 3 then trip n q.filtered s else s

/-- The count of samples in 24 hours and in 1 second. -/
def daySamples : Nat := 864000000
def secondSamples : Nat := 10000

/-- What a package does (R369, R373). -/
def packageActs (n : Nat) (o q : Sensor) (s : State) : State :=
  let k := s.thermal.samplesTaken
  let s := if rises o q 1360 then raise evLp4xWarn (thermArg n q.filtered) s else s
  let s := if 1520 ≤ q.filtered then
      let s := s.modThermal fun t => { t with hot := assocSet n none t.hot }
      if rises o q 1520 then setHealth (fun h => { h with lp4xHot := true }) evLp4xHot (raise evLp4xHot (thermArg n q.filtered) s) else s
    else
      match assoc n s.thermal.hot with
      | some since =>
        if 1360 ≤ q.filtered then s.modThermal fun t => { t with hot := assocSet n none t.hot }
        else if daySamples ≤ k - since.getD k then
          let s := s.modThermal fun t => { t with hot := assocDel n t.hot }
          setHealth (fun h => { h with lp4xHot := !s.thermal.hot.isEmpty }) evLp4xHot s
        else s.modThermal fun t => { t with hot := assocSet n (some (since.getD k)) t.hot }
      | none => s
  if q.level = 3 then s.modThermal fun t => { t with stoppedPkgs := assocSet n none t.stoppedPkgs }
  else
    match assoc n s.thermal.stoppedPkgs with
    | some since =>
      s.modThermal fun t =>
        { t with stoppedPkgs := assocSet n (if q.filtered < 1440 then some (since.getD k) else none) t.stoppedPkgs }
    | none => s

/-- What a Bezel or Crown die does. -/
def dieActs (n : Nat) (o q : Sensor) (s : State) : State :=
  let s := if rises o q 1520 then raise evThermalWarn (thermArg n q.filtered) s else s
  if q.level = 3 then trip n q.filtered s else s

/-- One sensor takes its sample. -/
def sensorTake (n : Nat) (raw : Int) (s : State) : State :=
  if sensorPresent s.grade n = false then s
  else
    let q := (assoc n s.thermal.sensors).getD Sensor.new
    let q' := q.take n (sensorReading s n raw)
    let s := s.modThermal fun t => { t with sensors := assocSet n q' t.sensors }
    if n < 64 then zoneActs n q q' s
    else if n < 76 then packageActs n q q' s
    else if n < 80 then dieActs n q q' s
    else s

/-- The coolant is out of limits: at once for the inlet, and for the rise at 100 W or more (R372). -/
def inletBad (t : Int) : Bool := decide (t < 400 ∨ 720 < t)
def riseBad (inlet outlet : Int) (p : Nat) : Bool := decide (100 ≤ p) && decide (2400 * (p : Int) < (outlet - inlet) * 9875)

/-- The cooling watch. -/
def coolWatch (s : State) : State :=
  let temp := fun n => ((assoc n s.thermal.sensors).getD Sensor.new).filtered
  let k := s.thermal.samplesTaken
  let inlet := temp 80
  let outlet := temp 81
  let rise := riseBad inlet outlet s.power.pMeas
  let bad := inletBad inlet || rise
  let t := s.thermal
  let badSince := if rise then some (t.coolBadSince.getD k) else none
  let goodSince := if bad then none else some (t.coolGoodSince.getD k)
  let s := s.modThermal fun x => { x with coolBadSince := badSince, coolGoodSince := goodSince }
  let long := match badSince with | some b => decide (10 * secondSamples ≤ k - b) | none => false
  if t.coolDegraded then
    match goodSince with
    | some g => if 10 * secondSamples ≤ k - g then s.modThermal fun x => { x with coolDegraded := false } else s
    | none => s
  else if inletBad inlet then raise evCoolDegraded (thermArg 80 inlet) (s.modThermal fun x => { x with coolDegraded := true })
  else if long then raise evCoolDegraded (thermArg 81 outlet) (s.modThermal fun x => { x with coolDegraded := true })
  else s

/-- SENSOR_SAMPLE. -/
def sampleAll (x : SensorSamples) (s : State) : State :=
  let s := s.modPower fun p => { p with pMeas := x.pMeas, vin := x.vin, iin := x.iin }
  let s := s.modThermal fun t => { t with samplesTaken := t.samplesTaken + 1 }
  coolWatch ((x.temps.zipIdx).foldl (fun t y => sensorTake y.2 y.1 t) s)

/-- TRIP_CLEAR: every sensor is below Warn (R371). -/
def tripClear (s : State) : State :=
  if s.thermal.tripped ∧ s.thermal.sensors.all (fun q => decide (q.2.level = 0)) then
    setHealth (fun h => { h with tripped := false }) evThermalTrip (s.modThermal fun t => { t with tripped := false, gated := false })
  else s

/-- Package `k` of the module, by sensor. -/
def packageSensor (k : Nat) : Nat := 64 + k

/-- CHANNEL_STOP: at the rotation boundary after the package reached Stop. -/
def channelStop (k : Nat) (s : State) : State :=
  match assoc (packageSensor k) s.thermal.stoppedPkgs with
  | none => s
  | some _ =>
    if (s.rotDone ∨ s.beadInRot = 0) ∧ (packageChannels k).any (fun ch => decide ((s.chan ch).state = 1)) then
      let q := (assoc (packageSensor k) s.thermal.sensors).getD Sensor.new
      raise evLp4xStop (thermArg (packageSensor k) q.filtered)
        ((packageChannels k).foldl (fun t ch => t.modChan (fun c => { c with state := if c.state = 1 then 2 else c.state }) ch) s)
    else s

/-- CHANNEL_RESTART: at a rotation boundary, after 1 s below 90 °C. -/
def channelRestart (k : Nat) (s : State) : State :=
  match assoc (packageSensor k) s.thermal.stoppedPkgs with
  | some (some since) =>
    if (s.rotDone ∨ s.beadInRot = 0) ∧ secondSamples ≤ s.thermal.samplesTaken - since then
      ((packageChannels k).foldl (fun t ch => t.modChan (fun c => { c with state := if c.state = 2 then 1 else c.state }) ch) s).modThermal
        fun t => { t with stoppedPkgs := assocDel (packageSensor k) t.stoppedPkgs }
    else s
  | _ => s

/-- MR4_READ: after slot N − 1 of a rotation that leaves 2 fc of pin time, one rank in turn (R158). -/
def mr4Read (ch : Nat) (code : BitVec 3) (s : State) : State :=
  let n := slotCount s.rotLen
  let c := s.chan ch
  if channelCount s.grade ≤ ch ∨ 16 * s.rotLen < 51 * n + 2 ∨ s.beadInRot < 51 * (n - 1) / 16 ∨ c.mr4Rot = some s.rotCount then s
  else
    oppForce (s.modChan (fun c =>
      let c := if c.nextRank = 0 then { c with rankCode0 := code } else { c with rankCode1 := code }
      { c with nextRank := 1 - c.nextRank, mr4Rot := some s.rotCount,
               temp := if c.rankCode0.toNat < c.rankCode1.toNat then c.rankCode1 else c.rankCode0 }) ch)

/-! ## The commands -/

def execSensorSample (x : SensorSamples) (s : State) : Host.Outcome State Fault Refusal := ok (sampleAll x s)
def execSpareStarved (die : Nat) (s : State) : Host.Outcome State Fault Refusal := ok (spareStarves die s)
def execChannelStop (pkg : Nat) (s : State) : Host.Outcome State Fault Refusal := ok (channelStop pkg s)
def execChannelRestart (pkg : Nat) (s : State) : Host.Outcome State Fault Refusal := ok (channelRestart pkg s)
def execTripClear (s : State) : Host.Outcome State Fault Refusal := ok (tripClear s)
def execMr4Read (ch : Nat) (code : BitVec 3) (s : State) : Host.Outcome State Fault Refusal := ok (mr4Read ch code s)

end Sys2Proof.Machine
end

