-- ==== Sys2Proof/Machine/Regs.lean ====
section
/-! DEFINITION. What the registers of BAR0 read (R14, R16, R459 to R472 and the register tables of every chapter), and
reads of low halves. -/

namespace Sys2Proof.Machine

/-! ## Fields -/

/-- A value in bits `[lo + len - 1 : lo]` of a register. -/
def field (lo len v : Nat) : Nat := v % 2 ^ len * 2 ^ lo

/-- A register from its fields, each given as low bit, width and value. -/
def pack (fs : List (Nat × Nat × Nat)) : Word := BitVec.ofNat 32 ((fs.map fun f => field f.1 f.2.1 f.2.2).sum)

/-- The 32-bit register at byte `o` of a run of bytes. -/
def wordIn (bs : Bytes) (o : Nat) : Word := BitVec.ofNat 32 (leAt bs o 4)

/-! ## Keys of the device (R380) -/

/-- The bytes of the device secret. -/
def dusBytes : Bytes := (List.range 32).map Config.dus

/-- A private key derived from the device secret under a label. -/
def derived (label : Bytes) : Nat := beNat (kdf (dusBytes ++ label) 32) % (sm2N - 1) + 1

def dikS : Nat := derived [0x53, 0x49, 0x47, 0x4E]
def dikE : Nat := derived [0x45, 0x58, 0x43, 0x48]

/-- The Storage key, an SM4 key: no meaning uses it, since the settings flash is not the module's state here (Table 13-1). -/
def storageKey : BitVec 128 := BitVec.ofNat 128 (beNat (kdf (dusBytes ++ [0x53, 0x54, 0x4F, 0x52]) 16))

/-- MODULE_ID. -/
def moduleId : Bytes := sm3 (sm2Pub dikS)

/-! ## The blocks -/

/-- IDCODE of a die kind (Table 16-3). -/
def idcode (s : State) (kind part : Nat) : Word := pack [(28, 4, (s.steppings.getD kind 0).toNat), (12, 16, part), (1, 11, 0x35D), (0, 1, 1)]

/-- MODULE_STATE (Table 15-8). -/
def moduleState (s : State) : Word :=
  let t := s.startup
  pack [(31, 1, b2n t.ready), (27, 4, t.step), (15, 1, b2n t.quiesced), (12, 3, t.slot), (6, 1, b2n t.quiesce.chatter),
    (5, 1, b2n t.cool.chatter), (4, 1, b2n t.seat.chatter), (2, 1, b2n t.quiesce.used), (1, 1, b2n t.cool.used), (0, 1, b2n t.seat.used)]

def readGlobal (s : State) (o : Nat) : Word :=
  if o = 0x00 then idcode s 0 0x7C10
  else if o = 0x04 then idcode s 1 0x7C11
  else if o = 0x08 then idcode s 2 0x7C12
  else if o = 0x0C then pack [(12, 4, settingDies s.grade), (8, 4, bezelDies s.grade), (0, 8, s.grade)]
  else if o = 0x10 then pack [(0, 1, b2n s.sealed)]
  else if o = 0x18 then BitVec.ofNat 32 s.bead
  else if o = 0x1C then s.beadShadow.getD (BitVec.ofNat 32 (s.bead / 2 ^ 32))
  else if o = 0x20 then s.period
  else if o = 0x40 then moduleState s
  else 0

def Ref.code : Ref → Nat
  | .oscillator => 0 | .crystal => 1 | .clasp => 2 | .twin => 3 | .holdover => 4

def readClock (s : State) (o : Nat) : Word :=
  let c := s.clock
  if o = 0 then pack [(31, 1, b2n c.sscEn), (24, 4, c.sscDepth), (20, 3, c.sscRate), (8, 2, c.src), (0, 2, c.lockPort)]
  else if o = 4 then
    pack [(29, 3, c.ref.code), (28, 1, b2n c.rootLock), (27, 1, b2n c.xtalFailed), (26, 1, b2n c.oscFault), (25, 1, b2n c.sscActive),
      (24, 1, b2n c.bootFallback), (22, 2, c.opp), (21, 1, b2n c.oppBusy), (0, 16, c.offset.toNat)]
  else if o = 8 then pack [(0, 2, c.oppTarget)]
  else 0

/-- THERM_n (Table 12-14). -/
def readSensor (s : State) (n : Nat) : Word :=
  if sensorPresent s.grade n then
    let q := (assoc n s.thermal.sensors).getD Sensor.new
    pack [(31, 1, 1), (28, 3, q.level), (0, 16, wrap 16 q.filtered)]
  else 0

/-- SPARE_d (Table 12-15). -/
def readSpare (s : State) (d : Nat) : Word :=
  if d < settingDies s.grade then
    let x := s.spare d
    pack [(24, 5, usableSpares x), (16, 5, x.resting.length), (8, 5, x.retired.length), (0, 8, x.subst)]
  else 0

/-- The POWER_THERMAL block (R375). DESIGN CHOICE, unsafe (log entry 49): the offsets that R375 gives to both THERM_64 to
THERM_67 and SPARE_0 to SPARE_3 read THERM. -/
def readPower (s : State) (o : Nat) : Word :=
  let p := s.power
  if o = 0 then pack [(16, 10, p.setW), (8, 5, p.bandPct), (0, 7, p.rampWps)]
  else if o = 4 then
    pack [(22, 10, p.pMeas), (12, 10, p.target / 1000000000), (2, 10, p.idleW), (1, 1, b2n p.bandLow), (0, 1, b2n p.bandHigh)]
  else if o = 8 then pack [(16, 16, p.vin.toNat), (0, 16, p.iin.toNat)]
  else if o = 0xC then pack [(30, 1, b2n s.thermal.tripped)]
  else if 0x100 ≤ o ∧ o < 0x100 + 4 * 82 then readSensor s ((o - 0x100) / 4)
  else if 0x200 ≤ o ∧ o < 0x210 then readSpare s ((o - 0x200) / 4)
  else 0

def readStrandReg (s : State) (o : Nat) : Word :=
  let t := s.strands
  if o = 0 then pack [(31, 1, b2n t.hostEn)]
  else if o = 8 then pack [(31, 1, b2n t.busy), (30, 1, b2n t.done), (29, 1, b2n t.reject), (8, 4, t.context), (0, 8, t.reason)]
  else if o = 0x10 then t.imgLo
  else if o = 0x14 then t.imgHi
  else if o = 0x18 then t.imgLen
  else if o = 0x20 then t.cfgLo
  else if o = 0x24 then t.cfgHi
  else if o = 0x30 then pack [(16, 16, t.ifaceMax), (0, 16, t.ifaceMin)]
  else 0

def CtxPhase.code : CtxPhase → Nat
  | .free => 0 | .pending => 1 | .admitted => 2 | .releasing => 3 | .scrubbing => 4

/-- CTX_STATE_n (Table 16-10). Context 0 always reads STATE 2. -/
def ctxState (s : State) (c : CtxNo) : Word :=
  let x := s.ctx c
  let t := x.strand
  pack [(29, 3, if c = 0 then 2 else x.phase.code),
    (28, 1, b2n (match t with | some t => t.realtime | none => false)), (27, 1, b2n x.withheld),
    (0, 16, match t with | some t => t.periodRot - 1 | none => 0)]

def readContext (s : State) (o : Nat) : Word :=
  if 0x100 ≤ o ∧ o < 0x200 then
    let c := (o - 0x100) / 16
    let x := s.ctx c
    match o % 16 / 4 with
    | 0 => ctxState s c
    | 1 => x.withheldCount
    | 2 => pack [(0, 16, x.lastEvt.toNat)]
    | _ => x.admitPeriod
  else 0

def readBezel (s : State) (o : Nat) : Word :=
  if o = 0 then pack [(7, 1, b2n s.bezel.patrolEn), (0, 4, s.bezel.hostSlots)]
  else if 0x100 ≤ o ∧ o < 0x100 + 4 * 48 then
    let x := s.chan ((o - 0x100) / 4)
    pack [(6, 1, b2n x.patrolStarved), (3, 3, x.temp.toNat), (0, 2, x.state)]
  else if 0x200 ≤ o ∧ o < 0x240 then
    let a := s.bezel.apertures.getD ((o - 0x200) / 4) ⟨false, 0, 0⟩
    pack [(31, 1, b2n a.open_), (2, 6, a.seg), (0, 2, a.win)]
  else 0

def readGarland (s : State) (o : Nat) : Word := if o = 0 then pack [(10, 10, 512), (4, 6, 8 * settingDies s.grade), (0, 4, 7)] else 0

def readCabochon (s : State) (o : Nat) : Word := if o = 0 then pack [(10, 10, 512), (4, 6, 2 * settingDies s.grade), (0, 4, 11)] else 0

/-- Ring group registers (Table 7-9). -/
def readRing (r : Ring) (o : Nat) : Word :=
  if o = 0x00 then r.rqBaseLo
  else if o = 0x04 then r.rqBaseHi
  else if o = 0x08 then r.rqCtl
  else if o = 0x0C then r.rqTail
  else if o = 0x10 then r.rqHead
  else if o = 0x14 then r.cancelLo
  else if o = 0x20 then r.srBaseLo
  else if o = 0x24 then r.srBaseHi
  else if o = 0x28 then r.srCtl
  else if o = 0x2C then r.srHead
  else if o = 0x30 then r.srTail
  else if o = 0x34 then r.srGap
  else 0

def readServe (s : State) (o : Nat) : Word :=
  if 0x1000 ≤ o ∧ o < 0x1400 then readRing (s.ring ((o - 0x1000) / 0x40)) (o % 0x40) else 0

def ClaspState.code : ClaspState → Nat
  | .disabled => 0 | .training => 1 | .up => 2 | .held => 3

/-- Port group registers (Tables 9-14 to 9-17). -/
def readPort (s : State) (c : Clasp) (o : Nat) : Word :=
  if o = 0x00 then pack [(16, 12, c.due), (8, 1, b2n c.sig16), (4, 2, c.mode)]
  else if o = 0x04 then
    pack [(30, 2, c.state.code), (29, 1, b2n c.blockLock), (28, 1, b2n c.aligned), (27, 1, b2n c.lockSrc),
      (16, 8, (recentTransitions s c).length), (8, 3, c.badRun), (0, 7, c.goodRun)]
  else if o = 0x08 then pack [(16, 16, c.arr.toNat), (0, 7, c.slip)]
  else if o = 0x0C then c.good
  else if o = 0x10 then c.bad
  else if o = 0x14 then c.gap
  else 0

def readClasp (s : State) (o : Nat) : Word :=
  if o = 0 then pack [(0, 8, s.claspRate)]
  else if 0x100 ≤ o ∧ o < 0x200 then readPort s (s.clasp ((o - 0x100) / 0x40)) (o % 0x40)
  else 0

def Role.code : Role → Nat
  | .unpaired => 0 | .lead => 1 | .pendant => 2 | .joining => 3

def PairState.code : PairState → Nat
  | .none => 0 | .lockstep => 1 | .alone => 2 | .acting => 3 | .detached => 4 | .fenced => 5 | .copy => 6

/-- Evidence ports (R337): UP ports whose last good frame reported the lead's epoch. -/
def evidencePorts (s : State) : Nat :=
  ((List.range 4).filter fun p => decide ((s.clasp p).state = .up ∧ (s.clasp p).epochSeen = some s.pair.regs.epoch)).foldl
    (fun a p => a + 2 ^ p) 0

/-- EVIDENCE: a pendant that hears its lead shows its ports now, else those at the loss (R337). -/
def evidenceNow (s : State) : Nat :=
  if s.pair.regs.role = .pendant ∧ s.pair.regs.state = .lockstep ∧ s.pair.link.missRun = 0 then evidencePorts s
  else s.pair.regs.evidence

/-- Granules that the present join has still to clean (Table 11-8). -/
def joinLeft (j : Join) : Nat := (j.toCopy ++ j.dirty).eraseDups.length

def readTwin (s : State) (o : Nat) : Word :=
  let t := s.pair.regs
  if o = 0 then pack [(31, 1, b2n t.pairEn), (20, 4, t.confirm), (16, 4, t.beat), (0, 1, b2n t.silentEn)]
  else if o = 4 then
    pack [(30, 2, t.role.code), (27, 3, t.state.code), (26, 1, b2n t.token), (25, 1, b2n t.lane1), (24, 1, b2n t.lane0),
      (16, 3, t.partnerSlot), (8, 3, s.startup.slot), (0, 4, evidenceNow s)]
  else if o = 8 then t.epoch
  else if o = 0xC then t.eh.getD 0
  else if o = 0x10 then t.missed
  else if o = 0x14 then t.diverge
  else if o = 0x18 then BitVec.ofNat 32 (joinLeft s.pair.join)
  else 0

def SeaState.code : SeaState → Nat
  | .none => 0 | .forming => 1 | .locked => 2 | .failed => 3


def readFabric (s : State) (o : Nat) : Word :=
  let f := s.fabric
  if o = 0 then pack [(16, 13, f.latency), (0, 12, f.modNo)]
  else if o = 8 then pack [(30, 2, f.state.code), (29, 1, b2n (seaLock s)), (0, 12, f.firstMod)]
  else if 0x10 ≤ o ∧ o < 0x20 then pack [(0, 13, f.transits.getD ((o - 0x10) / 4) 0)]
  else if 0x1000 ≤ o ∧ o < 0x1200 then (assoc ((o - 0x1000) / 4) f.members).getD 0
  else 0

def readCast (s : State) (o : Nat) : Word :=
  let c := s.cast
  if o = 0 then pack [(31, 1, b2n c.replay), (24, 3, c.slots), (18, 3, c.stripe), (12, 6, c.chBase), (0, 6, c.sizeGib)]
  else if o = 4 then
    pack [(31, 1, b2n (c.en && castAble s)), (30, 1, b2n c.fabFull), (29, 1, b2n c.freezeOnEvent), (27, 1, b2n c.frozen),
      (26, 1, b2n c.wrapped), (0, 16, c.ctxMask.toNat)]
  else if o = 8 then c.post
  else if o = 0xC then c.head
  else if o = 0x10 then c.count
  else if o = 0x14 then c.lost
  else if o = 0x18 then BitVec.ofNat 32 (castStaged c / 1024)
  else 0

def readSignet (s : State) (o : Nat) : Word :=
  let g := s.signets
  if o = 0 then g.addrLo
  else if o = 4 then g.addrHi
  else if o = 8 then g.len
  else if o = 0x10 then pack [(31, 1, b2n g.busy), (30, 1, b2n g.done), (29, 1, b2n g.fault), (0, 16, g.requests)]
  else if 0x40 ≤ o ∧ o < 0x60 then wordIn g.out (o - 0x40)
  else if 0x60 ≤ o ∧ o < 0x80 then wordIn g.resultDigest (o - 0x60)
  else if 0x80 ≤ o ∧ o < 0xA0 then wordIn g.inputChain (o - 0x80)
  else if 0x100 ≤ o ∧ o < 0x180 then wordIn (s.clasp ((o - 0x100) / 0x20)).signet (o % 0x20)
  else 0

/-- The pair key is in force (R392). -/
def pairKeyed (s : State) : Bool := s.pair.link.pairKey.isSome

/-- CTX_SEC_n (R406, Table 13-9). -/
def ctxSec (s : State) (c : CtxNo) : Word :=
  let x := s.ctx c
  if x.scrub.isSome then pack [(24, 1, 1)]
  else if s.running c then
    let w := match x.record with | some r => decide (r.weights = zeros 32 ∨ r.weights = x.sec.mWeights) | none => true
    let m := match x.record with | some r => decide (r.charms = zeros 32 ∨ r.charms = x.sec.mCharms) | none => true
    pack [(31, 1, 1), (30, 1, b2n (match x.record with | some r => r.confidential | none => false)),
      (29, 1, b2n x.sec.session.isSome), (28, 1, b2n w), (27, 1, b2n m), (26, 1, b2n x.sec.seaKey.isSome), (25, 1, b2n x.sec.load.isSome)]
  else 0

/-- Mailbox registers (Table 13-10). -/
def readBox (m : Mailbox) (o : Nat) : Word :=
  if o = 4 then pack [(31, 1, b2n m.busy), (30, 1, b2n m.done), (29, 1, b2n m.err), (0, 8, m.code.toNat)]
  else if o = 8 then pack [(0, 12, m.len)]
  else if o = 0xC then pack [(0, 12, m.rlen)]
  else if 0x10 ≤ o ∧ o < 0x20 then wordIn m.tag (o - 0x10)
  else if 0x40 ≤ o ∧ o < 0x1000 then wordIn m.data (o - 0x40)
  else 0

def readLocket (s : State) (o : Nat) : Word :=
  if o = 0 then pack [(31, 1, b2n s.locket.debugOn), (30, 1, b2n s.locket.rngOk), (29, 1, b2n (pairKeyed s))]
  else if 0x20 ≤ o ∧ o < 0x40 then wordIn moduleId (o - 0x20)
  else if 0x40 ≤ o ∧ o < 0x60 then wordIn s.pair.link.partnerId (o - 0x40)
  else if 0x100 ≤ o ∧ o < 0x300 then
    let c := (o - 0x100) / 0x20
    match o % 0x20 with
    | 0 => ctxSec s c
    | 4 => if s.running c then (s.ctx c).sec.rqTagLo else 0
    | 8 => if s.running c then (s.ctx c).sec.rqTagHi else 0
    | 12 => scrubBound s c
    | _ => 0
  else if 0x10000 ≤ o ∧ o < 0x20000 then readBox (s.ctx ((o - 0x10000) / 0x1000)).mailbox (o % 0x1000)
  else 0

def readLoupe (s : State) (o : Nat) : Word :=
  let p := s.ports
  if o = 0 then pack [(31, 1, b2n p.loupeEn), (30, 1, b2n (p.loupeEn && s.locket.loupeReady)), (16, 3, p.loupeDiv), (0, 12, p.loupeGroup)] else 0

/-- The record of the host window at window place `k` (R471). -/
def eventWindow (e : Events) (k : Nat) : Bytes :=
  match (e.log.take 256).zipIdx.find? fun x => decide ((e.head - 1 - x.2) % 256 = k) with
  | some x => x.1.hostView.bytes
  | none => zeros 32

def readEvent (s : State) (o : Nat) : Word :=
  let e := s.events
  if o = 0 then e.ctl
  else if o = 8 then BitVec.ofNat 32 e.head
  else if o = 0xC then s.headShadow.getD (BitVec.ofNat 32 (e.head / 2 ^ 32))
  else if 0x100 ≤ o ∧ o < 0x128 then (assoc ((o - 0x100) / 4) e.mask).getD 0
  else if 0x200 ≤ o ∧ o < 0x228 then (assoc ((o - 0x200) / 4) e.pend).getD 0
  else if 0x10000 ≤ o ∧ o < 0x12000 then wordIn (eventWindow e ((o - 0x10000) / 32)) (o % 32)
  else 0

/-- What the register at an aligned offset of BAR0 reads (Table 16-1); unassigned offsets read 0 (R16). -/
def readReg (s : State) (off : Nat) : Word :=
  let o := off % 2 ^ 20
  match off / 2 ^ 20 with
  | 0x0 => readGlobal s o
  | 0x1 => readClock s o
  | 0x2 => readPower s o
  | 0x3 => readStrandReg s o
  | 0x4 => readContext s o
  | 0x5 => readBezel s o
  | 0x6 => readGarland s o
  | 0x7 => readServe s o
  | 0x8 => readCabochon s o
  | 0x9 => readClasp s o
  | 0xA => readTwin s o
  | 0xB => readFabric s o
  | 0xC => readCast s o
  | 0xD => readSignet s o
  | 0xE => readLocket s o
  | 0xF => readLoupe s o
  | 0x10 => readEvent s o
  | _ => 0

/-- A block that answers before READY (R452). -/
def earlyBlock (off : Nat) : Bool := decide (off / 2 ^ 20 = 0 ∨ off / 2 ^ 20 = 0x10)

/-- The offset of an aligned register. -/
def aligned (off : Nat) : Bool := off % 4 == 0

/-- What the host reads (R452, R460). -/
def hostRead (s : State) (off : Nat) : Word :=
  if aligned off && (s.startup.ready || earlyBlock off) then readReg s off else 0

/-- The shadows that a read leaves (R461): a low half latches its high half, a read of the high half takes the shadow. -/
def readEffect (off : Nat) (s : State) : State :=
  if off = 0x18 then { s with beadShadow := some (BitVec.ofNat 32 (s.bead / 2 ^ 32)) }
  else if off = 0x1C then { s with beadShadow := none }
  else if off = 0x1000008 then { s with headShadow := some (BitVec.ofNat 32 (s.events.head / 2 ^ 32)) }
  else if off = 0x100000C then { s with headShadow := none }
  else s

/-- A 32-bit read: what it reads leaves the module. -/
def readWord (off : Nat) (s : State) : State := readEffect off (s.emit (.regRead off (hostRead s off)))

/-- The bytes that a narrower read takes from the word of its register. -/
def narrow (w : Word) (byte width : Nat) : Word := BitVec.ofNat 32 (bits w.toNat (8 * byte) (8 * width))

/-- A host read of a register by its width (R460): two words for 64 bits, the lower first; a narrower one takes its bytes of the
register, with the effects of a whole read; one that registers do not contain reads 0 and does nothing. -/
def registerRead (a : RegAccess) (s : State) : State :=
  let off := a.offset
  if s.ports.linkUp = false then s
  else if a.width = 8 ∧ off % 4 = 0 then readWord (off + 4) (readWord off s)
  else if off % 4 + a.width ≤ 4 then
    let reg := off - off % 4
    readEffect reg (s.emit (.regRead off (narrow (hostRead s reg) (off % 4) a.width)))
  else s.emit (.regRead off 0)

def execLowHalfRead (access : RegAccess) (s : State) : Host.Outcome State Fault Refusal := ok (registerRead access s)

end Sys2Proof.Machine
end

