-- ==== Sys2Proof/Machine/Move.lean ====
section
/-! DEFINITION. The mover cues COPY and FILL (R84, R85, R96, R143). -/

namespace Sys2Proof.Machine

/-- The sea place of one end of a move; none where it fails. -/
def moveEnd (s : State) (c : CtxNo) (seg : Nat) (o : Int) (wr : Bool) : Option (Nat × Nat) :=
  if o < 0 then none else translate s c seg o.toNat wr

/-- The Setting die on which a place of spaces 1 and 2 lies. -/
def dieOf (p : Option (Nat × Nat)) : Option Nat :=
  match p with
  | some (1, off) => some (off / 2 ^ 18 / 256)
  | some (2, off) => unitDie (off / 2 ^ 24)
  | _ => none

/-- The move's ends all lie on the mover's own die (R85). -/
def sameDie (u : UnitNo) (ends : List (Option (Nat × Nat))) : Bool := ends.all fun e => (dieOf e).isSome && dieOf e == unitDie u

/-- `n` bytes of control registers from BAR0 offset `off`, read as a host reads them, low halves first (R143). -/
def readRegs (off : Nat) : Nat → State → Bytes × State
  | 0, s => ([], s)
  | n + 1, s =>
    let r := readRegs (off + 4) n (readEffect off s)
    (leBytes 4 (hostRead s off).toNat ++ r.1, r.2)

/-- The source of a COPY: memory, or control registers; LP4X is never reached. -/
def moveSource (d : Nat) (u : UnitNo) (c : CtxNo) (seg : Nat) (o : Int) (n : Nat) (s : State) : Bytes × State :=
  match moveEnd s c seg o false, moveEnd s c seg (o + n - 1) false with
  | some (3, off), some _ => readRegs off (n / 4) s
  | _, _ => readSeg d u c seg o n s

/-- The destination of a move. -/
def moveInto (d : Nat) (u : UnitNo) (c : CtxNo) (seg : Nat) (o : Int) (bs : Bytes) (s : State) : State :=
  match moveEnd s c seg o true, moveEnd s c seg (o + bs.length - 1) true with
  | some (3, off), some _ => s.later d u c (.regs off bs)
  | _, _ =>
    let w := writeSeg u c seg o bs s
    w.2.later d u c (.bytes w.1)

/-- Bytes that a move moves. -/
def moveBytes (f : MoveFields) : Nat := (f.len.toNat + 1) * 32

/-- COPY: the source is read in the move's beads, the result stands 2 beads later, or 4 across dies (Table 3-14). -/
def doCopy (u : UnitNo) (i : Issue) (f : MoveFields) (s : State) : State :=
  let so := issueAddr s i (f.src.toNat % 2 ^ 34) f.srcStr.toNat
  let dO := issueAddr s i (f.dst.toNat % 2 ^ 34) f.dstStr.toNat
  let same := sameDie u [moveEnd s i.ctx (f.dst.toNat / 2 ^ 34) dO true, moveEnd s i.ctx (f.src.toNat / 2 ^ 34) so false]
  let d := if same then 2 else 4
  let (bs, s) := moveSource d u i.ctx (f.src.toNat / 2 ^ 34) so (moveBytes f) s
  moveInto d u i.ctx (f.dst.toNat / 2 ^ 34) dO bs (drive u i.ctx f.slot.toNat 0 (d - 1) s)

/-- The pattern of a FILL over `n` bytes. -/
def fillBytes (p : Word) (n : Nat) : Bytes := (List.replicate (n / 4) (leBytes 4 p.toNat)).flatten

/-- FILL: the destination alone decides its class. -/
def doFill (u : UnitNo) (i : Issue) (f : MoveFields) (s : State) : State :=
  let dO := issueAddr s i (f.dst.toNat % 2 ^ 34) f.dstStr.toNat
  let d := if sameDie u [moveEnd s i.ctx (f.dst.toNat / 2 ^ 34) dO true] then 2 else 4
  moveInto d u i.ctx (f.dst.toNat / 2 ^ 34) dO (fillBytes (BitVec.ofNat 32 f.src.toNat) (moveBytes f))
    (drive u i.ctx f.slot.toNat 0 (d - 1) s)

def execCopy (u : UnitNo) (s : State) : Host.Outcome State Fault Refusal :=
  ok (onIssue u (fun i => match i.cue with | .copy f => some (doCopy u i f) | _ => none) s)

def execFill (u : UnitNo) (s : State) : Host.Outcome State Fault Refusal :=
  ok (onIssue u (fun i => match i.cue with | .fill f => some (doFill u i f) | _ => none) s)

end Sys2Proof.Machine
end

