-- ==== Sys2Proof/Machine/Perform.lean ====
section
/-! DEFINITION. Every begun cue, carried out: what the commands of the cues do one by one (log entry 2). -/

namespace Sys2Proof.Machine

/-- The work of a begun port cue. -/
def portWork (u : UnitNo) (i : Issue) (f : PortFields) : Option (State → State) :=
  match unitKind u, f.pop.toNat with
  | some .clasp, 1 => some (doCrecv u i f)
  | some .clasp, 2 => some (doCsend u i f)
  | some .fabric, 1 => some (fabSend u i f)
  | some .fabric, 2 => some (doFrecv u i f)
  | some .fabric, 3 => some (doFxch u i f)
  | some .host, 1 => some (doRqTake u i f)
  | some .host, 2 => some (doSrecPut u i f)
  | some .host, 3 => some (doLiveSet u i f)
  | some .host, 4 => some (doLiveClr u i f)
  | some .host, 5 => some (doStateGet u i f)
  | _, _ => none

/-- The work of a begun cue. -/
def cueWork (u : UnitNo) (i : Issue) : Option (State → State) :=
  match i.cue with
  | .idle => some id
  | .idleLoad _ => some id
  | .mac f => some (doMac false u i f)
  | .macClr f => some (doMac true u i f)
  | .round f => some (doRound u i f)
  | .lsumOut f => some (doLsumOut u i f)
  | .lsumIn f => some (doLsumIn u i f)
  | .clear => some (doClear u)
  | .copy f => some (doCopy u i f)
  | .fill f => some (doFill u i f)
  | .read f => some (doRead u i f)
  | .write f => some (doWrite u i f)
  | .vec op f => some (doVec op u i f)
  | .eng f => if f.eop = 0x3F then some (engineBead u) else some (startStep u i f)
  | .port f => portWork u i f
  | .loop b t => some fun s => engineBead u (doLoop u i b t s)
  | .arms a b p r n => some (doArms u i a b p r n)
  | .mload r o t b l => some (doMload u i r o t b l)
  | .mlogic d a b f => some (doMlogic u i d a b f)
  | .mset r v => some (doMset u r v)

/-- The begun cue of a unit is carried out. -/
def performCue (u : UnitNo) (s : State) : State := onIssue u (cueWork u) s

/-- Every begun cue that has not been carried out, in ascending unit order. -/
def performAll (s : State) : State := s.seqs.foldl (fun t q => performCue q.1 t) s

end Sys2Proof.Machine
end

