-- ==== Sys2Proof/Machine/Power.lean ====
section
/-! DEFINITION. Power estimates and idle load (R78, R363 to R366, R369, R371). -/

namespace Sys2Proof.Machine

/-! ## Estimates (R363) -/

/-- The energy of a Strand's expanded cues over its period, in picojoules. Both arms of a select count (log entry 29). -/
def strandEnergy (t : Strand) : Nat :=
  (t.dir.map fun d =>
    let ws := windowCues t d
    ((windowExpand t d).map fun x => Config.cueEnergy (d.unit / 4096) (bits (ws.getD x.pos 0).toNat 124 4)).sum).sum

/-- The power estimate of a Strand, in microwatts: its energy over the 40 ns beads of its period. -/
def strandLoad (t : Strand) : Nat := strandEnergy t * 1000 / (40 * max 1 (lrotSum t.rateKhz 0 t.periodRot))

/-- The power estimate of an image. -/
def strandPower (image : Bytes) : Nat := strandLoad (readStrand image)

/-- E, in microwatts: E_base and the estimates of the admitted Strands. -/
def loadPower (s : State) : Nat := s.power.eBase + (s.power.estimates.map (·.2)).sum

/-! ## Where idle load may stand (R78, R359, R365, R369, R371) -/

/-- The sensor of the zone in which a unit lies. -/
def unitZone (s : State) (u : UnitNo) : Option Nat :=
  match unitDie u, unitKind u with
  | some d, some .facet | some d, some .edge => some (16 * d + (s.spare d).map.getD (unitIdx u % 256) 0 / 17)
  | some d, some .garland | some d, some .cabochon => some (16 * d + Config.engineZone u % 16)
  | _, _ => none

/-- Firmware may place idle load on the unit: its zone is below Warn, its die is not gated, and COOL_OK holds. -/
def idleAllowed (s : State) (u : UnitNo) : Bool :=
  s.startup.ready && !s.power.withdrawn && !s.thermal.gated && unitExists s.grade u &&
    match unitZone s u with
    | some z => !s.thermal.zonesIdle.contains z
    | none => false

/-- The units on which idle load may stand. -/
def idleUnits (s : State) : List UnitNo :=
  ([UnitKind.facet, .edge, .garland, .cabochon].flatMap fun k => (List.range (unitCount s.grade k)).map (unitNo k)).filter (idleAllowed s)

/-- The last three beads of a rotation at whose end the frequency of a CX-1 or CX-2 is to change: no cue begins in them (R25). -/
def stoppedBead (s : State) : Bool := decide (s.grade ≠ 4) && s.clock.oppNext.isSome && decide (s.rotLen ≤ s.beadInRot + 3)

/-- A block of idle load covers the present bead of a unit. -/
def blockCovers (s : State) (k : IdleBlock) (u : UnitNo) : Bool :=
  k.strand.dir.any fun d => d.unit == u && runCovers s k.rot k.strand d s.beadInRot

/-- How many beads of context 0 the present rotation has had on a unit. -/
def freeBeads (s : State) (u : UnitNo) (n : Nat) : Nat := ((List.range n).filter fun b => !beadOwned s u b).length

/-- LEVEL of the idle load that a unit runs in the present bead; 0 for none. -/
def idleLevel (s : State) (u : UnitNo) : Nat :=
  if idleAllowed s u = false ∨ stoppedBead s ∨ (s.seq u).win.isSome then 0
  else
    match s.power.blocks.find? fun k => blockCovers s k u with
    | some k => k.level
    | none =>
      match s.power.idle.find? fun i => decide (i.unit = u) with
      | some i => if freeBeads s u s.beadInRot < i.beads then i.level else 0
      | none => 0

/-- The units with idle load in some bead. -/
def loadedUnits (s : State) : List UnitNo :=
  (s.power.idle.map (·.unit) ++ s.power.blocks.flatMap fun k => k.strand.dir.map (·.unit)).eraseDups

/-- A unit begins an IDLE_LOAD cue of context 0. -/
def beginLoad (u : UnitNo) (s : State) : State :=
  let l := idleLevel s u
  if l = 0 then s
  else
    let q := s.seq u
    s.setSeq u { q with issue := some { ctx := 0, win := 0, pos := 0, cue := .idleLoad (BitVec.ofNat 4 l), masks := q.masks.map (·.value), idx := [] } }

/-- The idle load of the present bead. -/
def beginLoads (s : State) : State := (loadedUnits s).foldl (fun t u => beginLoad u t) s

/-! ## Firmware's feedback (R365, R366): by how much it moves is free (log entry 29) -/

/-- The `i`-th free amount of a unit. -/
def idleStep (tok : Nat) (u : UnitNo) (i : Nat) : Nat := (Config.freeByte tok (4 * u + i)).toNat

/-- Idle load of a unit. -/
def idleOf (l : List IdleUnit) (u : UnitNo) : IdleUnit := (l.find? fun i => decide (i.unit = u)).getD ⟨u, 0, 0⟩

/-- More idle load on every unit that may have it. -/
def raiseIdle (tok : Nat) (s : State) : List IdleUnit :=
  ((idleUnits s).map fun u =>
    let i := idleOf s.power.idle u
    { i with beads := min s.rotLen (i.beads + idleStep tok u 0 + 256 * idleStep tok u 1), level := min 15 (i.level + idleStep tok u 2) }).filter
      fun i => decide (0 < i.beads ∧ 0 < i.level)

/-- Less of it. -/
def lowerIdle (tok : Nat) (l : List IdleUnit) : List IdleUnit :=
  (l.map fun i => { i with beads := i.beads - idleStep tok i.unit 0 - 256 * idleStep tok i.unit 1, level := i.level - idleStep tok i.unit 2 }).filter
    fun i => decide (0 < i.beads ∧ 0 < i.level)

/-- The block of a Strand to come that is not yet at its estimate: it is filled first. -/
def blockShort (k : IdleBlock) : Bool := !k.gone && decide (k.power < strandLoad k.strand)

/-- More power in the blocks of Strands to come. -/
def raiseBlocks (tok : Nat) (l : List IdleBlock) : List IdleBlock :=
  l.map fun k =>
    if blockShort k then
      { k with power := min (strandLoad k.strand) (k.power + idleStep tok k.ctx 0 * 2 ^ 16 + idleStep tok k.ctx 1 * 2 ^ 8 + 1),
               level := max 1 (min 15 (k.level + idleStep tok k.ctx 2)) }
    else k

/-- Less power in the blocks of Strands that have gone. -/
def lowerBlocks (tok : Nat) (l : List IdleBlock) : List IdleBlock :=
  (l.map fun k =>
    if k.gone then { k with power := k.power - idleStep tok k.ctx 0 * 2 ^ 16 - idleStep tok k.ctx 1 * 2 ^ 8 - 1, level := k.level - idleStep tok k.ctx 2 }
    else k).filter fun k => !k.gone || decide (0 < k.power ∧ 0 < k.level)

/-- The idle load after firmware's step toward T: P_meas below it brings more, above it less. -/
def feedback (tok : Nat) (t : Nat) (s : State) : Power :=
  let p := s.power
  if p.pMeas * 1000000000 < t then
    if p.blocks.any blockShort then { p with blocks := raiseBlocks tok p.blocks } else { p with idle := raiseIdle tok s }
  else if t < p.pMeas * 1000000000 then { p with idle := lowerIdle tok p.idle, blocks := lowerBlocks tok p.blocks }
  else p

/-- Idle load is at its upper limit: every bead of context 0 on every unit that may have it, at the highest LEVEL. -/
def idleFull (s : State) (l : List IdleUnit) : Bool :=
  (idleUnits s).all fun u => decide ((idleOf l u).level = 15 ∧ freeBeads s u s.rotLen ≤ (idleOf l u).beads)

/-- The estimated power of the idle load, in W: LEVEL ÷ 16 of the full power of each unit, and the blocks. -/
def idleWatts (s : State) (p : Power) : Nat :=
  (p.idle.map fun i => i.beads * i.level * Config.cueEnergy (i.unit / 4096) 16).sum / (16 * 40 * 1000 * max 1 s.rotLen)
    + (p.blocks.map (·.power)).sum / 1000000

/-- The block of an admission that waits, empty at first. -/
def openBlock (c : CtxNo) (image : Bytes) (s : State) : State :=
  if s.power.blocks.any fun k => decide (k.ctx = c) && !k.gone then s
  else s.modPower fun p => { p with blocks := ⟨c, readStrand image, 0, 0, 0, false⟩ :: p.blocks }

/-- The idle load in a Strand's future beads gives way. -/
def dropBlock (c : CtxNo) (s : State) : State :=
  s.modPower fun p => { p with blocks := p.blocks.filter fun k => k.gone || decide (k.ctx ≠ c) }

/-- Idle load takes over the beads of a Strand that goes, at its estimated power; not after a trip or while COOL_OK is lost. -/
def releaseBlock (c : CtxNo) (s : State) : State :=
  match (s.ctx c).strand with
  | some t =>
    if s.thermal.tripped ∨ s.power.withdrawn then s
    else
      let x := s.fresh
      x.2.modPower fun p =>
        { p with blocks := p.blocks ++ [⟨c, t, (s.ctx c).rot, (assoc c p.estimates).getD 0, 1 + Config.freeNat x.1 % 15, true⟩] }
  | none => s

/-- The rotation of the blocks' periods goes on. -/
def turnBlocks (p : Power) : Power := { p with blocks := p.blocks.map fun k => { k with rot := k.rot + 1 } }

end Sys2Proof.Machine
end

