-- ==== Sys2Proof/Machine/Admission.lean ====
section
/-! DEFINITION. Admission, release and the scrub of a context (R35, R73, R108 to R111, R160, R235, R297, R326, R364,
R381 to R384, R400, R401, R448, R463, R464). -/

namespace Sys2Proof.Machine

/-! ## Keys (R379, R381) -/

/-- A health test of the TRNG fails: LOCKET_RNG, and the module contributes FAILED. -/
def rngFails (s : State) : State :=
  setHealth (fun h => { h with fatal := true }) evLocketRng (raise evLocketRng [] (s.modLocket fun l => { l with rngFailed := true }))

/-- One draw of the TRNG, with its continuous test. -/
def drawKey (s : State) : BitVec 128 × State :=
  let n := s.locket.draws
  let t := s.modLocket fun l => { l with draws := n + 1 }
  (Config.trng n, if s.locket.rngLife = some n then rngFails t else t)

/-- A draw that differs from `k`: drawn again while it does not. A generator that gives one word 65 times in a row has failed its
continuous tests (log entry 7). -/
def drawOther : Nat → BitVec 128 → State → BitVec 128 × State
  | 0, k, s => let x := drawKey s; if x.1 = k then (x.1, rngFails x.2) else x
  | f + 1, k, s => let x := drawKey s; if x.1 = k then drawOther f k x.2 else x

/-- A private number for one signature or exchange. -/
def drawNumber (s : State) : Nat × State :=
  let a := drawKey s
  let b := drawKey a.2
  ((a.1.toNat * 2 ^ 128 + b.1.toNat) % (sm2N - 1) + 1, b.2)

/-- A key pair. -/
def drawPair (s : State) : (BitVec 128 × BitVec 128) × State :=
  let a := drawKey s
  let b := drawOther 63 a.1 a.2
  ((a.1, b.1), b.2)

/-- A fresh key pair in key slot `c` of every controller; none from a generator that has failed. -/
def loadPair (c : CtxNo) (s : State) : State :=
  let x := drawPair s
  if x.2.locket.rngFailed then x.2 else x.2.modBezel fun b => { b with keys := assocSet c x.1 b.keys }

/-! ## Ends of commands (R411, R463, Table 16-8) -/

/-- A STATUS that the manual does not number: any value but 0 (log entry 7). -/
def openStatus (tok : Nat) : Nat := Config.freeNat tok % (2 ^ 32 - 1) + 1

/-- A response on a management connection that is still open. -/
def respond (conn code status : Nat) (payload : Bytes) (s : State) : State :=
  when_ (s.mgmt.conns.any fun c => decide (c.id = conn)) (fun s => s.emit (.mgmt conn code status payload)) s

/-- The staging area is freed when an admission completes or is refused (R423), unless pieces of a next image stand in it. -/
def freeStage (s : State) : State := s.modMgmt fun m => if m.image.isEmpty then { m with imageBase := none } else m

/-- The end of an admission or release, with its reason code, told to whoever commanded it. A management admission
frees the staging area (R423). -/
def cmdDone (via : Via) (code : Nat) (c : CtxNo) (reason : Nat) (s : State) : State :=
  match via with
  | .twin => s
  | .strBlock => s.modStr fun b =>
      { b with busy := false, done := decide (reason = 0), reject := decide (reason ≠ 0), context := c % 16, reason := reason }
  | .mgmt conn =>
    let s := if code = 0x10 then freeStage s else s
    if reason = 0 then respond conn code 0 [] s
    else if reason = 0x11 then respond conn code 0x10 [] s
    else let x := s.fresh; respond conn code (openStatus x.1) [] x.2

/-! ## Admission commands, latched (R463, R464) -/

/-- Another command that names the context is pending. -/
def ctxBusy (s : State) (c : CtxNo) : Bool :=
  (s.strands.pendings.any fun p => decide (p.ctx = c)) || s.strands.releases.any fun r => decide (r.1 = c)

/-- The reason for which a latched admission is refused at once; 0 where it is not. -/
def admitRefusal (s : State) (image record : Bytes) : Nat :=
  let c := (readConfig record).ctx
  if s.follows then 0x11
  else if s.startup.quiesce.used then 0x12
  else if s.health.now = .failed then 0x13
  else if image = [] ∨ record = [] then 0x14
  else if configOk record = false then 0x10
  else if ctxBusy s c then 0x16
  else if s.running c then 0x17
  else 0

/-- An admission that waits. -/
def addPending (p : Pending) (s : State) : State :=
  (s.modStr fun b => { b with pendings := b.pendings ++ [p] }).modCtx (fun x => { x with phase := .pending }) p.ctx

/-- An admission command takes effect. -/
def latchAdmit (via : Via) (image record : Bytes) (replay : Option (Nat × Nat)) (s : State) : State :=
  let c := (readConfig record).ctx
  let r := admitRefusal s image record
  if r ≠ 0 then cmdDone via 0x10 c r s
  else
    addPending { ctx := c, via := via, image := image, record := slice record 0 160, verified := false, boundary := none,
                 replay := replay, grants := none } s

/-- The grant record of an ADMIT item (R326). The manual names its contents; the layout is the model's (log entry 26). -/
def grantBytes (c : CtxNo) (segs parts : List (Nat × Nat)) (image record : Bytes) : Bytes :=
  leBytes 4 c ++ leBytes 4 segs.length ++ leBytes 4 parts.length ++ leBytes 4 image.length
    ++ (segs.map fun x => leBytes 8 x.1 ++ leBytes 8 x.2).flatten ++ (parts.map fun x => leBytes 8 x.1 ++ leBytes 8 x.2).flatten
    ++ record ++ image

/-- An ADMIT item (Table 11-3). -/
def sendAdmit (boundary : Word) (op : Nat) (c : CtxNo) (rest : Bytes) (s : State) : State :=
  sendItem 4 c (leBytes 4 boundary.toNat ++ [BitVec.ofNat 8 op, 0, 0, 0] ++ rest) s

/-- Rotations from the present one to the first boundary, at least `n` on, that ends a context's Strand period. -/
def toPeriodEnd (s : State) (c : CtxNo) (n : Nat) : Nat :=
  let p := max 1 (match (s.ctx c).strand with | some t => t.periodRot | none => 1)
  n + (p - ((s.ctx c).rot + n) % p) % p

/-- A release is ordered: the lead names its boundary to the pendant (R109, R326, R448). -/
def orderRelease (c : CtxNo) (forced : Bool) (s : State) : State :=
  let s := s.modCtx (fun x => { x with phase := if x.phase = .admitted then .releasing else x.phase }) c
  if relays s then
    let b := s.period + BitVec.ofNat 32 (if forced then 3 else toPeriodEnd s c 3)
    let x := s.ctx c
    let g := grantBytes c (x.segs.map fun e => (e.1, e.2.base)) x.parts (match x.strand with | some t => t.raw | none => [])
      (match x.record with | some r => r.raw | none => [])
    sendAdmit b (if forced then 3 else 2) c g (s.modStr fun t => { t with twinReleases := t.twinReleases ++ [(b, c, forced)] })
  else s.modCtx (fun x => if forced then { x with forceDue := true } else { x with releaseDue := true }) c

/-- A release command takes effect. -/
def latchRelease (via : Via) (c : CtxNo) (forced : Bool) (s : State) : State :=
  let r := if s.follows then 0x11 else if ctxBusy s c then 0x16 else if c = 0 ∨ s.running c = false then 0x15 else 0
  if r ≠ 0 then cmdDone via 0x11 c r s
  else orderRelease c forced (s.modStr fun b => { b with releases := b.releases ++ [(c, via)] })

/-! ## Verification (R111) -/

/-- A pending admission is held while the scrub of its context's previous holder goes on (R108). -/
def heldByScrub (s : State) (c : CtxNo) : Bool := (s.ctx c).scrub.isSome

def modPending (f : Pending → Pending) (c : CtxNo) (s : State) : State :=
  s.modStr fun b => { b with pendings := b.pendings.map fun p => if p.ctx = c then f p else p }

def dropPending (c : CtxNo) (s : State) : State := s.modStr fun b => { b with pendings := b.pendings.filter fun p => p.ctx ≠ c }

/-- A pending admission is rejected: its context stays free, and every admitted context as it is. A pendant's rejection
ends the lockstep of that context (R326). -/
def rejectPending (p : Pending) (reason : Nat) (s : State) : State :=
  let s := dropBlock p.ctx (cmdDone p.via 0x10 p.ctx reason (dropPending p.ctx s))
  let s := s.modCtx (fun x => { x with phase := if x.phase = .pending then (if x.scrub.isSome then .scrubbing else .free) else x.phase }) p.ctx
  if p.via = .twin then diverge p.ctx s else s

/-- The module's own state refuses admissions; else Table 4-2 decides. -/
def admitVerdict (s : State) (p : Pending) : Nat :=
  if s.startup.quiesce.used then 0x12
  else if s.health.now = .failed then 0x13
  else admissionReason s p.image (readConfig p.record)

/-- VERIFICATION_COMPLETE. -/
def verifyDone (c : CtxNo) (s : State) : State :=
  match s.strands.pendings.find? fun p => decide (p.ctx = c) with
  | none => s
  | some p =>
    if p.verified ∨ heldByScrub s c then s
    else
      let r := admitVerdict s p
      if r ≠ 0 then rejectPending p r s else modPending (fun q => { q with verified := true }) c s

/-! ## Admission (R108, R297, R382, R383) -/

/-- The record as Addaso completes it (R382): the module's rate and slots, and the mask bit of the context. -/
def completeRecord (s : State) (b : Bytes) : Bytes :=
  let c := leAt b 0 1
  let flags := leAt b 1 1 % 2 + 2 * b2n (bit s.cast.ctxMask c) + 4 * (leAt b 1 1 / 4 % 64)
  overlay (overlay b 1 [BitVec.ofNat 8 flags]) 8
    [BitVec.ofNat 8 s.rate, BitVec.ofNat 8 (hostSlots s), BitVec.ofNat 8 (min s.cast.slots 4)]

/-- A context that may write a segment, whatever its WR says. -/
def openSeg (seg : Nat) (x : Ctx) : Ctx :=
  { x with segs := x.segs.map fun e => if e.1 = seg then (e.1, { e.2 with wr := true }) else e }

/-- The bytes of an initial load stand at their destination. -/
def loadInto (c : CtxNo) (r : InitLoad) (s : State) : State :=
  let seg := r.dest / 2 ^ 34
  let o : Nat := r.dest % 2 ^ 34
  match segLine s c seg (o : Int) true with
  | some _ =>
    (linePieces (r.bytes.length / 1024 + 2) o r.bytes.length).foldl (fun t p =>
      match segLine t c seg (p.1 : Int) true with
      | some (ch, u) =>
        let (old, _, t) := readLine c ch u t
        storeLine c ch u (overlay old (p.1 % 1024) (slice r.bytes (p.1 - o) p.2)) t
      | none => t) s
  | none =>
    let w := writeSeg 0xFFFF c seg (o : Int) r.bytes s
    w.1.foldl (fun t x => storePut x.1 x.2 t) w.2

/-- One initial load (R73): WR of the segment does not matter to it. -/
def loadInit (c : CtxNo) (r : InitLoad) (s : State) : State :=
  (loadInto c r (s.modCtx (openSeg (r.dest / 2 ^ 34)) c)).modCtx (fun x => { x with segs := (s.ctx c).segs }) c

/-- Segment entries with given bases. -/
def segsAt (t : Strand) (bases : List (Nat × Nat)) : List (Nat × SegEntry) :=
  (sortBy (fun a b => decide (a.seg ≤ b.seg)) t.segs).map fun r =>
    (r.seg, { rd := r.access.testBit 0, wr := r.access.testBit 1, fab := r.access.testBit 2, space := r.space, stripe := r.stripe,
              chBase := r.chBase, size := r.sizeKib, base := (assoc r.seg bases).getD r.base,
              group := if 2 ≤ r.group then r.group else 0 })

/-- The grants of an admission: the lead's, or its own. -/
def grantsOf (s : State) (p : Pending) : List (Nat × SegEntry) × List (Nat × Nat) :=
  let t := readStrand p.image
  match p.grants with
  | some g => (segsAt t g.1, g.2)
  | none => ((grantSegs s t (readConfig p.record)).getD [], (grantParts s t).getD [])

/-- The payload of an ANCHOR record (Table 10-5). -/
def anchorPayload (s : State) (t : Strand) (r : Record) (first : Nat) (period : Word) : Bytes :=
  slice t.digest 0 32 ++ slice r.weights 0 32 ++ leBytes 8 first ++ leBytes 4 period.toNat
    ++ [BitVec.ofNat 8 s.rate, BitVec.ofNat 8 s.grade, BitVec.ofNat 8 (hostSlots s), BitVec.ofNat 8 (min s.cast.slots 4)] ++ zeros 16

/-- The security state of a context at admission (R383). -/
def Sec.admitted (t : Strand) (record : Bytes) : Sec := { Sec.reset with mStrand := t.digest, mConfig := sm3 record }

/-- The context is admitted at the boundary that follows, with its keys in place. APERTURE_n takes the record's fields modulo their
width, and zeros where the record's APERTURE_OPEN is 0 (R168; DESIGN CHOICE, log entry 54). -/
def admitKeyed (p : Pending) (s : State) : State :=
  let c := p.ctx
  let t := readStrand p.image
  let raw := completeRecord s p.record
  let r := readConfig raw
  let g := grantsOf s p
  let first := s.bead + 1
  let per := s.period + 1
  let s := dropBlock c (dropPending c s)
  let s := s.modCtx (fun x =>
    { x with phase := .admitted, strand := some t, record := some r, segs := g.1, parts := g.2, rot := 0, admitBead := first,
             admitPeriod := per, withheld := false, withheldCount := 0, lastEvt := 0, forceDue := false, releaseDue := false,
             castOn := bit s.cast.ctxMask c, damage := [], sec := Sec.admitted t raw, scrub := none }) c
  let s := t.inits.foldl (fun s x => loadInit c x s) s
  let s := s.modRing (fun x => { x with chain := zeros 32, assigned := [], requests := 0 }) c
  let s := (List.range 4).foldl (fun s q => if ownsPort r q then s.modClasp (fun x => { x with chain := zeros 32 }) q else s) s
  let s := s.modBezel fun b =>
    { b with apertures := modifyAt (fun _ => ⟨r.apertureOpen, if r.apertureOpen then r.apertureSeg % 64 else 0,
                                              if r.apertureOpen then r.apertureWin % 4 else 0⟩) c b.apertures }
  let s := s.modPower fun w => { w with estimates := assocSet c (strandPower p.image) w.estimates }
  let s := s.modCmp fun x => { x with diverged := x.diverged.filter fun d => d ≠ c }
  let s := match p.replay with
    | some a => s.modCast fun x => { x with deltas := assocSet c ((first : Int) - a.2, a.2) x.deltas }
    | none => s
  let s := if (s.ctx c).castOn then castPut 0x01 0xFF c 0 first 0 per (anchorPayload s t r first per) s else s
  cmdDone p.via 0x10 c 0 s

/-- The admission: the Locket refuses it where its random bits fail (R379). -/
def admitNow (p : Pending) (s : State) : State :=
  let s := loadPair p.ctx s
  if s.locket.rngFailed then s else admitKeyed p s

/-- The power ramp allows the load of an image (R364, R366). -/
def rampAllows (s : State) (image : Bytes) : Bool :=
  decide (1000 * (loadPower s + strandPower image) ≤ s.power.target)

/-- The last bead of a rotation whose boundary work has not been done. -/
def atBoundary (s : State) : Bool := decide (s.beadInRot + 1 = s.rotLen) && !s.rotDone

/-- An admission has taken effect at the boundary that follows. -/
def admitMade (s : State) : Bool := s.admitted.any fun c => decide ((s.ctx c).admitBead = s.bead + 1)

/-- A release of the context is due at the boundary that follows (R109, R326): none once a substitution or an admission has been
made there (R35, log entry 13). -/
def releaseIsDue (s : State) (c : CtxNo) : Bool :=
  s.running c && decide (c ≠ 0) && !admitMade s && !swapMade s &&
    ((s.ctx c).forceDue || (s.strands.twinReleases.any fun r => decide (r.1 = s.period + 1 ∧ r.2.1 = c))
      || ((s.ctx c).releaseDue && decide (toPeriodEnd s c 1 = 1)))

/-- No admission pending ahead of this one can take effect before it (R108). -/
def firstInLine (s : State) (c : CtxNo) : Bool :=
  match s.strands.pendings.find? fun p => !heldByScrub s p.ctx with
  | some p => decide (p.ctx = c)
  | none => false

/-- R108 holds for the admission at the boundary that follows. -/
def admitReady (s : State) (p : Pending) : Bool :=
  p.verified && !heldByScrub s p.ctx && firstInLine s p.ctx && rampAllows s p.image && !s.locket.rngFailed

/-- The pendant's READY period has been reached at a boundary. -/
def readyBy (s : State) (b : Word) : Bool :=
  match s.pair.link.readyPeriod with
  | some r => !laterThan r b && !unordered r b
  | none => false

/-- The module as it will be for an admission whose predecessors have their boundaries named. -/
def withNamed (s : State) (c : CtxNo) : State :=
  ((s.strands.pendings.takeWhile fun p => decide (p.ctx ≠ c)).filter fun p => p.boundary.isSome).foldl (fun t p => admitNow p t) s

/-- The lead names the boundary of an admission and sends the grants (R326); the admissions named before it are counted. -/
def nameBoundary (p : Pending) (s : State) : State :=
  let b := s.period + 3
  if readyBy s b then
    let g := grantsOf (withNamed s p.ctx) p
    let bases := (g.1.filter fun e => decide (e.2.space = 0)).map fun e => (e.1, e.2.base)
    sendAdmit b 1 p.ctx (grantBytes p.ctx bases g.2 p.image p.record)
      (modPending (fun q => { q with boundary := some b, grants := some (bases, g.2) }) p.ctx s)
  else s

/-- The admission takes effect, or is rejected by the checks that hold now. -/
def admitOrReject (p : Pending) (s : State) : State :=
  let r := admitVerdict s p
  if r ≠ 0 then rejectPending p r s else admitNow p s

/-- Some release is due at the boundary that follows. -/
def anyReleaseDue (s : State) : Bool := (span 1 16).any (releaseIsDue s)

/-- SPARE_SWAP: at a rotation boundary, after its releases and before its admissions (R35, R370 step 6). -/
def spareSwap (die : Nat) (s : State) : State :=
  when_ (atBoundary s && swapDue s die && !anyReleaseDue s && !admitMade s) (swapNow die) s

/-- ADMISSION_TAKES_EFFECT: at a rotation boundary, after its releases and substitutions (R35, R108). -/
def admissionEffect (c : CtxNo) (s : State) : State :=
  match s.strands.pendings.find? fun p => decide (p.ctx = c) with
  | none => s
  | some p =>
    if atBoundary s = false ∨ anyReleaseDue s ∨ (anySwapDue s ∧ admitMade s = false) then s
    else
      match p.boundary with
      | some b =>
        if b ≠ s.period + 1 then s
        else if p.verified then admitOrReject p s
        else rejectPending p 0x01 s
      | none =>
        if admitReady (withNamed s c) p = false then s
        else if relays s then nameBoundary p s
        else
          match p.replay with
          | some a => if (s.period + 1).toNat % 4 = a.1 then admitOrReject p s else s
          | none => admitOrReject p s

/-! ## Release (R400 step 1) -/

/-- Windows of a context on every unit end, and its engine steps with them (R109). -/
def endWindows (c : CtxNo) (s : State) : State :=
  { s with seqs := s.seqs.map fun q =>
             match q.2.win with
             | some w => if w.1 = c then (q.1, { q.2 with win := none, frames := [], issue := none }) else q
             | none => q,
           engines := s.engines.filter fun e => decide (e.2.ctx ≠ c) }

/-- The live words and row entries of a context clear. -/
def clearLive (c : CtxNo) (s : State) : State :=
  let ws := match (s.ctx c).strand with | some t => liveWords t | none => []
  let s := ws.foldl (fun t w => t.setLive w ⟨0, 0, 0⟩) s
  { s with rows := s.rows.filter fun r => decide (r.2.owner ≠ c) }

/-- With QUIESCE_N asserted and every context released, the drain is complete (R448). -/
def quiesceCheck (s : State) : State :=
  if s.startup.quiesce.used ∧ s.startup.quiesced = false ∧ s.admitted.isEmpty then
    raise evQuiesced [] (s.modStartup fun x => { x with quiesced := true })
  else s

/-- The context is released at the boundary that follows. -/
def releaseNow (c : CtxNo) (s : State) : State :=
  let x := s.ctx c
  let named := s.strands.twinReleases.find? fun r => decide (r.2.1 = c)
  let forced := x.forceDue || (match named with | some r => r.2.2 | none => false)
  let s := performAll s
  let s := if x.castOn then castPut 0x02 0xFF c 0 (s.bead + 1) 0 (s.period + 1) ([BitVec.ofNat 8 (b2n forced)] ++ zeros 3) s else s
  let s := releaseBlock c (clearLive c (endWindows c s))
  let s := s.modBezel fun b => { b with apertures := modifyAt (fun _ => ⟨false, 0, 0⟩) c b.apertures }
  let s := s.modRing (fun _ => Ring.reset) c
  let s := s.modPower fun w => { w with estimates := assocDel c w.estimates }
  let s := s.modCtx (fun x =>
    { x with phase := .scrubbing, forceDue := false, releaseDue := false, castOn := false, withheld := false, damage := [],
             sec := Sec.reset, mailbox := Mailbox.reset,
             scrub := some { began := s.bead + 1, keyLoaded := false, lines := [], otherDone := false } }) c
  let vias := (s.strands.releases.filter fun r => decide (r.1 = c)).map (·.2)
  let s := s.modStr fun b =>
    { b with releases := b.releases.filter fun r => decide (r.1 ≠ c), twinReleases := b.twinReleases.filter fun r => decide (r.2.1 ≠ c) }
  let s := vias.foldl (fun t v => cmdDone v 0x11 c 0 t) s
  let s := if s.pair.regs.state = .lockstep ∧ named.isNone then diverge c s
    else s.modCmp fun m => { m with diverged := m.diverged.filter fun d => d ≠ c }
  quiesceCheck s

/-- RELEASE_TAKES_EFFECT. -/
def releaseEffect (c : CtxNo) (s : State) : State := when_ (atBoundary s && releaseIsDue s c) (releaseNow c) s

/-! ## Scrub (R400, R401) -/

/-- A unit kind that reads LP4X lines: channels and engines. -/
def readsLines : Option UnitKind → Bool
  | some .channel | some .garland | some .scatter | some .charm | some .pavilion => true
  | _ => false

/-- Some LP4X access of the context is still in flight: a line or a host write, or a line read into scratch or a store. -/
def lp4xInFlight (s : State) (c : CtxNo) : Bool :=
  s.effects.any fun e => decide (e.ctx = c) &&
    match e.kind with
    | .line .. => true
    | .hostWrite .. => true
    | .bytes _ => readsLines (unitKind e.unit)
    | _ => false

/-- Some effect of the context is still in flight (R100, R109). -/
def anyInFlight (s : State) (c : CtxNo) : Bool := s.effects.any fun e => decide (e.ctx = c)

/-- Step 5 of R400: scratch partitions, stores of units under its space 2 segments and its ports' frame buffers. -/
def clearOther (c : CtxNo) (s : State) : State :=
  let x := s.ctx c
  let n := partSize s c
  let s := x.parts.foldl (fun t p => storeClear (storeKey 1 (p.1 * 2 ^ 18 + p.2)) n t) s
  let us := ((x.segs.filter fun e => decide (e.2.space = 2) && !e.2.fab).flatMap fun e => coversUnits e.2.base e.2.size).eraseDups
  let s := us.foldl (fun t u => storeClear (unitKey u 0) (2 ^ 24) t) s
  match x.record with
  | some r => (List.range 4).foldl (fun t p => if ownsPort r p then storeClear (storeKey 4 (p * 2 ^ 20)) 262144 t else t) s
  | none => s

/-- Step 5 of R400, once: after every effect of the context in flight at its release (R109). -/
def scrubOther (c : CtxNo) (s : State) : State :=
  match (s.ctx c).scrub with
  | some r =>
    if r.keyLoaded ∧ r.otherDone = false ∧ anyInFlight s c = false then
      (clearOther c s).modCtx (fun x => { x with scrub := some { r with otherDone := true } }) c
    else s
  | none => s

/-- CONTEXT_KEY_DESTROY: the context key pair goes and the scrub key pair comes, once every LP4X access of the context
in flight at the boundary has completed (R400 steps 2 and 3); step 5 follows at once, or at the start of the next rotation where
another effect is still in flight. -/
def keyDestroy (c : CtxNo) (s : State) : State :=
  match (s.ctx c).scrub with
  | some r =>
    if r.keyLoaded ∨ s.bead < r.began ∨ lp4xInFlight s c ∨ s.locket.rngFailed then s
    else
      let lines := ((List.range (channelCount s.grade)).map fun ch => (ch, ctxLineCount s c ch)).filter fun l => decide (l.2 ≠ 0)
      let s := loadPair c s
      if s.locket.rngFailed then s
      else scrubOther c (s.modCtx (fun x => { x with scrub := some { r with keyLoaded := true, lines := lines } }) c)
  | none => s

/-- The lowest context whose scrub has a line to write on the channel. -/
def scrubOn (s : State) (ch : Nat) : Option (CtxNo × Nat) :=
  ((span 1 16).filterMap fun c => (scrubLine s c ch).map fun u => (c, u)).head?

/-- SCRUB_WRITE: the next line, in a start that scrub may take. -/
def scrubWrite (ch : Nat) (s : State) : State :=
  if scrubStart s ch then
    match scrubOn s ch with
    | some (c, u) =>
      (storeLine c ch u (zeros 1024) (takeSlot ch s)).modCtx (fun x =>
        { x with scrub := x.scrub.map fun r =>
            { r with lines := (r.lines.map fun l => if l.1 = ch then (ch, l.2 - 1) else l).filter fun l => decide (l.2 ≠ 0) } }) c
    | none => s
  else s

/-- No context but 0 is admitted or being scrubbed: an accepted debug token enables Loupe (R405). -/
def loupeCheck (s : State) : State :=
  if s.locket.debugOn ∧ s.locket.loupeReady = false ∧ s.admitted.isEmpty ∧ s.ctxs.all (fun x => x.scrub.isNone) then
    s.modLocket fun l => { l with loupeReady := true }
  else s

/-- After a trip, the Setting dies' clocks are gated once every scrub is over (R371 step 3). -/
def gateCheck (s : State) : State :=
  if s.thermal.tripped ∧ s.admitted.isEmpty ∧ s.ctxs.all (fun x => x.scrub.isNone) then s.modThermal fun t => { t with gated := true } else s

/-- SCRUB_COMPLETION: the scrub key goes, the resources return, SCRUB_DONE (R400 step 6). -/
def scrubDone (c : CtxNo) (s : State) : State :=
  match (s.ctx c).scrub with
  | some r =>
    if r.keyLoaded ∧ r.otherDone ∧ r.lines = [] then
      let s := s.modBezel fun b => { b with keys := assocDel c b.keys }
      let s := s.modCtx (fun x =>
        { x with scrub := none, segs := [], parts := [], strand := none, record := none,
                 phase := if x.phase = .scrubbing then .free else x.phase }) c
      gateCheck (loupeCheck (raise evScrubDone [] s))
    else s
  | none => s

/-! ## The commands -/

/-- A write to STR_CMD is taken now (R463, R464). -/
def strTaken (s : State) (op : Nat) : Bool :=
  s.strands.hostEn && !s.strands.busy && s.ports.linkUp && s.startup.ready && !(decide (op = 1) && s.cast.replay)

/-- A write to STR_CMD that is taken: the command waits for its boundary. -/
def strCommand (op : Nat) (c : CtxNo) (image record : Bytes) (s : State) : State :=
  if strTaken s op then pushInput 9 (.strCmd op c image record) (s.modStr fun b => { b with busy := true }) else s

/-- An admission commanded by a register write, the host's or a context-0 move's (R143): the image and the record are read from
host memory, whose answer STR_ADMIT brings. -/
def strFetch (s : State) : State :=
  if strTaken s 1 then
    let b := s.strands
    ((s.modStr fun b => { b with busy := true, fetching := true }).emit
      (.ringFetch (b.imgHi.toNat * 2 ^ 32 + b.imgLo.toNat) b.imgLen.toNat)).emit (.ringFetch (b.cfgHi.toNat * 2 ^ 32 + b.cfgLo.toNat) 160)
  else s

/-- STR_ADMIT: the write of OP 1 with `fetched`, what host memory answers for the image and the configuration record, or the
answer to an earlier write. -/
def strAdmit (fetched : Option (Bytes × Bytes)) (s : State) : State :=
  let x := fetched.getD ([], [])
  if s.strands.fetching then pushInput 9 (.strCmd 1 0 x.1 x.2) (s.modStr fun b => { b with fetching := false })
  else strCommand 1 0 x.1 x.2 s

def execStrAdmit (fetched : Option (Bytes × Bytes)) (s : State) : Host.Outcome State Fault Refusal := ok (strAdmit fetched s)

def execStrRelease (ctx : CtxNo) (s : State) : Host.Outcome State Fault Refusal := ok (strCommand 2 (ctx % 16) [] [] s)
def execStrForcedRelease (ctx : CtxNo) (s : State) : Host.Outcome State Fault Refusal := ok (strCommand 3 (ctx % 16) [] [] s)
def execVerificationComplete (ctx : CtxNo) (s : State) : Host.Outcome State Fault Refusal := ok (verifyDone ctx s)
def execSpareSwap (die : Nat) (s : State) : Host.Outcome State Fault Refusal := ok (spareSwap die s)
def execAdmissionTakesEffect (ctx : CtxNo) (s : State) : Host.Outcome State Fault Refusal := ok (admissionEffect ctx s)
def execReleaseTakesEffect (ctx : CtxNo) (s : State) : Host.Outcome State Fault Refusal := ok (releaseEffect ctx s)
def execContextKeyDestroy (ctx : CtxNo) (s : State) : Host.Outcome State Fault Refusal := ok (keyDestroy ctx s)
def execScrubWrite (ch : Nat) (s : State) : Host.Outcome State Fault Refusal := ok (scrubWrite ch s)
def execScrubCompletion (ctx : CtxNo) (s : State) : Host.Outcome State Fault Refusal := ok (scrubDone ctx s)

end Sys2Proof.Machine
end

