-- ==== Sys2Proof/Machine/Guard.lean ====
section
/-! DEFINITION. Slot guards (R31, R115). -/

namespace Sys2Proof.Machine

/-- Two units drive one Chain slot in bead `b`. -/
def clash (b : Nat) (d e : Drive) : Bool :=
  decide (d.die = e.die ∧ d.slot = e.slot ∧ d.unit ≠ e.unit ∧ d.since ≤ b ∧ b ≤ d.until_ ∧ e.since ≤ b ∧ b ≤ e.until_)

/-- The effect is what the drive transfers. -/
def carries (d : Drive) (e : Effect) : Bool :=
  decide (e.unit = d.unit ∧ e.began = d.began) &&
    match e.kind with
    | .bytes _ => true
    | .line .. => true
    | .regs .. => true
    | _ => false

/-- The consequences for one context (R115): its outputs are withheld and it is to be released. -/
def guardContext (u v : UnitNo) (arg : Bytes) (c : CtxNo) (s : State) : State :=
  let s := raiseAt evSlotGuard (some c) u v true false arg s
  if c = 0 then s else noteLocalFault c (forceRelease c s)

/-- SLOT_GUARD for two drives of one slot. -/
def guardPair (d e : Drive) (s : State) : State :=
  let arg := leBytes 2 d.slot ++ leBytes 2 s.beadInRot
  let cs := if d.ctx = e.ctx then [d.ctx] else [min d.ctx e.ctx, max d.ctx e.ctx]
  setHealth (fun h => { h with slotGuard := true }) evSlotGuard
    (cs.foldl (fun t c => guardContext (min d.unit e.unit) (max d.unit e.unit) arg c t) s)

/-- The drives of the present bead that clash with the one of the lowest unit in their slot. -/
def clashes (s : State) : List (Drive × Drive) :=
  s.drives.flatMap fun d =>
    if s.drives.any (fun e => clash s.bead d e && decide (e.unit < d.unit)) then []
    else (s.drives.filter (clash s.bead d)).map fun e => (d, e)

/-- The guards of the present bead: both transfers are suppressed, and drives that are over are dropped. -/
def slotGuards (s : State) : State :=
  let out := s.drives.filter fun d => s.drives.any (clash s.bead d)
  let ps := clashes s
  let s := { s with effects := s.effects.filter fun e => !(out.any fun d => carries d e),
                    drives := s.drives.filter fun d => !out.contains d && decide (s.bead < d.until_) }
  ps.foldl (fun t p => guardPair p.1 p.2 t) s

/-- Every begun cue of the present bead has been carried out, and its slot guards have acted. -/
def settle (s : State) : State := slotGuards (performAll s)

/-- CLASP_FRAME_DECISION: at bead D + 277 the cues and the guards of the bead come first (R266, R275). -/
def decideNow (p : Nat) (s : State) : State := if decisionDue p s then claspDecide p (settle s) else s

def execClaspFrameDecision (port : Nat) (s : State) : Host.Outcome State Fault Refusal := ok (decideNow port s)

end Sys2Proof.Machine
end

