-- ==== Sys2Proof/Machine/Report.lean ====
section
/-! DEFINITION. The health report (R332, R420, Table 14-5). -/

namespace Sys2Proof.Machine

/-- How many noted beads lie within the last 24 hours. -/
def within (s : State) (l : List Nat) : Nat := (l.filter fun b => decide (s.bead < b + dayBeads)).length

/-- Filtered value of a sensor. -/
def sensorTemp (s : State) (n : Nat) : Int := ((assoc n s.thermal.sensors).getD Sensor.new).filtered

/-- The hottest of sensors. -/
def hottest (s : State) (ns : List Nat) : Int :=
  match ns.map (sensorTemp s) with
  | [] => 0
  | a :: r => r.foldl max a

/-- Setting zones and LP4X packages of the grade, by sensor. -/
def zoneSensors (s : State) : List Nat := (List.range 64).filter (sensorPresent s.grade)
def packageSensors (s : State) : List Nat := (span 64 76).filter (sensorPresent s.grade)

/-- Physical Facets self-tested in the last 2^26 rotations. -/
def coverage (s : State) : Nat := (s.pair.cmp.covered.filter fun c => decide (s.rotCount < c.2 + 2 ^ 26)).length

def healthReport (s : State) : Bytes :=
  let dies := s.spares.take (settingDies s.grade)
  [1, BitVec.ofNat 8 s.health.now.code, BitVec.ofNat 8 s.pair.regs.role.code, BitVec.ofNat 8 s.startup.slot]
    ++ leBytes 4 s.mgmt.hm.generation ++ leBytes 8 s.bead
    ++ slice (dies.map fun d => BitVec.ofNat 8 (usableSpares d)) 0 4 ++ slice (dies.map fun d => BitVec.ofNat 8 d.retired.length) 0 4
    ++ leBytes 4 (coverage s) ++ leBytes 4 s.pair.regs.diverge.toNat
    ++ leBytes 4 (s.bezel.channels.map fun c => within s c.ce).sum ++ leBytes 4 (s.bezel.channels.map fun c => within s c.ueBeads).sum
    ++ leBytes 2 (wrap 16 (hottest s (zoneSensors s))) ++ leBytes 2 (wrap 16 (hottest s (packageSensors s)))
    ++ leBytes 2 (wrap 16 (sensorTemp s 80)) ++ leBytes 2 s.power.pMeas ++ zeros 80

end Sys2Proof.Machine
end

