-- ==== Sys2Proof/Machine/Twin.lean ====
section
/-! DEFINITION. The twin pair: cells, items, comparison, take-over, epochs and roles (R316 to R341, R393, R432). -/

namespace Sys2Proof.Machine

/-! ## Cells (R321, R322, Table 11-2) -/

/-- An item with its header and padding. -/
def TwinItem.bytes (i : TwinItem) : Bytes := [i.kind, i.ctx] ++ leBytes 2 i.payload.length ++ padTo 4 i.payload

/-- The items at the front of the queue that fit into `room` bytes. -/
def fitItems : Nat → List TwinItem → List TwinItem
  | _, [] => []
  | room, i :: r => if i.bytes.length ≤ room then i :: fitItems (room - i.bytes.length) r else []

/-- The items of a cell and those left: one that is sent twice stays at the front for the next cell (R323). -/
def cellItems (l : List TwinItem) : List TwinItem × List TwinItem :=
  let now := fitItems 732 l
  (now, (now.filterMap fun i => if 1 < i.copies then some { i with copies := i.copies - 1 } else none) ++ l.drop now.length)

/-- The counter block of a cell (R392). -/
def cellBlock (slot bead : Nat) : Bytes := [BitVec.ofNat 8 slot, 0, 0, 0] ++ leBytes 8 bead

/-- The cell of the present bead, with its items. -/
def cellBytes (s : State) (items : List TwinItem) : Bytes :=
  let l := s.pair.link
  let flags := b2n (faultFlag s) + 2 * b2n l.leaving + 4 * b2n l.splitSeen
  let hdr := [1, BitVec.ofNat 8 s.pair.regs.role.code, BitVec.ofNat 8 s.startup.slot, BitVec.ofNat 8 s.health.now.code]
    ++ leBytes 4 s.pair.regs.epoch.toNat ++ leBytes 8 s.bead ++ leBytes 4 s.period.toNat ++ leBytes 2 flags
    ++ leBytes 2 items.length ++ zeros 8
  let body := slice (items.map TwinItem.bytes).flatten 0 732
  let body := match l.pairKey with
    | some k => ctrBlocks k (cellBlock s.startup.slot s.bead) 4 body
    | none => body
  hdr ++ body ++ leBytes 4 (crc32 (hdr ++ body))

/-- The 112-byte key record of a context (R393). -/
def keyRecord (s : State) (c : CtxNo) : Bytes :=
  let x := (s.ctx c).sec
  let sea := match x.seaKey with | some k => keyBytes k | none => zeros 16
  match x.session with
  | some k =>
    keyBytes k.hmEnc ++ keyBytes k.mhEnc ++ keyBytes k.hmMac ++ keyBytes k.mhMac ++ sea ++ leBytes 8 k.mbHm ++ leBytes 8 k.mbMh
      ++ leBytes 8 k.rqIdx ++ leBytes 8 k.srIdx
  | none => zeros 64 ++ sea ++ zeros 32

/-- A KEYS item holds the record as it stands at its sending bead; its second copy holds the same (R393). -/
def freshKeys (s : State) (i : TwinItem) : TwinItem :=
  if i.kind = 4 ∧ i.copies = 2 ∧ leAt i.payload 4 1 = 4 then
    { i with payload := leBytes 4 s.period.toNat ++ [4, 0, 0, 0] ++ keyRecord s i.ctx.toNat }
  else i

/-- The module sends twin cells. -/
def sendsCells (s : State) : Bool := s.paired && s.startup.ready

/-- One cell leaves in every bead (R321). -/
def sendCell (s : State) : State :=
  if sendsCells s then
    let x := cellItems (s.pair.link.items.map (freshKeys s))
    (sendLanes 4 2 (cellBytes s x.1) (s.emit (.twinCell (cellBytes s x.1)))).modLink fun l => { l with items := x.2 }
  else s

/-- TWIN records of a change of role that the link brings (R297, R299), with the bead at which it takes effect: the manual
states no message code. -/
def castRole (old : Role) (bead : Nat) (s : State) : State :=
  if s.pair.regs.role = old then s
  else
    let x := s.fresh
    let p := leBytes 4 (Config.freeNat x.1) ++ leBytes 4 s.pair.regs.role.code ++ leBytes 4 s.pair.regs.epoch.toNat ++ zeros 4
    (span 1 16).foldl (fun t c => if (t.ctx c).castOn then castPut 0x20 4 c 0 bead 0 (t.periodAt bead) p t else t) x.2

/-! ## Take-over (R333 to R335, R339) -/

/-- The member keeps up a pair with a partner that it hears. -/
def partnered (s : State) : Bool :=
  relays s || decide ((s.pair.regs.role = .pendant ∧ s.pair.regs.state = .lockstep) ∨ (s.pair.regs.role = .joining ∧ 2 ≤ s.pair.join.step))

/-- Every admitted context is diverged (R328). -/
def divergeAll (s : State) : State := s.admitted.foldl (fun t c => diverge c t) s

/-- The member acts as lead from the next bead, with the new epoch; `loss` is the bead of the loss. -/
def takeOver (epoch : Word) (acting : Bool) (loss : Nat) (s : State) : State :=
  let s := s.modTwin fun t => { t with role := .lead, epoch := epoch, state := if acting then .acting else t.state }
  let s := s.modOver fun o =>
    { o with lossBead := some loss, confirmSince := if acting then some (s.rotCount, s.pair.regs.eh) else none }
  s.modLink fun l => { l with setFault := false, lost := none }

/-- The pair is split and this pendant does not take over (Table 11-4). -/
def splitWait (s : State) : State :=
  raise evPairSplit [] (divergeAll ((s.modTwin fun t => { t with state := .none }).modLink fun l => { l with splitSeen := true }))

/-- A lead is alone: its partner is silent, leaves or fails. -/
def goAlone (s : State) : State :=
  joinFrom 1 ((divergeAll (s.modTwin fun t => { t with state := .alone })).modLink fun l =>
    { l with setFault := false, items := [], goodRun := 0, readyPeriod := none, pairKey := none, partnerId := zeros 32 })

/-- The eighth missed heartbeat (R333, R338); the lanes no longer show as trained (DEDUCED, log entry 38). -/
def partnerSilent (s : State) : State :=
  let s := s.modTwin fun t => { t with lane0 := false, lane1 := false }
  match s.pair.regs.role with
  | .lead =>
    raise evTwinLost [] ((goAlone s).modOver fun o => { o with raiseDue := 2, beatSince := none })
  | .pendant =>
    let s := raise evTwinLost [] s
    let e := s.pair.regs.evidence
    if e ≠ 0 ∧ s.pair.regs.silentEn then takeOver (s.pair.regs.epoch + 1) true (s.bead - 7) s
    else if e = 0 ∧ s.mgmt.pairToken.held then takeOver (s.pair.regs.epoch + 1) false (s.bead - 7) s
    else splitWait s
  | _ => raise evTwinLost [] (joinFrom 1 s)

/-- The member counts the cells of a partner (R323). -/
def countsCells (s : State) : Bool := sendsCells s && decide (s.pair.regs.role ≠ .unpaired)

/-- From the second missed cell in a row, both copies of an item may be lost: of which contexts does not show (R323, R328). -/
def itemsLost (s : State) : State :=
  if 2 ≤ s.pair.link.missRun then s.admitted.foldl (fun t c => mayDiverge c t) s else s

/-- A heartbeat that did not come (R323); the first one fixes a pendant's evidence ports (R337). -/
def missHeartbeat (s : State) : State :=
  let s := if s.pair.regs.role = .pendant ∧ s.pair.link.missRun = 0 then s.modTwin fun t => { t with evidence := evidencePorts s } else s
  let s := s.modTwin fun t => { t with missed := t.missed + 1 }
  let s := s.modLink fun l => { l with missRun := l.missRun + 1, goodRun := 0, cellNow := true }
  if s.pair.link.missRun = 8 ∧ partnered s then partnerSilent s else itemsLost s

/-- A pendant that waits after a split, and holds the token now (Table 11-5). -/
def tokenWaits (s : State) : Bool :=
  decide (s.pair.regs.role = .pendant ∧ s.pair.regs.state = .none ∧ s.pair.link.splitSeen) && s.mgmt.pairToken.held

/-- The end of a bead for the pair: the lead's FAULT or LEAVING cell of this bead, a token for a waiting pendant, or
MISSED_HEARTBEAT where no good cell was taken at the bead's boundary (R323, R333). -/
def heartbeatDue (s : State) : State :=
  match s.pair.link.lost with
  | some b => castRole s.pair.regs.role s.bead (takeOver (s.pair.regs.epoch + 1) false b s)
  | none =>
    if tokenWaits s then takeOver (s.pair.regs.epoch + 1) false s.bead s
    else when_ (countsCells s && !s.pair.link.cellNow) missHeartbeat s

/-- The epoch that a new lead takes (R319). -/
def firstEpoch (s : State) : Word :=
  let es := (s.clasps.filter fun c => decide (c.state = .up)).filterMap (·.epochSeen)
  match es with
  | [] => 1
  | e :: r => (r.foldl (fun a b => if laterThan b a then b else a) e) + 1

/-- The pair is undone: its key goes (R381, R386). -/
def dropPair (s : State) : State := s.modLink fun l => { l with pairKey := none, partnerId := zeros 32 }

/-- The member becomes JOINING and follows Table 11-6 from a step: it is to hold context 0 alone. -/
def beginJoin (step : Nat) (s : State) : State :=
  let s := if step = 1 then dropPair s else s
  joinFrom step ((forceAll (s.modTwin fun t => { t with role := .joining, state := .none })).modOver fun o => { o with raiseDue := 0 })

/-! ## A cell that arrives (R316, R321, R324, R333, R334, R341) -/

/-- The slot of the partner. -/
def partnerOf (slot : Nat) : Nat := if slot % 2 = 0 then slot + 1 else slot - 1

/-- CRC and VERSION of a cell. -/
def cellWhole (c : Bytes) : Bool := decide (c.length = 768 ∧ crc32 (c.take 764) = leAt c 0x2FC 4 ∧ leAt c 0 1 = 1)

/-- The items of a cell in plain (R392): the counter block has the sender's slot and bead. -/
def cellPlain (key : Option (BitVec 128)) (c : Bytes) : Bytes :=
  match key with
  | some k => ctrBlocks k (cellBlock (leAt c 2 1) (leAt c 8 8)) 4 (slice c 0x20 732)
  | none => slice c 0x20 732

/-- What a good cell shows of the partner. -/
def notePartner (c : Bytes) (s : State) : State :=
  let s := s.modLink fun l =>
    { l with heard := cellPlain l.pairKey c, missRun := 0, goodRun := l.goodRun + 1, cellNow := true, partnerRole := leAt c 1 1, partnerHealth := leAt c 3 1,
             partnerEpoch := BitVec.ofNat 32 (leAt c 4 4) }
  s.modTwin fun t =>
    { t with partnerSlot := leAt c 2 1 % 8, lane0 := true, lane1 := true,
             epoch := if (t.role = .pendant ∧ t.state ≠ .detached ∨ t.role = .joining) ∧ leAt c 1 1 = 1 then BitVec.ofNat 32 (leAt c 4 4)
               else t.epoch }

/-- The counters of the cell do not fit (R324): lockstep ends for every context and a rejoin starts. -/
def counterMismatch (s : State) : State :=
  beginJoin 3 (divergeAll (raise evTwinDivergence (divergeArg 0 0 0) s))

/-- Both members hold LEAD (R341): the later epoch stays, on equal epochs the lower slot. -/
def losesLead (s : State) (e : Word) : Bool :=
  laterThan e s.pair.regs.epoch || (e == s.pair.regs.epoch && decide (partnerOf s.startup.slot < s.startup.slot))

/-- What a lead does with its partner's cell. One that is ALONE after a promotion in which the former lead became PENDANT is in
LOCKSTEP with it from its next cell (R334, R335, log entry 37). -/
def leadCell (role health flags : Nat) (epoch : Word) (s : State) : State :=
  let s := s.modOver fun o => { o with beatSince := none }
  if role = 1 then
    if s.pair.link.setFault then
      if s.health.now = .failed then
        dropPair ((s.modTwin fun t => { t with role := .unpaired, state := .none }).modLink fun l => { l with setFault := false })
      else (s.modTwin fun t => { t with role := .pendant, state := .lockstep, epoch := epoch }).modLink fun l => { l with setFault := false }
    else if losesLead s epoch then beginJoin 1 (divergeAll s)
    else s
  else if s.pair.regs.state = .lockstep ∨ s.pair.regs.state = .copy then
    if flags.testBit 1 ∨ health = 3 then raise evPairAlone [] (goAlone s)
    else if role = 3 ∧ s.pair.regs.state = .lockstep then goAlone s
    else s
  else if s.pair.regs.state = .alone ∧ s.pair.link.pairKey.isSome ∧ s.pair.takeover.lossBead.isNone ∧ role = 2 then
    s.modTwin fun t => { t with state := .lockstep }
  else s

/-- What a follower does with its lead's cell. -/
def followerCell (role flags : Nat) (bead : Nat) (s : State) : State :=
  if s.pair.regs.state = .detached then beginJoin 1 s
  else if s.pair.regs.role = .pendant ∧ s.pair.regs.state = .lockstep then
    if flags.testBit 0 ∧ faultShared s bead = false ∨ flags.testBit 1 then s.modLink fun l => { l with lost := some bead }
    else if bead + 8 ≠ s.bead then counterMismatch s
    else s
  else if s.pair.regs.role = .pendant ∧ role = 1 then beginJoin 1 s
  else s


/-- A refusal to pair undoes what stands between the members. -/
def unpairs (t : TwinRegs) : Bool := decide (t.state = .lockstep ∨ t.state = .copy ∨ t.role = .joining)

/-- A partner outside the position (R316): the module refuses to pair and is UNPAIRED; an ALONE lead goes on
(DEDUCED, log entry 38). -/
def refusePair (slot : Nat) (s : State) : State :=
  raise evPairWiring [] ((if unpairs s.pair.regs then dropPair s else s).modTwin fun t =>
    let t := { t with partnerSlot := slot % 8, lane0 := true, lane1 := true }
    if unpairs t then { t with role := .unpaired, state := .none } else t)

/-- TWIN_CELL_RECEIVE, in the bead at whose boundary the cell is taken; its items are commands of their own. -/
def receiveCell (c : Bytes) (s : State) : State :=
  if s.paired = false ∨ cellWhole c = false then s
  else if leAt c 2 1 ≠ partnerOf s.startup.slot then
    if s.pair.regs.lane0 ∧ s.pair.regs.partnerSlot = leAt c 2 1 % 8 then s
    else refusePair (leAt c 2 1) s
  else
    let s := notePartner c s
    castRole s.pair.regs.role s.bead
      (match s.pair.regs.role with
      | .lead => leadCell (leAt c 1 1) (leAt c 3 1) (leAt c 0x14 2) (BitVec.ofNat 32 (leAt c 4 4)) s
      | .unpaired => s
      | _ => followerCell (leAt c 1 1) (leAt c 0x14 2) (leAt c 8 8) s)

/-! ## Items -/

/-- A relayed item that came too late, or not at all: its context is diverged (R323, R328). -/
def lostItem (c : CtxNo) (s : State) : State := if c < 16 then diverge c s else s

/-- A relayed input (R323, R325): the first copy counts; one whose latch bead has passed is lost. The pendant's request
INDEX advances with each relayed HOST_REQ (R393). -/
def twinInput (i : RelayedInput) (s : State) : State :=
  if s.follows = false ∨ s.pair.link.seenInputs.contains i then s
  else
    let s := s.modLink fun l => { l with seenInputs := (i :: l.seenInputs).take 64 }
    if i.latchBead ≤ s.bead then lostItem i.ctx s
    else if i.castType = 0x42 then
      queueWrite (leAt i.payload 0 8 / 2 ^ 32) (leAt i.payload 0 8 % 2 ^ 32) (i.payload.drop 8) i.latchBead s
    else
      let s := if i.castType = 0x40 then
          s.modSec (fun y => { y with session := y.session.map fun k => { k with rqIdx := k.rqIdx + 1 } }) i.ctx
        else s
      match castKind i.castType.toNat i.ctx i.payload with
      | some k => placeInput i.latchBead i.source i.suborder k s
      | none => s

/-- SIGNET_MISSING: the lead's Signet has not come within one rotation of the pendant's own. -/
def signetMissing (c : CtxNo) (s : State) : State :=
  if s.pair.regs.role = .pendant ∧ lockstepCtx s c then
    match s.pair.cmp.own.find? fun x => decide (x.1.ctx = c ∧ x.2 + s.rotLen ≤ s.bead) with
    | some x =>
      mismatch c x.1.kind.toNat x.1.port.toNat x.1.index (s.modCmp fun m => { m with own := m.own.erase x })
    | none => s
  else s

/-- The context rejoins by Table 11-6 from step 4. -/
def rejoin (c : CtxNo) (s : State) : State :=
  joinFrom 4 (diverge c s)

/-- FAULT_HUNT_DONE: 16 rotations after the mismatch (R330). `other` is what the other member found. The Facets in whose scratch
the local fault lies are retired (R34). -/
def huntDone (c : CtxNo) (other : Bool) (s : State) : State :=
  match s.pair.cmp.hunts.find? fun h => decide (h.ctx = c ∧ h.rotation + 16 ≤ s.rotCount) with
  | none => s
  | some h =>
    let s := s.modCmp fun m => { m with hunts := m.hunts.erase h }
    let s := if h.localFault then (faultFacets s c).foldl (fun t f => retire f.1 f.2 t) s else s
    let s :=
      if h.localFault || other then s
      else
        let s := s.modCmp fun m => { m with mismatches := noteBead s.bead m.mismatches }
        if 3 ≤ s.pair.cmp.mismatches.length then setHealth (fun x => { x with unexplained := true }) evTwinDivergence s else s
    if s.pair.regs.role = .lead then
      if h.localFault then s.modLink fun l => { l with setFault := true } else rejoin c s
    else if other then s
    else rejoin c s

/-- The partner's WITHHELD item: a mismatch, or an event that this member shares or not (R328, R330). -/
def twinWithheld (c : CtxNo) (code : Half) (s : State) : State :=
  if lockstepCtx s c = false then s
  else if code.toNat = evTwinDivergence then
    let hunt : Hunt := { ctx := c, rotation := s.rotCount,
                         localFault := faultBefore s c }
    let x := s.fresh
    let s := raiseAt evTwinDivergence (some c) 0xFFFF 0xFFFF false false ((List.range 12).map (Config.freeByte x.1)) x.2
    diverge c (s.modCmp fun x => { x with hunts := x.hunts ++ [hunt] })
  else partnerWithheld c code.toNat s

/-- The lead has delivered a record (R335 step 4, R393). -/
def twinCommit (c : CtxNo) (step : DWord) (head : Word) (s : State) : State :=
  if s.follows = false then s
  else
    let s := s.modLink fun l => { l with commits := (c, step, head) :: l.commits.filter fun x => x.1 ≠ c }
    let s := s.modSec (fun y => { y with session := y.session.map fun k => { k with srIdx := k.srIdx + 1 } }) c
    s.modRing (fun r =>
      let upto := match r.committed.find? fun x => decide (x.step = step.toNat) with | some x => x.bead | none => 0
      { r with srHead := head,
               committed := r.committed.map fun x => if x.bead ≤ upto ∧ x.lost = false then { x with delivered := true } else x }) c

/-- TWIN_ADMIT: an admission at a named boundary with the lead's grants; the second copy is ignored (R323, R326), and one whose
boundary has passed is lost. -/
def twinAdmit (b : Word) (g : GrantRecord) (s : State) : State :=
  if s.follows = false ∨ s.running g.ctx ∨ s.strands.pendings.any (fun p => decide (p.ctx = g.ctx)) then s
  else if !laterThan b s.period then lostItem g.ctx s
  else
    addPending { ctx := g.ctx, via := .twin, image := g.image, record := g.record, verified := false, boundary := some b,
                 replay := none, grants := some (g.segBases, g.partBases) } s

/-- TWIN_RELEASE and TWIN_FORCED_RELEASE. -/
def twinReleaseAt (b : Word) (c : CtxNo) (forced : Bool) (s : State) : State :=
  if s.follows = false ∨ s.running c = false ∨ c = 0 ∨ s.strands.twinReleases.contains (b, c, forced) then s
  else if !laterThan b s.period then lostItem c s
  else
    (s.modStr fun t => { t with twinReleases := t.twinReleases ++ [(b, c, forced)] }).modCtx
      (fun x => { x with phase := if x.phase = .admitted then .releasing else x.phase }) c

/-- The lead sends a KEYS item (R393). -/
def sendKeys (c : CtxNo) (s : State) : State := if relays s then sendAdmit s.period 4 c (keyRecord s c) s else s

/-- The record is the second copy of the one before: it comes in the next cell (R323). -/
def keysAgain (s : State) (c : CtxNo) (b : Bytes) : Bool :=
  match assoc c s.pair.link.keysSeen with
  | some x => decide (x.1 = b ∧ s.bead ≤ x.2 + 1)
  | none => false

/-- TWIN_KEYS: the pendant's Locket loads the record; the second copy is ignored. -/
def loadKeys (c : CtxNo) (b : Bytes) (s : State) : State :=
  if s.follows = false ∨ b.length ≠ 112 ∨ keysAgain s c b then s
  else
    let s := s.modLink fun l => { l with keysSeen := assocSet c (b, s.bead) l.keysSeen }
    let k := fun o => keyOf (slice b o 16)
    let sess : Option Session :=
      if b.take 64 = zeros 64 then none
      else some { hmEnc := k 0, mhEnc := k 16, hmMac := k 32, mhMac := k 48, mbHm := leAt b 80 8, mbMh := leAt b 88 8, rqIdx := leAt b 96 8,
                  srIdx := leAt b 104 8 }
    s.modSec (fun y => { y with session := sess, seaKey := if slice b 64 16 = zeros 16 then none else some (k 64) }) c

/-- TWIN_REPORT: the lead forwards the pendant's report to management. -/
def twinReport (r : Bytes) (s : State) : State :=
  if s.pair.regs.role = .lead then
    s.mgmt.conns.foldl (fun t c => t.emit (.notice c.id (slice r 0 128))) (s.modLink fun l => { l with lastReport := slice r 0 128 })
  else s

/-- TWIN_REPORT_SEND: once every 2^20 beads. -/
def reportSend (s : State) : State :=
  if s.pair.regs.role = .pendant ∧ s.pair.link.reportBead + 2 ^ 20 ≤ s.bead then
    sendItem 9 0 (healthReport s) (s.modLink fun l => { l with reportBead := s.bead })
  else s

/-! ## Promotion and epochs (R335, R338, R339, R319) -/

/-- PROMOTION_COMPLETE: the clock leaves the twin link, the host port resumes, PAIR_PROMOTED. The state becomes ALONE; with a
former lead that is PENDANT now, the contexts and the pair key stay (R334). An acting member waits for its confirmation. -/
def promotionDone (s : State) : State :=
  if s.pair.regs.role = .lead ∧ s.pair.takeover.lossBead.isSome then
    let s := s.modOver fun o => { o with lossBead := none }
    let s := if s.pair.regs.state = .acting then s
      else if s.pair.link.partnerRole = 2 then s.modTwin fun t => { t with state := .alone }
      else goAlone s
    raise evPairPromoted [] (referenceChange s)
  else s

/-- A promotion is complete 384 beads after the loss at the latest (R333, R335). -/
def promotionForced (s : State) : State :=
  match s.pair.takeover.lossBead with
  | some b => if b + 384 ≤ s.bead then promotionDone s else s
  | none => s

/-- BEAT and CONFIRM as they act (Table 11-9). -/
def beatLog (t : TwinRegs) : Nat := if 10 ≤ t.beat ∧ t.beat ≤ 14 then t.beat else 12
def confirmLog (t : TwinRegs) : Nat := if t.confirm ≤ beatLog t then beatLog t + 1 else t.confirm

/-- EPOCH_BEAT: an isolated lead's epoch rises by 1 every 2^BEAT periods. -/
def epochBeat (s : State) : State :=
  match s.pair.takeover.beatSince with
  | some r =>
    if s.pair.regs.role = .lead ∧ s.pair.regs.state = .alone ∧ r + 2 ^ beatLog s.pair.regs ≤ s.rotCount then
      (s.modTwin fun t => { t with epoch := t.epoch + 1 }).modOver fun o => { o with beatSince := some s.rotCount }
    else s
  | none => s

/-- The wait of R339 has passed since the rotation noted. -/
def confirmOver (s : State) : Bool :=
  match s.pair.takeover.confirmSince with
  | some (r, _) => decide (r + 2 ^ confirmLog s.pair.regs ≤ s.rotCount)
  | none => false

/-- EH is not later than the member's own epoch. -/
def ehBehind (s : State) : Bool :=
  match s.pair.regs.eh with
  | some e => !laterThan e s.pair.regs.epoch
  | none => true

/-- PROMOTION_CONFIRM. -/
def confirmPromotion (s : State) : State :=
  if s.pair.regs.role = .lead ∧ s.pair.regs.state = .acting ∧ confirmOver s ∧ ehBehind s then
    raise evPairPromoted [] ((s.modTwin fun t => { t with state := .alone }).modOver fun o => { o with confirmSince := none })
  else s

/-- DETACHED_RETAKE: EH has not risen within the wait. -/
def retake (s : State) : State :=
  if s.pair.regs.state = .detached ∧ confirmOver s then takeOver ((s.pair.regs.eh.getD s.pair.regs.epoch) + 1) true s.bead s else s

/-- The epoch of an unpaired module after the reports of its ports (R319). -/
def raisedEpoch (s : State) : Word :=
  (s.clasps.filterMap (·.epochSeen)).foldl (fun a e => if laterThan e a || unordered e a then e + 1 else a) s.pair.regs.epoch

/-- EPOCH_RAISE: at a rotation boundary an unpaired module's epoch passes those reported, and a lead that has lost its
partner raises its own by 2 (R319, R338). -/
def epochRaise (s : State) : State :=
  if atBoundary s = false then s
  else if s.paired = false ∨ (s.pair.regs.role = .unpaired ∧ s.pair.takeover.listening = false) then
    s.modTwin fun t => { t with epoch := raisedEpoch s }
  else if s.pair.takeover.raiseDue ≠ 0 ∧ s.pair.regs.role = .lead then
    (s.modTwin fun t => { t with epoch := t.epoch + BitVec.ofNat 32 s.pair.takeover.raiseDue }).modOver fun o =>
      { o with raiseDue := 0, beatSince := if s.pair.link.missRun = 0 then none else some (s.rotCount + 1) }
  else s

/-! ## Start, exchange and self-test (R319, R331, R432) -/

/-- A new lead with no partner. -/
def newLead (s : State) : State :=
  joinFrom 1 (s.modTwin fun t => { t with role := .lead, state := .alone, epoch := firstEpoch s })

/-- PAIR_LISTEN_END. -/
def listenEnd (h : PairHeard) (s : State) : State :=
  if s.paired = false ∨ s.startup.ready = false ∨ s.pair.takeover.listening = false then s
  else
    let s := s.modOver fun o => { o with listening := false }
    match h with
    | .leadCells => beginJoin 1 s
    | .startingPartner slot =>
      if slot ≠ partnerOf s.startup.slot then
        refusePair slot (s.modTwin fun t => { t with role := .unpaired, state := .none, epoch := firstEpoch s })
      else if s.startup.slot % 2 = 0 then newLead s
      else beginJoin 1 s
    | .nothing => newLead s

/-- Every record committed so far is signed and delivered by the member that is still lead (R432: none twice, none
lost). -/
def flushRecords (s : State) : State :=
  (List.range 16).foldl (fun t c =>
    (s.ring c).committed.foldl (fun t _ =>
      deliverRecord c (match (t.ring c).committed.find? fun x => x.signet.isNone with | some x => signRecord c x t | none => t)) t) s

/-- ROLE_EXCHANGE: at boundary P (R432). -/
def roleExchange (s : State) : State :=
  match s.pair.takeover.swapAt with
  | none => s
  | some p =>
    if atBoundary s = false ∨ p ≠ s.period + 1 then s
    else
      let s := s.modOver fun o => { o with swapAt := none }
      if s.pair.regs.state ≠ .lockstep then s
      else
        match s.pair.regs.role with
        | .lead =>
          let s := flushRecords s
          castRole .lead (s.bead + 1) (s.modTwin fun t => { t with role := .pendant, epoch := t.epoch + 1 })
        | .pendant =>
          let s := (s.modTwin fun t => { t with role := .lead, epoch := t.epoch + 1 })
          castRole .pendant (s.bead + 1) (referenceChange (((List.range 16).foldl (fun t c =>
            t.modRing (fun r => { r with committed := r.committed.map fun x => { x with delivered := true } }) c) s)))
        | _ => s

/-- The admitted contexts with a window on a unit. -/
def usersOf (s : State) (u : UnitNo) : List CtxNo :=
  s.admitted.filter fun c => match (s.ctx c).strand with | some t => t.dir.any fun d => d.unit == u | none => false

/-- The contexts that ran on a physical Facet, a spare now, in the last 1,024 rotations (R330). -/
def facetUsers (s : State) (die p : Nat) : List CtxNo :=
  match (s.spare die).swapped with
  | some w =>
    if w.2.2 = p ∧ s.rotCount ≤ w.1 + 1024 then
      (usersOf s (unitNo .facet (256 * die + w.2.1)) ++ usersOf s (unitNo .edge (256 * die + w.2.1))).eraseDups
    else []
  | none => []

/-- A self-test failure of a physical Facet of a die, a local fault of the contexts that ran on it (R34, R330, R331). -/
def facetFails (die p : Nat) (s : State) : State :=
  let s := (facetUsers s die p).foldl (fun t c => noteFault c (some (die, p)) t) s
  judgeHealth evSelftestFail (retire die p (raiseAt evSelftestFail none 0xFFFF 0xFFFF false true (leBytes 2 0xFFFF ++ zeros 4 ++ leBytes 2 p) s))

/-- The spares of a die that are not resting are tested with their edge lanes, in physical order. -/
def testSpares (die : Nat) (s : State) : State :=
  (s.spare die).usable.foldl (fun t p =>
    let id := die * 512 + p
    let t := t.modCmp fun m => { m with covered := assocSet id t.rotCount m.covered }
    if Config.selftestPass id t.pair.cmp.selftests then t else facetFails die p t) s

/-- The engines, channel slots and ports that the self-test runs on. -/
def testedUnits (g : Nat) : List UnitNo :=
  [UnitKind.garland, .cabochon, .scatter, .charm, .pavilion, .channel, .clasp, .fabric, .host].flatMap fun k =>
    (List.range (unitCount g k)).map (unitNo k)

/-- The present rotation has a bead on the unit that no context owns. -/
def hasFreeBead (s : State) (u : UnitNo) : Bool := (List.range s.rotLen).any fun b => !beadOwned s u b

/-- A self-test failure of another unit: it contributes REPLACE, and is a local fault of the contexts that use the unit. -/
def unitFails (u : UnitNo) (s : State) : State :=
  setHealth (fun h => { h with failedUnit := true }) evSelftestFail
    (raiseAt evSelftestFail none 0xFFFF 0xFFFF false true (leBytes 2 u ++ zeros 4 ++ leBytes 2 (unitIdx u)) ((usersOf s u).foldl (fun t c => noteLocalFault c t) s))

/-- A unit is tested in a bead of context 0. -/
def testUnit (u : UnitNo) (s : State) : State :=
  if hasFreeBead s u = false ∨ Config.selftestPass (0x10000 + u) s.pair.cmp.selftests then s else unitFails u s

/-- A round of a pendant's self-test, in context-0 beads (R331): one in each rotation (log entry 29). -/
def selfTests (s : State) : State :=
  if s.pair.regs.role = .pendant then
    let s := (List.range (settingDies s.grade)).foldl (fun t d => testSpares d t) s
    let s := (testedUnits s.grade).foldl (fun t u => testUnit u t) s
    s.modCmp fun m => { m with selftests := m.selftests + 1 }
  else s

/-- SELFTEST_SUBSTITUTION: every 2^16 rotations a pendant substitutes one Facet per Setting die, so that every physical Facet
comes to be a spare and is tested. -/
def selftestRound (s : State) : State :=
  if s.pair.regs.role = .pendant ∧ s.pair.cmp.selftestRot + 65536 ≤ s.rotCount then
    let s := (List.range (settingDies s.grade)).foldl (fun t d => startCopy d (t.pair.cmp.turn % 256) t) s
    s.modCmp fun m => { m with selftestRot := s.rotCount, turn := m.turn + 1 }
  else s

/-! ## The commands -/

def execTwinCellReceive (cell : Bytes) (s : State) : Host.Outcome State Fault Refusal := ok (receiveCell cell s)
def execTwinInput (item : RelayedInput) (s : State) : Host.Outcome State Fault Refusal := ok (twinInput item s)
def execTwinSignet (item : SignetItem) (s : State) : Host.Outcome State Fault Refusal := ok (theirSignet item s)
def execSignetMissing (ctx : CtxNo) (s : State) : Host.Outcome State Fault Refusal := ok (signetMissing ctx s)
def execFaultHuntDone (ctx : CtxNo) (leadFault : Bool) (s : State) : Host.Outcome State Fault Refusal := ok (huntDone ctx leadFault s)
def execTwinCommit (ctx : CtxNo) (step : DWord) (srHead : Word) (s : State) : Host.Outcome State Fault Refusal := ok (twinCommit ctx step srHead s)
def execTwinAdmit (boundary : Word) (grant : GrantRecord) (s : State) : Host.Outcome State Fault Refusal := ok (twinAdmit boundary grant s)
def execTwinRelease (boundary : Word) (ctx : CtxNo) (s : State) : Host.Outcome State Fault Refusal := ok (twinReleaseAt boundary ctx false s)
def execTwinForcedRelease (boundary : Word) (ctx : CtxNo) (s : State) : Host.Outcome State Fault Refusal := ok (twinReleaseAt boundary ctx true s)
def execTwinKeys (ctx : CtxNo) (keys : Bytes) (s : State) : Host.Outcome State Fault Refusal := ok (loadKeys ctx keys s)

/-- TWIN_ROLE_SWAP: the pendant takes note of P. -/
def execTwinRoleSwap (boundary : Word) (s : State) : Host.Outcome State Fault Refusal :=
  ok (when_ s.follows (fun t => t.modOver fun o => { o with swapAt := some boundary }) s)

def execRoleExchange (s : State) : Host.Outcome State Fault Refusal := ok (roleExchange s)

/-- TWIN_READY: the lead takes note of the period. -/
def execTwinReady (period : Word) (s : State) : Host.Outcome State Fault Refusal :=
  ok (when_ (decide (s.pair.regs.role = .lead)) (fun t => t.modLink fun l => { l with readyPeriod := some period }) s)

def execTwinWithheld (ctx : CtxNo) (period : Word) (code : Half) (s : State) : Host.Outcome State Fault Refusal :=
  ok (when_ (!laterThan period s.period && !unordered period s.period) (twinWithheld ctx code) s)

def execTwinReport (report : Bytes) (s : State) : Host.Outcome State Fault Refusal := ok (twinReport report s)
def execTwinReportSend (s : State) : Host.Outcome State Fault Refusal := ok (reportSend s)
def execMissedHeartbeat (s : State) : Host.Outcome State Fault Refusal := ok (heartbeatDue s)
def execPromotionComplete (s : State) : Host.Outcome State Fault Refusal := ok (promotionDone s)
def execEpochBeat (s : State) : Host.Outcome State Fault Refusal := ok (epochBeat s)
def execPromotionConfirm (s : State) : Host.Outcome State Fault Refusal := ok (confirmPromotion s)
def execDetachedRetake (s : State) : Host.Outcome State Fault Refusal := ok (retake s)
def execEpochRaise (s : State) : Host.Outcome State Fault Refusal := ok (epochRaise s)
def execPairListenEnd (heard : PairHeard) (s : State) : Host.Outcome State Fault Refusal := ok (listenEnd heard s)
def execSelftestSubstitution (s : State) : Host.Outcome State Fault Refusal := ok (selftestRound s)

end Sys2Proof.Machine
end

