-- ==== Sys2Proof/Machine/Locket.lean ====
section
/-! DEFINITION. The Locket's mailboxes: certificates, key exchange, reports, packages (R378 to R396, R406). -/

namespace Sys2Proof.Machine

/-! ## Error codes of MB_STATUS (R387) -/

abbrev mbFormat : Nat := 1
abbrev mbOwner : Nat := 2
abbrev mbSignature : Nat := 3
abbrev mbSet : Nat := 4
abbrev mbDigest : Nat := 5
abbrev mbNoSession : Nat := 6
abbrev mbNotAdmitted : Nat := 7

/-- The request in a mailbox. -/
def boxRequest (s : State) (c : CtxNo) : Bytes := let m := (s.ctx c).mailbox; slice m.data 0 m.len

/-- The command ends with a response. -/
def boxDone (c : CtxNo) (resp tag : Bytes) (s : State) : State :=
  s.modBox (fun m => { m with busy := false, done := true, err := false, code := 0, rlen := resp.length,
                              data := overlay m.data 0 resp, tag := slice tag 0 16 }) c

/-- The command ends with an error code. -/
def boxErr (c : CtxNo) (code : Nat) (s : State) : State :=
  s.modBox (fun m => { m with busy := false, done := false, err := true, code := BitVec.ofNat 8 code, rlen := 0 }) c

/-! ## Attestation report (R386, Table 13-3) -/

/-- The Hallmark floor that the fuses hold. -/
def fusedFloor (s : State) : Nat := s.locket.floors.foldl max 0

/-- Bytes 0x000 to 0x1BF of a report. -/
def reportBody (s : State) (c : CtxNo) (nonce point : Bytes) : Bytes :=
  let x := s.ctx c
  let conf := match x.record with | some r => r.confidential | none => false
  let flags := b2n s.locket.debugOn + 2 * b2n (pairKeyed s) + 4 * b2n s.cast.replay + 8 * b2n conf + 16 * b2n x.castOn
  [0x41, 0x54, 0x54, 0x52] ++ leBytes 2 1 ++ [BitVec.ofNat 8 c, BitVec.ofNat 8 flags, BitVec.ofNat 8 s.grade,
      BitVec.ofNat 8 s.pair.regs.role.code, BitVec.ofNat 8 s.startup.slot, 0]
    ++ leBytes 4 s.mgmt.hm.generation ++ leBytes 4 (fusedFloor s) ++ leBytes 4 s.locket.romVersion.toNat
    ++ leBytes 2 s.strands.ifaceMax ++ zeros 6 ++ slice nonce 0 32 ++ moduleId ++ slice s.pair.link.partnerId 0 32
    ++ slice s.locket.loader 0 32 ++ slice s.locket.firmware 0 32 ++ slice s.locket.debug 0 32 ++ slice x.sec.mStrand 0 32
    ++ slice x.sec.mWeights 0 32 ++ slice x.sec.mCharms 0 32 ++ slice x.sec.mConfig 0 32 ++ slice point 0 64 ++ zeros 32

/-- A signed report. -/
def attest (c : CtxNo) (nonce point : Bytes) (s : State) : Bytes × State :=
  let k := drawNumber s
  let b := reportBody s c nonce point
  (b ++ sm2Sign moduleId dikS k.1 b, k.2)

/-! ## The commands of Table 13-4 -/

def getCert (c : CtxNo) (s : State) : State :=
  if (s.ctx c).mailbox.len ≠ 4 then boxErr c mbFormat s
  else
    let chain := s.locket.certChain
    boxDone c (leBytes 4 chain.length ++ (chain.drop (leNat (boxRequest s c))).take 4028) (zeros 16) s

/-- A key exchange that the Locket refuses for want of random bits (R379): an error code that the manual does not name. -/
def boxRefused (c : CtxNo) (s : State) : State := let x := s.fresh; boxErr c (Config.freeNat x.1 % 255 + 1) x.2

/-- KX_BEGIN: a session that the context holds ends (R388 step 2). -/
def kxBegin (c : CtxNo) (s : State) : State :=
  if (s.ctx c).mailbox.len ≠ 160 then boxErr c mbFormat s
  else
    let q := boxRequest s c
    let pA := slice q 32 64
    let owner := match (s.ctx c).record with | some r => r.owner | none => zeros 32
    if sm3 pA ≠ owner then boxErr c mbOwner s
    else
      let n := drawNumber s
      if n.2.locket.rngFailed then boxRefused c n.2
      else
      match sm2Respond owner moduleId pA (slice q 96 64) dikE n.1 with
      | none => boxErr c mbOwner n.2
      | some a =>
        let s := endSession c n.2
        let s := s.modSec (fun x => { x with exchange := some { k := a.k, sA := a.sA } }) c
        let r := attest c (slice q 0 32) (sm2Pub n.1) s
        boxDone c (r.1 ++ a.sB) (zeros 16) r.2

/-- The session of a shared key. -/
def sessionOf (k : Bytes) : Session :=
  { hmEnc := keyOf (slice k 0 16), mhEnc := keyOf (slice k 16 16), hmMac := keyOf (slice k 32 16), mhMac := keyOf (slice k 48 16),
    mbHm := 0, mbMh := 0, rqIdx := 0, srIdx := 0 }

/-- KX_FINISH: the session is active, or r_B and K are destroyed. -/
def kxFinish (c : CtxNo) (s : State) : State :=
  if (s.ctx c).mailbox.len ≠ 32 then boxErr c mbFormat s
  else
    match (s.ctx c).sec.exchange with
    | none => boxErr c mbNoSession s
    | some e =>
      if boxRequest s c = e.sA then
        let s := s.modSec (fun x => { x with exchange := none, session := some (sessionOf e.k) }) c
        let s := s.modRing (fun r => { r with authStop := false }) c
        let s := raiseAt evSessionUp (some c) 0xFFFF 0xFFFF false false [] s
        sendKeys c (boxDone c [] (zeros 16) s)
      else
        let s := s.modSec (fun x => { x with exchange := none }) c
        boxErr c mbOwner (raise evKxFail [2] s)

/-- A command that is protected while a session is active: the request must be `n` bytes, and `f` gives the response. -/
def boxProtected (c : CtxNo) (n : Nat) (f : Bytes → State → Bytes × State) (s : State) : State :=
  let q := boxRequest s c
  if (s.ctx c).mailbox.len ≠ n then boxErr c mbFormat s
  else
    match (s.ctx c).sec.session with
    | none => let r := f q s; boxDone c r.1 (zeros 16) r.2
    | some k =>
      if sessTag k.hmMac 1 1 c k.mbHm q ≠ (s.ctx c).mailbox.tag then boxErr c mbOwner s
      else
        let r := f (sessCrypt k.hmEnc 1 1 c k.mbHm q) s
        let ct := sessCrypt k.mhEnc 2 1 c k.mbMh r.1
        let s := r.2.modSec (fun x => { x with session := x.session.map fun y => { y with mbHm := k.mbHm + 1, mbMh := k.mbMh + 1 } }) c
        sendKeys c (boxDone c ct (sessTag k.mhMac 2 1 c k.mbMh ct) s)

def mailReport (c : CtxNo) (s : State) : State := boxProtected c 32 (fun nonce s => attest c nonce (zeros 64) s) s

def mailEnd (c : CtxNo) (s : State) : State :=
  if (s.ctx c).sec.session.isNone then boxErr c mbNoSession s else boxProtected c 0 (fun _ s => ([], endSession c s)) s

/-! ## Packages (R394 to R396, Table 13-5) -/

/-- Members of a package's table. -/
def pkgMembers (q : Bytes) : List Bytes := cuts 160 (leAt q 7 1) (q.drop 256)

/-- Magic, version, kind, lengths and the request's own length. -/
def pkgFormat (q : Bytes) : Bool :=
  let kind := leAt q 6 1
  let n := leAt q 7 1
  let body := leAt q 8 8
  decide (leAt q 0 4 = 0x45474B50 ∧ leAt q 4 2 = 1 ∧ 1 ≤ kind ∧ kind ≤ 3 ∧ 1 ≤ n ∧ n ≤ 16 ∧ q.length = 264 + 160 * n
    ∧ body % 1024 = 0 ∧ (kind = 3 ↔ body = 0) ∧ leAt q (256 + 160 * n) 8 % 1024 = 0)

/-- The content key that this module's entry unwraps: Key1 and Key2. -/
def pkgKey (q entry : Bytes) : Option (BitVec 128 × BitVec 128) :=
  (sm2Decrypt dikE (slice entry 32 113) 16).map fun k =>
    let d := ((chunks 16 (slice q 0x30 32)).map (sm4Dec (keyOf k))).flatten
    (keyOf (slice d 0 16), keyOf (slice d 16 16))

/-- The check that fails, in the order of R395; 0 where all hold. -/
def pkgCheck (s : State) (c : CtxNo) (q : Bytes) : Nat :=
  let signer := match (s.ctx c).record with | some r => r.signer | none => zeros 32
  let key := (List.range 64).map (Config.keyOfDigest signer)
  let kind := leAt q 6 1
  let want := match (s.ctx c).record with
    | some r => if kind = 1 then r.weights else r.charms
    | none => zeros 32
  let ids := (pkgMembers q).map fun m => slice m 0 32
  if pkgFormat q = false then mbFormat
  else if sm3 key ≠ signer ∨ sm2Verify signer key (slice q 0 0xC0 ++ (pkgMembers q).flatten) (slice q 0xC0 64) = false then mbSignature
  else if kind ≠ 3 ∧ slice q 0x10 32 ≠ want then mbDigest
  else if ids.contains moduleId = false ∨ (pairKeyed s ∧ ids.contains s.pair.link.partnerId = false) then mbSet
  else 0

/-- A failed check answers with its code, raises PACKAGE_FAIL, and changes nothing. -/
def pkgFails (c : CtxNo) (code : Nat) (s : State) : State :=
  boxErr c code (raiseAt evPackageFail (some c) 0xFFFF 0xFFFF false false [BitVec.ofNat 8 code] s)

def mailPackage (c : CtxNo) (s : State) : State :=
  let q := boxRequest s c
  let bad := pkgCheck s c q
  if bad ≠ 0 then pkgFails c bad s
  else
    let entry := ((pkgMembers q).find? fun m => slice m 0 32 = moduleId).getD []
    match pkgKey q entry with
    | none => pkgFails c mbDigest s
    | some k =>
      let kind := leAt q 6 1
      let ids := (pkgMembers q).map fun m => slice m 0 32
      if kind = 3 then
        if sm3 (keyBytes k.1) ≠ slice q 0x10 32 then pkgFails c mbDigest s
        else
          sendKeys c (boxDone c [] (zeros 16) (s.modSec (fun x => { x with seaKey := some k.1, members := x.members ++ [ids] }) c))
      else
        boxDone c [] (zeros 16) (s.modSec (fun x =>
          { x with members := x.members ++ [ids],
                   load := some { kind := kind, target := leAt q (256 + 160 * leAt q 7 1) 8, bodyBytes := leAt q 8 8, next := 0,
                                  key1 := k.1, key2 := k.2, setDigest := slice q 0x10 32, plain := [] } }) c)

/-! ## A write to MB_CMD (R387) -/

/-- The error that keeps a command from being served; 0 where none does. -/
def boxGate (s : State) (c : CtxNo) (code : Nat) : Nat :=
  if 4032 < (s.ctx c).mailbox.len ∨ code = 0 ∨ 6 < code then mbFormat
  else if code = 1 then 0
  else if s.running c = false then mbNotAdmitted
  else if lacksSession s c ∧ (code = 4 ∨ code = 6) then mbNoSession
  else 0

/-- The work of a command code. -/
def boxWork (c : CtxNo) : Nat → State → State
  | 1 => getCert c
  | 2 => kxBegin c
  | 3 => kxFinish c
  | 4 => mailReport c
  | 5 => mailPackage c
  | _ => mailEnd c

/-- A write to MB_CMD: ignored while BUSY. With the random numbers failed, a key exchange is refused (R379). -/
def mailbox (c : CtxNo) (code : Nat) (s : State) : State :=
  if s.ports.linkUp = false ∨ s.startup.ready = false ∨ 16 ≤ c ∨ (s.ctx c).mailbox.busy then s
  else
    let bad := boxGate s c code
    if bad ≠ 0 then boxErr c bad s
    else if s.locket.rngFailed ∧ (code = 2 ∨ code = 3) then boxRefused c s
    else boxWork c code s

/-! ## The commands -/

def execGetCert (ctx : CtxNo) (s : State) : Host.Outcome State Fault Refusal := ok (mailbox ctx 1 s)
def execKxBegin (ctx : CtxNo) (s : State) : Host.Outcome State Fault Refusal := ok (mailbox ctx 2 s)
def execKxFinish (ctx : CtxNo) (s : State) : Host.Outcome State Fault Refusal := ok (mailbox ctx 3 s)
def execReport (ctx : CtxNo) (s : State) : Host.Outcome State Fault Refusal := ok (mailbox ctx 4 s)
def execPackage (ctx : CtxNo) (s : State) : Host.Outcome State Fault Refusal := ok (mailbox ctx 5 s)
def execEnd (ctx : CtxNo) (s : State) : Host.Outcome State Fault Refusal := ok (mailbox ctx 6 s)

end Sys2Proof.Machine
end

