-- ==== Sys2Proof/Machine/Hallmark.lean ====
section
/-! DEFINITION. Hallmark images: delivery, checks, install and confirmation (R424 to R431, Table 14-6). -/

namespace Sys2Proof.Machine

/-! ## The header in piece 0 -/

def hmHeader (ps : List (Nat × Bytes)) : Bytes := (assoc 0 ps).getD []
def hmGeneration (h : Bytes) : Nat := leAt h 8 4
def hmFloorMin (h : Bytes) : Nat := leAt h 0xC 4
def hmIfaceMin (h : Bytes) : Nat := leAt h 0x10 2
def hmIfaceMax (h : Bytes) : Nat := leAt h 0x12 2
def hmCount (h : Bytes) : Nat := leAt h 0x14 4
def hmBodyBytes (h : Bytes) : Nat := leAt h 0x18 4
def hmFormat (h : Bytes) : Nat := leAt h 6 2

/-- TABLE_PIECES. -/
def hmTablePieces (h : Bytes) : Nat := cdiv (hmCount h) 128

/-- The grade's bit of GRADES. -/
def gradeBit (g : Nat) : Nat := if g = 1 then 0 else if g = 2 then 1 else 2

def signerKey : Bytes := (List.range 64).map Config.firmwareSigner

/-- What piece 0 must pass (R424, R426, R427). -/
def hmHeaderOk (s : State) (h : Bytes) : Bool :=
  sm2Verify sm2Id signerKey (slice h 0 0x100) (slice h 0x100 64)
    && decide (leAt h 0 4 = 0x4B4D4C48 ∧ leAt h 4 2 = 1 ∧ fusedFloor s ≤ hmGeneration h ∧ 3 ≤ hmCount h ∧ hmCount h ≤ 65536)
    && (leAt h 0x1C 1).testBit (gradeBit s.grade)

/-! ## The piece table -/

/-- The table's bytes; none while a table piece is missing. -/
def hmTable (ps : List (Nat × Bytes)) : Option Bytes :=
  let h := hmHeader ps
  let t := (span 1 (1 + hmTablePieces h)).map fun i => assoc i ps
  if t.all Option.isSome then some (slice (t.map fun p => p.getD []).flatten 0 (32 * hmCount h)) else none

/-- The table is complete and TABLE_DIGEST verifies. -/
def hmTableOk (ps : List (Nat × Bytes)) : Bool :=
  match hmTable ps with
  | some t => sm3 t = slice (hmHeader ps) 0x20 32
  | none => false

/-- A body piece agrees with its table entry. No entry of piece 0 or of a table piece can be checked: each would have to
hold the digest of bytes that depend on it (log entry 32). -/
def hmPieceOk (ps : List (Nat × Bytes)) (i : Nat) (p : Bytes) : Bool :=
  decide (i ≤ hmTablePieces (hmHeader ps)) ||
    match hmTable ps with
    | some t => sm3 p = slice t (32 * i) 32
    | none => false

/-- The staged pieces after every check that can be made: a piece that fails is gone. -/
def hmSettle (m : Hallmark) : Hallmark :=
  let h := hmHeader m.staged
  if (hmTable m.staged).isNone then m
  else if hmTableOk m.staged = false then
    { m with staged := m.staged.filter fun p => p.1 = 0 ∨ hmTablePieces h < p.1, checked := [] }
  else
    let good := m.staged.filter fun p => hmPieceOk m.staged p.1 p.2
    { m with staged := good, checked := good.map (·.1) }

/-- The state that HM_STATUS reports (R428). -/
def hmState (m : Hallmark) : HmState :=
  if m.staged.isEmpty then .empty
  else if m.installing then .installing
  else if m.armed then .armed
  else if m.checked.length = hmCount (hmHeader m.staged) then .ready
  else .receiving

def HmState.code : HmState → Nat
  | .empty => 0 | .receiving => 1 | .ready => 2 | .armed => 3 | .installing => 4

/-- The first piece that is missing. -/
def hmMissing (m : Hallmark) : Nat :=
  ((List.range (hmCount (hmHeader m.staged))).find? fun i => (assoc i m.staged).isNone).getD (hmCount (hmHeader m.staged))

/-! ## Delivery (R427) -/

/-- Beads of a second. -/
def secondBeads : Nat := 25000000

/-- A piece counted; more than 100 in one second are BUSY. -/
def hmCountPiece (s : State) : State :=
  s.modHm fun m =>
    if m.rateWindow = s.bead / secondBeads then { m with hmPieces := m.hmPieces + 1 }
    else { m with rateWindow := s.bead / secondBeads, hmPieces := 1 }

/-- HM_PIECE is above its rate. -/
def hmBusy (s : State) : Bool := decide (s.mgmt.hm.rateWindow = s.bead / secondBeads ∧ 100 ≤ s.mgmt.hm.hmPieces)

/-- A piece is taken; none where it is refused. -/
def hmTake (i : Nat) (p : Bytes) (s : State) : Option State :=
  let m := s.mgmt.hm
  if p.length ≠ 4096 ∨ m.armed ∨ m.installing then none
  else if i = 0 then
    if hmHeaderOk s p = false then none
    else if sm3 (slice p 0 0x140) = sm3 (slice (hmHeader m.staged) 0 0x140) ∧ m.staged ≠ [] then some s
    else some (s.modHm fun m => { m with staged := [(0, p)], checked := [] })
  else if m.staged.isEmpty ∨ hmCount (hmHeader m.staged) ≤ i then none
  else some (s.modHm fun m => hmSettle { m with staged := assocSet i p m.staged })

/-! ## Arm (R428) -/

/-- Every admitted Strand's level lies in the image's range. -/
def hmLevels (s : State) : Bool :=
  let h := hmHeader s.mgmt.hm.staged
  s.admitted.all fun c => match (s.ctx c).strand with
    | some t => decide (hmIfaceMin h ≤ t.ifaceLevel ∧ t.ifaceLevel ≤ hmIfaceMax h)
    | none => true

/-! ## Install (R429, R430) -/

/-- The plain body of an image. -/
def hmBody (ps : List (Nat × Bytes)) : Bytes :=
  let h := hmHeader ps
  let k := ((chunks 16 (slice h 0x60 32)).map (sm4Dec Config.hallmarkKey)).flatten
  slice (((span (1 + hmTablePieces h) (hmCount h)).map fun i =>
    xts false (keyOf (slice k 0 16)) (keyOf (slice k 16 16)) i (slice ((assoc i ps).getD []) 0 4096)).flatten) 0 (hmBodyBytes h)

/-- Everything the loader checks again. -/
def hmInstallOk (s : State) : Bool :=
  let ps := s.mgmt.hm.staged
  let h := hmHeader ps
  hmHeaderOk s h && hmTableOk ps && (List.range (hmCount h)).all (fun i => match assoc i ps with | some p => hmPieceOk ps i p | none => false)
    && decide (sm3 (hmBody ps) = slice h 0x40 32)

/-- The settings areas after the first start of an image of a format: a format that no area holds goes into the one not
confirmed last. -/
def hmAreas (m : Hallmark) (f : Nat) : List (Nat × Nat) :=
  if m.areaFormat.any fun a => decide (a.2 = f) then m.areaFormat else assocSet (1 - m.confirmedArea % 2) f m.areaFormat

/-- The settings area of an image of a format. -/
def hmArea (m : Hallmark) (f : Nat) : Nat := (((hmAreas m f).find? fun a => decide (a.2 = f)).map (·.1)).getD m.confirmedArea

/-- The roots as the image that starts finds them (R430): those of the area that holds its format, else, converted, those of the
area confirmed last; the area in use until now keeps its own. -/
def hmSettings (f : Nat) (m : Mgmt) : Mgmt :=
  let kept := assocSet m.hm.areaUsed (m.operatorRoot, m.observerRoot) m.hm.areaRoots
  let source := if m.hm.areaFormat.any fun a => decide (a.2 = f) then hmArea m.hm f else m.hm.confirmedArea
  let roots := (assoc source kept).getD (m.operatorRoot, m.observerRoot)
  { m with operatorRoot := roots.1, observerRoot := roots.2,
           hm := { m.hm with areaFormat := hmAreas m.hm f, areaUsed := hmArea m.hm f, areaRoots := kept } }

/-- The staged image becomes the running one. -/
def hmInstall (s : State) : State :=
  let h := hmHeader s.mgmt.hm.staged
  ((s.modMgmt (hmSettings (hmFormat h))).modHm fun m =>
    { m with running := m.staged, generation := hmGeneration h, floorMin := hmFloorMin h, installing := false, armed := false,
             confirmed := false, readySince := none, failedStarts := 0, recovery := false }).modStr
    fun t => { t with ifaceMin := hmIfaceMin h, ifaceMax := hmIfaceMax h }

/-- At a start with an image armed, or with an install that did not finish. -/
def hmLoader (s : State) : State :=
  if s.mgmt.hm.installing then hmInstall s
  else if s.mgmt.hm.armed then
    if hmInstallOk s then hmInstall (s.modHm fun m => { m with installing := true })
    else raise evHmInstallFail [] (s.modHm fun m => { m with armed := false })
  else s

/-- The running image is confirmed: the floor rises, staging clears (R426, R430). -/
def hmConfirm (s : State) : State :=
  if s.mgmt.hm.confirmed then s
  else
    let h := hmHeader s.mgmt.hm.running
    let f := s.mgmt.hm.floorMin
    let area := ((s.mgmt.hm.areaFormat.find? fun a => decide (a.2 = hmFormat h)).map (·.1)).getD s.mgmt.hm.confirmedArea
    let full := decide (fusedFloor s < f ∧ 32 ≤ s.locket.floors.length)
    let s := if fusedFloor s < f ∧ s.locket.floors.length < 32 then s.modLocket fun l => { l with floors := l.floors ++ [f] } else s
    let s := s.modHm fun m => { m with confirmed := true, staged := [], checked := [], armed := false, confirmedArea := area }
    if full then raise evFloorFull [] s else s

/-- HM_AUTO_CONFIRM: 30 minutes ready with health never FAILED. -/
def hmAutoConfirm (s : State) : State :=
  match s.mgmt.hm.readySince with
  | some b => if b + 1800 * secondBeads ≤ s.bead then hmConfirm s else s
  | none => s

def execHmAutoConfirm (s : State) : Host.Outcome State Fault Refusal := ok (hmAutoConfirm s)

end Sys2Proof.Machine
end

