-- ==== Sys2Proof/Machine/Recording.lean ====
section
/-! DEFINITION. The Cast ring, its control, the freeze and replay (R300 to R306, R314). -/

namespace Sys2Proof.Machine

/-! ## The ring in LP4X (R300) -/

/-- Channel and usable line of a ring offset. -/
def castPlace (s : State) (off : Nat) : Nat × Nat :=
  let l := off / 1024
  (s.cast.chBase + l % 2 ^ s.cast.stripe, s.cast.ringBase / 1024 + l / 2 ^ s.cast.stripe)

/-- The ring as context-0 segments of at most 16 GiB, which form a segment group where there are several (R154, R300); they
are segments 0 on (DESIGN CHOICE, log entry 18). -/
def castSegs (c : Cast) : List (Nat × SegEntry) :=
  let n := cdiv c.sizeGib 16
  (List.range n).map fun k =>
    (k, { rd := true, wr := true, fab := false, space := 0, stripe := c.stripe, chBase := c.chBase,
          size := min 16 (c.sizeGib - 16 * k) * 2 ^ 20, base := c.ringBase + 2 ^ 34 * k / 2 ^ c.stripe, group := if n < 2 then 0 else n })

/-- A Cast slot of the channel starts in the present bead. -/
def castStart (s : State) (ch : Nat) : Bool :=
  match slotNow s with
  | some k => isCastSlot s ch k && !slotTaken s ch
  | none => false

/-- The ring offset of the line after the one at `at_`. -/
def ringNext (c : Cast) (at_ : Nat) : Nat := if at_ + 1024 < castRingBytes c then at_ + 1024 else 0

/-- The next line for the ring: ring offset and the bytes staged from it; lines of an earlier recording come first. -/
def nextLine (c : Cast) : Nat × Bytes :=
  match c.tails with
  | t :: _ => t
  | [] => (c.lineAt, c.staging)

/-- The next line has left staging. -/
def dropLine (c : Cast) : Cast :=
  match c.tails with
  | (at_, b) :: r => { c with tails := if b.length ≤ 1024 then r else (ringNext c at_, b.drop 1024) :: r }
  | [] => { c with staging := c.staging.drop 1024, lineAt := ringNext c c.lineAt }

/-- CAST_LINE_WRITE: the next whole line leaves staging (R301). -/
def castLine (s : State) : State :=
  let l := nextLine s.cast
  let p := castPlace s l.1
  if castAble s ∧ s.cast.replay = false ∧ 1024 ≤ l.2.length ∧ castStart s p.1 then
    (storeLine 0 p.1 p.2 (slice l.2 0 1024) (takeSlot p.1 s)).modCast dropLine
  else s

/-! ## Control (R301, R302, Table 10-10) -/

/-- A new recording starts; the lines of the last one that are still staged keep their places in the ring. -/
def castBegin (c : Cast) : Cast :=
  { c with en := true, head := 0, count := 0, lost := 0, wrapped := false, frozen := false, staging := [],
           tails := if c.staging = [] then c.tails else c.tails ++ [(c.lineAt, c.staging)], dropped := none, freezeAt := none, lineAt := 0 }

/-- The recording ends: the last partial line is padded. -/
def castEnd (c : Cast) : Cast := { c with en := false, staging := padTo 1024 c.staging, dropped := none, freezeAt := none }

/-- A write to CAST_CTL. -/
def castCtl (v : Word) (s : State) : State :=
  let s := s.modCast fun c =>
    { c with fabFull := bit v 30, freezeOnEvent := bit v 29, ctxMask := BitVec.ofNat 16 v.toNat }
  let s := if castAble s = false then s
    else if bit v 31 then (if s.cast.en then s else s.modCast castBegin)
    else if s.cast.en then s.modCast castEnd else s
  if bit v 28 then startFreeze s else s

/-- The freeze completes once POST_BEADS have passed. -/
def freezeDone (s : State) : State :=
  match s.cast.freezeAt with
  | some b => if b ≤ s.bead then raise evCastFrozen [] (s.modCast fun c => { c with frozen := true, freezeAt := none }) else s
  | none => s

/-! ## Replay (R303, R304) -/

/-- Bytes of a record with its padding. -/
def recordBytesOf (r : Bytes) : Nat := 32 + cdiv (leAt r 4 4) 32 * 32

/-- The record's CRC is good (Table 10-4). -/
def recordGood (r : Bytes) : Bool := decide (crc32 (r.take 28 ++ slice r 32 (leAt r 4 4)) = leAt r 28 4)

/-- The longest record: a FABRIC record of the longest packet. -/
def recordMax : Nat := 32 + 32 + 8192

/-- The whole records at the front of the bytes read, and the rest; 32 bytes that begin none are passed over. -/
def parseRecords : Nat → Bytes → List Bytes × Bytes
  | 0, b => ([], b)
  | f + 1, b =>
    let n := recordBytesOf b
    if b.length < 32 ∨ (n ≤ recordMax ∧ b.length < n) then ([], b)
    else if n ≤ recordMax ∧ recordGood b then
      let r := parseRecords f (b.drop n)
      (b.take n :: r.1, r.2)
    else parseRecords f (b.drop 32)

/-- The ring is read from an anchor on, once round, where the anchor has not been read (R303, R422). -/
def readFrom (anchor : Nat) (c : Cast) : Cast :=
  { c with readAt := anchor / 1024 * 1024, readLeft := castRingBytes c / 1024 + 1, readSkip := anchor % 1024, staging := [] }

/-- Records read and not read before. -/
def newRecords (c : Cast) (l : List Bytes) : List Bytes := l.filter fun r => !c.seen.contains (leAt r 0x14 4)

/-- REPLAY_RING_READ: the next ring line, through a Cast slot; an uncorrectable one raises MEM_UE to context 0, which holds the
ring (R164). -/
def ringRead (s : State) : State :=
  let p := castPlace s s.cast.readAt
  if castAble s ∧ s.cast.replay ∧ s.cast.replayStopped = false ∧ s.cast.readLeft ≠ 0 ∧ castStart s p.1 then
    let (bs, ue, s) := readLine 0 p.1 p.2 (takeSlot p.1 s)
    let s := if ue then channelUe p.1 p.2 s else s
    let b := s.cast.staging ++ bs.drop s.cast.readSkip
    let x := parseRecords (b.length / 32 + 1) b
    let new := newRecords s.cast x.1
    s.modCast fun c =>
      { c with staging := x.2, feed := c.feed ++ new.map (fun r => (leAt r 8 8, r)), seen := c.seen ++ new.map (fun r => leAt r 0x14 4),
               readAt := ringNext c c.readAt, readLeft := c.readLeft - 1, readSkip := 0 }
  else s

/-- Δ of a record's context, where it is replayed from an anchor that is not later than the record (R303). -/
def replayDelta (s : State) (r : Nat × Bytes) : Option Int :=
  ((assoc (leAt r.2 2 1) s.cast.deltas).filter fun d => decide (d.2 ≤ r.1)).map (·.1)

/-- Host starts of a channel in the present rotation, by bead: its host slots, or its free starts with H = 0 (R162). -/
def hostBeads (s : State) (ch : Nat) : List Nat :=
  (if hostSlots s = 0 then freeStarts s ch else (List.range (slotCount s.rotLen)).filter (isHostSlot s)).map fun k => 51 * k / 16

/-- The module one rotation on, as far as slots and ownership go. -/
def turned (s : State) : State :=
  { s with period := s.period + 1, rotLen := lrot s.rate (s.period + 1).toNat, bead := s.rotStart + s.rotLen, beadInRot := 0,
           ctxs := s.ctxs.map fun x => { x with rot := x.rot + 1 } }

/-- Bead `b`, in the present rotation or the next, is a host start of the channel; and the start that follows it. -/
def startAfter (s : State) (ch b : Nat) : Option Nat :=
  let v := if b < s.rotStart + s.rotLen then s else turned s
  if (hostBeads v ch).contains (b - v.rotStart) then
    match (hostBeads v ch).find? fun x => decide (b < v.rotStart + x) with
    | some x => some (v.rotStart + x)
    | none => (hostBeads (turned v) ch).head?.map fun x => v.rotStart + v.rotLen + x
  else none

/-- The bead in which a record is fed comes next: the one before it acts; a write of part of a line is fed for the start before
its own, in which the line is read (R163). -/
def feedNow (s : State) (r : Nat × Bytes) : Bool :=
  match replayDelta s r with
  | none => false
  | some d =>
    let at_ := ((r.1 : Int) + d).toNat
    let o := leAt r.2 32 8
    if leAt r.2 0 1 = 0x42 ∧ leAt r.2 4 4 < 8 + 1024 then
      match windowLine s (o / 2 ^ 32) (o % 2 ^ 32) true with
      | some (ch, _) => decide (startAfter s ch (s.bead + 1) = some at_)
      | none => false
    else decide (at_ = s.bead + 1)

/-- The bead of the record has passed. -/
def feedLate (s : State) (r : Nat × Bytes) : Bool :=
  match replayDelta s r with
  | none => false
  | some d => decide ((r.1 : Int) + d ≤ s.bead)

/-- The record is one that is fed: an input of a replayed context. -/
def feedable (s : State) (r : Nat × Bytes) : Bool :=
  let t := leAt r.2 0 1
  s.running (leAt r.2 2 1) && (replayDelta s r).isSome &&
    (decide (t = 0x10 ∨ t = 0x40 ∨ t = 0x41 ∨ t = 0x42 ∨ t = 0x43 ∨ t = 0x44) || (decide (t = 0x30) && leAt r.2 3 1 % 2 == 0))

/-- One record is fed, to act at the next boundary. -/
def feedRecord (r : Nat × Bytes) (s : State) : State :=
  let t := leAt r.2 0 1
  let src := leAt r.2 1 1
  let c := leAt r.2 2 1
  let p := slice r.2 32 (leAt r.2 4 4)
  let s := s.modCast fun x => { x with feed := x.feed.erase r }
  if t = 0x10 then s.modClasp (fun x => { x with frame := some (p, 0) }) src
  else if t = 0x30 then
    s.modFabric fun x => { x with held := x.held ++
      [(src - 5, { due := s.bead + 1, bytes := p ++ leBytes 4 (crc32 p), transit := 0 })] }
  else if t = 0x42 then
    let o := leAt p 0 8
    queueWrite (o / 2 ^ 32) (o % 2 ^ 32) (p.drop 8) (s.bead + 1) s
  else
    match castKind t c p with
    | some k => placeInput (s.bead + 1) src (leAt r.2 0x18 2) k s
    | none => s

/-- REPLAY_FEED: records due at the next boundary are fed; one whose bead has passed stops the replay (R304). -/
def replayFeed (s : State) : State :=
  if s.cast.replay = false ∨ s.cast.replayStopped then s
  else
    let todo := s.cast.feed.filter (feedable s)
    if todo.any (feedLate s) then raise evReplayLate [] (s.modCast fun c => { c with replayStopped := true })
    else (todo.filter (feedNow s)).foldl (fun t r => feedRecord r t) s

/-! ## The commands -/

def execCastLineWrite (s : State) : Host.Outcome State Fault Refusal := ok (castLine s)
def execCastEnWrite (value : Word) (s : State) : Host.Outcome State Fault Refusal := ok (castCtl value s)
def execCastFreeze (s : State) : Host.Outcome State Fault Refusal := ok (startFreeze s)
def execCastFreezeComplete (s : State) : Host.Outcome State Fault Refusal := ok (freezeDone s)
def execReplayRingRead (s : State) : Host.Outcome State Fault Refusal := ok (ringRead s)
def execReplayFeed (s : State) : Host.Outcome State Fault Refusal := ok (replayFeed s)

end Sys2Proof.Machine
end

