-- ==== Sys2Proof/Machine/Mgmt.lean ====
section
/-! DEFINITION. The management port (R405, R408 to R423, R427, R428, R430, R432). -/

namespace Sys2Proof.Machine

/-! ## Connections (R409, R410, R415) -/

/-- TLS_SM4_GCM_SM3 and sm2sig_sm3 (RFC 8998). -/
def tlsSuite : Half := 0x00C6
def tlsScheme : Half := 0x0708

/-- The role a client has: none where it is not accepted. `chain` says to which root its certificate chains: 1 operator,
2 observer. -/
def clientRole (s : State) (q : ConnectReq) : Option Conn :=
  let m := s.mgmt
  let c : Conn := { id := m.nextConn, operator := false, bootstrap := false, key := q.selfSignedKey, last := s.bead }
  if m.operatorRoot = [] then (if q.selfSignedKey = [] then none else some { c with bootstrap := true })
  else if q.chain = 1 then some { c with operator := true }
  else if q.chain = 2 ∧ m.observerRoot ≠ [] then some c
  else none

/-- The port that Addaso listens on (R408). -/
def mgmtPort : Half := 4433

/-- The addresses of the port. -/
def netAddresses (n : NetSettings) : List Bytes := [(leBytes 4 n.ipv4.toNat).reverse, n.linkLocal, n.ipv6]

/-- A TCP connection reaches Addaso. -/
def connects (s : State) (q : ConnectReq) : Bool := s.mgmt.up && q.port == mgmtPort && (netAddresses s.mgmt.net).contains q.dest

/-- MGMT_CONNECT: the notices that waited go to the connection that opens. -/
def connect (q : ConnectReq) (s : State) : State :=
  if connects s q = false ∨ 4 ≤ s.mgmt.conns.length ∨ q.tls13 = false ∨ q.suite ≠ tlsSuite ∨ q.scheme ≠ tlsScheme then s
  else
    match clientRole s q with
    | none => s
    | some c =>
      let old := s.mgmt.notices
      let s := s.modMgmt fun m => { m with conns := m.conns ++ [c], nextConn := m.nextConn + 1, notices := [] }
      old.foldl (fun t n => t.emit (.notice c.id n)) s

/-- MGMT_IDLE_CLOSE: after 300 s. -/
def idleClose (id : Nat) (s : State) : State :=
  s.modMgmt fun m => { m with conns := m.conns.filter fun c => !(decide (c.id = id ∧ c.last + 300 * secondBeads ≤ s.bead)) }

/-! ## Roles of commands (Table 14-1, R410, R431, R452) -/

/-- The read commands. -/
def readCommand (code : Nat) : Bool := decide (code = 0x01 ∨ code = 0x02 ∨ code = 0x03 ∨ code = 0x31)

/-- The connection may give the command. -/
def mayCommand (s : State) (c : Conn) (code : Nat) : Bool :=
  if c.bootstrap then decide (code = 0x60 ∧ s.mgmt.operatorRoot = []) && s.startup.ready
  else
    (readCommand code || c.operator)
      && (if s.mgmt.hm.recovery then decide (code = 0x01 ∨ code = 0x30 ∨ code = 0x31 ∨ code = 0x32 ∨ code = 0x41)
          else (s.startup.ready || readCommand code))

/-- The refusal of a command, under a STATUS that the manual does not number. -/
def refuse (id code : Nat) (s : State) : State := let x := s.fresh; respond id code (openStatus x.1) [] x.2

/-- A command of an open connection: carried out where its role allows it. -/
def command (id code : Nat) (f : State → State) (s : State) : State :=
  match s.mgmt.conns.find? fun c => decide (c.id = id) with
  | none => s
  | some c =>
    let s := s.modMgmt fun m => { m with conns := m.conns.map fun x => if x.id = id then { x with last := s.bead } else x }
    if mayCommand s c code then f s else refuse id code s

/-- Refused on a follower with NOT_LEAD (R412). -/
def leadOnly (id code : Nat) (f : State → State) (s : State) : State := if s.follows then respond id code 0x10 [] s else f s

/-! ## Read commands. The manual does not lay out their payloads (log entry 33) -/

def statusPayload (s : State) : Bytes :=
  [BitVec.ofNat 8 s.health.now.code, BitVec.ofNat 8 s.pair.regs.role.code, BitVec.ofNat 8 s.pair.regs.state.code,
    BitVec.ofNat 8 (hmState s.mgmt.hm).code] ++ leBytes 4 s.mgmt.hm.generation

/-- Entries of a log whose newest is first, from an index on, oldest first; `ring` entries are kept. -/
def logFrom (log : List Bytes) (ring index most : Nat) : List Bytes :=
  let n := log.length
  let first := max index (n - ring)
  ((log.take (n - first)).reverse).take most

def eventsPayload (s : State) (index : Nat) : Bytes := (logFrom (s.events.log.map EventRec.bytes) 1572864 index 2048).flatten
def reportsPayload (s : State) (index : Nat) : Bytes := (logFrom s.mgmt.healthLog 122880 index 512).flatten

def hmPayload (s : State) : Bytes :=
  let m := s.mgmt.hm
  leBytes 4 (hmGeneration (hmHeader m.staged)) ++ leBytes 4 m.staged.length ++ leBytes 4 (hmMissing m) ++ leBytes 4 (hmState m).code

/-! ## Admission through management (R422, R423) -/

/-- Every byte below `n` of the staging area has been written. -/
def staged (ps : List (Nat × Bytes)) (n : Nat) : Bool :=
  let ends := sortBy (fun a b => decide (a.1 ≤ b.1)) (ps.map fun p => (p.1, p.1 + p.2.length))
  decide (n ≤ ends.foldl (fun a p => if p.1 ≤ a then max a p.2 else a) 0)

/-- The first `n` bytes of the staging area; a later piece lies over an earlier one. -/
def stagedImage (ps : List (Nat × Bytes)) (n : Nat) : Bytes :=
  ps.foldl (fun b p => overlay b p.1 p.2) (zeros n)

/-- IMG_PIECE: the area is allocated with its first piece. -/
def imgPiece (id off : Nat) (data : Bytes) (s : State) : State :=
  let base := match s.mgmt.imageBase with
    | some b => some b
    | none => firstFit (2 ^ 32) 65536 channelBytes 0 (linesOn s 0)
  if 65536 < data.length ∨ 2 ^ 32 < off + data.length ∨ base = none then refuse id 0x12 s
  else respond id 0x12 0 [] (s.modMgmt fun m => { m with image := m.image ++ [(off, data)], imageBase := base })

/-- `n` bytes of the Cast ring as Addaso reads them. -/
def ringBytes (off n : Nat) (s : State) : Bytes × State :=
  (linePieces (n / 1024 + 2) off n).foldl (fun x p =>
    let q := castPlace x.2 p.1
    let r := readLine 0 q.1 q.2 x.2
    (x.1 ++ slice r.1 (p.1 % 1024) p.2, r.2.2)) ([], s)

/-- The ANCHOR record fits the admission (R422). -/
def anchorFits (s : State) (a image record : Bytes) : Bool :=
  let p := slice a 32 96
  recordGood a &&
    decide (leAt a 0 1 = 0x01 ∧ leAt a 2 1 = (readConfig record).ctx ∧ slice p 0 32 = (readStrand image).digest
      ∧ leAt p 77 1 = s.grade ∧ leAt p 76 1 = s.rate ∧ leAt p 78 1 = hostSlots s ∧ leAt p 79 1 = min s.cast.slots 4)

/-- The image of `n` bytes that an ADMIT finds staged; the area then waits for the next image (R423). -/
def imageOf (s : State) (arg : Bytes) : Option Bytes :=
  let n := leAt arg 0 4
  if n = 0 ∨ staged s.mgmt.image n = false then none else some (stagedImage s.mgmt.image n)

/-- An ADMIT passes the management synchroniser with the image staged then. -/
def pushAdmit (conn : Nat) (arg record : Bytes) (s : State) : State :=
  (pushInput 10 (.mgmtAdmit conn (slice arg 0 12) record (imageOf s arg)) s).modMgmt fun m => { m with image := [] }

/-- An ADMIT at its latch bead. -/
def mgmtAdmit (conn : Nat) (arg record : Bytes) (image : Option Bytes) (s : State) : State :=
  match image with
  | none => respond conn 0x10 (if s.follows then 0x10 else 0x15) [] (freeStage s)
  | some image =>
    if s.follows then respond conn 0x10 0x10 [] (freeStage s)
    else if s.cast.replay then
      let x := ringBytes (32 * leAt arg 4 4) 128 s
      if anchorFits x.2 x.1 image record then
        let t := if x.2.cast.seen.contains (leAt x.1 0x14 4) then x.2 else x.2.modCast (readFrom (32 * leAt arg 4 4))
        latchAdmit (.mgmt conn) image record (some (leAt x.1 (32 + 72) 4 % 4, leAt x.1 (32 + 64) 8)) t
      else respond conn 0x10 0x14 [] (freeStage x.2)
    else latchAdmit (.mgmt conn) image record none s

/-! ## Tokens (R416) -/

/-- The token of a kind is changed; the pair token's bit follows. -/
def setToken (kind : Nat) (f : Token → Token) (s : State) : State :=
  if kind = 1 then
    let s := s.modMgmt fun m => { m with pairToken := f m.pairToken }
    s.modTwin fun t => { t with token := s.mgmt.pairToken.held }
  else s.modMgmt fun m => { m with seaToken := f m.seaToken }

/-- SERIAL is later than the last accepted for its kind. -/
def serialFresh (t : Token) (serial : Word) : Bool :=
  match t.serial with
  | some x => laterThan serial x
  | none => true

/-- A TOKEN at its latch bead. -/
def mgmtToken (conn kind action : Nat) (serial : Word) (lease : Nat) (s : State) : State :=
  let t := if kind = 1 then s.mgmt.pairToken else s.mgmt.seaToken
  if (kind = 1 ∨ kind = 2) ∧ action = 1 ∧ 1 ≤ lease ∧ lease ≤ 3600 ∧ serialFresh t serial then
    respond conn 0x20 0 [] (setToken kind (fun _ => { held := true, serial := some serial, lease := s.bead + lease * secondBeads }) s)
  else if (kind = 1 ∨ kind = 2) ∧ action = 2 then respond conn 0x20 0 [] (setToken kind (fun t => { t with held := false }) s)
  else refuse conn 0x20 s

/-- TOKEN_LEASE_EXPIRY. -/
def leaseExpiry (kind : Nat) (s : State) : State :=
  let t := if kind = 1 then s.mgmt.pairToken else s.mgmt.seaToken
  if (kind = 1 ∨ kind = 2) ∧ t.held ∧ t.lease ≤ s.bead then setToken kind (fun t => { t with held := false }) s else s

/-! ## Debug tokens (R405, R417) -/

def debugKey : Bytes := (List.range 64).map Config.debugAuthority

def debugOk (s : State) (d : Bytes) : Bool :=
  decide (d.length = 128 ∧ leAt d 0 4 = 0x54474244 ∧ leAt d 4 4 = 1 ∧ slice d 8 32 = moduleId ∧ leAt d 0x28 4 ≤ s.mgmt.hm.generation
    ∧ s.mgmt.hm.generation ≤ leAt d 0x2C 4)
    && sm2Verify sm2Id debugKey (slice d 0 0x40) (slice d 0x40 64)

/-- DEBUG is set, once in a reset (R378), the event is raised, every context is released; Loupe is enabled once their scrubs are complete. -/
def acceptDebug (d : Bytes) (s : State) : State :=
  let s := s.modLocket fun l => { l with debug := if l.debugOn then l.debug else sm3 d, debugOn := true }
  loupeCheck (forceAll (raise evDebugEnabled [] s))

/-! ## Role swap (R432) -/

/-- A ROLE_SWAP at its latch bead. Whether the partner's image is confirmed, no register of this member says (log entry
34). -/
def mgmtSwap (conn : Nat) (p : Word) (s : State) : State :=
  if s.follows then respond conn 0x40 0x10 [] s
  else if s.pair.regs.role = .lead ∧ s.pair.regs.state = .lockstep ∧ s.mgmt.hm.confirmed ∧ s.pair.join.since.isNone
      ∧ 16 ≤ (p - s.period).toInt then
    respond conn 0x40 0 [] (sendAdmit p 5 0 [] (s.modOver fun o => { o with swapAt := some p }))
  else refuse conn 0x40 s

/-! ## Cast rings (R421, R422) -/

/-- 64 KiB of a frozen ring: offsets not written since EN was last written 1 read zero; records that still stand in
staging stand at their ring offsets (log entry 36). -/
def castExport (id off : Nat) (s : State) : State :=
  let size := castRingBytes s.cast
  if s.cast.frozen = false ∨ size ≤ off ∨ castAble s = false then refuse id 0x50 s
  else
    let n := min 65536 (size - off)
    let x := ringBytes off n s
    let c := s.cast
    let b := overlayAt (overlayAt x.1 off c.lineAt (c.staging.take (size - c.lineAt))) off 0 (c.staging.drop (size - c.lineAt))
    let good := if s.cast.wrapped then n else s.cast.head.toNat * 32 - off
    respond id 0x50 0 (slice (b.take good) 0 n) x.2

/-- A piece of a recorded ring, written for context 0. -/
def castImport (id off : Nat) (data : Bytes) (s : State) : State :=
  if s.cast.replay = false ∨ s.admitted ≠ [] then respond id 0x51 0x13 [] s
  else if 65536 < data.length ∨ castRingBytes s.cast < off + data.length ∨ castAble s = false then refuse id 0x51 s
  else
    respond id 0x51 0 [] ((linePieces (data.length / 1024 + 2) off data.length).foldl (fun t p =>
      let q := castPlace t p.1
      let r := readLine 0 q.1 q.2 t
      storeLine 0 q.1 q.2 (overlay r.1 (p.1 % 1024) (slice data (p.1 - off) p.2)) r.2.2) s)

/-! ## Roots (R410) -/

def rootSet (id : Nat) (op ob sig : Bytes) (s : State) : State :=
  match s.mgmt.conns.find? fun c => decide (c.id = id) with
  | none => s
  | some c =>
    if c.bootstrap then
      respond id 0x60 0 [] (s.modMgmt fun m =>
        { m with operatorRoot := c.key, observerRoot := ob,
                 conns := m.conns.map fun x => if x.id = id then { x with bootstrap := false, operator := true } else x })
    else if op ≠ [] ∧ sm2Verify sm2Id s.mgmt.operatorRoot (op ++ ob) sig then
      respond id 0x60 0 [] (s.modMgmt fun m => { m with operatorRoot := op, observerRoot := ob })
    else refuse id 0x60 s

/-! ## Timed notices and reports (R415, R419) -/

/-- REPLACE_REQUEST: again every 24 h while the state is REPLACE. -/
def replaceAgain (s : State) : State :=
  match s.mgmt.replaceAt with
  | some b =>
    if s.health.now = .replace ∧ b + dayBeads ≤ s.bead then
      raise evReplaceRequest [BitVec.ofNat 8 s.health.now.code] (s.modMgmt fun m => { m with replaceAt := some s.bead })
    else s
  | none => s

/-- HEALTH_LOG_WRITE: one every 600 s. -/
def healthWrite (s : State) : State :=
  if s.startup.ready ∧ s.mgmt.healthLogAt + 600 * secondBeads ≤ s.bead then
    s.modMgmt fun m => { m with healthLog := healthReport s :: m.healthLog, healthLogAt := s.bead }
  else s

/-! ## The commands -/

def execMgmtConnect (req : ConnectReq) (s : State) : Host.Outcome State Fault Refusal := ok (connect req s)
def execMgmtIdleClose (conn : Nat) (s : State) : Host.Outcome State Fault Refusal := ok (idleClose conn s)

def execStatus (conn : Nat) (s : State) : Host.Outcome State Fault Refusal :=
  ok (command conn 0x01 (fun s => respond conn 0x01 0 (statusPayload s) s) s)

def execEventsRead (conn : Nat) (index : Nat) (s : State) : Host.Outcome State Fault Refusal :=
  ok (command conn 0x02 (fun s => respond conn 0x02 0 (eventsPayload s index) s) s)

def execLogRead (conn : Nat) (index : Nat) (s : State) : Host.Outcome State Fault Refusal :=
  ok (command conn 0x03 (fun s => respond conn 0x03 0 (reportsPayload s index) s) s)

/-- HEALTH_CLEAR: the contributions of SLOT_GUARD and of unexplained divergence (Table 14-2). -/
def execHealthClear (conn : Nat) (s : State) : Host.Outcome State Fault Refusal :=
  ok (command conn 0x04 (fun s =>
    respond conn 0x04 0 [] (setHealth (fun h => { h with slotGuard := false, unexplained := false }) evHealthChange s)) s)

/-- ADMIT: latched as an input of source 10. -/
def execAdmit (conn : Nat) (arg : Bytes) (record : Bytes) (s : State) : Host.Outcome State Fault Refusal :=
  ok (command conn 0x10 (leadOnly conn 0x10 (pushAdmit conn arg record)) s)

def execRelease (conn : Nat) (ctx : CtxNo) (forced : Bool) (s : State) : Host.Outcome State Fault Refusal :=
  ok (command conn 0x11 (leadOnly conn 0x11 (pushInput 10 (.mgmtRelease conn ctx forced))) s)

def execImgPiece (conn : Nat) (offset : Nat) (data : Bytes) (s : State) : Host.Outcome State Fault Refusal :=
  ok (command conn 0x12 (imgPiece conn offset data) s)

/-- TOKEN: latched, on either member. -/
def execToken (conn : Nat) (kind : Nat) (action : Nat) (serial : Word) (lease : Nat) (s : State) : Host.Outcome State Fault Refusal :=
  ok (command conn 0x20 (pushInput 10 (.mgmtToken conn kind action serial lease)) s)

def execTokenLeaseExpiry (kind : Nat) (s : State) : Host.Outcome State Fault Refusal := ok (leaseExpiry kind s)

def execDebugToken (conn : Nat) (data : Bytes) (s : State) : Host.Outcome State Fault Refusal :=
  ok (command conn 0x21 (fun s => if debugOk s data then respond conn 0x21 0 [] (acceptDebug data s) else refuse conn 0x21 s) s)

def execHmPiece (conn : Nat) (index : Nat) (data : Bytes) (s : State) : Host.Outcome State Fault Refusal :=
  ok (command conn 0x30 (fun s =>
    if hmBusy s then respond conn 0x30 0x11 [] s
    else
      match hmTake index data (hmCountPiece s) with
      | some t => respond conn 0x30 0 [] t
      | none => refuse conn 0x30 s) s)

def execHmStatus (conn : Nat) (s : State) : Host.Outcome State Fault Refusal :=
  ok (command conn 0x31 (fun s => respond conn 0x31 0 (hmPayload s) s) s)

/-- HM_ARM: only in READY, at the floor or above it, and in a pair only with every admitted level supported. -/
def execHmArm (conn : Nat) (s : State) : Host.Outcome State Fault Refusal :=
  ok (command conn 0x32 (fun s =>
    if hmState s.mgmt.hm ≠ .ready ∨ hmGeneration (hmHeader s.mgmt.hm.staged) < fusedFloor s then refuse conn 0x32 s
    else if partnered s ∧ hmLevels s = false then respond conn 0x32 0x12 [] s
    else respond conn 0x32 0 [] (s.modHm fun m => { m with armed := true })) s)

def execHmDisarm (conn : Nat) (s : State) : Host.Outcome State Fault Refusal :=
  ok (command conn 0x33 (fun s => respond conn 0x33 0 [] (s.modHm fun m => { m with armed := false })) s)

def execHmConfirm (conn : Nat) (s : State) : Host.Outcome State Fault Refusal :=
  ok (command conn 0x34 (fun s => respond conn 0x34 0 [] (hmConfirm s)) s)

def execRoleSwap (conn : Nat) (boundary : Word) (s : State) : Host.Outcome State Fault Refusal :=
  ok (command conn 0x40 (leadOnly conn 0x40 (pushInput 10 (.mgmtSwap conn boundary))) s)

/-- RESET: the module resets after 1 s. -/
def execReset (conn : Nat) (s : State) : Host.Outcome State Fault Refusal :=
  ok (command conn 0x41 (fun s => respond conn 0x41 0 [] (s.modMgmt fun m => { m with resetDue := some (s.bead + secondBeads) })) s)

def execCastExport (conn : Nat) (offset : Nat) (s : State) : Host.Outcome State Fault Refusal := ok (command conn 0x50 (castExport conn offset) s)

def execCastImport (conn : Nat) (offset : Nat) (data : Bytes) (s : State) : Host.Outcome State Fault Refusal :=
  ok (command conn 0x51 (castImport conn offset data) s)

def execRootSet (conn : Nat) (operatorRoot : Bytes) (observerRoot : Bytes) (signature : Bytes) (s : State) : Host.Outcome State Fault Refusal :=
  ok (command conn 0x60 (rootSet conn operatorRoot observerRoot signature) s)

def execReplaceRequest (s : State) : Host.Outcome State Fault Refusal := ok (replaceAgain s)
def execHealthLogWrite (s : State) : Host.Outcome State Fault Refusal := ok (healthWrite s)

end Sys2Proof.Machine
end

