-- ==== Sys2Proof/Machine/Window.lean ====
section
/-! DEFINITION. Windows at a bead boundary: their start and end, the expansion of R91 to R93 cue by cue, and the checks of
each entry as it issues (R71, R77, R91 to R95, R98, R385, R473). -/

namespace Sys2Proof.Machine

/-! ## The expansion (R92) -/

/-- Frames that have run out are left: a loop begins its next trip, or the sequencer goes on after the frame. `fuel` is
the number of frames. -/
def unwind : Nat → Seq → Seq
  | 0, q => q
  | n + 1, q =>
    match q.frames with
    | [] => q
    | f :: r =>
      if q.pc ≤ f.last then q
      else if f.isLoop ∧ f.idx + 1 < f.trips then { q with frames := { f with idx := f.idx + 1 } :: r, pc := f.first }
      else unwind n { q with frames := r, pc := f.ret }

/-- The sequencer at its next cue. -/
def Seq.settle (q : Seq) : Seq := unwind q.frames.length q

/-- Loop indices, the outermost first. -/
def Seq.indices (q : Seq) : List Nat := ((q.frames.filter (·.isLoop)).map (·.idx)).reverse

/-- The cue lies in no loop or select that does not execute. -/
def Seq.on (q : Seq) : Bool := q.frames.all (·.live)

/-- The predicate of a cue, on the unit's own masks (R77). -/
def predHolds (q : Seq) (p : Pred) : Bool := p.pen = 0 || bit (q.mask p.preg.toNat) p.pbit.toNat != decide (p.ppol = 1)

/-- A LOOP or ARMS cue keeps within the nesting of R91 and R93. -/
def nestFits (q : Seq) : Cue → Bool
  | .loop _ _ => decide ((q.frames.filter (·.isLoop)).length < 4)
  | .arms _ _ _ _ _ => decide ((q.frames.filter fun f => !f.isLoop).length < 2)
  | _ => true

/-- The cue store entry at a position of a window, as it stands now (R68, R473). -/
def storeEntry (s : State) (c : CtxNo) (w pos : Nat) : Option (BitVec 128) :=
  match windowOf s c w with
  | some (t, d) => if pos < d.cues then some ((assoc (w * 2048 + pos) (s.ctx c).damage).getD ((windowCues t d).getD pos 0)) else none
  | none => none

/-- The entry passes the checks of R473. -/
def entryCue (k : UnitKind) (q : Seq) (w : BitVec 128) : Option CueWord :=
  match decodeCue w with
  | some x => if cueAllowed k x.cue && nestFits q x.cue then some x else none
  | none => none

/-- CUE_INVALID (R473, Table 16-14). The manual does not say how the windows lie in a unit's cue store, so the position is
a free value, and so is the class where no entry stands. -/
def cueInvalid (u : UnitNo) (c : CtxNo) (e : Option (BitVec 128)) (why : Nat) (s : State) : State :=
  let x := s.fresh
  let cls := match e with | some w => bits w.toNat 124 4 | none => Config.freeNat x.1 / 2048 % 16
  raiseCtx evCueInvalid c u (leBytes 2 (Config.freeNat x.1 % 2048) ++ [BitVec.ofNat 8 cls, BitVec.ofNat 8 why]) x.2

/-- The non-IDLE cue beads of a Facet are counted (R370). -/
def countUse (u : UnitNo) (cue : Cue) (s : State) : State :=
  let idle := match cue with | .idle => true | _ => false
  if unitKind u = some .facet ∧ idle = false then
    s.modThermal fun t => { t with useNow := assocSet (unitIdx u) ((assoc (unitIdx u) t.useNow).getD 0 + 1) t.useNow }
  else s

/-- The frame that a LOOP or ARMS cue enters without executing: every bead of it idles, and of a select the first arm
runs. -/
def deadFrame (q : Seq) (pos : Nat) : Cue → Seq
  | .loop b t => let f := loopFrame pos b t false; { q with frames := f :: q.frames, pc := f.first }
  | .arms a b _ _ _ => let f := armFrame pos a b true false; { q with frames := f :: q.frames, pc := f.first }
  | _ => q

/-- A unit in window `w` of context `c` begins its next cue (R98 step 3). -/
def beginCue (u : UnitNo) (c : CtxNo) (w : Nat) (s : State) : State :=
  let q := (s.seq u).settle
  let q := { q with left := q.left - 1 }
  match storeEntry s c w q.pc, unitKind u with
  | some e, some k =>
    let i : Issue := { ctx := c, win := w, pos := q.pc, cue := .idle, masks := q.masks.map (·.value), idx := q.indices }
    let next := { q with pc := q.pc + 1, issue := some i }
    match entryCue k q e with
    | some x =>
      if q.on && predHolds q x.pred then countUse u x.cue (s.setSeq u { next with issue := some { i with cue := x.cue } })
      else s.setSeq u (deadFrame next q.pc x.cue)
    | none => cueInvalid u c (some e) 0 (s.setSeq u next)
  | _, _ =>
    let s' := s.setSeq u { q with issue := none, cut := true }
    if q.cut then s' else cueInvalid u c none 1 s'

/-! ## The start and end of a window (R71, R385) -/

/-- The window begins in the present bead. -/
def startsNow (s : State) (c : CtxNo) (t : Strand) (d : DirEntry) : Bool :=
  let x := s.ctx c
  s.running c && decide (x.admitBead ≤ s.bead ∧ s.beadInRot = d.firstBead ∧ x.rot % max 1 t.periodRot = d.firstRot)

/-- What a unit holds of its own at the first bead of a window: cleared after another context's window; else a Facet's
accumulators are undefined. -/
def freshUnit (u : UnitNo) (c : CtxNo) (s : State) : State :=
  let other := decide ((s.seq u).lastCtx ≠ c)
  match unitKind u with
  | some .facet =>
    if other then { s with cells := s.cells.set (unitIdx u) clearCells }
    else
      let x := s.fresh
      { x.2 with cells := x.2.cells.set (unitIdx u) ((List.range 1024).map fun i => freeCell x.1 (unitIdx u * 1024 + i)) }
  | some .garland => if other then { s with rowStats := assocDel u s.rowStats } else s
  | _ => s

/-- A window begins. -/
def openWindow (c : CtxNo) (w : Nat) (d : DirEntry) (s : State) : State :=
  (freshUnit d.unit c s).setSeq d.unit
    { lastCtx := c, win := some (c, w), pc := 0, frames := [], left := d.beads, cut := false, masks := freshMasks, issue := none }

/-- A window has run its beads: cues of the expansion that are left are an overrun. -/
def closeWindow (u : UnitNo) (s : State) : State :=
  let q := (s.seq u).settle
  match q.win with
  | some (c, w) =>
    if q.left = 0 then
      let s' := s.setSeq u { q with win := none, frames := [], masks := freshMasks, issue := none }
      match storeEntry s c w q.pc with
      | some e => if q.cut then s' else cueInvalid u c (some e) 1 s'
      | none => s'
    else s
  | none => s

/-- Windows of a context that begin now. -/
def openWindows (c : CtxNo) (s : State) : State :=
  match (s.ctx c).strand with
  | some t => t.dir.zipIdx.foldl (fun r d => if startsNow s c t d.1 then openWindow c d.2 d.1 r else r) s
  | none => s

/-- A context other than 0 owns a unit in the present bead, one of the last three of its rotation (R359). -/
def noteTail (s : State) : State :=
  if s.rotLen ≤ s.beadInRot + 3 ∧ s.seqs.any (fun q => match q.2.win with | some (c, _) => decide (c ≠ 0) | none => false) then
    s.modClock fun c => { c with tailUsed := true }
  else s

/-- Step 3 of R98: windows close and open, and every unit begins its cue, a Strand's or context 0's idle load. -/
def beginCues (s : State) : State :=
  let s := s.seqs.foldl (fun t q => closeWindow q.1 t) s
  let s := noteTail ((span 1 16).foldl (fun t c => openWindows c t) s)
  beginLoads (s.seqs.foldl (fun t q => match (t.seq q.1).win with | some (c, w) => beginCue q.1 c w t | none => t) s)

/-- Bound mask registers take the AND with their live words (R95). -/
def andMasks (s : State) : State :=
  { s with seqs := s.seqs.map fun q =>
      (q.1, { q.2 with masks := q.2.masks.map fun m =>
        match m.bound with
        | some l => { m with value := m.value &&& (s.liveWord l.toNat).live }
        | none => m }) }

end Sys2Proof.Machine
end

