-- ==== Sys2Proof/Machine/Loupe.lean ====
section
/-! DEFINITION. What the Loupe outputs present (R454, R455, Table 15-7): one sample of the selected group in each bead
(log entry 52). -/

namespace Sys2Proof.Machine

/-! ## The groups of Table 15-7 -/

/-- What a group shows. -/
inductive LoupeSource where
  /-- a physical Facet: Setting die and place on it -/
  | facet (die p : Nat)
  | unit (u : UnitNo)
  | twin
  /-- package Chain slots 512 + 2k and 513 + 2k -/
  | slots (k : Nat)
  | filigree
  | none_
deriving DecidableEq, Repr

/-- First group, number of groups and kind of the units in Table 15-7. -/
def loupeUnits : List (Nat × Nat × UnitKind) :=
  [(0x440, 32, .garland), (0x460, 8, .cabochon), (0x468, 16, .mover), (0x478, 48, .channel), (0x4A8, 12, .scatter), (0x4B4, 6, .charm),
   (0x4BA, 3, .pavilion), (0x4C0, 4, .clasp), (0x4C4, 4, .fabric), (0x4C9, 1, .host)]

def loupeSource (g : Nat) : LoupeSource :=
  if g < 0x440 then .facet (g / 272) (g % 272)
  else if g = 0x4C8 then .twin
  else if 0x500 ≤ g ∧ g < 0x600 then .slots (g - 0x500)
  else if 0x600 ≤ g ∧ g < 0x640 then .filigree
  else
    match loupeUnits.find? fun r => decide (r.1 ≤ g ∧ g < r.1 + r.2.1) with
    | some r => .unit (unitNo r.2.2 (g - r.1))
    | none => .none_

/-! ## The signals of a unit group -/

/-- The unit that a physical Facet works as; none where it is a spare. -/
def facetUnit (s : State) (die p : Nat) : Option UnitNo :=
  let m := (s.spare die).map
  if m.contains p then some (unitNo .facet (256 * die + m.idxOf p)) else none

/-- CLASS in bits 3 to 0, OP in bits 7 to 4 and bit 8 of the cue that a unit begins: all zero for a plain IDLE cue (R77). -/
def cueSignals (s : State) (u : UnitNo) : Nat :=
  match (s.seq u).issue with
  | some i =>
    match i.cue with
    | .idle => 0
    | .idleLoad _ => 0x110
    | _ =>
      match storeEntry s i.ctx i.win i.pos with
      | some w => bits w.toNat 124 4 + 16 * bits w.toNat 120 4 + 256
      | none => 0
  | none => 0

/-- Signals 3 to 0, 7 to 4 and 8 of the selected group are taken as its unit begins its cue. -/
def loupeBegin (s : State) : State :=
  when_ s.ports.loupeEn (fun s =>
    s.modPorts fun p =>
      { p with loupeCue := match loupeSource p.loupeGroup with
                 | .unit u => cueSignals s u
                 | .facet d f => match facetUnit s d f with | some u => cueSignals s u | none => 0
                 | _ => 0 }) s

/-- A transfer of the unit is on a Chain slot. -/
def drivesNow (s : State) (u : UnitNo) : Bool := s.drives.any fun d => decide (d.unit = u ∧ d.since ≤ s.bead ∧ s.bead ≤ d.until_)

/-- A write of the unit into scratch or a store ends with the present bead. -/
def writesNow (s : State) (u : UnitNo) : Bool :=
  s.effects.any fun e => decide (e.unit = u ∧ e.due = s.bead + 1) && match e.kind with | .bytes _ => true | _ => false

/-- An uncorrectable error that the unit met shows at the boundary that follows. -/
def errsNow (s : State) (u : UnitNo) : Bool :=
  s.effects.any fun e => decide (e.unit = u ∧ e.due = s.bead + 1) && match e.kind with | .memUe .. => true | _ => false

/-- A slot guard fires for the unit. -/
def guardsNow (s : State) (u : UnitNo) : Bool :=
  (clashes s).any fun p => decide (p.1.unit = u ∨ p.2.unit = u)

/-- Signals of a unit that its state shows at the end of a bead's cues; a correction is free (log entry 52). -/
def unitSignals (s : State) (u : UnitNo) (corrected : Bool) : Nat :=
  s.ports.loupeCue + 0x200 + 0x400 * b2n (drivesNow s u) + 0x800 * b2n (writesNow s u) + 0x1000 * b2n corrected
    + 0x2000 * b2n (errsNow s u) + 0x4000 * b2n (guardsNow s u) + 0x8000

/-- A bead boundary, and the clock running. -/
def idleSignals : Nat := 0x8200

/-- Low bits of the index of the unit that drives a package Chain slot; 0 where none does. -/
def slotDriver (s : State) (slot : Nat) : Nat :=
  match s.drives.find? fun d => decide (d.die = 255 ∧ d.slot = slot ∧ d.since ≤ s.bead ∧ s.bead ≤ d.until_) with
  | some d => unitIdx d.unit % 256
  | none => 0

/-- The domain of a group is gated: a resting Facet's, and every Facet's after a trip (R371, R454). -/
def loupeGated (s : State) : LoupeSource → Bool
  | .facet d p => s.thermal.gated || (s.spare d).resting.contains p
  | .unit u => s.thermal.gated && decide (unitKind u = some .garland ∨ unitKind u = some .cabochon)
  | _ => false

/-- The 16 signals of a group. -/
def groupSignals (s : State) (tok : Nat) : LoupeSource → Nat
  | .facet d p =>
    if settingDies s.grade ≤ d then 0
    else
      match facetUnit s d p with
      | some u => unitSignals s u (bit (BitVec.ofNat 32 (Config.freeNat tok)) 0)
      | none => idleSignals
  | .unit u => if unitExists s.grade u then unitSignals s u (bit (BitVec.ofNat 32 (Config.freeNat tok)) 0) else 0
  | .twin => idleSignals
  | .slots k => slotDriver s (512 + 2 * k) + 256 * slotDriver s (513 + 2 * k)
  | .filigree => Config.freeNat tok
  | .none_ => 0

/-- The outputs present a sample, once the cues of the bead have been carried out: it moves no cue and changes no bit (R454). -/
def loupeShow (s : State) : State :=
  if s.ports.loupeEn ∧ s.locket.loupeReady ∧ loupeGated s (loupeSource s.ports.loupeGroup) = false then
    let x := s.fresh
    x.2.emit (.loupeSignals s.ports.loupeGroup (BitVec.ofNat 16 (groupSignals s x.1 (loupeSource s.ports.loupeGroup))))
  else s

end Sys2Proof.Machine
end

