-- ==== Sys2Proof/Machine/Join.lean ====
section
/-! DEFINITION. The join of a twin partner and the sea: granules, copies, convergence, formation and a split sea
(R119, R342 to R346, R392, R399, R466). -/

namespace Sys2Proof.Machine

/-! ## Granules (R345). The manual names them; their addresses are the model's (log entry 31) -/

/-- Bytes of an LP4X granule and of a granule of scratch, a window or a frame buffer. -/
def lineGranule : Nat := 65536
def storeGranule : Nat := 4096

/-- Address of an LP4X granule's byte: context, segment, offset. -/
def segGranule (c seg off : Nat) : Nat := c * 2 ^ 40 + seg * 2 ^ 34 + off

/-- Granule addresses that cover `n` bytes from `a`. -/
def coverGranules (size a n : Nat) : List Nat := (List.range (cdiv (a % size + n) size)).map fun i => (a / size + i) * size

/-- Every granule of a context. -/
def ctxGranules (s : State) (c : CtxNo) : List Nat :=
  let x := s.ctx c
  let segs := x.segs.flatMap fun e =>
    if e.2.fab then []
    else if e.2.space = 0 then (List.range (cdiv (e.2.size * 1024) lineGranule)).map fun i => segGranule c e.1 (i * lineGranule)
    else if e.2.space = 2 then coverGranules storeGranule (storeKey 2 e.2.base) (e.2.size * 1024)
    else []
  let parts := x.parts.flatMap fun p => coverGranules storeGranule (storeKey 1 (p.1 * 2 ^ 18 + p.2)) (partSize s c)
  let ports := match x.record with
    | some r => (List.range 4).flatMap fun p => if ownsPort r p then coverGranules storeGranule (storeKey 4 (p * 2 ^ 20)) 262144 else []
    | none => []
  segs ++ parts ++ ports ++ [ctxGranule c]

/-- The LP4X line at an offset of a context's segment, whatever its access bits. -/
def ownLine (s : State) (c : CtxNo) (seg off : Nat) : Option (Nat × Nat) :=
  match assoc seg (s.ctx c).segs with
  | some e =>
    if e.space = 0 ∧ off < e.size * 1024 then
      some (e.chBase + off / 1024 % 2 ^ e.stripe, e.base / 1024 + off / 1024 / 2 ^ e.stripe)
    else none
  | none => none

/-- The granule of a context's line. -/
def granuleOfLine (s : State) (c : CtxNo) (ch u : Nat) : List Nat :=
  (s.ctx c).segs.filterMap fun e =>
    let g := e.2
    if g.space = 0 ∧ g.chBase ≤ ch ∧ ch < g.chBase + 2 ^ g.stripe ∧ g.base / 1024 ≤ u ∧ (u - g.base / 1024) * 2 ^ g.stripe < g.size then
      let line := (u - g.base / 1024) * 2 ^ g.stripe + (ch - g.chBase)
      some (segGranule c e.1 (line * 1024 / lineGranule * lineGranule))
    else none

/-- The granules that an effect in flight writes. -/
def effectGranules (s : State) (e : Effect) : List Nat :=
  match e.kind with
  | .bytes ws => ws.flatMap fun w => coverGranules storeGranule w.1 w.2.length
  | .line ch u _ _ => granuleOfLine s e.ctx ch u
  | .hostWrite _ _ _ ls _ => ls.flatMap fun l => granuleOfLine s e.ctx l.1 l.2.1
  | .liveSet .. => [ctxGranule e.ctx]
  | .liveClr .. => [ctxGranule e.ctx]
  | _ => []

/-! ## The granule of live words, rows, ring positions, chains and anchor -/

/-- One live word with its rows. -/
def liveBytes (s : State) (c : CtxNo) (w : Nat) : Bytes :=
  let l := s.liveWord w
  leBytes 4 l.live.toNat ++ leBytes 4 l.cxl.toNat ++ leBytes 4 l.rep.toNat
    ++ ((List.range 32).map fun b =>
        match assoc (w * 32 + b) s.rows with
        | some r => leBytes 8 (if r.owner = c then r.seqId.toNat else 0)
        | none => zeros 8).flatten

/-- A context's own granule. -/
def ctxBytes (s : State) (c : CtxNo) : Bytes :=
  let x := s.ctx c
  let r := s.ring c
  let ws := match x.strand with | some t => liveWords t | none => []
  leBytes 4 r.rqHead.toNat ++ leBytes 4 r.rqTail.toNat ++ leBytes 4 r.srHead.toNat ++ leBytes 4 r.srTail.toNat ++ slice r.chain 0 32
    ++ ((List.range 4).map fun p => slice (s.clasp p).chain 0 32).flatten
    ++ leBytes 8 x.admitBead ++ leBytes 4 x.admitPeriod.toNat ++ leBytes 8 (wrap 64 ((x.rot : Int) - s.period.toNat))
    ++ (ws.map (liveBytes s c)).flatten

/-- A live word's bytes, taken. -/
def takeLive (c : CtxNo) (w : Nat) (b : Bytes) (s : State) : State :=
  let f := fun o => BitVec.ofNat 32 (leAt b o 4)
  let s := s.setLive w ⟨f 0, f 4, f 8⟩
  (List.range 32).foldl (fun t i =>
    let q : DWord := BitVec.ofNat 64 (leAt b (12 + 8 * i) 8)
    if q = 0 then { t with rows := assocDel (w * 32 + i) t.rows } else { t with rows := assocSet (w * 32 + i) ⟨q, c⟩ t.rows }) s

/-- A context's own granule, taken. -/
def takeCtx (c : CtxNo) (b : Bytes) (s : State) : State :=
  let x := s.ctx c
  let ws := match x.strand with | some t => liveWords t | none => []
  let f := fun o => BitVec.ofNat 32 (leAt b o 4)
  let s := s.modRing (fun r => { r with rqHead := f 0, rqTail := f 4, srHead := f 8, srTail := f 12, chain := slice b 16 32 }) c
  let s := (List.range 4).foldl (fun t p =>
    match x.record with
    | some r => if ownsPort r p then t.modClasp (fun k => { k with chain := slice b (48 + 32 * p) 32 }) p else t
    | none => t) s
  let s := s.modCtx (fun y =>
    { y with admitBead := leAt b 176 8, admitPeriod := f 184, rot := (signed 64 (leAt b 188 8) + (s.period.toNat : Int)).toNat }) c
  ws.zipIdx.foldl (fun t w => takeLive c w.1 (slice b (196 + 268 * w.2) 268) t) s

/-! ## Reading and writing granules -/

/-- Bytes of a piece: a line, or what one move carries (R84). -/
def pieceBytes : Nat := 1024

/-- The line at an address of an LP4X granule. -/
def granuleLine (s : State) (a : Nat) : Option (Nat × Nat) := ownLine s (a / 2 ^ 40) (a / 2 ^ 34 % 64) (a % 2 ^ 34)

/-- Pieces of a granule. -/
def granulePieces (s : State) (g : Nat) : Nat :=
  if 2 ^ 48 ≤ g then storeGranule / pieceBytes
  else ((List.range (lineGranule / pieceBytes)).filter fun i => (granuleLine s (g + pieceBytes * i)).isSome).length

/-- Movers whose present bead no context owns and that the copy has not used in it (R345). -/
def moverFree (s : State) : Bool :=
  let used := if s.pair.join.moved.1 = s.bead then s.pair.join.moved.2 else 0
  decide (used < ((List.range (unitCount s.grade .mover)).filter fun i => decide (s.owner (unitNo .mover i) = 0)).length)

def takeMover (s : State) : State :=
  s.modJoin fun j => { j with moved := (s.bead, if j.moved.1 = s.bead then j.moved.2 + 1 else 1) }

/-- A slot start of context 0 on a channel: one that no context owns and no scrub wants, or a host slot that the host has not
claimed (R345, R401). -/
def copyStart (s : State) (ch : Nat) : Bool := (freeStart s ch && !scrubWants s ch) || patrolStart s ch

/-- The lead reads a piece at its address, where context 0 has a resource for it in the present bead. -/
def readPiece (a : Nat) (s : State) : Option (Bytes × State) :=
  if 2 ^ 48 ≤ a then (if moverFree s then some (memRead s.store a pieceBytes, takeMover s) else none)
  else
    match granuleLine s a with
    | some (ch, u) =>
      if copyStart s ch then let r := readLine (a / 2 ^ 40) ch u (takeSlot ch s); some (r.1, r.2.2) else none
    | none => none

/-- The context of a granule; store granules name it in their items only. -/
def granuleOwner (s : State) (g : Nat) : CtxNo :=
  if 2 ^ 52 ≤ g then g - 2 ^ 52
  else if 2 ^ 48 ≤ g then (s.admitted.find? fun c => (ctxGranules s c).contains g).getD 0
  else g / 2 ^ 40

/-- Received bytes at an address of granules are written, at the member's own key. -/
def putGranule (c : CtxNo) (a : Nat) (data : Bytes) (s : State) : State :=
  if 2 ^ 52 ≤ a then
    let k := a % 2 ^ 52
    let off := k / 16
    takeCtx c (overlay (ctxBytes s c) off data) s
  else if 2 ^ 48 ≤ a then storePut a data s
  else
    let o := a % 2 ^ 34
    (linePieces (data.length / 1024 + 2) o data.length).foldl (fun t p =>
      match ownLine t c (a / 2 ^ 34 % 64) p.1 with
      | some (ch, u) =>
        let r := readLine c ch u t
        storeLine c ch u (overlay r.1 (p.1 % 1024) (slice data (p.1 - o) p.2)) r.2.2
      | none => t) s

/-- The SYNC items of data at an address of context `c`: address and up to 716 bytes each. A context's own granule has the
address of its byte `o` as 2^52 + 16 × o + context. -/
def sendSync (c : CtxNo) (a : Nat) (data : Bytes) (s : State) : State :=
  let step := if 2 ^ 52 ≤ a then 16 else 1
  (chunks 716 data).zipIdx.foldl (fun t p => sendItem 8 c (leBytes 8 (a + step * 716 * p.2) ++ p.1) t) s

/-- The channels of the lines that received data touch. -/
def syncChannels (s : State) (c : CtxNo) (a n : Nat) : List Nat :=
  ((linePieces (n / 1024 + 2) (a % 2 ^ 34) n).filterMap fun p => (ownLine s c (a / 2 ^ 34 % 64) p.1).map (·.1)).eraseDups

/-- Received data are written in context-0 resources of the present bead; none where it lacks one (R345). A context's own granule
takes none. -/
def placeSync (c : CtxNo) (a : Nat) (data : Bytes) (s : State) : Option State :=
  if s.running c = false then some s
  else if 2 ^ 52 ≤ a then some (putGranule c a data s)
  else if 2 ^ 48 ≤ a then (if moverFree s then some (putGranule c a data (takeMover s)) else none)
  else
    let chs := syncChannels s c a data.length
    if chs.all (copyStart s) then some (putGranule c a data (chs.foldl (fun t ch => takeSlot ch t) s)) else none

/-- Data that wait are written in the order of their arrival, as far as the bead's resources reach. -/
def placeWaiting : List (CtxNo × Nat × Bytes) → State → State
  | [], s => s.modJoin fun j => { j with waiting := [] }
  | x :: r, s =>
    match placeSync x.1 x.2.1 x.2.2 s with
    | some t => placeWaiting r t
    | none => s.modJoin fun j => { j with waiting := x :: r }

/-- The SYNC data that wait are placed. -/
def drainSync (s : State) : State := when_ (!s.pair.join.waiting.isEmpty) (placeWaiting s.pair.join.waiting) s

/-! ## The join (R343, R344, R346, R392, R399) -/

/-- What the exchange of DIK-E keys gives (R392): the pair key and the partner's confirmation; the member in the even slot is
initiator. -/
def pairAgree (slot : Nat) (r : Nat) (q : PairCert) (x : PairShare) : Option (BitVec 128 × Bytes) :=
  let pid := sm3 q.signKey
  (sm2Secret dikE r q.kxKey x.point).map fun u =>
    if slot % 2 = 0 then
      let a := sm2Agree moduleId pid (sm2Pub dikE) q.kxKey (sm2Pub r) x.point 16 u
      (keyOf a.k, a.sB)
    else
      let a := sm2Agree pid moduleId q.kxKey (sm2Pub dikE) x.point (sm2Pub r) 16 u
      (keyOf a.k, a.sA)

/-- The pair key, where the exchange and the check of the partner's certificates hold. -/
def pairKeyOf (s : State) (r : Nat) (q : PairCert) (x : PairShare) : Option (BitVec 128) :=
  match pairAgree s.startup.slot r q x with
  | some k => if Config.certifies q.chain s.locket.rootDigest q.signKey q.kxKey && k.2 == x.confirm then some k.1 else none
  | none => none

/-- The pair key is agreed, and the join goes on: a joiner whose root PLL has locked to the twin clock is past step 2. -/
def pairFormed (k : BitVec 128) (q : PairCert) (s : State) : State :=
  (s.modLink fun l => { l with pairKey := some k, partnerId := sm3 q.signKey }).modJoin fun j =>
    { j with step := if s.pair.regs.role = .joining ∧ s.clock.ref = .twin then 3 else 2 }

/-- JOIN_LINK_TRAINED: after 1,024 good cells, the Lockets run the exchange, for which this one draws its private number; a
joiner that lacks a level refuses. A Locket whose random bits fail refuses (R379). -/
def linkTrained (q : PairCert) (share : PairShare) (levels : List Half) (s : State) : State :=
  if s.pair.join.step ≠ 1 ∨ s.pair.link.goodRun < 1024 ∨ s.locket.rngFailed then s
  else if s.pair.regs.role = .joining ∧ levels.any (fun l => decide (l.toNat < s.strands.ifaceMin ∨ s.strands.ifaceMax < l.toNat)) then
    raise evPairLevel [] (joinFrom 0 s)
  else
    let x := drawNumber s
    if x.2.locket.rngFailed then x.2
    else
      match pairKeyOf x.2 x.1 q share with
      | some k => pairFormed k q x.2
      | none => raise evPairWiring [] (joinFrom 0 x.2)

/-- The joiner's MODULE_ID stands in the member table of every package that the context has loaded. -/
def setAllows (s : State) (c : CtxNo) : Bool := (s.ctx c).sec.members.all fun m => m.contains s.pair.link.partnerId

/-- The contexts that a join copies: all when the pair is apart, else the diverged ones. -/
def joinCtxs (s : State) : List CtxNo :=
  s.admitted.filter fun c => decide (s.pair.regs.state ≠ .lockstep) || s.pair.cmp.diverged.contains c

/-- The lead relays the grants of the contexts that the joiner is to hold. -/
def relayGrants (s : State) : State :=
  ((joinCtxs s).filter (setAllows s)).foldl (fun t c =>
    let x := t.ctx c
    match x.strand, x.record with
    | some g, some r =>
      let bases := (x.segs.filter fun e => decide (e.2.space = 0)).map fun e => (e.1, e.2.base)
      sendAdmit (t.period + 3) 1 c (grantBytes c bases x.parts g.raw r.raw) t
    | _, _ => t) s

/-- COUNTER_ADOPT: at a rotation boundary that the lead names. -/
def counterAdopt (bead : DWord) (period : Word) (s : State) : State :=
  if s.pair.regs.role = .joining ∧ s.pair.join.step = 3 ∧ s.admitted = [] then
    let s := { s with bead := bead.toNat, beadInRot := 0, period := period, rotLen := lrot s.rate period.toNat, rotDone := false,
                      effects := [], rotCount := s.rotCount + 1 }
    s.modJoin fun j => { j with step := 4 }
  else if s.pair.regs.role = .lead ∧ s.pair.join.step = 2 then relayGrants (s.modJoin fun j => { j with step := 4 })
  else s

/-- One shadow admission: the lead's bases, whatever the joiner's own choice would be. -/
def shadowAdmit (g : GrantRecord) (s : State) : State :=
  if s.running g.ctx then s
  else
    let p : Pending := { ctx := g.ctx, via := .twin, image := g.image, record := g.record, verified := true, boundary := none,
                         replay := none, grants := some (g.segBases, g.partBases) }
    if admitVerdict (dropPending g.ctx s) p ≠ 0 then s else admitNow p s

/-- SHADOW_ADMISSION: the joiner admits at boundary J, after its releases and substitutions (R35), and the contexts are diverged
until they have been copied; the lead begins the copy. -/
def shadowAdmission (gs : List GrantRecord) (s : State) : State :=
  if s.pair.join.step ≠ 4 then s
  else if s.follows then
    if atBoundary s = false ∨ anyReleaseDue s ∨ (anySwapDue s ∧ admitMade s = false) then s
    else
      let s := gs.foldl (fun t g => diverge g.ctx (shadowAdmit g t)) s
      (s.modTwin fun t => { t with state := if t.role = .joining then .copy else t.state }).modJoin fun j =>
        { Join.reset with step := 5, since := some s.rotCount, moved := j.moved }
  else if s.pair.regs.role = .lead then
    let cs := joinCtxs s
    let s := (cs.filter fun c => !setAllows s c).foldl (fun t _ => raise evSetRefused [] t) s
    let gs := (cs.filter (setAllows s)).flatMap (ctxGranules s)
    (s.modTwin fun t => { t with state := if t.state = .lockstep then .lockstep else .copy }).modJoin fun j =>
      { Join.reset with step := 5, toCopy := gs, since := some s.rotCount, moved := j.moved }
  else s

/-- The contexts' own granules are read at a rotation boundary; the others piece by piece. -/
def isOwnGranule (g : Nat) : Bool := decide (2 ^ 52 ≤ g)

/-- The granules that are to be read, the dirty ones after the others. -/
def stillToRead (j : Join) : List Nat := (j.toCopy ++ j.dirty).filter fun g => !isOwnGranule g

/-- One piece of a granule is read and sent; after the last one the granule has been copied. -/
def copyPiece (g : Nat) (s : State) : State :=
  let n := s.pair.join.part
  match readPiece (g + pieceBytes * n) s with
  | some (data, t) =>
    (sendSync (granuleOwner s g) (g + pieceBytes * n) data t).modJoin fun j =>
      if n + 1 < granulePieces s g then
        { j with part := n + 1, toCopy := g :: j.toCopy.filter (fun x => x ≠ g), dirty := if n = 0 then j.dirty.filter (fun x => x ≠ g) else j.dirty }
      else { j with part := 0, toCopy := j.toCopy.filter (fun x => x ≠ g), dirty := if n = 0 then j.dirty.filter (fun x => x ≠ g) else j.dirty }
  | none => s

/-- GRANULE_COPY: the next piece of the next granule, then of the dirty ones again, where the present bead has a context-0
resource for it (R345). -/
def granuleCopy (s : State) : State :=
  if s.pair.regs.role = .lead ∧ copying s then
    match stillToRead s.pair.join with
    | g :: _ => copyPiece g s
    | [] => s
  else s

/-- The granule is still a running context's. -/
def heldGranule (s : State) (g : Nat) : Bool := decide (granuleOwner s g ≠ 0) && s.running (granuleOwner s g)

/-- At a rotation boundary the lead reads and sends the contexts' own granules that are due, and notes whether every granule has
been copied and none is dirty (R345, R346). -/
def copyBoundary (s : State) : State :=
  if s.pair.regs.role = .lead ∧ copying s then
    let j := s.pair.join
    let dirty := addDirty j.late j.dirty
    let due := ((j.toCopy ++ dirty).filter fun g => isOwnGranule g && heldGranule s g).eraseDups
    let s := due.foldl (fun t g => sendSync (g - 2 ^ 52) g (ctxBytes t (g - 2 ^ 52)) t) s
    let rest := fun (l : List Nat) => l.filter fun g => !isOwnGranule g && heldGranule s g
    s.modJoin fun k =>
      { k with toCopy := rest j.toCopy, dirty := rest dirty, late := [],
               cleanAt := if (rest j.toCopy).isEmpty && (rest dirty).isEmpty then some s.rotCount else none }
  else s

/-- A diverged context rejoins from step 4 (R328, R344), unless its mismatch is being hunted (R330), it may not be copied, or the
module is being drained (R448). -/
def mayRejoin (s : State) (c : CtxNo) : Bool :=
  s.running c && setAllows s c && !s.startup.quiesce.used && !(s.pair.cmp.hunts.any fun h => decide (h.ctx = c))

/-- The rejoin of diverged contexts begins where no join is under way; the lead relays their grants. -/
def rejoinDue (s : State) : State :=
  if s.pair.regs.state = .lockstep ∧ s.pair.join.step ≠ 4 ∧ copying s = false ∧ s.pair.cmp.diverged.any (mayRejoin s) then
    let s := joinFrom 4 s
    if s.pair.regs.role = .lead then relayGrants s else s
  else s

/-- The contexts that stay diverged after convergence: those that could not be copied. -/
def stillApart (s : State) : List CtxNo := s.admitted.filter fun c => !setAllows s c

/-- Convergence as a member sees it 8 beads after boundary C: at the lead's boundary every granule had been copied and none was
dirty, and the copies have left; all that has reached the joiner is written (R346). -/
def convergedNow (s : State) : Bool :=
  let j := s.pair.join
  decide (s.beadInRot = 8) && copying s &&
    (if s.pair.regs.role = .lead then
      decide (j.cleanAt = some s.rotCount ∧ j.toCopy = [] ∧ j.dirty = []) && !(s.pair.link.items.any fun i => decide (i.kind.toNat % 128 = 8))
    else j.waiting.isEmpty)

/-- JOIN_CONVERGE: 8 beads after boundary C. -/
def joinConverge (s : State) : State :=
  if convergedNow s = false then s
  else
    let apart := if s.pair.regs.role = .lead then stillApart s else []
    let s := s.modTwin fun t => { t with state := .lockstep, role := if t.role = .joining then .pendant else t.role }
    let s := s.modCmp fun m => { m with diverged := apart, own := [], theirs := [], agreed := [] }
    let s := s.modLink fun l => { l with setFault := false, splitSeen := false, seenInputs := [] }
    let s := s.modJoin fun j => { Join.reset with step := 6, converged := some s.rotCount, moved := j.moved }
    raise evResyncDone [] s

/-- RESYNC_STALLED: C has not been reached after 2^20 rotations. The copy continues. -/
def resyncStalled (s : State) : State :=
  match s.pair.join.since with
  | some r =>
    if r + 2 ^ 20 ≤ s.rotCount then raise evResyncStalled [] (s.modJoin fun j => { j with since := some s.rotCount }) else s
  | none => s

/-! ## The sea (R119, R342, R466) -/

/-- The admitted contexts whose Strands hold fabric cues. -/
def fabricCtxs (s : State) : List CtxNo :=
  s.admitted.filter fun c => match (s.ctx c).strand with | some t => usesFabric t | none => false

/-- SEA_SPLIT: 64 rotations in a row without the packets expected from a member. The fabric contexts' outputs flow on
only with the sea quorum token. -/
def seaSplit (m : Nat) (s : State) : State :=
  match assoc m s.fabric.silent with
  | some x =>
    if 64 ≤ x.count ∧ s.fabric.split = false then
      let s := raise evSeaSplit [] (s.modFabric fun f => { f with split := true })
      (fabricCtxs s).foldl (fun t c =>
        let t := raiseAt evSeaSplit (some c) 0xFFFF 0xFFFF false false [] t
        if t.mgmt.seaToken.held then t else withhold c t) s
    else s
  | none => s

/-- The module's own number is in the member list. -/
def isMember (f : Fabric) (m : Nat) : Bool := bit ((assoc (m / 32) f.members).getD 0) (m % 32)

/-- A FORM write. -/
def form (s : State) : State :=
  if s.fabric.state = .forming ∨ s.fabric.state = .locked then s
  else if isMember s.fabric s.fabric.modNo && seaLock s then
    s.modFabric fun f => { f with state := .forming, formedRot := s.rotCount, transits := [0, 0, 0, 0], probes := [] }
  else s.modFabric fun f => { f with state := .failed }

/-- A follower port that is UP would see another PERIOD_LO (R269). -/
def seaMoves (s : State) (period : Word) : Bool :=
  (s.clasps.any fun c => decide (c.state = .up ∧ c.mode = 2)) && decide (period.toNat % 65536 ≠ s.period.toNat % 65536)

/-- The lowest-numbered member that is heard, the module itself included. -/
def lowestMember (f : Fabric) : Nat := (f.probes.map (·.1)).foldl min f.modNo

/-- By how much its period counter is ahead of the module's. -/
def lowestAhead (f : Fabric) : Word := if lowestMember f = f.modNo then 0 else (assoc (lowestMember f) f.probes).getD 0

/-- The formation fails, and is reported with what was measured (R119, R269). -/
def formationFails (s : State) : State :=
  (s.modFabric fun f => { f with state := .failed }).emit (.formationReport s.fabric.transits (lowestAhead s.fabric))

/-- SEA_FORMATION_COMPLETE: after 1,024 rotations of probes, with the period counter of the lowest-numbered member (R119). The
operands say of the other members what the manual brings to no module in a stated form (log entry 15): whether each confirms its
lock, whether one would have to change its numbering (R269), and the longest transit on each one's ports. -/
def seaFormed (locked moved : Bool) (others : List Nat) (s : State) : State :=
  if s.fabric.state = .forming ∧ s.fabric.formedRot + 1024 ≤ s.rotCount then
    let period := s.period + lowestAhead s.fabric
    let s := s.modFabric fun f => { f with firstMod := lowestMember f % 4096 }
    if seaMoves s period then
      formationFails (((List.range 4).filter fun p => decide ((s.clasp p).state = .up ∧ (s.clasp p).mode = 2)).foldl
        (fun t p => claspRaise evClaspAlign p t) s)
    else if moved ∨ locked = false ∨ seaLock s = false ∨ fabLatency s < (s.fabric.transits ++ others).foldl max 0 + 4 then formationFails s
    else
      { s with period := period, fabric := { s.fabric with state := .locked, silent := [], split := false, wraps := 0 } }
  else s

/-- A LEAVE write: ignored while a Strand with fabric cues is admitted. -/
def leaveSea (s : State) : State :=
  if fabricCtxs s = [] then s.modFabric fun f => { f with state := .none, held := [], silent := [], split := false } else s

/-! ## The commands -/

/-- The joiner's report of written granules: the lead copies them again. -/
def partnerDirty (gs : List Nat) (s : State) : State :=
  s.modJoin fun j => { j with dirty := addDirty (gs.filter fun g => !(if j.part = 0 then j.toCopy else j.toCopy.tail).contains g) j.dirty }

/-- SYNC data arrive: they are written once those before them have been, in a bead that has the resources. -/
def syncArrives (c : CtxNo) (a : Nat) (data : Bytes) (s : State) : State :=
  drainSync (s.modJoin fun j => { j with waiting := j.waiting ++ [(c, a, data)] })

/-- TWIN_DIRTY: the lead copies these granules again. -/
def execTwinDirty (granules : List Nat) (s : State) : Host.Outcome State Fault Refusal :=
  ok (when_ (decide (s.pair.regs.role = .lead) && copying s) (partnerDirty granules) s)

/-- TWIN_SYNC: `granule` is the address in the item. -/
def execTwinSync (ctx : CtxNo) (granule : Nat) (data : Bytes) (s : State) : Host.Outcome State Fault Refusal :=
  ok (when_ (s.follows && s.running ctx) (syncArrives ctx granule data) s)

def execSeaSplit (member : Nat) (s : State) : Host.Outcome State Fault Refusal := ok (seaSplit member s)

def execJoinLinkTrained (cert : PairCert) (share : PairShare) (levels : List Half) (s : State) : Host.Outcome State Fault Refusal :=
  ok (linkTrained cert share levels s)

def execCounterAdopt (bead : DWord) (period : Word) (s : State) : Host.Outcome State Fault Refusal := ok (counterAdopt bead period s)
def execShadowAdmission (grants : List GrantRecord) (s : State) : Host.Outcome State Fault Refusal := ok (shadowAdmission grants s)
def execGranuleCopy (s : State) : Host.Outcome State Fault Refusal := ok (granuleCopy s)
def execJoinConverge (s : State) : Host.Outcome State Fault Refusal := ok (joinConverge s)
def execResyncStalled (s : State) : Host.Outcome State Fault Refusal := ok (resyncStalled s)
def execForm (s : State) : Host.Outcome State Fault Refusal := ok (form s)

def execSeaFormationComplete (locked moved : Bool) (transits : List Nat) (s : State) : Host.Outcome State Fault Refusal :=
  ok (seaFormed locked moved transits s)

def execLeave (s : State) : Host.Outcome State Fault Refusal := ok (leaveSea s)

end Sys2Proof.Machine
end

