-- ==== Sys2Proof/Machine/RegWrite.lean ====
section
/-! DEFINITION. Host writes to registers, by access code (R14 to R16, R235, R406, R452, R460 to R472), and event
messages. -/

namespace Sys2Proof.Machine

/-- Field `[lo + len - 1 : lo]` of a written value. -/
def fieldOf (v : Word) (lo len : Nat) : Nat := bits v.toNat lo len

/-- A written value with only the bits of the given fields. -/
def keep (v : Word) (fs : List (Nat × Nat)) : Word := pack (fs.map fun f => (f.1, f.2, fieldOf v f.1 f.2))

/-! ## RWL fields: as RW until the seal -/

/-- A write to the RWL fields of a register. -/
def writeLocked (off : Nat) (v : Word) (s : State) : State :=
  if off = 0x100000 then
    s.modClock fun c => { c with sscEn := bit v 31, sscDepth := fieldOf v 24 4, sscRate := fieldOf v 20 3, src := fieldOf v 8 2,
                                 lockPort := fieldOf v 0 2 }
  else if off = 0x300000 then s.modStr fun t => { t with hostEn := bit v 31 }
  else if off = 0x500000 then s.modBezel fun b => { b with patrolEn := bit v 7, hostSlots := fieldOf v 0 4 }
  else if off = 0x900000 then { s with claspRate := fieldOf v 0 8 }
  else if 0x900100 ≤ off ∧ off < 0x900200 ∧ off % 0x40 = 0 then
    s.modClasp (fun c => { c with due := fieldOf v 16 12, mode := fieldOf v 4 2 }) ((off - 0x900100) / 0x40)
  else if off = 0xA00000 then
    s.modTwin fun t => { t with pairEn := bit v 31, confirm := fieldOf v 20 4, beat := fieldOf v 16 4, silentEn := bit v 0 }
  else if off = 0xC00000 then
    s.modCast fun c => { c with replay := bit v 31, slots := fieldOf v 24 3, stripe := fieldOf v 18 3, chBase := fieldOf v 12 6,
                                sizeGib := fieldOf v 0 6 }
  else s

/-! ## RW, WO and W1C fields of each block -/

/-- A write to STR_CMD. -/
def writeStrCmd (v : Word) (s : State) : State :=
  if fieldOf v 30 2 = 1 then strFetch s
  else if fieldOf v 30 2 = 2 ∨ fieldOf v 30 2 = 3 then strCommand (fieldOf v 30 2) (fieldOf v 0 4) [] [] s else s

def writeStrand (o : Nat) (v : Word) (s : State) : State :=
  if o = 4 then writeStrCmd v s
  else if o = 0x10 then s.modStr fun t => { t with imgLo := keep v [(6, 26)] }
  else if o = 0x14 then s.modStr fun t => { t with imgHi := v }
  else if o = 0x18 then s.modStr fun t => { t with imgLen := v }
  else if o = 0x20 then s.modStr fun t => { t with cfgLo := keep v [(6, 26)] }
  else if o = 0x24 then s.modStr fun t => { t with cfgHi := v }
  else s

/-- Ring group registers other than the doorbells: ignored for a context that is not admitted (R235). -/
def writeRing (c : CtxNo) (o : Nat) (v : Word) (s : State) : State :=
  if o = 0x0C ∨ o = 0x30 then indexWrite o c v s
  else if o = 0x18 then cancelWrite c v s
  else if s.running c = false then s
  else
    s.modRing (fun r =>
      if o = 0x00 then { r with rqBaseLo := keep v [(6, 26)] }
      else if o = 0x04 then { r with rqBaseHi := v }
      else if o = 0x08 then { r with rqCtl := keep v [(31, 1), (0, 5)], fails := 0 }
      else if o = 0x14 then { r with cancelLo := v }
      else if o = 0x20 then { r with srBaseLo := keep v [(6, 26)] }
      else if o = 0x24 then { r with srBaseHi := v }
      else if o = 0x28 then { r with srCtl := keep v [(31, 1), (30, 1), (16, 11), (8, 8), (0, 5)] }
      else r) c

def writePort (p o : Nat) (v : Word) (s : State) : State :=
  if o = 0 then
    let s := s.modClasp (fun c => { c with sig16 := bit v 8 }) p
    if bit v 31 then claspRelease p s else s
  else s

/-- FAB_CFG and FAB_MEMBER_k hold while the sea forms or is locked. -/
def writeFabric (o : Nat) (v : Word) (s : State) : State :=
  let held := decide (s.fabric.state = .forming ∨ s.fabric.state = .locked)
  if o = 0 then
    if held then s else s.modFabric fun f => { f with latency := fieldOf v 16 13, modNo := fieldOf v 0 12 }
  else if o = 4 then
    let s := if bit v 31 then form s else s
    if bit v 30 then leaveSea s else s
  else if 0x1000 ≤ o ∧ o < 0x1200 then
    if held then s else s.modFabric fun f => { f with members := assocSet ((o - 0x1000) / 4) v f.members }
  else s

def writeSignet (o : Nat) (v : Word) (s : State) : State :=
  if o = 0 then s.modSig fun g => { g with addrLo := keep v [(10, 22)] }
  else if o = 4 then s.modSig fun g => { g with addrHi := keep v [(0, 8)] }
  else if o = 8 then s.modSig fun g => { g with len := keep v [(0, 20)] }
  else if o = 0xC then signetGo v s
  else s

/-- Mailbox registers: GET_CERT is served on any mailbox, so that its command, length and data can be written for every context;
MB_TAG only for a running one (R387, R406). -/
def writeBox (c : CtxNo) (o : Nat) (v : Word) (s : State) : State :=
  if o = 0 then mailbox c (fieldOf v 0 8) s
  else if o = 8 then s.modBox (fun m => { m with len := fieldOf v 0 12 }) c
  else if 0x10 ≤ o ∧ o < 0x20 then if s.running c = false then s else s.modBox (fun m => { m with tag := overlay m.tag (o - 0x10) (leBytes 4 v.toNat) }) c
  else if 0x40 ≤ o ∧ o < 0x1000 then s.modBox (fun m => { m with data := overlay m.data (o - 0x40) (leBytes 4 v.toNat) }) c
  else s

def writeLocket (o : Nat) (v : Word) (s : State) : State :=
  if 0x100 ≤ o ∧ o < 0x300 then
    let c := (o - 0x100) / 0x20
    if s.running c = false then s
    else if o % 0x20 = 4 then s.modSec (fun x => { x with rqTagLo := keep v [(4, 28)] }) c
    else if o % 0x20 = 8 then s.modSec (fun x => { x with rqTagHi := v }) c
    else s
  else if 0x10000 ≤ o ∧ o < 0x20000 then writeBox ((o - 0x10000) / 0x1000) (o % 0x1000) v s
  else s

/-- LOUPE_CTL: ignored while no debug token is accepted (R454, R457). -/
def writeLoupe (v : Word) (s : State) : State :=
  if s.locket.debugOn then
    let s := s.modPorts fun p => { p with loupeEn := bit v 31, loupeDiv := fieldOf v 16 3, loupeGroup := fieldOf v 0 12 }
    s.emit (.loupe (fieldOf v 0 12) (bit v 31 && s.locket.loupeReady))
  else s

/-- A W1C write to EVT_PEND_g: the bits of records written in the present bead stay (R472). While no bead is counted, no
record is of the present bead (DESIGN CHOICE, log entry 12). -/
def pendClear (g : Nat) (v : Word) (s : State) : State :=
  let fresh : Word := if s.startup.counting then (assoc g s.events.pendNow).getD 0 else 0
  if g < 10 then
    s.modEvents fun e => { e with pend := assocSet g (((assoc g e.pend).getD 0) &&& ~~~(v &&& ~~~fresh)) e.pend }
  else s

def writeEvent (o : Nat) (v : Word) (s : State) : State :=
  if o = 0 then s.modEvents fun e => { e with ctl := keep v [(31, 1), (16, 11)] }
  else if 0x100 ≤ o ∧ o < 0x128 then
    let g := (o - 0x100) / 4
    s.modEvents fun e => { e with mask := assocSet g (v &&& evMaskable g) e.mask }
  else if 0x200 ≤ o ∧ o < 0x228 then pendClear ((o - 0x200) / 4) v s
  else s

/-- A write to every field but the RWL ones of the register at an aligned offset; other offsets ignore it (R16). -/
def writeOpen (off : Nat) (v : Word) (s : State) : State :=
  let o := off % 2 ^ 20
  match off / 2 ^ 20 with
  | 0x1 => if o = 8 then oppRequest v s else s
  | 0x2 =>
    if o = 0 then s.modPower fun p => { p with setW := fieldOf v 16 10, bandPct := fieldOf v 8 5, rampWps := fieldOf v 0 7 }
    else if o = 0xC ∧ bit v 31 then tripClear s
    else s
  | 0x3 => writeStrand o v s
  | 0x7 => if 0x1000 ≤ o ∧ o < 0x1400 then writeRing ((o - 0x1000) / 0x40) (o % 0x40) v s else s
  | 0x9 => if 0x100 ≤ o ∧ o < 0x200 then writePort ((o - 0x100) / 0x40) (o % 0x40) v s else s
  | 0xB => writeFabric o v s
  | 0xC => if o = 4 then castCtl v s else if o = 8 then s.modCast fun c => { c with post := v } else s
  | 0xD => writeSignet o v s
  | 0xE => writeLocket o v s
  | 0xF => if o = 0 then writeLoupe v s else s
  | 0x10 => writeEvent o v s
  | _ => s

/-- A 32-bit write to an aligned register. -/
def writeReg (off : Nat) (v : Word) (s : State) : State := writeOpen off v (if s.sealed then s else writeLocked off v s)

/-- A host write (R452, R460): narrower writes and accesses that no aligned registers contain are ignored; a 64-bit one is
two, the lower first. -/
def hostWrite (off width : Nat) (v : DWord) (s : State) : State :=
  let one := fun (o : Nat) (x : Word) (t : State) => if t.startup.ready || earlyBlock o then writeReg o x t else t
  if s.ports.linkUp = false ∨ aligned off = false then s
  else if width = 4 then one off (v.setWidth 32) s
  else if width = 8 then one (off + 4) ((v >>> 32).setWidth 32) (one off (v.setWidth 32) s)
  else s

/-- EVENT_MSI (R472). -/
def eventMsi (s : State) : State :=
  let e := s.events
  let spaced := match e.lastMsi with | some b => decide (b + 256 ≤ s.bead) | none => true
  if e.unmaskedNew && spaced && bit e.ctl 31 && s.ports.linkUp && s.ports.msixEn then
    (s.emit (.msix (fieldOf e.ctl 16 11))).modEvents fun e => { e with lastMsi := some s.bead, unmaskedNew := false }
  else s

/-! ## The commands -/

def execEvtPendClear (g : Nat) (value : Word) (s : State) : Host.Outcome State Fault Refusal :=
  ok (when_ s.ports.linkUp (pendClear g value) s)

def execEventMsi (s : State) : Host.Outcome State Fault Refusal := ok (eventMsi s)

def execLoupeCtlWrite (value : Word) (s : State) : Host.Outcome State Fault Refusal :=
  ok (when_ (s.ports.linkUp && s.startup.ready) (writeLoupe value) s)

def execRegisterWrite (offset : Nat) (width : Nat) (value : DWord) (s : State) : Host.Outcome State Fault Refusal :=
  ok (hostWrite offset width value s)

end Sys2Proof.Machine
end

