-- ==== Sys2Proof/Machine/Startup.lean ====
section
/-! DEFINITION. Start-up, discrete inputs, the PCIe link, reset, loss of power, boundary scan (R34, R292, R293, R319,
R347, R350, R351, R372, R378 to R381, R403, R429 to R431, R436, R437, R445 to R458). -/

namespace Sys2Proof.Machine

/-- A failure that stands until reset (Table 14-2). -/
def fatalFailure (code : Nat) (s : State) : State := setHealth (fun h => { h with fatal := true }) code s

/-- The last start-up step completed (Table 15-6), of a start-up that has not stopped. -/
def atStep (n : Nat) (s : State) : Bool := s.startup.powered && !s.startup.stopped && decide (s.startup.step = n)

def setStep (n : Nat) (s : State) : State := s.modStartup fun t => { t with step := n }

/-! ## Steps 1 to 4: clocks (R350, R351) -/

/-- DELAY of the clock word as it acts, in ms (R351): from 2 to 64; an erased word holds 127, which acts as 64. -/
def bootDelay (w : Word) : Nat := max 2 (min 64 (w.toNat % 128))

/-- POWER_GOOD: the Crown runs on the internal oscillator, and the clock word is read. -/
def powerGood (w : Word) (s : State) : State :=
  if s.startup.powered then s
  else
    (s.modStartup fun t => { t with powered := true, step := 2 }).modClock fun c =>
      { c with clockWord := w, ref := .oscillator, delayMs := bootDelay w }

/-- MODE of the clock word: an erased word acts as MODE 0. -/
def bootMode (w : Word) : Bool := bit w 31 && decide (w ≠ 0xFFFFFFFF)

/-- A window's count lies within ±2.5 % of 25,000. -/
def windowCount (n : Nat) : Bool := decide (24375 ≤ n ∧ n ≤ 25625)

/-- A window's count lies within ±0.2 % of the first of its run. -/
def windowNear (first n : Nat) : Bool := decide (500 * (max first n - min first n) ≤ first)

/-- The run of passing windows after one more: its first count and its length. -/
def windowStep (run : Nat × Nat) (n : Nat) : Nat × Nat :=
  if 8 ≤ run.2 then run
  else if windowCount n = false then (0, 0)
  else if run.2 = 0 then (n, 1)
  else if windowNear run.1 n then (run.1, run.2 + 1)
  else (0, 0)

/-- CRYSTAL_STABLE: 8 consecutive passing windows among the first 1,024; without them the fall-back path is open (R351). -/
def crystalStable (ws : List Nat) (s : State) : State :=
  if atStep 2 s ∧ bootMode s.clock.clockWord = false ∧ s.clock.judged = false then
    if ((ws.take 1024).foldl windowStep (0, 0)).2 = 8 then (setStep 3 s).modClock fun c => { c with ref := .crystal }
    else if 1024 ≤ ws.length then s.modClock fun c => { c with judged := true }
    else s
  else s

/-- CRYSTAL_FALLBACK, `delayMs` after the first crystal edge: in MODE 1, or with no stable judgement within 1,024 windows, one
window decides; without it start-up stops. -/
def crystalFallback (edge : Bool) (n : Nat) (s : State) : State :=
  if atStep 2 s = false ∨ (bootMode s.clock.clockWord = false ∧ s.clock.judged = false) then s
  else if edge ∧ windowCount n then (setStep 3 s).modClock fun c => { c with ref := .crystal, bootFallback := true }
  else s.modStartup fun t => { t with stopped := true }

/-- ROOT_PLL_LOCK: ROOT_LOCK, then the boot ROM samples straps and inputs (steps 4 and 5). -/
def rootPllLock (straps : BitVec 3) (seat cool quiesce : Bool) (s : State) : State :=
  if atStep 3 s then
    let p := fun (b : Bool) (x : Pin) => { x with used := b, filtered := b }
    (s.modClock fun c => { c with rootLock := true }).modStartup fun t =>
      { t with step := 5, slot := straps.toNat, straps := straps, seat := p seat t.seat, cool := p cool t.cool, quiesce := p quiesce t.quiesce }
  else s

/-! ## Steps 6 and 7: Locket and loader (R378 to R380, R429, R431) -/

/-- Bytes of a DER value with its header; 0 where there is none (X.509, PRESUMED: log entry 35). -/
def derLength (b : Bytes) : Nat :=
  if leAt b 0 1 ≠ 0x30 then 0
  else if leAt b 1 1 < 0x80 then 2 + leAt b 1 1
  else 2 + (leAt b 1 1 - 0x80) + beNat (slice b 2 (min 4 (leAt b 1 1 - 0x80)))

/-- Bytes of the certificates at the front of a byte string. -/
def chainLength : Nat → Bytes → Nat
  | 0, _ => 0
  | f + 1, b => let n := derLength b; if n = 0 ∨ b.length < n then 0 else n + chainLength f (b.drop n)

/-- The manufacturing chain in the resident loader region. -/
def certificates (region : Bytes) : Bytes := let b := slice region 0x1000 8192; b.take (chainLength 16 b)

/-- The running image as it is digested: its pieces in order. -/
def runningImage (s : State) : Bytes := ((s.mgmt.hm.running.map fun p => slice p.2 0 4096)).flatten

/-- LOADER_START: after three failed start-ups the loader stays in recovery. -/
def loaderStart (trngOk : Bool) (region : Bytes) (net : NetSettings) (s : State) : State :=
  if atStep 5 s = false then s
  else
    let x := s.fresh
    let s := x.2.modLocket fun l => { l with rngOk := trngOk, rngFailed := !trngOk, rngLife := Config.rngLife x.1, loader := sm3 region, certChain := certificates region }
    let s := if trngOk then s else fatalFailure evLocketRng (raise evLocketRng [] s)
    let s := hmLoader s
    let s := s.modMgmt fun m => { m with up := true, net := net }
    if 3 ≤ s.mgmt.hm.failedStarts then
      fatalFailure evHealthChange (setStep 6 (s.modHm fun m => { m with recovery := true }))
    else setStep 7 (s.modLocket fun l => { l with firmware := sm3 (runningImage s) })

/-! ## Steps 8 to 10: training, alignment, Facets (R292, R293, R450, R451) -/

/-- TRAY_SEAT_HOLD: the tray has been seated for 100 ms. -/
def seatHold (s : State) : State :=
  if atStep 7 s ∧ s.startup.seat.used then s.modStartup fun t => { t with holdDone := true } else s

/-- LP4X_TRAINING_COMPLETE: attempts that each channel took; more than four leave the module FAILED. -/
def trained (attempts : List Nat) (s : State) : State :=
  if atStep 7 s ∧ s.startup.holdDone then
    let chs := List.range (channelCount s.grade)
    if chs.all fun ch => decide (attempts.getD ch 5 ≤ 4) then
      setStep 8 (chs.foldl (fun t ch => t.modChan (fun c => { c with state := 1 }) ch) s)
    else fatalFailure evHealthChange (s.modStartup fun t => { t with stopped := true })
  else s

/-- ALIGNMENT_EDGE: bead 0 of rotation 0 begins. -/
def alignmentEdge (s : State) : State :=
  if atStep 8 s ∧ s.startup.counting = false then
    let s := s.modStartup fun t => { t with counting := true }
    { s with bead := 0, beadInRot := 0, period := 0, rotCount := 0, rotDone := false, rotLen := lrot s.rate 0 }
  else s

/-- ALIGNMENT_CHECK_DONE: after beads 0 to 1,023. The third failed check leaves the module FAILED. -/
def alignmentCheck (pass : Bool) (s : State) : State :=
  if atStep 8 s ∧ s.startup.counting ∧ 1024 ≤ s.bead then
    if pass then setStep 9 s
    else
      let s := s.modStartup fun t => { t with alignTries := t.alignTries + 1, counting := false }
      if 3 ≤ s.startup.alignTries then
        fatalFailure evFiligreeAlign (raise evFiligreeAlign [] (s.modStartup fun t => { t with stopped := true }))
      else s
  else s

/-- A Facet that fails its test at start-up is retired; the first healthy spare takes its place. Nothing is copied: no
context has run. -/
def startRetire (die p : Nat) (s : State) : State :=
  s.modSpare (fun d =>
    if d.retired.contains p then d
    else
      let d := { d with retired := d.retired ++ [p], resting := d.resting.erase p }
      match d.free.head? with
      | some q => { d with map := d.map.map fun x => if x = p then q else x }
      | none => d) die

/-- Every Setting die has 256 healthy Facets. -/
def enoughFacets (s : State) : Bool := (s.spares.take (settingDies s.grade)).all fun d => decide (d.retired.length ≤ 16)

/-- FACET_TEST_COMPLETE: physical Facets as die × 272 + place. With COOL_OK already asserted, step 11 is complete too. -/
def facetTest (failed : List Nat) (s : State) : State :=
  if atStep 9 s ∧ s.startup.facetsReleased then
    let s := judgeHealth evSelftestFail
      (failed.foldl (fun t p => if p / 272 < settingDies s.grade then startRetire (p / 272) (p % 272) t else t) s)
    if enoughFacets s = false then (setStep 10 s).modStartup fun t => { t with stopped := true }
    else setStep (if s.startup.cool.used then 11 else 10) s
  else s

/-! ## Step 12 (R15, R319, R364, R449) -/

/-- STARTUP_READY: the RWL fields are written and sealed, E_base is measured (in microwatts), and READY is set. -/
def startupReady (ws : Settings) (eBase : Nat) (s : State) : State :=
  if atStep 11 s then
    let s := ws.foldl (fun t w => writeLocked w.1 w.2 t) s
    let s := (setStep 12 s).modStartup fun t => { t with ready := true }
    let s := (if castAble s then s.modCtx (fun x => { x with segs := castSegs s.cast }) 0 else s)
    let s := { s with sealed := true }
    let s := s.modPower fun p => { p with eBase := eBase, target := 1000 * eBase }
    let s := s.modHm fun m => { m with readySince := if s.health.now = .failed then none else some s.bead, failedStarts := 0 }
    let s := loadPair 0 s
    if s.paired then s.modOver fun o => { o with listening := true }
    else s.modTwin fun t => { t with epoch := 1, role := .unpaired }
  else s

/-! ## Discrete inputs (R347, R372, R445 to R448, R450) -/

/-- The tray is pulled: LEAVING on every link, and every key of a context destroyed in the Locket and in the channel controllers
(R347). The pair key stays, under which LEAVING cells go. -/
def trayPulled (s : State) : State :=
  let s := s.modLink fun l => { l with leaving := true }
  let s := (List.range 4).foldl (fun t p => t.modClasp (fun c => { c with leaving := true }) p) s
  let s := (List.range 16).foldl (fun t c =>
    t.modSec (fun x => { x with session := none, exchange := none, seaKey := none, load := none }) c) s
  s.modBezel fun b => { b with keys := [] }

/-- Between step 8 and READY a pulled tray sends start-up back to its hold. -/
def backToHold (s : State) : State :=
  s.modStartup fun t => { t with step := min t.step 7, holdDone := false, counting := false, facetsReleased := false }

def seatEffect (asserted : Bool) (s : State) : State :=
  if asserted then s else if s.startup.ready then trayPulled s else if 7 ≤ s.startup.step then backToHold s else s

/-- COOL_OK: start-up goes on, or idle load is withdrawn and returns. -/
def coolEffect (asserted : Bool) (s : State) : State :=
  if asserted then
    if atStep 10 s then setStep 11 s
    else setHealth (fun h => { h with coolLost := false }) evCoolLost (s.modPower fun p => { p with withdrawn := false })
  else if s.startup.ready then
    setHealth (fun h => { h with coolLost := true }) evCoolLost (raise evCoolLost [] (s.modPower fun p => { p with withdrawn := true, idle := [], blocks := [] }))
  else if s.startup.step = 11 then setStep 10 s
  else s

/-- QUIESCE_N: a drain, or its end (R448). -/
def quiesceEffect (asserted : Bool) (s : State) : State :=
  if asserted then
    quiesceCheck (s.admitted.foldl (fun t c =>
      let t := if (t.ctx c).phase = .admitted then orderRelease c false t else t
      if t.pair.regs.role = .pendant then diverge c t else t) s)
  else
    let s := s.modStartup fun t => { t with quiesced := false }
    if s.pair.regs.role = .pendant then joinFrom 4 s else s

def pinOf (t : Startup) : PinName → Pin
  | .traySeat => t.seat | .coolOk => t.cool | .quiesce => t.quiesce

def modPin (f : Pin → Pin) (n : PinName) (s : State) : State :=
  s.modStartup fun t => match n with
    | .traySeat => { t with seat := f t.seat }
    | .coolOk => { t with cool := f t.cool }
    | .quiesce => { t with quiesce := f t.quiesce }

/-- A latched change of an input's value takes effect (R294). -/
def pinEffect (n : PinName) (asserted : Bool) (s : State) : State :=
  if (pinOf s.startup n).used = asserted then s
  else
    let s := modPin (fun p => { p with used := asserted }) n s
    match n with
    | .traySeat => seatEffect asserted s
    | .coolOk => coolEffect asserted s
    | .quiesce => quiesceEffect asserted s

/-- The value to use changes: at the next bead boundary once beads run. -/
def pinUse (n : PinName) (asserted : Bool) (s : State) : State :=
  if s.startup.counting then pushInput 10 (.pin n asserted) s else pinEffect n asserted s

/-- A change of an input's filtered value: more than 16 within 1 s are chatter (R446). Inputs are read from step 5 on. -/
def pinChange (n : PinName) (asserted : Bool) (s : State) : State :=
  let p := pinOf s.startup n
  if s.startup.step < 5 ∨ p.filtered = asserted then s
  else
    let recent := s.bead :: p.changes.filter fun b => decide (s.bead < b + secondBeads)
    let s := modPin (fun p => { p with filtered := asserted, changes := recent }) n s
    if p.chatter then s
    else if 16 < recent.length then
      let s := raise evInputChatter [] (modPin (fun p => { p with chatter := true }) n s)
      if n = .coolOk then pinUse n false s else s
    else pinUse n asserted s

/-- CHATTER_END: no change for 10 s. -/
def chatterEnd (n : PinName) (s : State) : State :=
  let p := pinOf s.startup n
  if p.chatter ∧ (p.changes.headD 0) + 10 * secondBeads ≤ s.bead then pinUse n p.filtered (modPin (fun p => { p with chatter := false }) n s)
  else s

/-- PAIR_SLOT_CHANGE: ignored after step 5, but for the event. -/
def strapChange (v : BitVec 3) (s : State) : State :=
  if s.startup.straps = v then s
  else
    let s := s.modStartup fun t => { t with straps := v }
    if 5 ≤ s.startup.step then raise evStrapChanged [] s else s

/-! ## The PCIe link (R436, R437) -/

/-- PCIE_LINK_UP: the host enumerates the function with MSI-X (log entry 41). -/
def linkUp (s : State) : State := when_ (decide (7 ≤ s.startup.step)) (fun s => s.modPorts fun p => { p with linkUp := true, msixEn := true }) s

/-- PCIE_LINK_DOWN: an aperture access that is not complete is lost. -/
def linkDown (s : State) : State :=
  if s.ports.linkUp then
    let s := s.modPorts fun p => { p with linkUp := false, msixEn := false }
    raise evPcieDown [] (s.modBezel fun b => { b with queue := [] })
  else s

/-! ## Reset and loss of power (R381, R403, R429, R431) -/

/-- What stays: what is fused, in flash or on the board, the lines in LP4X, and the model's own records. -/
def restart (s : State) : State :=
  let r := State.reset
  let failed := !s.startup.ready && !s.mgmt.hm.confirmed && decide (6 ≤ s.startup.step)
  let m := s.mgmt
  { r with
    grade := s.grade, steppings := s.steppings, lp4x := s.lp4x, lp4xCheck := s.lp4xCheck,
    spares := s.spares.map fun d => { d with resting := [], copying := none, waits := [], swapped := none },
    locket := { r.locket with romVersion := s.locket.romVersion, floors := s.locket.floors, draws := s.locket.draws,
                              rootDigest := s.locket.rootDigest }
    mgmt := { r.mgmt with operatorRoot := m.operatorRoot, observerRoot := m.observerRoot, healthLog := m.healthLog, nextConn := m.nextConn,
                          pairToken := { m.pairToken with held := false }, seaToken := { m.seaToken with held := false }
                          hm := { m.hm with readySince := none, recovery := false, hmPieces := 0, rateWindow := 0,
                                            failedStarts := if failed then m.hm.failedStarts + 1 else m.hm.failedStarts } }
    strands := { r.strands with ifaceMin := s.strands.ifaceMin, ifaceMax := s.strands.ifaceMax }
    events := { r.events with log := s.events.log, head := s.events.head }
    out := s.out, free := s.free, pending := s.pending }

/-- A RESET was ordered 1 s ago (R411). While no bead is counted, the second does not show (DESIGN CHOICE, log entry 47). -/
def resetIsDue (s : State) : Bool :=
  match s.mgmt.resetDue with
  | some b => decide (b ≤ s.bead) || !s.startup.counting
  | none => false

/-- MODULE_RESET: 1 s after RESET. -/
def moduleReset (s : State) : State := if resetIsDue s then restart s else s

/-! ## Boundary scan (R456) -/

/-- Dies of the chain in order: the IDCODE of each. -/
def scanChain (s : State) : List Word :=
  idcode s 0 0x7C10 :: (List.replicate (bezelDies s.grade) (idcode s 1 0x7C11) ++ List.replicate (settingDies s.grade) (idcode s 2 0x7C12))

/-- An instruction as it acts: others than BYPASS, IDCODE and SAMPLE/PRELOAD act as BYPASS without a debug token. -/
def scanActs (s : State) (c : Byte) : Byte :=
  if s.locket.debugOn ∨ c = Config.jtagOpcode 0 ∨ c = Config.jtagOpcode 1 then c else 0xFF

/-- JTAG_INSTRUCTION: one 8-bit instruction for each die; the IDCODE register is selected under IDCODE. -/
def scanLoad (codes : List Byte) (s : State) : State :=
  let ids := scanChain s
  let acts := (List.range ids.length).map fun i => scanActs s (codes.getD i 0xFF)
  (s.modPorts fun p => { p with jtag := acts }).emit
    (.jtag (List.zipWith (fun (a : Byte) (w : Word) => (if a = Config.jtagOpcode 0 then w.toNat else 0, a)) acts ids))

/-! ## The commands -/

def execPowerGood (clockWord : Word) (s : State) : Host.Outcome State Fault Refusal := ok (powerGood clockWord s)
def execCrystalStable (windows : List Nat) (s : State) : Host.Outcome State Fault Refusal := ok (crystalStable windows s)
def execCrystalFallback (firstEdge : Bool) (window : Nat) (s : State) : Host.Outcome State Fault Refusal := ok (crystalFallback firstEdge window s)

def execRootPllLock (straps : BitVec 3) (seat : Bool) (cool : Bool) (quiesce : Bool) (s : State) : Host.Outcome State Fault Refusal :=
  ok (rootPllLock straps seat cool quiesce s)

def execLoaderStart (trngOk : Bool) (regions : LoadedRegions) (s : State) : Host.Outcome State Fault Refusal :=
  ok (loaderStart trngOk regions.loader regions.net s)
def execTraySeatHold (s : State) : Host.Outcome State Fault Refusal := ok (seatHold s)
def execLp4xTrainingComplete (attempts : List Nat) (s : State) : Host.Outcome State Fault Refusal := ok (trained attempts s)
def execAlignmentEdge (s : State) : Host.Outcome State Fault Refusal := ok (alignmentEdge s)
def execAlignmentCheckDone (pass : Bool) (s : State) : Host.Outcome State Fault Refusal := ok (alignmentCheck pass s)
def execFacetTestComplete (failed : List Nat) (s : State) : Host.Outcome State Fault Refusal := ok (facetTest failed s)

def execStartupReady (settings : Settings) (eBase : Nat) (s : State) : Host.Outcome State Fault Refusal :=
  ok (startupReady settings eBase s)

def execTraySeatChange (asserted : Bool) (s : State) : Host.Outcome State Fault Refusal := ok (pinChange .traySeat asserted s)
def execCoolOkChange (asserted : Bool) (s : State) : Host.Outcome State Fault Refusal := ok (pinChange .coolOk asserted s)
def execQuiesceNChange (asserted : Bool) (s : State) : Host.Outcome State Fault Refusal := ok (pinChange .quiesce asserted s)
def execPairSlotChange (value : BitVec 3) (s : State) : Host.Outcome State Fault Refusal := ok (strapChange value s)
def execChatterEnd (pin : PinName) (s : State) : Host.Outcome State Fault Refusal := ok (chatterEnd pin s)
def execPcieLinkUp (s : State) : Host.Outcome State Fault Refusal := ok (linkUp s)
def execPcieLinkDown (s : State) : Host.Outcome State Fault Refusal := ok (linkDown s)
def execModuleReset (s : State) : Host.Outcome State Fault Refusal := ok (moduleReset s)

/-- POWER_LOSS: no scrub runs; every key goes with the state, and the module stops until power is good again. -/
def execPowerLoss (s : State) : Host.Outcome State Fault Refusal := ok (restart s)

def execJtagInstruction (codes : List Byte) (s : State) : Host.Outcome State Fault Refusal := ok (scanLoad codes s)

end Sys2Proof.Machine
end

