-- ==== Sys2Proof/Machine/Boundary.lean ====
section
/-! DEFINITION. The end of a bead and the rotation boundary (R35, R108, R109, R115, R260, R342, R363 to R366, R397,
R398). -/

namespace Sys2Proof.Machine

/-! ## The end of a bead -/

/-- An engine step whose bead did not execute stops writing (R172); steps that are over go. What the step has in flight by then, a
line whose slot began before the cut, still lands (DESIGN CHOICE, log entry 53). -/
def endSteps (s : State) : State :=
  { s with engines := (s.engines.map fun e => (e.1, if e.2.seen < s.bead then { e.2 with cut := true } else e.2)).filter fun e =>
      decide (s.bead + 1 < e.2.began + e.2.len) }

/-- What the present bead still owes (log entry 2): its latches, the begun cues not yet carried out and its slot guards, the
events of its time; then what the contexts that are not withheld send: packets, step records and Clasp decisions (R115, R266,
R275); SYNC data that wait take what the bead has left (R345). -/
def endBead (s : State) : State :=
  let s := (List.range 4).foldl (fun t p => claspLatch p t) s
  let s := withdrawCommits (sendPackets (shareDue (replayFeed (freezeDone (slotGuards (loupeShow (performAll s)))))))
  drainSync (promotionForced (heartbeatDue ((List.range 4).foldl (fun t p => claspDecide p t) s)))

/-! ## Power (R363 to R366) -/

/-- The admission that is first in line. -/
def nextInLine (s : State) : Option Pending := s.strands.pendings.find? fun p => !heldByScrub s p.ctx

/-- T_req, in nanowatts: with the estimate of the admission that is first in line. -/
def powerRequest (s : State) : Nat :=
  let more := match nextInLine s with
    | some p => strandPower p.image
    | none => 0
  max (s.power.setW * 1000000000) (1000 * (loadPower s + more))

/-- The most by which T moves in a rotation, in nanowatts. -/
def rampStep (s : State) : Nat := max 5 (min 100 s.power.rampWps) * 1000000 / s.rate

/-- BAND_PCT as it acts. -/
def bandPct (p : Power) : Nat := max 2 (min 20 p.bandPct)

/-- T after its move. -/
def rampTarget (s : State) : Nat :=
  let t := s.power.target
  let r := powerRequest s
  if t ≤ r then min r (t + rampStep s) else max r (t - rampStep s)

/-- The target moves, and firmware moves the idle load toward it; the beads of the Strand that is first in line are filled
first. The band flags follow: POWER_BAND is raised once, where the idle load is at its limit. -/
def powerStep (s : State) : State :=
  let x := s.fresh
  let t := rampTarget s
  let s := match nextInLine s with
    | some p => openBlock p.ctx p.image x.2
    | none => x.2
  let old := s.power
  let p := feedback x.1 t s
  let low := decide (p.pMeas * 100000000000 < t * (100 - bandPct p)) && (p.bandLow || idleFull s p.idle)
  let high := decide (t * (100 + bandPct p) < p.pMeas * 100000000000) && (p.bandHigh || (p.idle.isEmpty && p.blocks.isEmpty))
  let s := s.modPower fun _ => { p with target := t, idleW := idleWatts s p, bandLow := low, bandHigh := high }
  if (low && !old.bandLow) || (high && !old.bandHigh) then raise evPowerBand [] s else s

/-! ## ROTATION_BOUNDARY -/

/-- A follower whose admission conditions hold tells its lead so with the period that begins (R326, Table 11-3); the
manual does not say how often: at every boundary (DESIGN CHOICE, log entry 39). -/
def sendReady (s : State) : State :=
  if (s.pair.regs.role = .pendant ∧ s.pair.regs.state = .lockstep ∨ s.pair.regs.role = .joining ∧ 4 ≤ s.pair.join.step)
      ∧ s.startup.quiesce.used = false ∧ s.health.now ≠ .failed ∧ s.locket.rngFailed = false ∧ s.strands.pendings.isEmpty
      ∧ 1000 * loadPower s ≤ s.power.target then
    sendItem 5 0 (leBytes 4 (s.period + 1).toNat) s
  else s

/-- The work of this rotation boundary is done. -/
def boundaryDone (s : State) : State := { s with rotDone := true }

/-- Releases, substitutions and admissions in the order of R35, the exchange of roles, the epochs and the power ramp. -/
def boundaryWork (s : State) : State :=
  let s := endBead s
  let s := (span 1 16).foldl (fun t c => if releaseIsDue t c then releaseNow c t else t) s
  let s := (List.range 4).foldl (fun t d => spareSwap d t) s
  let s := s.strands.pendings.foldl (fun t p => admissionEffect p.ctx t) s
  boundaryDone (sendReady (powerStep (roleExchange (epochBeat (epochRaise s)))))

/-- ROTATION_BOUNDARY: once for each rotation, in its last bead. -/
def rotationBoundary (s : State) : State := when_ (s.startup.counting && atBoundary s) boundaryWork s

/-! ## The next rotation -/

/-- The counts of silent members (R342). -/
def turnSilence (x : Silence) : Silence :=
  { count := if x.got then 0 else if x.missed then x.count + 1 else x.count, missed := false, got := false }

/-- Contexts whose outputs are withheld for the whole of the rotation that begins: a trip in force (R371), a declared set that
has no measurement (R397), no sea key (R398), a split sea without the token (R342). -/
def startsWithheld (s : State) (c : CtxNo) : Bool :=
  let x := s.ctx c
  s.running c &&
    (s.thermal.tripped || match x.record with
      | some r =>
        decide ((r.weights ≠ zeros 32 ∧ x.sec.mWeights = zeros 32) ∨ (r.charms ≠ zeros 32 ∧ x.sec.mCharms = zeros 32))
          || (r.sea && x.sec.seaKey.isNone)
      | none => false
    || (s.fabric.split && !s.mgmt.seaToken.held && (fabricCtxs s).contains c))

/-- A context at the start of a rotation. -/
def turnCtx (s : State) (x : Ctx) : Ctx :=
  { x with withheld := false, rot := if x.admitBead < s.bead then x.rot + 1 else x.rot }

/-- A channel's uncorrectable errors of the last 24 hours exceed 16 (R166). -/
def ueHigh (s : State) : Bool := s.bezel.channels.any fun c => decide (16 < within s c.ueBeads)

/-- The rotation that begins; the bead counter already stands at its first bead. -/
def nextRotation (s : State) : State :=
  let p := s.period + 1
  let f := s.fabric
  let x := s.fresh
  let silent := f.silent.map fun m => (m.1, turnSilence m.2)
  let use := ((s.rotCount, s.thermal.useNow) :: s.thermal.use).take 65536
  let s := { x.2 with
    ctxs := s.ctxs.map (turnCtx s), clasps := s.clasps.map claspRotation, cells := ⟨some x.1, []⟩,
    period := p, rotCount := s.rotCount + 1, beadInRot := 0, rotLen := lrot s.rate p.toNat, rotDone := false,
    fabric := { f with silent := silent, split := f.split && silent.any (fun m => decide (64 ≤ m.2.count)),
                       wraps := if f.state = .locked ∧ p = 0 then f.wraps + 1 else f.wraps }
    thermal := { s.thermal with useNow := [], use := use }
    power := turnBlocks s.power
    clock := { s.clock with tailUsed := false }
    bezel := { s.bezel with channels := s.bezel.channels.map fun c => { c with noPatrol := if c.patrolled then 0 else c.noPatrol + 1, patrolled := false } }
    startup := { s.startup with facetsReleased := s.startup.facetsReleased || decide (9 ≤ s.startup.step) } }
  let s := (span 1 16).foldl (fun t c => if startsWithheld t c then withhold c t else t) s
  let s := (span 1 16).foldl (fun t c => scrubOther c t) s
  let s := gateCheck ((List.range (settingDies s.grade)).foldl (fun t d => retryCopy d t) s)
  let s := if s.health.ueRate && !ueHigh s then setHealth (fun h => { h with ueRate := false }) evMemUe s else s
  copyBoundary (rejoinDue (selfTests s))

/-- The bead counter goes on. -/
def nextBead (s : State) : State :=
  let s := { (copyStep (endSteps s)).modEvents fun e => { e with pendNow := [] } with bead := s.bead + 1 }
  oppStep (if s.beadInRot + 1 < s.rotLen then { s with beadInRot := s.beadInRot + 1 } else nextRotation s)

/-! ## The command -/

def execRotationBoundary (s : State) : Host.Outcome State Fault Refusal := ok (rotationBoundary s)

end Sys2Proof.Machine
end

