-- ==== Sys2Proof/Machine/Bead.lean ====
section
/-! DEFINITION. The bead boundary (R98, R99, R294, R295). -/

namespace Sys2Proof.Machine

/-! ## Step 1: effects become visible (R96, R99, R164) -/

/-- The physical Facet in which an error in scratch lies: the accessing Facet's own, or the one that the segment names. -/
def ueFacet (s : State) (c : CtxNo) (u : UnitNo) (seg off : Nat) : Option (Nat × Nat) :=
  let place := fun (f : Nat) => (f / 256, (s.spare (f / 256)).map.getD (f % 256) 0)
  match unitKind u with
  | some .facet | some .edge => some (place (unitIdx u))
  | _ =>
    match locateByte s c seg off false with
    | some k => if k / 2 ^ 48 = 1 then some (place (k % 2 ^ 48 / 2 ^ 18)) else none
    | none => none

/-- MEM_UE at the visibility bead of an access (R164, R166). -/
def showUe (c : CtxNo) (u : UnitNo) (seg off ch rank bank row : Nat) (s : State) : State :=
  let arg := BitVec.ofNat 8 seg :: leBytes 5 off
  let held := decide (c ≠ noHolder)
  if ch = 0xFF then noteFault c (ueFacet s c u seg off) (raiseCtx evMemUe c u arg s)
  else
    let s := raiseAt evMemUe (if held then some c else none) u 0xFFFF held true
      (arg ++ [BitVec.ofNat 8 ch, BitVec.ofNat 8 (8 * rank + bank)] ++ leBytes 3 row) s
    let s := if held then noteLocalFault c s else s
    let lines := match ownLine s c seg off with
      | some l => if l.1 = ch then [l.2] else []
      | none => []
    let s := s.modChan (fun k =>
      { k with ue := k.ue + 1, ueBeads := noteBead s.bead k.ueBeads, repair := k.repair ++ lines.filter fun l => !k.repair.contains l }) ch
    if ueHigh s then setHealth (fun h => { h with ueRate := true }) evMemUe s else s

/-- One effect becomes visible. -/
def showEffect (e : Effect) (s : State) : State :=
  let s := markDirty (effectGranules s e) s
  match e.kind with
  | .bytes ws => ws.foldl (fun t w => storePut w.1 w.2 t) s
  | .line ch u pay chk => putLine ch u pay chk (keepOld ch u s)
  | .regs off data =>
    (chunks 4 data).zipIdx.foldl (fun t w =>
      let o := off + 4 * w.2
      if t.startup.ready || earlyBlock o then writeReg o (BitVec.ofNat 32 (leNat w.1)) t else t) s
  | .liveSet w rows => liveSet w e.ctx rows s
  | .liveClr w m => liveClr w m s
  | .memUe seg off ch rank bank row => showUe e.ctx e.unit seg off ch rank bank row s
  | .hostWrite .. => s

/-- A host write, which is an input (R163). -/
def isHostWrite (e : Effect) : Bool := match e.kind with | .hostWrite .. => true | _ => false

/-- Of two effects the first stands before the second: it began earlier or, in one bead, on the higher unit (R99). -/
def effectBefore (a b : Effect) : Bool := decide (a.began < b.began ∨ (a.began = b.began ∧ b.unit ≤ a.unit))

/-- The effects whose visibility bead this is, in the order in which they are written. -/
def dueEffects (s : State) : List Effect :=
  sortBy effectBefore ((s.effects.filter fun e => decide (e.due ≤ s.bead) && !isHostWrite e).reverse)

/-- Step 1 of R98. -/
def showEffects (s : State) : State :=
  (dueEffects s).foldl (fun t e => showEffect e t)
    { s with effects := s.effects.filter fun e => decide (s.bead < e.due) || isHostWrite e }

/-! ## Step 2: inputs take effect (R294, R295, R299) -/

/-- The MGMT record of a latched management input. -/
def castMgmt (k : InputKind) (sub : Nat) (s : State) : State :=
  match mgmtRecord k with
  | some r => castPut 0x50 10 0xFF 0 s.bead sub s.period r s
  | none => s

/-- A latched input takes effect; `sub` is its suborder. A management input of the lead is recorded on its partner and does nothing
else there: admissions, releases and exchanges come in ADMIT items (R326, R432), and a discrete input is the lead's own. -/
def applyInput (k : InputKind) (sub : Nat) (s : State) : State :=
  let s := castMgmt k sub s
  match k with
  | .cancel c q => applyCancel c q sub s
  | .request c e => applyRequest c e sub s
  | .index o v => applyIndex o v sub s
  | .sigReq regs => requestBegin regs sub s
  | .strCmd op c image record =>
    if op = 1 then latchAdmit .strBlock image record none s else latchRelease .strBlock c (decide (op = 3)) s
  | .mgmtAdmit conn arg record image => mgmtAdmit conn arg record image s
  | .mgmtRelease conn c forced => latchRelease (.mgmt conn) c forced s
  | .mgmtToken conn kind action serial lease => mgmtToken conn kind action serial lease s
  | .mgmtSwap conn p => mgmtSwap conn p s
  | .pin n asserted => pinEffect n asserted s
  | .relayed _ => s

/-- Inputs and host writes whose bead this is: source, place in the order of arrival, recorded suborder, and what they
do. -/
def dueInputs (s : State) : List (Nat × Nat × Option Nat × (Nat → State → State)) :=
  let ins := (s.inbox.filter fun i => decide (i.latch ≤ s.bead)).map fun i => (i.source, i.seq, i.suborder, applyInput i.kind)
  let ws := s.effects.filterMap fun e =>
    match e.kind with
    | .hostWrite n x data lines seq =>
      if e.due ≤ s.bead then
        some (9, seq, none, fun sub t => applyHostWrite n x data lines (e.due - 18) sub (markDirty (effectGranules t e) t))
      else none
    | _ => none
  sortBy (fun a b => decide (a.1 < b.1 ∨ (a.1 = b.1 ∧ a.2.1 ≤ b.2.1))) (ins ++ ws)

/-- Step 2 of R98, but for the masks: each source numbers its own inputs. -/
def takeInputs (s : State) : State :=
  let l := dueInputs s
  let s := { s with inbox := s.inbox.filter fun i => decide (s.bead < i.latch),
                    effects := s.effects.filter fun e => !(isHostWrite e && decide (e.due ≤ s.bead)) }
  let r := l.foldl (fun (x : Nat × Nat × State) i =>
    let n := if x.1 = i.1 then x.2.1 else 0
    (i.1, n + 1, i.2.2.2 (i.2.2.1.getD n) x.2.2)) (0, 0, s)
  requestChain r.2.2

/-! ## BEAD_BOUNDARY -/

/-- The boundary from the present bead to the next. -/
def boundary (s : State) : State :=
  let s := nextBead (endBead (rotationBoundary s))
  let s := loupeBegin (beginCues (andMasks (takeInputs (showEffects s))))
  fabUnclaimed (sendProbes ((sendCell s).modLink fun l => { l with cellNow := false }))

/-- BEAD_BOUNDARY: while the bead counter runs (R292). -/
def execBeadBoundary (s : State) : Host.Outcome State Fault Refusal := ok (when_ s.startup.counting boundary s)

end Sys2Proof.Machine
end

