-- ==== Sys2Proof/Machine/Dispatch.lean ====
section
/-! DEFINITION. The one dispatch: one arm per command. -/

namespace Sys2Proof.Machine

def exec (i : Instr) (s : State) : Host.Outcome State Fault Refusal :=
  match i with
  | .beadBoundary => Sys2Proof.Machine.execBeadBoundary s
  | .rotationBoundary => Sys2Proof.Machine.execRotationBoundary s
  | .admissionTakesEffect ctx => Sys2Proof.Machine.execAdmissionTakesEffect ctx s
  | .releaseTakesEffect ctx => Sys2Proof.Machine.execReleaseTakesEffect ctx s
  | .contextKeyDestroy ctx => Sys2Proof.Machine.execContextKeyDestroy ctx s
  | .scrubWrite ch => Sys2Proof.Machine.execScrubWrite ch s
  | .scrubCompletion ctx => Sys2Proof.Machine.execScrubCompletion ctx s
  | .idle u => Sys2Proof.Machine.execIdle u s
  | .idleLoad u => Sys2Proof.Machine.execIdleLoad u s
  | .mac u => Sys2Proof.Machine.execMac u s
  | .macClr u => Sys2Proof.Machine.execMacClr u s
  | .round u => Sys2Proof.Machine.execRound u s
  | .lsumOut u => Sys2Proof.Machine.execLsumOut u s
  | .lsumIn u => Sys2Proof.Machine.execLsumIn u s
  | .clear u => Sys2Proof.Machine.execClear u s
  | .copy u => Sys2Proof.Machine.execCopy u s
  | .fill u => Sys2Proof.Machine.execFill u s
  | .read u => Sys2Proof.Machine.execRead u s
  | .write u => Sys2Proof.Machine.execWrite u s
  | .add u => Sys2Proof.Machine.execAdd u s
  | .sub u => Sys2Proof.Machine.execSub u s
  | .mul u => Sys2Proof.Machine.execMul u s
  | .fma u => Sys2Proof.Machine.execFma u s
  | .min u => Sys2Proof.Machine.execMin u s
  | .max u => Sys2Proof.Machine.execMax u s
  | .abs u => Sys2Proof.Machine.execAbs u s
  | .neg u => Sys2Proof.Machine.execNeg u s
  | .cmpEq u => Sys2Proof.Machine.execCmpEq u s
  | .cmpLt u => Sys2Proof.Machine.execCmpLt u s
  | .cmpLe u => Sys2Proof.Machine.execCmpLe u s
  | .rcp u => Sys2Proof.Machine.execRcp u s
  | .rsqrt u => Sys2Proof.Machine.execRsqrt u s
  | .sqrt u => Sys2Proof.Machine.execSqrt u s
  | .exp2 u => Sys2Proof.Machine.execExp2 u s
  | .log2 u => Sys2Proof.Machine.execLog2 u s
  | .sin2pi u => Sys2Proof.Machine.execSin2pi u s
  | .cos2pi u => Sys2Proof.Machine.execCos2pi u s
  | .cvtFromI32 u => Sys2Proof.Machine.execCvtFromI32 u s
  | .cvtToI32 u => Sys2Proof.Machine.execCvtToI32 u s
  | .fromBf16 u => Sys2Proof.Machine.execFromBf16 u s
  | .fromE4m3 u => Sys2Proof.Machine.execFromE4m3 u s
  | .fromE5m2 u => Sys2Proof.Machine.execFromE5m2 u s
  | .fromI8 u => Sys2Proof.Machine.execFromI8 u s
  | .fromI4 u => Sys2Proof.Machine.execFromI4 u s
  | .toBf16 u => Sys2Proof.Machine.execToBf16 u s
  | .toE4m3 u => Sys2Proof.Machine.execToE4m3 u s
  | .toE5m2 u => Sys2Proof.Machine.execToE5m2 u s
  | .toI8 u => Sys2Proof.Machine.execToI8 u s
  | .toI4 u => Sys2Proof.Machine.execToI4 u s
  | .vecCopy u => Sys2Proof.Machine.execVecCopy u s
  | .pick u => Sys2Proof.Machine.execPick u s
  | .tadd u => Sys2Proof.Machine.execTadd u s
  | .tmin u => Sys2Proof.Machine.execTmin u s
  | .tmax u => Sys2Proof.Machine.execTmax u s
  | .pack u => Sys2Proof.Machine.execPack u s
  | .loop u => Sys2Proof.Machine.execLoop u s
  | .arms u => Sys2Proof.Machine.execArms u s
  | .mload u => Sys2Proof.Machine.execMload u s
  | .mlogic u => Sys2Proof.Machine.execMlogic u s
  | .mset u => Sys2Proof.Machine.execMset u s
  | .hold u => Sys2Proof.Machine.execHold u s
  | .attn u => Sys2Proof.Machine.execAttn u s
  | .merge u => Sys2Proof.Machine.execMerge u s
  | .bwd u => Sys2Proof.Machine.execBwd u s
  | .init u => Sys2Proof.Machine.execInit u s
  | .select u => Sys2Proof.Machine.execSelect u s
  | .writeKv u => Sys2Proof.Machine.execWriteKv u s
  | .group u => Sys2Proof.Machine.execGroup u s
  | .fetch u => Sys2Proof.Machine.execFetch u s
  | .walk u => Sys2Proof.Machine.execWalk u s
  | .insert u => Sys2Proof.Machine.execInsert u s
  | .conv u => Sys2Proof.Machine.execConv u s
  | .reform u => Sys2Proof.Machine.execReform u s
  | .fsend u => Sys2Proof.Machine.execFsend u s
  | .frecv u => Sys2Proof.Machine.execFrecv u s
  | .fxch u => Sys2Proof.Machine.execFxch u s
  | .fabricPacketReceive port packet transit => Sys2Proof.Machine.execFabricPacketReceive port packet transit s
  | .rqTake u => Sys2Proof.Machine.execRqTake u s
  | .srecPut u => Sys2Proof.Machine.execSrecPut u s
  | .liveSet u => Sys2Proof.Machine.execLiveSet u s
  | .liveClr u => Sys2Proof.Machine.execLiveClr u s
  | .stateGet u => Sys2Proof.Machine.execStateGet u s
  | .crecv u => Sys2Proof.Machine.execCrecv u s
  | .csend u => Sys2Proof.Machine.execCsend u s
  | .stepRecordDelivery ctx => Sys2Proof.Machine.execStepRecordDelivery ctx s
  | .rqTailWrite ctx value => Sys2Proof.Machine.execRqTailWrite ctx value s
  | .requestFetch ctx reply => Sys2Proof.Machine.execRequestFetch ctx reply s
  | .requestLatch ctx => Sys2Proof.Machine.execRequestLatch ctx s
  | .cancel ctx hi => Sys2Proof.Machine.execCancel ctx hi s
  | .srTailWrite ctx value => Sys2Proof.Machine.execSrTailWrite ctx value s
  | .apertureWrite offset data poisoned => Sys2Proof.Machine.execApertureWrite offset data poisoned s
  | .apertureRead offset len => Sys2Proof.Machine.execApertureRead offset len s
  | .hostSlotAccess ch => Sys2Proof.Machine.execHostSlotAccess ch s
  | .patrol ch => Sys2Proof.Machine.execPatrol ch s
  | .patrolStarved ch => Sys2Proof.Machine.execPatrolStarved ch s
  | .ueLineRepair ch plain => Sys2Proof.Machine.execUeLineRepair ch plain s
  | .mr4Read ch code => Sys2Proof.Machine.execMr4Read ch code s
  | .claspFrameReceive port frame => Sys2Proof.Machine.execClaspFrameReceive port frame s
  | .blockLockGain port headers => Sys2Proof.Machine.execBlockLockGain port headers s
  | .blockLockLoss port headers => Sys2Proof.Machine.execBlockLockLoss port headers s
  | .claspLatch port => Sys2Proof.Machine.execClaspLatch port s
  | .claspFrameDecision port => Sys2Proof.Machine.execClaspFrameDecision port s
  | .claspFrameSend port => Sys2Proof.Machine.execClaspFrameSend port s
  | .claspAlignment port => Sys2Proof.Machine.execClaspAlignment port s
  | .claspAlignComplete port m => Sys2Proof.Machine.execClaspAlignComplete port m s
  | .claspRelease port => Sys2Proof.Machine.execClaspRelease port s
  | .signetComplete engine => Sys2Proof.Machine.execSignetComplete engine s
  | .signetRequest value => Sys2Proof.Machine.execSignetRequest value s
  | .castLineWrite => Sys2Proof.Machine.execCastLineWrite s
  | .castEnWrite value => Sys2Proof.Machine.execCastEnWrite value s
  | .castFreeze => Sys2Proof.Machine.execCastFreeze s
  | .castFreezeComplete => Sys2Proof.Machine.execCastFreezeComplete s
  | .replayRingRead => Sys2Proof.Machine.execReplayRingRead s
  | .replayFeed => Sys2Proof.Machine.execReplayFeed s
  | .twinCellReceive cell => Sys2Proof.Machine.execTwinCellReceive cell s
  | .twinInput item => Sys2Proof.Machine.execTwinInput item s
  | .twinSignet item => Sys2Proof.Machine.execTwinSignet item s
  | .signetMissing ctx => Sys2Proof.Machine.execSignetMissing ctx s
  | .faultHuntDone ctx leadFault => Sys2Proof.Machine.execFaultHuntDone ctx leadFault s
  | .twinCommit ctx step srHead => Sys2Proof.Machine.execTwinCommit ctx step srHead s
  | .twinAdmit boundary grant => Sys2Proof.Machine.execTwinAdmit boundary grant s
  | .twinRelease boundary ctx => Sys2Proof.Machine.execTwinRelease boundary ctx s
  | .twinForcedRelease boundary ctx => Sys2Proof.Machine.execTwinForcedRelease boundary ctx s
  | .twinKeys ctx keys => Sys2Proof.Machine.execTwinKeys ctx keys s
  | .twinRoleSwap boundary => Sys2Proof.Machine.execTwinRoleSwap boundary s
  | .roleExchange => Sys2Proof.Machine.execRoleExchange s
  | .twinReady period => Sys2Proof.Machine.execTwinReady period s
  | .twinWithheld ctx period code => Sys2Proof.Machine.execTwinWithheld ctx period code s
  | .twinDirty granules => Sys2Proof.Machine.execTwinDirty granules s
  | .twinSync ctx granule data => Sys2Proof.Machine.execTwinSync ctx granule data s
  | .twinReport report => Sys2Proof.Machine.execTwinReport report s
  | .twinReportSend => Sys2Proof.Machine.execTwinReportSend s
  | .missedHeartbeat => Sys2Proof.Machine.execMissedHeartbeat s
  | .promotionComplete => Sys2Proof.Machine.execPromotionComplete s
  | .epochBeat => Sys2Proof.Machine.execEpochBeat s
  | .promotionConfirm => Sys2Proof.Machine.execPromotionConfirm s
  | .detachedRetake => Sys2Proof.Machine.execDetachedRetake s
  | .epochRaise => Sys2Proof.Machine.execEpochRaise s
  | .pairListenEnd heard => Sys2Proof.Machine.execPairListenEnd heard s
  | .selftestSubstitution => Sys2Proof.Machine.execSelftestSubstitution s
  | .seaSplit member => Sys2Proof.Machine.execSeaSplit member s
  | .joinLinkTrained cert share levels => Sys2Proof.Machine.execJoinLinkTrained cert share levels s
  | .counterAdopt bead period => Sys2Proof.Machine.execCounterAdopt bead period s
  | .shadowAdmission grants => Sys2Proof.Machine.execShadowAdmission grants s
  | .granuleCopy => Sys2Proof.Machine.execGranuleCopy s
  | .joinConverge => Sys2Proof.Machine.execJoinConverge s
  | .resyncStalled => Sys2Proof.Machine.execResyncStalled s
  | .traySeatChange asserted => Sys2Proof.Machine.execTraySeatChange asserted s
  | .coolOkChange asserted => Sys2Proof.Machine.execCoolOkChange asserted s
  | .quiesceNChange asserted => Sys2Proof.Machine.execQuiesceNChange asserted s
  | .pairSlotChange value => Sys2Proof.Machine.execPairSlotChange value s
  | .chatterEnd pin => Sys2Proof.Machine.execChatterEnd pin s
  | .clockMonitorWindow w => Sys2Proof.Machine.execClockMonitorWindow w s
  | .referenceChange => Sys2Proof.Machine.execReferenceChange s
  | .referenceLock => Sys2Proof.Machine.execReferenceLock s
  | .oppRequest value => Sys2Proof.Machine.execOppRequest value s
  | .oppChange => Sys2Proof.Machine.execOppChange s
  | .sscStart => Sys2Proof.Machine.execSscStart s
  | .sensorSample x => Sys2Proof.Machine.execSensorSample x s
  | .spareSwap die => Sys2Proof.Machine.execSpareSwap die s
  | .spareStarved die => Sys2Proof.Machine.execSpareStarved die s
  | .channelStop pkg => Sys2Proof.Machine.execChannelStop pkg s
  | .channelRestart pkg => Sys2Proof.Machine.execChannelRestart pkg s
  | .tripClear => Sys2Proof.Machine.execTripClear s
  | .getCert ctx => Sys2Proof.Machine.execGetCert ctx s
  | .kxBegin ctx => Sys2Proof.Machine.execKxBegin ctx s
  | .kxFinish ctx => Sys2Proof.Machine.execKxFinish ctx s
  | .report ctx => Sys2Proof.Machine.execReport ctx s
  | .package ctx => Sys2Proof.Machine.execPackage ctx s
  | .end_ ctx => Sys2Proof.Machine.execEnd ctx s
  | .mgmtConnect req => Sys2Proof.Machine.execMgmtConnect req s
  | .mgmtIdleClose conn => Sys2Proof.Machine.execMgmtIdleClose conn s
  | .status conn => Sys2Proof.Machine.execStatus conn s
  | .eventsRead conn index => Sys2Proof.Machine.execEventsRead conn index s
  | .logRead conn index => Sys2Proof.Machine.execLogRead conn index s
  | .healthClear conn => Sys2Proof.Machine.execHealthClear conn s
  | .mgmtAdmit conn arg record => Sys2Proof.Machine.execAdmit conn arg record s
  | .release conn ctx forced => Sys2Proof.Machine.execRelease conn ctx forced s
  | .imgPiece conn offset data => Sys2Proof.Machine.execImgPiece conn offset data s
  | .token conn kind action serial lease => Sys2Proof.Machine.execToken conn kind action serial lease s
  | .tokenLeaseExpiry kind => Sys2Proof.Machine.execTokenLeaseExpiry kind s
  | .debugToken conn data => Sys2Proof.Machine.execDebugToken conn data s
  | .hmPiece conn index data => Sys2Proof.Machine.execHmPiece conn index data s
  | .hmStatus conn => Sys2Proof.Machine.execHmStatus conn s
  | .hmArm conn => Sys2Proof.Machine.execHmArm conn s
  | .hmDisarm conn => Sys2Proof.Machine.execHmDisarm conn s
  | .hmConfirm conn => Sys2Proof.Machine.execHmConfirm conn s
  | .hmAutoConfirm => Sys2Proof.Machine.execHmAutoConfirm s
  | .roleSwap conn boundary => Sys2Proof.Machine.execRoleSwap conn boundary s
  | .reset conn => Sys2Proof.Machine.execReset conn s
  | .moduleReset => Sys2Proof.Machine.execModuleReset s
  | .castExport conn offset => Sys2Proof.Machine.execCastExport conn offset s
  | .castImport conn offset data => Sys2Proof.Machine.execCastImport conn offset data s
  | .rootSet conn operatorRoot observerRoot signature => Sys2Proof.Machine.execRootSet conn operatorRoot observerRoot signature s
  | .replaceRequest => Sys2Proof.Machine.execReplaceRequest s
  | .healthLogWrite => Sys2Proof.Machine.execHealthLogWrite s
  | .strAdmit fetched => Sys2Proof.Machine.execStrAdmit fetched s
  | .strRelease ctx => Sys2Proof.Machine.execStrRelease ctx s
  | .strForcedRelease ctx => Sys2Proof.Machine.execStrForcedRelease ctx s
  | .form => Sys2Proof.Machine.execForm s
  | .seaFormationComplete locked moved transits => Sys2Proof.Machine.execSeaFormationComplete locked moved transits s
  | .leave => Sys2Proof.Machine.execLeave s
  | .evtPendClear g value => Sys2Proof.Machine.execEvtPendClear g value s
  | .eventMsi => Sys2Proof.Machine.execEventMsi s
  | .loupeCtlWrite value => Sys2Proof.Machine.execLoupeCtlWrite value s
  | .jtagInstruction codes => Sys2Proof.Machine.execJtagInstruction codes s
  | .pcieLinkDown => Sys2Proof.Machine.execPcieLinkDown s
  | .registerWrite offset width value => Sys2Proof.Machine.execRegisterWrite offset width value s
  | .powerGood clockWord => Sys2Proof.Machine.execPowerGood clockWord s
  | .crystalStable windows => Sys2Proof.Machine.execCrystalStable windows s
  | .crystalFallback firstEdge window => Sys2Proof.Machine.execCrystalFallback firstEdge window s
  | .rootPllLock straps seat cool quiesce => Sys2Proof.Machine.execRootPllLock straps seat cool quiesce s
  | .loaderStart trngOk regions => Sys2Proof.Machine.execLoaderStart trngOk regions s
  | .traySeatHold => Sys2Proof.Machine.execTraySeatHold s
  | .lp4xTrainingComplete attempts => Sys2Proof.Machine.execLp4xTrainingComplete attempts s
  | .alignmentEdge => Sys2Proof.Machine.execAlignmentEdge s
  | .alignmentCheckDone pass => Sys2Proof.Machine.execAlignmentCheckDone pass s
  | .facetTestComplete failed => Sys2Proof.Machine.execFacetTestComplete failed s
  | .startupReady settings eBase => Sys2Proof.Machine.execStartupReady settings eBase s
  | .verificationComplete ctx => Sys2Proof.Machine.execVerificationComplete ctx s
  | .pcieLinkUp => Sys2Proof.Machine.execPcieLinkUp s
  | .powerLoss => Sys2Proof.Machine.execPowerLoss s
  | .lowHalfRead access => Sys2Proof.Machine.execLowHalfRead access s

end Sys2Proof.Machine
end

