-- ==== Sys2Proof/WellFormed.lean ====
section
/-! DEFINITION. Which commands are well formed: numbers in the ranges that the manual gives, byte strings of the lengths
that it gives. The meanings are total; an ill-formed command changes nothing or is read as far as it goes. -/

namespace Sys2Proof

/-- How many units of each kind the largest grade has, in kind-code order (Table 3-1). -/
def unitBounds : List Nat := [1024, 1024, 32, 8, 16, 48, 12, 6, 3, 4, 4, 1]

/-- A unit number of some grade (R66). -/
def unitOk (u : UnitNo) : Bool :=
  match unitBounds[u / 4096]? with
  | some n => decide (u % 4096 < n)
  | none => false

/-- A unit number of the kind with code `k`. -/
def unitOf (k : Nat) (u : UnitNo) : Bool := decide (u / 4096 = k) && unitOk u

/-- A context number (R382, R465). -/
def ctxOk (c : CtxNo) : Bool := decide (c < 16)

/-- A context other than context 0. -/
def userCtx (c : CtxNo) : Bool := decide (1 ≤ c ∧ c < 16)

def portOk (p : Nat) : Bool := decide (p < 4)
def channelOk (ch : Nat) : Bool := decide (ch < 48)
def dieOk (d : Nat) : Bool := decide (d < 4)
def packageOk (k : Nat) : Bool := decide (k < 12)

/-- A byte string of exactly `n` bytes. -/
def hasLength (n : Nat) (b : Bytes) : Bool := decide (b.length = n)

/-- A byte string of 1 to `n` bytes. -/
def upTo (n : Nat) (b : Bytes) : Bool := decide (1 ≤ b.length ∧ b.length ≤ n)

/-- Grants name segments below 64 and keep to the 160-byte record (Tables 5-3, 13-2). -/
def grantOk (g : GrantRecord) : Bool :=
  userCtx g.ctx && hasLength 160 g.record && g.segBases.all fun x => decide (x.1 < 64)

/-- The well-formed commands. -/
def Instr.wf : Instr → Bool
  | .beadBoundary => true
  | .rotationBoundary => true
  | .admissionTakesEffect c => userCtx c
  | .releaseTakesEffect c => userCtx c
  | .contextKeyDestroy c => userCtx c
  | .scrubWrite ch => channelOk ch
  | .scrubCompletion c => userCtx c
  | .idle u => unitOk u
  | .idleLoad u => unitOk u
  | .mac u => unitOf 0 u
  | .macClr u => unitOf 0 u
  | .round u => unitOf 0 u
  | .lsumOut u => unitOf 0 u
  | .lsumIn u => unitOf 0 u
  | .clear u => unitOf 0 u
  | .copy u => unitOf 4 u
  | .fill u => unitOf 4 u
  | .read u => unitOf 5 u
  | .write u => unitOf 5 u
  | .add u => unitOf 1 u
  | .sub u => unitOf 1 u
  | .mul u => unitOf 1 u
  | .fma u => unitOf 1 u
  | .min u => unitOf 1 u
  | .max u => unitOf 1 u
  | .abs u => unitOf 1 u
  | .neg u => unitOf 1 u
  | .cmpEq u => unitOf 1 u
  | .cmpLt u => unitOf 1 u
  | .cmpLe u => unitOf 1 u
  | .rcp u => unitOf 1 u
  | .rsqrt u => unitOf 1 u
  | .sqrt u => unitOf 1 u
  | .exp2 u => unitOf 1 u
  | .log2 u => unitOf 1 u
  | .sin2pi u => unitOf 1 u
  | .cos2pi u => unitOf 1 u
  | .cvtFromI32 u => unitOf 1 u
  | .cvtToI32 u => unitOf 1 u
  | .fromBf16 u => unitOf 1 u
  | .fromE4m3 u => unitOf 1 u
  | .fromE5m2 u => unitOf 1 u
  | .fromI8 u => unitOf 1 u
  | .fromI4 u => unitOf 1 u
  | .toBf16 u => unitOf 1 u
  | .toE4m3 u => unitOf 1 u
  | .toE5m2 u => unitOf 1 u
  | .toI8 u => unitOf 1 u
  | .toI4 u => unitOf 1 u
  | .vecCopy u => unitOf 1 u
  | .pick u => unitOf 1 u
  | .tadd u => unitOf 1 u
  | .tmin u => unitOf 1 u
  | .tmax u => unitOf 1 u
  | .pack u => unitOf 1 u
  | .loop u => unitOk u
  | .arms u => unitOk u
  | .mload u => unitOk u
  | .mlogic u => unitOk u
  | .mset u => unitOk u
  | .hold u => unitOk u
  | .attn u => unitOf 2 u
  | .merge u => unitOf 2 u
  | .bwd u => unitOf 2 u
  | .init u => unitOf 6 u
  | .select u => unitOf 6 u
  | .writeKv u => unitOf 6 u
  | .group u => unitOf 7 u
  | .fetch u => unitOf 7 u
  | .walk u => unitOf 8 u
  | .insert u => unitOf 8 u
  | .conv u => unitOf 3 u
  | .reform u => unitOf 3 u
  | .fsend u => unitOf 10 u
  | .frecv u => unitOf 10 u
  | .fxch u => unitOf 10 u
  | .fabricPacketReceive p _ _ => portOk p
  | .rqTake u => unitOf 11 u
  | .srecPut u => unitOf 11 u
  | .liveSet u => unitOf 11 u
  | .liveClr u => unitOf 11 u
  | .stateGet u => unitOf 11 u
  | .crecv u => unitOf 9 u
  | .csend u => unitOf 9 u
  | .stepRecordDelivery c => ctxOk c
  | .rqTailWrite c _ => ctxOk c
  | .requestFetch c r => ctxOk c && (match r with | .entry d t => hasLength 64 d && hasLength 16 t | .poisoned => true)
  | .requestLatch c => ctxOk c
  | .cancel c _ => ctxOk c
  | .srTailWrite c _ => ctxOk c
  | .apertureWrite o d _ => decide (o < 2 ^ 36) && upTo 4096 d
  | .apertureRead o n => decide (o < 2 ^ 36 ∧ 1 ≤ n ∧ n ≤ 4096)
  | .hostSlotAccess ch => channelOk ch
  | .patrol ch => channelOk ch
  | .patrolStarved ch => channelOk ch
  | .ueLineRepair ch b => channelOk ch && hasLength 1024 b
  | .mr4Read ch _ => channelOk ch
  | .claspFrameReceive p _ => portOk p
  | .blockLockGain p h => portOk p && decide (64 ≤ h.length)
  | .blockLockLoss p h => portOk p && decide (64 ≤ h.length)
  | .claspLatch p => portOk p
  | .claspFrameDecision p => portOk p
  | .claspFrameSend p => portOk p
  | .claspAlignment p => portOk p
  | .claspAlignComplete p m => portOk p && decide (m.es.length = 64)
  | .claspRelease p => portOk p
  | .signetComplete e => decide (e < 8)
  | .signetRequest _ => true
  | .castLineWrite => true
  | .castEnWrite _ => true
  | .castFreeze => true
  | .castFreezeComplete => true
  | .replayRingRead => true
  | .replayFeed => true
  | .twinCellReceive b => hasLength 768 b
  | .twinInput i => ctxOk i.ctx
  | .twinSignet i => ctxOk i.ctx && hasLength 32 i.signet
  | .signetMissing c => ctxOk c
  | .faultHuntDone c _ => ctxOk c
  | .twinCommit c _ _ => ctxOk c
  | .twinAdmit _ g => grantOk g
  | .twinRelease _ c => userCtx c
  | .twinForcedRelease _ c => userCtx c
  | .twinKeys c b => userCtx c && hasLength 112 b
  | .twinRoleSwap _ => true
  | .roleExchange => true
  | .twinReady _ => true
  | .twinWithheld c _ _ => ctxOk c
  | .twinDirty gs => gs.all fun g => decide (g < 2 ^ 64)
  | .twinSync c g b => ctxOk c && decide (g < 2 ^ 64) && upTo 716 b
  | .twinReport b => hasLength 128 b
  | .twinReportSend => true
  | .missedHeartbeat => true
  | .promotionComplete => true
  | .epochBeat => true
  | .promotionConfirm => true
  | .detachedRetake => true
  | .epochRaise => true
  | .pairListenEnd h => (match h with | .startingPartner n => decide (n < 8) | _ => true)
  | .selftestSubstitution => true
  | .seaSplit _ => true
  | .joinLinkTrained q x _ => hasLength 64 q.signKey && hasLength 64 q.kxKey && hasLength 64 x.point && hasLength 32 x.confirm
  | .counterAdopt _ _ => true
  | .shadowAdmission gs => gs.all grantOk
  | .granuleCopy => true
  | .joinConverge => true
  | .resyncStalled => true
  | .traySeatChange _ => true
  | .coolOkChange _ => true
  | .quiesceNChange _ => true
  | .pairSlotChange _ => true
  | .chatterEnd _ => true
  | .clockMonitorWindow w => decide (w.claspOff.length = 4 ∧ w.claspNear.length = 4)
  | .referenceChange => true
  | .referenceLock => true
  | .oppRequest _ => true
  | .oppChange => true
  | .sscStart => true
  | .sensorSample x => decide (x.temps.length ≤ 82)
  | .spareSwap d => dieOk d
  | .spareStarved d => dieOk d
  | .channelStop k => packageOk k
  | .channelRestart k => packageOk k
  | .tripClear => true
  | .getCert c => userCtx c
  | .kxBegin c => userCtx c
  | .kxFinish c => userCtx c
  | .report c => userCtx c
  | .package c => userCtx c
  | .end_ c => userCtx c
  | .mgmtConnect q => decide (q.dest.length = 4 ∨ q.dest.length = 16)
  | .mgmtIdleClose _ => true
  | .status _ => true
  | .eventsRead _ i => decide (i < 2 ^ 64)
  | .logRead _ i => decide (i < 2 ^ 64)
  | .healthClear _ => true
  | .mgmtAdmit _ a r => hasLength 12 a && hasLength 160 r
  | .release _ c _ => ctxOk c
  | .imgPiece _ o d => decide (o < 2 ^ 32) && upTo 65536 d
  | .token _ k a _ l => decide (k < 256 ∧ a < 256 ∧ l < 65536)
  | .tokenLeaseExpiry k => decide (k < 256)
  | .debugToken _ d => upTo 65536 d
  | .hmPiece _ i d => decide (i < 65536) && hasLength 4096 d
  | .hmStatus _ => true
  | .hmArm _ => true
  | .hmDisarm _ => true
  | .hmConfirm _ => true
  | .hmAutoConfirm => true
  | .roleSwap _ _ => true
  | .reset _ => true
  | .moduleReset => true
  | .castExport _ o => decide (o < 2 ^ 64)
  | .castImport _ o d => decide (o < 2 ^ 64) && upTo 65536 d
  | .rootSet _ a b g => hasLength 32 a && hasLength 32 b && hasLength 64 g
  | .replaceRequest => true
  | .healthLogWrite => true
  | .strAdmit f => (match f with | some x => hasLength 160 x.2 | none => true)
  | .strRelease c => ctxOk c
  | .strForcedRelease c => ctxOk c
  | .form => true
  | .seaFormationComplete .. => true
  | .leave => true
  | .evtPendClear g _ => decide (g < 16)
  | .eventMsi => true
  | .loupeCtlWrite _ => true
  | .jtagInstruction c => decide (1 ≤ c.length)
  | .pcieLinkDown => true
  | .registerWrite o w _ => decide (o < 2 ^ 26 ∧ (w = 1 ∨ w = 2 ∨ w = 4 ∨ w = 8))
  | .powerGood _ => true
  | .crystalStable ws => decide (ws.length = 8)
  | .crystalFallback _ _ => true
  | .rootPllLock _ _ _ _ => true
  | .loaderStart _ r => decide (r.net.prefix_ ≤ 32) && hasLength 16 r.net.linkLocal && hasLength 16 r.net.ipv6
  | .traySeatHold => true
  | .lp4xTrainingComplete a => decide (a.length ≤ 48)
  | .alignmentEdge => true
  | .alignmentCheckDone _ => true
  | .facetTestComplete f => f.all fun x => decide (x < 4 * 512)
  | .startupReady ws _ => ws.all fun x => decide (x.1 < 2 ^ 26)
  | .verificationComplete c => userCtx c
  | .pcieLinkUp => true
  | .powerLoss => true
  | .lowHalfRead a => decide (a.offset < 2 ^ 26 ∧ (a.width = 1 ∨ a.width = 2 ∨ a.width = 4 ∨ a.width = 8))

end Sys2Proof
end

