-- ==== Sys2Proof/Safety.lean ====
section
/-! DEFINITION. What the statements call a sound state, and what every step keeps. -/

namespace Sys2Proof.Machine

/-- The three memories keep their canonical form (log entry 5). -/
def memCanon (s : State) : Prop := memWf s.store = true ∧ memWf s.lp4x = true ∧ memWf s.lp4xCheck = true

/-- The numbers of contexts, ring groups, Clasp ports and channel records stay those of the manual (R382, R235, R252,
R146). -/
def shapeOk (s : State) : Prop :=
  s.ctxs.length = 16 ∧ s.rings.length = 16 ∧ s.clasps.length = 4 ∧ s.bezel.channels.length = 48

/-- The bead stands within its rotation (R118). -/
def placed (s : State) : Prop := s.beadInRot < s.rotLen

/-- A state whose parts have their form. -/
def sound (s : State) : Prop := memCanon s ∧ shapeOk s ∧ placed s

/-- The cue that a unit has begun and not yet carried out in the present bead. -/
def begun (s : State) (u : UnitNo) (i : Issue) : Prop := (s.seq u).issue = some i

/-- The command goes on to a state with the property. -/
def answers (c : Instr) (s : State) (P : State → Prop) : Prop := ∃ t, exec c s = .next t ∧ P t

/-- Between two states the effects in flight have gained one, of the begun cue `i` of unit `u`, due `d` beads later. -/
def makes (d : Nat) (u : UnitNo) (i : Issue) (k : EffKind) (s t : State) : Prop :=
  t.effects = { due := s.bead + d, began := s.bead, unit := u, ctx := i.ctx, kind := k } :: s.effects

/-- The unit of a cue command. -/
def cueUnit (c : Instr) : Option UnitNo :=
  match c with
  | .idle u | .idleLoad u | .mac u | .macClr u | .round u | .lsumOut u | .lsumIn u | .clear u | .copy u | .fill u | .read u
  | .write u | .add u | .sub u | .mul u | .fma u | .min u | .max u | .abs u | .neg u | .cmpEq u | .cmpLt u | .cmpLe u
  | .rcp u | .rsqrt u | .sqrt u | .exp2 u | .log2 u | .sin2pi u | .cos2pi u | .cvtFromI32 u | .cvtToI32 u | .fromBf16 u
  | .fromE4m3 u | .fromE5m2 u | .fromI8 u | .fromI4 u | .toBf16 u | .toE4m3 u | .toE5m2 u | .toI8 u | .toI4 u | .vecCopy u
  | .pick u | .tadd u | .tmin u | .tmax u | .pack u | .loop u | .arms u | .mload u | .mlogic u | .mset u | .hold u | .attn u
  | .merge u | .bwd u | .init u | .select u | .writeKv u | .group u | .fetch u | .walk u | .insert u | .conv u | .reform u
  | .fsend u | .frecv u | .fxch u | .rqTake u | .srecPut u | .liveSet u | .liveClr u | .stateGet u | .crecv u | .csend u => some u
  | _ => none

/-- The command of a vector operation. -/
def vecCommand : VOp → UnitNo → Instr
  | .add => .add | .sub => .sub | .mul => .mul | .fma => .fma | .min => .min | .max => .max | .abs => .abs | .neg => .neg
  | .cmpEq => .cmpEq | .cmpLt => .cmpLt | .cmpLe => .cmpLe | .rcp => .rcp | .rsqrt => .rsqrt | .sqrt => .sqrt
  | .exp2 => .exp2 | .log2 => .log2 | .sin2pi => .sin2pi | .cos2pi => .cos2pi | .cvtFromI32 => .cvtFromI32
  | .cvtToI32 => .cvtToI32 | .fromBf16 => .fromBf16 | .fromE4m3 => .fromE4m3 | .fromE5m2 => .fromE5m2 | .fromI8 => .fromI8
  | .fromI4 => .fromI4 | .toBf16 => .toBf16 | .toE4m3 => .toE4m3 | .toE5m2 => .toE5m2 | .toI8 => .toI8 | .toI4 => .toI4
  | .copy => .vecCopy | .pick => .pick | .tadd => .tadd | .tmin => .tmin | .tmax => .tmax | .pack => .pack

/-- The engine operations but HOLD: unit kind, EOP and command. -/
def engCommands (u : UnitNo) : List (UnitKind × Nat × Instr) :=
  [(.garland, 1, .attn u), (.garland, 2, .merge u), (.garland, 3, .bwd u), (.scatter, 1, .init u), (.scatter, 2, .select u),
    (.scatter, 3, .writeKv u), (.charm, 1, .group u), (.charm, 2, .fetch u), (.pavilion, 1, .walk u), (.pavilion, 2, .insert u),
    (.cabochon, 1, .conv u), (.cabochon, 2, .reform u)]

/-- Between two states the event log has gained a record of the code, with the bead of the first. -/
def raised (code : Nat) (s t : State) : Prop :=
  ∃ new, t.events.log = new ++ s.events.log ∧ ∃ r ∈ new, r.code = code ∧ r.bead = s.bead

/-- More twin items of the kind wait to be sent than before. -/
def itemSent (kind : Nat) (s t : State) : Prop :=
  (s.pair.link.items.filter fun i => decide (i.kind.toNat % 128 = kind)).length
    < (t.pair.link.items.filter fun i => decide (i.kind.toNat % 128 = kind)).length

/-- Between two states one more input of the source waits, behind the others, for its latch bead (R294). -/
def latched (src : Nat) (k : InputKind) (s t : State) : Prop :=
  ∃ sub, t.inbox = s.inbox ++ [{ latch := latchBead s, source := src, kind := k, seq := s.bezel.posted, suborder := sub }]

/-- A ready module has an open connection of an operator with this number. -/
def operates (s : State) (id : Nat) : Prop :=
  s.startup.ready = true ∧ s.mgmt.hm.recovery = false
    ∧ ∃ c, s.mgmt.conns.find? (fun c => decide (c.id = id)) = some c ∧ c.operator = true ∧ c.bootstrap = false

/-- A run of `k` commands that meets neither a fault nor a refusal. -/
def runsSafely : Nat → State → Prop
  | 0, _ => True
  | k + 1, s => ∃ t, step s = .next t ∧ runsSafely k t

end Sys2Proof.Machine
end

