-- ==== Sys2Proof/Certificates/Slice0/Obligations.lean ====
section
/-! DEFINITION. The statements for the provers. -/

open Sys2Proof Sys2Proof.Machine

/-! ## The join and the sea -/

/-- TWIN_DIRTY (in part R345): a lead that copies will copy each reported granule (again).
TWIN_SYNC: data of a store granule are written where a mover of context 0 is free in the bead, and wait where none is.
GRANULE_COPY: a 1 KiB piece of the next granule goes out in SYNC items, of a store granule with a free mover, of an LP4X granule
in a slot start of context 0; after its fourth piece a store granule no longer waits.
The granule addresses, the pieces and the resource of each are the model's choices: log entries 15, 31. -/
def Obligations.GranulesMove : Prop :=
  (∀ (s : State) (gs : List Nat), s.pair.regs.role = .lead → copying s = true →
    answers (.twinDirty gs) s fun t =>
      (∀ g ∈ gs, g ∈ t.pair.join.dirty ∨ g ∈ t.pair.join.toCopy) ∧ t = { s with pair := t.pair })
  ∧ (∀ (s : State) (c : CtxNo) (g : Nat) (b : Bytes), s.follows = true → s.running c = true → 2 ^ 48 ≤ g → g < 2 ^ 52 →
      s.pair.join.waiting = [] → moverFree s = true →
    answers (.twinSync c g b) s fun t =>
      t.store = memWrite s.store g b ∧ t.pair.join.waiting = [] ∧ t.lp4x = s.lp4x ∧ t.ctxs = s.ctxs)
  ∧ (∀ (s : State) (c : CtxNo) (g : Nat) (b : Bytes), s.follows = true → s.running c = true → 2 ^ 48 ≤ g → g < 2 ^ 52 →
      s.pair.join.waiting = [] → moverFree s = false →
    answers (.twinSync c g b) s fun t => t.pair.join.waiting = [(c, g, b)] ∧ t.store = s.store ∧ t.lp4x = s.lp4x)
  ∧ (∀ (s : State) (g n : Nat) (r : List Nat), s.pair.regs.role = .lead → copying s = true → s.pair.join.toCopy = g :: r →
      s.pair.join.part = n → 2 ^ 48 ≤ g → g < 2 ^ 52 → moverFree s = true →
    answers .granuleCopy s fun t =>
      itemSent 8 s t ∧ (n < 3 → t.pair.join.part = n + 1 ∧ g ∈ t.pair.join.toCopy)
        ∧ (3 ≤ n → t.pair.join.part = 0 ∧ g ∉ t.pair.join.toCopy) ∧ t.store = s.store ∧ t.lp4x = s.lp4x)
  ∧ (∀ (s : State) (g ch u : Nat) (r : List Nat), s.pair.regs.role = .lead → copying s = true → s.pair.join.toCopy = g :: r →
      g < 2 ^ 48 → granuleLine s (g + pieceBytes * s.pair.join.part) = some (ch, u) → copyStart s ch = true →
      ch < s.bezel.channels.length →
    answers .granuleCopy s fun t => itemSent 8 s t ∧ slotTaken t ch = true ∧ t.store = s.store ∧ t.lp4x = s.lp4x)

/-- JOIN_LINK_TRAINED, COUNTER_ADOPT, SHADOW_ADMISSION: steps 1 to 4 of Table 11-6 (in part R344, R392): with 1,024 good cells the
members agree the pair key, or the join ends with PAIR_WIRING; at its boundary the joiner takes the lead's counters, and the lead
goes on; the joiner's shadow admissions and the lead's list of granules begin the copy.
JOIN_CONVERGE (in part R346): where all has been copied and written, both are in lockstep with RESYNC_DONE; a lead with a dirty
granule waits. RESYNC_STALLED is raised after 2^20 rotations, and the copy continues. The model's choices: log entries 15, 31. -/
def Obligations.JoinsRun : Prop :=
  (∀ (s : State) (q : PairCert) (x : PairShare) (ls : List Half), s.pair.join.step = 1 → 1024 ≤ s.pair.link.goodRun → s.locket.rngFailed = false →
      (∀ l ∈ ls, s.strands.ifaceMin ≤ l.toNat ∧ l.toNat ≤ s.strands.ifaceMax) → (drawNumber s).2.locket.rngFailed = false →
    (∀ k, pairKeyOf (drawNumber s).2 (drawNumber s).1 q x = some k →
      answers (.joinLinkTrained q x ls) s fun t =>
        t.pair.link.pairKey = some k ∧ t.pair.link.partnerId = sm3 q.signKey
          ∧ t.pair.join.step = if s.pair.regs.role = .joining ∧ s.clock.ref = .twin then 3 else 2)
    ∧ (pairKeyOf (drawNumber s).2 (drawNumber s).1 q x = none →
      answers (.joinLinkTrained q x ls) s fun t =>
        t.pair.join.step = 0 ∧ t.pair.link.pairKey = s.pair.link.pairKey ∧ raised evPairWiring s t))
  ∧ (∀ (s : State) (bead : DWord) (period : Word), s.pair.regs.role = .joining → s.pair.join.step = 3 → s.admitted = [] →
    answers (.counterAdopt bead period) s fun t =>
      t.bead = bead.toNat ∧ t.period = period ∧ t.beadInRot = 0 ∧ t.rotLen = lrot s.rate period.toNat ∧ t.pair.join.step = 4)
  ∧ (∀ (s : State) (bead : DWord) (period : Word), s.pair.regs.role = .lead → s.pair.join.step = 2 →
    answers (.counterAdopt bead period) s fun t => t.pair.join.step = 4 ∧ t.bead = s.bead ∧ t.period = s.period)
  ∧ (∀ (s : State) (gs : List GrantRecord), s.pair.join.step = 4 → s.pair.regs.role = .lead →
      (∀ c ∈ joinCtxs s, setAllows s c = true) →
    answers (.shadowAdmission gs) s fun t =>
      t.pair.join.step = 5 ∧ t.pair.join.since = some s.rotCount ∧ t.pair.join.dirty = []
        ∧ t.pair.join.toCopy = (joinCtxs s).flatMap (ctxGranules s) ∧ t.ctxs = s.ctxs)
  ∧ (∀ (s : State) (gs : List GrantRecord), s.pair.join.step = 4 → s.follows = true → atBoundary s = true →
      anyReleaseDue s = false → anySwapDue s = false →
    answers (.shadowAdmission gs) s fun t => t.pair.join.step = 5 ∧ t.pair.join.since.isSome ∧ t.pair.join.toCopy = [])
  ∧ (∀ s : State, s.beadInRot = 8 → copying s = true →
      (s.pair.regs.role = .lead → s.pair.join.cleanAt = some s.rotCount ∧ s.pair.join.toCopy = [] ∧ s.pair.join.dirty = []
        ∧ ∀ i ∈ s.pair.link.items, i.kind.toNat % 128 ≠ 8) →
      (s.pair.regs.role ≠ .lead → s.pair.join.waiting = []) →
    answers .joinConverge s fun t =>
      t.pair.regs.state = .lockstep ∧ t.pair.join.step = 6 ∧ t.pair.join.since = none
        ∧ t.pair.join.converged = some s.rotCount ∧ raised evResyncDone s t
        ∧ t.pair.regs.role = if s.pair.regs.role = .joining then .pendant else s.pair.regs.role)
  ∧ (∀ s : State, s.pair.regs.role = .lead → s.pair.join.dirty ≠ [] → answers .joinConverge s fun t => t = s)
  ∧ (∀ (s : State) (r : Nat), s.pair.join.since = some r → r + 2 ^ 20 ≤ s.rotCount →
    answers .resyncStalled s fun t =>
      raised evResyncStalled s t ∧ copying t = true ∧ t.pair.join.toCopy = s.pair.join.toCopy ∧ t.pair.join.dirty = s.pair.join.dirty)

/-- FORM (in part R119, R466): a member with its lock begins to form, any other module fails; a module that forms, or has a sea,
ignores it. SEA_FORMATION_COMPLETE (in part R119, R269): after 1,024 rotations it takes the period counter of the lowest-numbered
member and is LOCKED, where every member has its lock, none would change its numbering, and every transit is at most the latency
less 4 beads; where one of the other members fails this, or a transit is longer, it is FAILED.
LEAVE (in part R466): a module without fabric contexts leaves the sea; one with them stays. SEA_SPLIT (in part R342): after 64
silent rotations of a member the event is raised, and without the quorum token the fabric contexts' outputs are withheld.
The model's choices: log entry 15. -/
def Obligations.SeaForms : Prop :=
  (∀ s : State, s.fabric.state ≠ .forming → s.fabric.state ≠ .locked → isMember s.fabric s.fabric.modNo = true → seaLock s = true →
    answers .form s fun t => t.fabric.state = .forming ∧ t.fabric.formedRot = s.rotCount ∧ t = { s with fabric := t.fabric })
  ∧ (∀ s : State, s.fabric.state ≠ .forming → s.fabric.state ≠ .locked →
      (isMember s.fabric s.fabric.modNo = false ∨ seaLock s = false) →
    answers .form s fun t => t.fabric.state = .failed ∧ t = { s with fabric := t.fabric })
  ∧ (∀ s : State, s.fabric.state = .forming ∨ s.fabric.state = .locked → answers .form s fun t => t = s)
  ∧ (∀ (s : State) (ts : List Nat), s.fabric.state = .forming → s.fabric.formedRot + 1024 ≤ s.rotCount → seaLock s = true →
      seaMoves s (s.period + lowestAhead s.fabric) = false → (∀ x ∈ s.fabric.transits ++ ts, x + 4 ≤ fabLatency s) →
    answers (.seaFormationComplete true false ts) s fun t =>
      t.fabric.state = .locked ∧ t.period = s.period + lowestAhead s.fabric
        ∧ t.fabric.firstMod = lowestMember s.fabric % 4096 ∧ t.fabric.wraps = 0 ∧ t = { s with period := t.period, fabric := t.fabric })
  ∧ (∀ (s : State) (l m : Bool) (ts : List Nat), s.fabric.state = .forming → s.fabric.formedRot + 1024 ≤ s.rotCount →
      (l = false ∨ m = true ∨ ∃ x ∈ s.fabric.transits ++ ts, fabLatency s < x + 4) →
    answers (.seaFormationComplete l m ts) s fun t => t.fabric.state = .failed ∧ t.period = s.period)
  ∧ (∀ s : State, fabricCtxs s = [] →
    answers .leave s fun t => t.fabric.state = .none ∧ t.ownModule = 0 ∧ t.fabric.held = [] ∧ t = { s with fabric := t.fabric })
  ∧ (∀ s : State, fabricCtxs s ≠ [] → answers .leave s fun t => t = s)
  ∧ (∀ (s : State) (m : Nat) (x : Silence), assoc m s.fabric.silent = some x → 64 ≤ x.count → s.fabric.split = false →
    answers (.seaSplit m) s fun t => t.fabric.split = true ∧ raised evSeaSplit s t
      ∧ (∀ c ∈ fabricCtxs s, s.mgmt.seaToken.held = false → c < s.ctxs.length → t.held c = true)
      ∧ (s.mgmt.seaToken.held = true → ∀ c, t.held c = s.held c))

/-! ## Clocks, power and heat -/

/-- REFERENCE_CHANGE (in part R352, R353): the root goes to holdover and slews toward the reference that it should have.
REFERENCE_LOCK: after 16 windows within 0.1 ppm it follows that reference.
CLOCK_MONITOR_WINDOW (in part R354, R355): a crystal without an edge has failed, and CLOCK_SOURCE_LOST is raised; a root that
followed it goes to holdover and slews toward the internal oscillator. The bead counter stays. -/
def Obligations.ReferencesAct : Prop :=
  (∀ s : State, 8 ≤ s.startup.step → wantedRef s ≠ s.clock.ref → s.clock.toward ≠ some (wantedRef s) →
    answers .referenceChange s fun t =>
      t.clock.ref = .holdover ∧ t.clock.toward = some (wantedRef s) ∧ t.clock.nearWindows = 0 ∧ t.bead = s.bead)
  ∧ (∀ (s : State) (r : Ref), s.clock.toward = some r → 16 ≤ s.clock.nearWindows →
    answers .referenceLock s fun t => t.clock.ref = r ∧ t.clock.toward = none ∧ t.bead = s.bead)
  ∧ (∀ (s : State) (w : MonitorWindow), s.clock.xtalFailed = false → w.xtalNoEdge = true →
    answers (.clockMonitorWindow w) s fun t =>
      t.clock.xtalFailed = true ∧ raised evClockSourceLost s t ∧ t.bead = s.bead
        ∧ (s.clock.ref = .crystal → t.clock.ref = .holdover ∧ t.clock.toward = some .oscillator))

/-- OPP_REQUEST (in part R358): an allowed point sets BUSY, one that is not allowed raises OPP_REFUSED, and one that comes during
a change waits. OPP_CHANGE (in part R359): at a rotation boundary the point changes at once on CX-1 and CX-2, and begins its 32
beads on CX-4. SSC_START (in part R360): spread spectrum begins at a rotation boundary. The model's choices: log entry 25. -/
def Obligations.OperatingPoints : Prop :=
  (∀ (s : State) (v : Word), bit v 31 = true → s.clock.oppBusy = false → oppTarget v ≠ s.clock.opp → oppAllowed s (oppTarget v) = true →
    answers (.oppRequest v) s fun t => t.clock.oppBusy = true ∧ t.clock.oppNext = some (oppTarget v) ∧ t.clock.opp = s.clock.opp)
  ∧ (∀ (s : State) (v : Word), bit v 31 = true → s.clock.oppBusy = false → oppTarget v ≠ s.clock.opp → oppAllowed s (oppTarget v) = false →
    answers (.oppRequest v) s fun t => raised evOppRefused s t ∧ t.clock.opp = s.clock.opp ∧ t.clock.oppBusy = false)
  ∧ (∀ (s : State) (v : Word), bit v 31 = true → s.clock.oppBusy = true →
    answers (.oppRequest v) s fun t =>
      t.clock.oppWaiting = s.clock.oppWaiting ++ [oppTarget v] ∧ t.clock.oppNext = s.clock.oppNext ∧ t.clock.opp = s.clock.opp)
  ∧ (∀ (s : State) (n : Nat), s.clock.oppNext = some n → s.rotDone = true → oppQuiet s = true → oppAllowed s n = true →
      s.clock.oppSince = none → s.clock.oppWaiting = [] → s.grade ≠ 4 →
    answers .oppChange s fun t => t.clock.opp = n ∧ t.clock.oppBusy = false ∧ t.clock.oppNext = none ∧ t.bead = s.bead)
  ∧ (∀ (s : State) (n : Nat), s.clock.oppNext = some n → s.rotDone = true → oppAllowed s n = true →
      s.clock.oppSince = none → s.grade = 4 →
    answers .oppChange s fun t => t.clock.oppSince = some (s.bead + 1) ∧ t.clock.opp = s.clock.opp ∧ t.bead = s.bead)
  ∧ (∀ s : State, sscAllowed s = true → 9 ≤ s.startup.step → (s.rotDone = true ∨ s.beadInRot = 0) →
    answers .sscStart s fun t => t.clock.sscActive = true ∧ t = { s with clock := t.clock })

/-- SENSOR_SAMPLE (in part R367, R371): the last sensor of the list, a Setting zone, a Bezel die or the Crown, filters the mean
of its last four samples, and two raw samples of 115 °C in a row trip the module. TRIP_CLEAR: with every sensor below Warn the
trip ends. CHANNEL_STOP and CHANNEL_RESTART (in part R373): at a rotation boundary the four channels of a package at Stop stop, and
go on after 10,000 samples below 90 °C. SPARE_SWAP and SPARE_STARVED (in part R370): a complete copy's spare takes the logical
Facet's place at the boundary, an incomplete one changes nothing; one that is not complete after 2^16 rotations is abandoned.
The model's choices: log entries 20, 25. -/
def Obligations.SensorsAndTrips : Prop :=
  (∀ (s : State) (x : SensorSamples) (n : Nat) (v a b c : Int), x.temps = List.replicate n 0 ++ [v] →
      (n < 64 ∨ (76 ≤ n ∧ n < 80)) → sensorPresent s.grade n = true →
      ((assoc n s.thermal.sensors).map (·.samples)) = some [a, b, c] →
    answers (.sensorSample x) s fun t =>
      (assoc n t.thermal.sensors).map (·.filtered) = some ((v + a + b + c) / 4) ∧ t.power.pMeas = x.pMeas)
  ∧ (∀ (s : State) (x : SensorSamples) (n : Nat) (v a : Int) (r : List Int), x.temps = List.replicate n 0 ++ [v] →
      (n < 64 ∨ (76 ≤ n ∧ n < 80)) → sensorPresent s.grade n = true →
      ((assoc n s.thermal.sensors).map (·.samples)) = some (a :: r) → 1840 ≤ v → 1840 ≤ a →
    answers (.sensorSample x) s fun t => t.thermal.tripped = true)
  ∧ (∀ s : State, s.thermal.tripped = true → (∀ q ∈ s.thermal.sensors, q.2.level = 0) →
    answers .tripClear s fun t => t.thermal.tripped = false ∧ t.thermal.gated = false)
  ∧ (∀ (s : State) (k : Nat) (x : Option Nat), k < 12 → assoc (64 + k) s.thermal.stoppedPkgs = some x →
      (s.rotDone = true ∨ s.beadInRot = 0) → s.bezel.channels.length = 48 → (∀ ch ∈ packageChannels k, (s.chan ch).state = 1) →
    answers (.channelStop k) s fun t => raised evLp4xStop s t ∧ ∀ ch ∈ packageChannels k, (t.chan ch).state = 2)
  ∧ (∀ (s : State) (k n : Nat), k < 12 → assoc (64 + k) s.thermal.stoppedPkgs = some (some n) →
      (s.rotDone = true ∨ s.beadInRot = 0) → n + 10000 ≤ s.thermal.samplesTaken → s.bezel.channels.length = 48 →
      (∀ ch ∈ packageChannels k, (s.chan ch).state = 2) →
    answers (.channelRestart k) s fun t => ∀ ch ∈ packageChannels k, (t.chan ch).state = 1)
  ∧ (∀ (s : State) (d : Nat) (k : SpareCopy), d < settingDies s.grade → d < s.spares.length → s.beadInRot + 1 = s.rotLen →
      s.rotDone = false → (s.spare d).copying = some k → k.left = 0 → k.logical < (s.spare d).map.length →
      (∀ w, (s.spare d).swapped = some w → w.1 ≠ s.rotCount) → anyReleaseDue s = false → admitMade s = false →
    answers (.spareSwap d) s fun t => (t.spare d).map.getD k.logical 0 = k.spare ∧ (t.spare d).copying = none
      ∧ (∀ j, j ≠ k.logical → (t.spare d).map.getD j 0 = (s.spare d).map.getD j 0) ∧ t.store = s.store)
  ∧ (∀ (s : State) (d : Nat) (k : SpareCopy), (s.spare d).copying = some k → 0 < k.left → answers (.spareSwap d) s fun t => t = s)
  ∧ (∀ (s : State) (d : Nat) (k : SpareCopy), d < settingDies s.grade → d < s.spares.length →
      (s.spare d).copying = some k → 0 < k.left → k.began + 65536 ≤ s.rotCount →
    answers (.spareStarved d) s fun t => raised evSpareStarved s t ∧ (t.spare d).copying = none ∧ (t.spare d).map = (s.spare d).map)

/-! ## Cast, Signets and replay -/

/-- CAST_EN_WRITE (in part R301): writing EN begins a recording with count, head and losses at 0; clearing it pads the last
partial line with zeros. CAST_FREEZE and CAST_FREEZE_COMPLETE (in part R302): a freeze stands POST_BEADS later.
CAST_LINE_WRITE and REPLAY_RING_READ (in part R301, R303): in a Cast slot of its channel the next whole line goes from staging to
the ring, a line of an earlier recording first; a replay reads one ring line on. The model's choices: log entry 18. -/
def Obligations.CastRecords : Prop :=
  (∀ (s : State) (v : Word), castAble s = true → s.cast.en = false → bit v 31 = true → bit v 28 = false →
    answers (.castEnWrite v) s fun t =>
      t.cast.en = true ∧ t.cast.count = 0 ∧ t.cast.head = 0 ∧ t.cast.lost = 0 ∧ t.cast.wrapped = false ∧ t.cast.frozen = false
        ∧ t.cast.lineAt = 0 ∧ t.cast.staging = [] ∧ t = { s with cast := t.cast })
  ∧ (∀ (s : State) (v : Word), castAble s = true → s.cast.en = true → bit v 31 = false → bit v 28 = false →
    answers (.castEnWrite v) s fun t =>
      t.cast.en = false ∧ t.cast.staging = padTo 1024 s.cast.staging ∧ t = { s with cast := t.cast })
  ∧ (∀ s : State, s.cast.en = true → castAble s = true → s.cast.frozen = false → s.cast.freezeAt = none →
    answers .castFreeze s fun t =>
      t.cast.freezeAt = some (s.bead + s.cast.post.toNat) ∧ t.cast.frozen = false ∧ t = { s with cast := t.cast })
  ∧ (∀ (s : State) (b : Nat), s.cast.freezeAt = some b → b ≤ s.bead →
    answers .castFreezeComplete s fun t => t.cast.frozen = true ∧ t.cast.freezeAt = none ∧ raised evCastFrozen s t)
  ∧ (∀ s : State, castAble s = true → s.cast.replay = false → s.cast.tails = [] → 1024 ≤ s.cast.staging.length →
      castStart s (castPlace s s.cast.lineAt).1 = true →
    answers .castLineWrite s fun t =>
      t.cast.staging = s.cast.staging.drop 1024 ∧ t.cast.lineAt = ringNext s.cast s.cast.lineAt
        ∧ t.lp4x = (storeLine 0 (castPlace s s.cast.lineAt).1 (castPlace s s.cast.lineAt).2 (slice s.cast.staging 0 1024) s).lp4x)
  ∧ (∀ (s : State) (a : Nat) (b : Bytes) (r : List (Nat × Bytes)), castAble s = true → s.cast.replay = false →
      s.cast.tails = (a, b) :: r → 1024 < b.length → castStart s (castPlace s a).1 = true →
    answers .castLineWrite s fun t =>
      t.cast.tails = (ringNext s.cast a, b.drop 1024) :: r ∧ t.cast.staging = s.cast.staging
        ∧ t.lp4x = (storeLine 0 (castPlace s a).1 (castPlace s a).2 (slice b 0 1024) s).lp4x)
  ∧ (∀ s : State, castAble s = true → s.cast.replay = true → s.cast.replayStopped = false → s.cast.readLeft ≠ 0 →
      castStart s (castPlace s s.cast.readAt).1 = true →
    answers .replayRingRead s fun t =>
      t.cast.readAt = ringNext s.cast s.cast.readAt ∧ t.cast.readLeft + 1 = s.cast.readLeft ∧ t.lp4x = s.lp4x)

/-- REPLAY_FEED (in part R304): a record of a replayed context, not older than its anchor, whose bead has passed raises
REPLAY_LATE and stops the replay. The one record that has been read, of a Clasp frame (type 0x10) and due at the next boundary,
becomes the frame of its port. The model's choices: log entry 18. -/
def Obligations.ReplayFeeds : Prop :=
  (∀ (s : State) (d : Int) (a : Nat) (r : Nat × Bytes), assoc (leAt r.2 2 1) s.cast.deltas = some (d, a) → a ≤ r.1 →
      s.cast.replay = true → s.cast.replayStopped = false → r ∈ s.cast.feed → feedable s r = true → (r.1 : Int) + d ≤ s.bead →
    answers .replayFeed s fun t => t.cast.replayStopped = true ∧ raised evReplayLate s t)
  ∧ (∀ (s : State) (d : Int) (a : Nat) (r : Nat × Bytes), assoc (leAt r.2 2 1) s.cast.deltas = some (d, a) → a ≤ r.1 →
      s.cast.replay = true → s.cast.replayStopped = false →
      s.cast.feed = [r] → feedable s r = true → (r.1 : Int) + d = s.bead + 1 → leAt r.2 0 1 = 0x10 →
      leAt r.2 1 1 < s.clasps.length →
    answers .replayFeed s fun t => t.cast.feed = []
      ∧ (t.clasp (leAt r.2 1 1)).frame = some (slice r.2 32 (leAt r.2 4 4), 0))

/-- SIGNET_REQUEST (in part R310, R315): GO with no request being served is latched as a host input.
SIGNET_COMPLETE (in part R310, R312): engines 4 to 7 complete a request whose lines have all been read with the digest of its
bytes and the Signet over it, or the oldest unsigned record that comes before it with its Signet; engines 0 to 3 complete the
Signet of their Clasp port. The model's choices: log entries 10, 18, 51. -/
def Obligations.SignetsComplete : Prop :=
  (∀ (s : State) (v : Word), bit v 31 = true → s.signets.busy = false → s.follows = false → s.startup.ready = true →
      s.ports.linkUp = true → s.cast.replay = false →
    answers (.signetRequest v) s fun t =>
      t.signets.busy = true
        ∧ latched 9 (.sigReq (leBytes 4 s.signets.addrLo.toNat ++ leBytes 4 s.signets.addrHi.toNat
            ++ leBytes 4 s.signets.len.toNat ++ leBytes 4 v.toNat)) s t)
  ∧ (∀ (s : State) (e : Nat) (r : SigRequest), 4 ≤ e → e < 8 → s.signets.req = some r → r.left = 0 → r.inputs ≠ [] →
      (∀ x, nextUnsigned s = some x → requestFirst r x = true) →
    answers (.signetComplete e) s fun t =>
      t.signets.busy = false ∧ t.signets.done = true ∧ t.signets.resultDigest = sm3 (signetBytes s r)
        ∧ t.signets.inputChain = r.inputs
        ∧ t.signets.out = sm3 (signetMessage 3 r.index (signetNames s r.ctx) r.inputs (sm3 (signetBytes s r))))
  ∧ (∀ (s : State) (e : Nat) (c : CtxNo) (x : Committed), 4 ≤ e → e < 8 → nextUnsigned s = some (c, x) → c < s.rings.length →
      (∀ r, requestWhole s = some r → requestFirst r (c, x) = false) →
    answers (.signetComplete e) s fun t =>
      (t.ring c).committed = (s.ring c).committed.map fun y =>
        if y = x then { y with signet := some (sm3 (signetMessage 2 x.step (signetNames s c) x.inputs (sm3 (bareRecord x.record)))) }
        else y)
  ∧ (∀ (s : State) (p k : Nat) (g : Bytes) (c : CtxNo), p < 4 → s.clasps.length = 4 → (s.clasp p).signetDue = some (g, k, c) →
    answers (.signetComplete p) s fun t => (t.clasp p).signet = g ∧ (t.clasp p).signetDue = none)

/-! ## The aperture, patrol and repair -/

/-- APERTURE_WRITE and APERTURE_READ (in part R162, R163, R438): a poisoned write is reported and drops; a closed window takes
nothing, and a read through it completes with all ones; an access within one line of an open window waits in its channel's
queue, a write of a session window decrypted. The model's choices: log entry 20. -/
def Obligations.ApertureAccesses : Prop :=
  (∀ (s : State) (x : Nat) (b : Bytes), s.ports.linkUp = true →
    answers (.apertureWrite x b true) s fun t => t = { s with out := .aerUncorrectable :: s.out })
  ∧ (∀ (s : State) (x : Nat) (b : Bytes), s.ports.linkUp = true → s.startup.ready = true → b ≠ [] →
      windowOpen s (x / 2 ^ 32) = false →
    answers (.apertureWrite x b false) s fun t => raised evHostAperture s t ∧ t.bezel = s.bezel ∧ t.lp4x = s.lp4x)
  ∧ (∀ (s : State) (x n : Nat), s.ports.linkUp = true → s.startup.ready = true → windowOpen s (x / 2 ^ 32) = false →
    answers (.apertureRead x n) s fun t =>
      t.out = .hostReadDone x (List.replicate n 0xFF) :: s.out ∧ raised evHostAperture s t ∧ t.bezel = s.bezel)
  ∧ (∀ (s : State) (x ch u : Nat) (b : Bytes), s.ports.linkUp = true → s.startup.ready = true → b ≠ [] → s.follows = false →
      s.cast.replay = false → x < 2 ^ 36 → x % 2 ^ 32 / 1024 = (x % 2 ^ 32 + b.length - 1) / 1024 → windowOpen s (x / 2 ^ 32) = true →
      windowLine s (x / 2 ^ 32) (x % 2 ^ 32) true = some (ch, u) → sealedHit s (x / 2 ^ 32) (x % 2 ^ 32) b.length = none →
      windowSession s (x / 2 ^ 32) = none →
    answers (.apertureWrite x b false) s fun t =>
      t.bezel.queue = s.bezel.queue ++ [(ch, .write (x / 2 ^ 32) (x % 2 ^ 32) b s.bezel.posted none (latchBead s))]
        ∧ t.bezel.posted = s.bezel.posted + 1 ∧ t.lp4x = s.lp4x ∧ t.events = s.events)
  ∧ (∀ (s : State) (x ch u : Nat) (b : Bytes) (k : Session), s.ports.linkUp = true → s.startup.ready = true → b.length = 1024 →
      s.follows = false → s.cast.replay = false → x < 2 ^ 36 → x % 1024 = 0 → windowOpen s (x / 2 ^ 32) = true →
      windowLine s (x / 2 ^ 32) (x % 2 ^ 32) true = some (ch, u) → sealedHit s (x / 2 ^ 32) (x % 2 ^ 32) b.length = none →
      windowSession s (x / 2 ^ 32) = some k →
    answers (.apertureWrite x b false) s fun t =>
      t.bezel.queue = s.bezel.queue ++
          [(ch, .write (x / 2 ^ 32) (x % 2 ^ 32) (xts false k.hmEnc k.mhEnc (x % 2 ^ 32) b) s.bezel.posted none (latchBead s))]
        ∧ t.bezel.posted = s.bezel.posted + 1 ∧ t.lp4x = s.lp4x ∧ t.events = s.events)
  ∧ (∀ (s : State) (x n ch u : Nat), s.ports.linkUp = true → s.startup.ready = true → 0 < n → s.follows = false →
      x < 2 ^ 36 → x % 2 ^ 32 / 1024 = (x % 2 ^ 32 + n - 1) / 1024 → windowOpen s (x / 2 ^ 32) = true →
      windowLine s (x / 2 ^ 32) (x % 2 ^ 32) false = some (ch, u) →
      (windowSession s (x / 2 ^ 32) = none ∨ (x % 1024 = 0 ∧ n = 1024)) →
    answers (.apertureRead x n) s fun t =>
      t.bezel.queue = s.bezel.queue ++ [(ch, .read (x / 2 ^ 32) (x % 2 ^ 32) n s.bezel.posted)]
        ∧ t.bezel.posted = s.bezel.posted + 1 ∧ t.out = s.out ∧ t.events = s.events ∧ t.lp4x = s.lp4x)

/-- HOST_SLOT_ACCESS (in part R162, R163): the channel's next access takes the open slot start of the bead. A whole-line write is
visible 18 beads later; a write of part of a line reads its line first, and waits for its next slot; a read completes with the
line's bytes, in plain where the window has no session. The model's choices: log entry 20. -/
def Obligations.HostSlotPerforms : Prop :=
  (∀ (s : State) (ch n x seq nb u : Nat) (b : Bytes), hostStart s ch = true → ch < s.bezel.channels.length →
      nextAccess s ch = some (ch, .write n x b seq none nb) → windowOpen s n = true →
      windowLine s n x true = some (ch, u) → b.length = 1024 → (s.ctx n).sec.load = none → stopped s ch = false →
    answers (.hostSlotAccess ch) s fun t =>
      t.bezel.queue = s.bezel.queue.erase (ch, .write n x b seq none nb) ∧ slotTaken t ch = true ∧ t.lp4x = s.lp4x
        ∧ t.effects = ⟨s.bead + 18, s.bead, 0xB000, n,
            .hostWrite n x b [(ch, u, (sealLine s n ch u b).1, (sealLine s n ch u b).2)] seq⟩ :: s.effects)
  ∧ (∀ (s : State) (ch n x seq nb u : Nat) (b : Bytes), hostStart s ch = true → ch < s.bezel.channels.length →
      nextAccess s ch = some (ch, .write n x b seq none nb) → windowOpen s n = true →
      windowLine s n x true = some (ch, u) → b.length ≠ 1024 →
    answers (.hostSlotAccess ch) s fun t =>
      t.bezel.queue = (ch, .write n x b seq (some (readPosted n ch u s).1) s.bead)
          :: s.bezel.queue.erase (ch, .write n x b seq none nb)
        ∧ slotTaken t ch = true ∧ t.lp4x = s.lp4x)
  ∧ (∀ (s : State) (ch n x k p u : Nat), hostStart s ch = true → ch < s.bezel.channels.length →
      nextAccess s ch = some (ch, .read n x k p) → windowOpen s n = true → windowLine s n x false = some (ch, u) →
      windowSession s n = none →
    answers (.hostSlotAccess ch) s fun t =>
      t.out = .hostReadDone (n * 2 ^ 32 + x) (slice (readPosted n ch u s).1 (x % 1024) k) :: s.out
        ∧ t.bezel.queue = s.bezel.queue.erase (ch, .read n x k p) ∧ slotTaken t ch = true ∧ t.lp4x = s.lp4x)

/-- PATROL, PATROL_STARVED, UE_LINE_REPAIR and MR4_READ (in part R157, R158, R166): patrol reads the next line of its channel, or
writes back the one that it corrected; a channel without a patrol slot for 2^20 rotations is marked; in lockstep a line is
written with the partner's contents, which the command brings, else it stays; MR4 reads its ranks in turn.
The model's choices: log entry 20. -/
def Obligations.PatrolAndRepair : Prop :=
  (∀ (s : State) (ch : Nat), s.bezel.patrolEn = true → patrolStart s ch = true → ch < s.bezel.channels.length →
      (s.chan ch).patrolFix = none →
    answers (.patrol ch) s fun t =>
      (t.chan ch).patrolAt = (if (s.chan ch).patrolAt + 1 < 15728640 then (s.chan ch).patrolAt + 1 else 0)
        ∧ slotTaken t ch = true ∧ t.lp4x = s.lp4x)
  ∧ (∀ (s : State) (ch u : Nat), s.bezel.patrolEn = true → patrolStart s ch = true → ch < s.bezel.channels.length →
      (s.chan ch).patrolFix = some u → stopped s ch = false →
    answers (.patrol ch) s fun t =>
      (t.chan ch).patrolFix = none ∧ slotTaken t ch = true
        ∧ t.lp4x = (putLine ch u (checkLine s ch u).1 (lineCheck (checkLine s ch u).1) s).lp4x)
  ∧ (∀ (s : State) (ch : Nat), s.bezel.patrolEn = true → ch < channelCount s.grade → ch < s.bezel.channels.length →
      2 ^ 20 ≤ (s.chan ch).noPatrol →
    answers (.patrolStarved ch) s fun t => (t.chan ch).patrolStarved = true)
  ∧ (∀ (s : State) (ch u : Nat) (r : List Nat) (b : Bytes), (s.chan ch).repair = u :: r → ch < s.bezel.channels.length →
      patrolStart s ch = true → s.pair.regs.state ≠ .lockstep →
    answers (.ueLineRepair ch b) s fun t =>
      (t.chan ch).repair = r ∧ slotTaken t ch = true ∧ t.lp4x = s.lp4x ∧ t.lp4xCheck = s.lp4xCheck)
  ∧ (∀ (s : State) (ch u c : Nat) (x : Nat × Nat) (r : List Nat) (b : Bytes), (s.chan ch).repair = u :: r →
      ch < s.bezel.channels.length → patrolStart s ch = true → s.pair.regs.state = .lockstep → holderOf s ch u = some (c, x) →
      stopped s ch = false →
    answers (.ueLineRepair ch b) s fun t =>
      (t.chan ch).repair = r ∧ slotTaken t ch = true ∧ t.lp4x = (storeLine c ch u b s).lp4x
        ∧ t.lp4xCheck = (storeLine c ch u b s).lp4xCheck)
  ∧ (∀ (s : State) (ch : Nat) (code : BitVec 3), ch < channelCount s.grade → ch < s.bezel.channels.length →
      51 * slotCount s.rotLen + 2 ≤ 16 * s.rotLen → 51 * (slotCount s.rotLen - 1) / 16 ≤ s.beadInRot →
      (s.chan ch).mr4Rot ≠ some s.rotCount →
    answers (.mr4Read ch code) s fun t =>
      (t.chan ch).mr4Rot = some s.rotCount ∧ (t.chan ch).temp.toNat = max (t.chan ch).rankCode0.toNat (t.chan ch).rankCode1.toNat
        ∧ ((s.chan ch).nextRank = 0 → (t.chan ch).rankCode0 = code ∧ (t.chan ch).rankCode1 = (s.chan ch).rankCode1
            ∧ (t.chan ch).nextRank = 1)
        ∧ ((s.chan ch).nextRank = 1 → (t.chan ch).rankCode1 = code ∧ (t.chan ch).rankCode0 = (s.chan ch).rankCode0
            ∧ (t.chan ch).nextRank = 0))

/-! ## Rings and requests -/

/-- RQ_TAIL_WRITE, SR_TAIL_WRITE and CANCEL (in part R206, R208, R235, R294): on a lead the write waits for its latch bead as an
input of source 9, with its payload; a follower stores the two tails at once (R318). -/
def Obligations.RingWritesLatch : Prop :=
  (∀ (s : State) (c : CtxNo) (v : Word), s.running c = true → c < 16 → s.ports.linkUp = true → s.startup.ready = true →
      s.follows = false → s.cast.replay = false →
    (answers (.rqTailWrite c v) s fun t => latched 9 (.index (0x701000 + 0x40 * c + 0x0C) v) s t ∧ t.rings = s.rings)
    ∧ (answers (.srTailWrite c v) s fun t => latched 9 (.index (0x701000 + 0x40 * c + 0x30) v) s t ∧ t.rings = s.rings)
    ∧ (answers (.cancel c v) s fun t =>
      latched 9 (.cancel c (v ++ (s.ring c).cancelLo)) s t ∧ t.rings = s.rings ∧ t.live = s.live))
  ∧ (∀ (s : State) (c : CtxNo) (v : Word), s.running c = true → c < 16 → c < s.rings.length → s.ports.linkUp = true →
      s.startup.ready = true → s.follows = true →
    (answers (.rqTailWrite c v) s fun t => (t.ring c).rqTail = v ∧ t = { s with rings := t.rings })
    ∧ (answers (.srTailWrite c v) s fun t => (t.ring c).srTail = v ∧ t = { s with rings := t.rings }))

/-- REQUEST_FETCH (in part R206, R390, R438): without a session the entry that host memory answers is kept and RQ_HEAD advances;
in a session an entry with its good tag is kept decrypted; a poisoned completion leaves the entry to be fetched again, and the
fourth one clears EN and raises PCIE_DOWN. REQUEST_LATCH: a kept entry is latched once the aperture writes posted before its
doorbell are visible and its queue has a place. The model's choices: log entry 19. -/
def Obligations.RequestsFetch : Prop :=
  (∀ (s : State) (c : CtxNo) (d g : Bytes), mayFetch s c = true → c < s.rings.length → (s.ctx c).sec.session = none →
    answers (.requestFetch c (.entry d g)) s fun t =>
      (t.ring c).fetched = (s.ring c).fetched ++ [(slice d 0 64, (s.ring c).doorbell)] ∧ (t.ring c).rqHead = (s.ring c).rqHead + 1
        ∧ (t.ring c).fails = 0
        ∧ t.out = .ringFetch (hostAddr (s.ring c).rqBaseLo (s.ring c).rqBaseHi + 64 * rqPlace (s.ring c)) 64 :: s.out)
  ∧ (∀ (s : State) (c : CtxNo) (d g : Bytes) (k : Session), mayFetch s c = true → c < s.rings.length →
      (s.ctx c).sec.session = some k → sessTag k.hmMac 1 2 c k.rqIdx (slice d 0 64) = slice g 0 16 →
    answers (.requestFetch c (.entry d g)) s fun t =>
      (t.ring c).fetched = (s.ring c).fetched ++ [(sessCrypt k.hmEnc 1 2 c k.rqIdx (slice d 0 64), (s.ring c).doorbell)]
        ∧ (t.ring c).rqHead = (s.ring c).rqHead + 1 ∧ (t.ring c).fails = 0)
  ∧ (∀ (s : State) (c : CtxNo), mayFetch s c = true → c < s.rings.length → (s.ring c).fails < 3 →
    answers (.requestFetch c .poisoned) s fun t =>
      (t.ring c).fails = (s.ring c).fails + 1 ∧ (t.ring c).rqHead = (s.ring c).rqHead ∧ (t.ring c).rqCtl = (s.ring c).rqCtl)
  ∧ (∀ (s : State) (c : CtxNo), mayFetch s c = true → c < s.rings.length → (s.ring c).fails = 3 →
    answers (.requestFetch c .poisoned) s fun t =>
      bit (t.ring c).rqCtl 31 = false ∧ (t.ring c).rqHead = (s.ring c).rqHead ∧ raised evPcieDown s t)
  ∧ (∀ (s : State) (c : CtxNo) (e : Bytes) (d : Nat) (r : List (Bytes × Nat)), (s.ring c).fetched = (e, d) :: r →
      c < s.rings.length → doorbellMet s d = true → placesTaken s c < 512 →
    answers (.requestLatch c) s fun t => (t.ring c).fetched = r ∧ latched 9 (.request c e) s t)

/-- STEP_RECORD_DELIVERY (in part R212, R213, R312, R390): the oldest record, once its Signet is complete, goes to slot SR_HEAD of
its ring, in a session encrypted and with its tag; SR_HEAD advances, and the vector of SR_CTL goes out. With the link down it is
not written, and SR_GAP counts it. The model's choices: log entry 19. -/
def Obligations.RecordDelivered : Prop :=
  (∀ (s : State) (c : CtxNo) (x : Committed) (g : Bytes), nextRecord (s.ring c) = some x → x.signet = some g → c < s.rings.length →
      s.follows = false → s.ports.linkUp = true → bit (s.ring c).srCtl 31 = true → (s.ctx c).sec.session = none →
      lacksSession s c = false →
    answers (.stepRecordDelivery c) s fun t =>
      (t.ring c).srHead = (s.ring c).srHead + 1
        ∧ t.out = .msix (bits (s.ring c).srCtl.toNat 16 11)
            :: .hostWrite (hostAddr (s.ring c).srBaseLo (s.ring c).srBaseHi
                 + srSlot (s.ring c).srCtl * ((s.ring c).srHead.toNat % 2 ^ srLog (s.ring c).srCtl)) (finishRecord (s.ring c) x g)
            :: s.out)
  ∧ (∀ (s : State) (c : CtxNo) (x : Committed) (g ct : Bytes) (k : Session) (a : Nat), nextRecord (s.ring c) = some x →
      x.signet = some g → c < s.rings.length → s.follows = false → s.ports.linkUp = true → bit (s.ring c).srCtl 31 = true →
      (s.ctx c).sec.session = some k → x.record.length + 16 ≤ srSlot (s.ring c).srCtl →
      ct = sessCrypt k.mhEnc 2 3 c k.srIdx (finishRecord (s.ring c) x g) →
      a = hostAddr (s.ring c).srBaseLo (s.ring c).srBaseHi
        + srSlot (s.ring c).srCtl * ((s.ring c).srHead.toNat % 2 ^ srLog (s.ring c).srCtl) →
    answers (.stepRecordDelivery c) s fun t =>
      (t.ring c).srHead = (s.ring c).srHead + 1
        ∧ t.out = .msix (bits (s.ring c).srCtl.toNat 16 11)
            :: .hostWrite (a + srSlot (s.ring c).srCtl - 16) (sessTag k.mhMac 2 3 c k.srIdx ct) :: .hostWrite a ct :: s.out)
  ∧ (∀ (s : State) (c : CtxNo) (x : Committed) (g : Bytes), nextRecord (s.ring c) = some x → x.signet = some g → c < s.rings.length →
      s.follows = false → s.ports.linkUp = false →
    answers (.stepRecordDelivery c) s fun t =>
      (t.ring c).srGap = (s.ring c).srGap + 1 ∧ (t.ring c).srHead = (s.ring c).srHead ∧ t.out = s.out)

/-! ## Admission, release and scrub -/

/-- STR_ADMIT, STR_RELEASE and STR_FORCED_RELEASE (in part R463): a command that is taken sets BUSY and waits for its latch bead; an
admission that a context-0 move began goes on with what host memory answers. The model's choices: log entry 13. -/
def Obligations.StrandCommandsLatch : Prop :=
  (∀ s : State, s.strands.hostEn = true → s.strands.busy = false → s.strands.fetching = false → s.ports.linkUp = true →
      s.startup.ready = true → s.cast.replay = false →
    (∀ a b : Bytes, answers (.strAdmit (some (a, b))) s fun t => t.strands.busy = true ∧ latched 9 (.strCmd 1 0 a b) s t)
    ∧ (answers (.strAdmit none) s fun t => t.strands.busy = true ∧ latched 9 (.strCmd 1 0 [] []) s t))
  ∧ (∀ s : State, s.strands.hostEn = true → s.strands.busy = false → s.ports.linkUp = true → s.startup.ready = true →
    (∀ c : CtxNo, answers (.strRelease c) s fun t => t.strands.busy = true ∧ latched 9 (.strCmd 2 (c % 16) [] []) s t)
    ∧ (∀ c : CtxNo, answers (.strForcedRelease c) s fun t => t.strands.busy = true ∧ latched 9 (.strCmd 3 (c % 16) [] []) s t))
  ∧ (∀ (s : State) (a b : Bytes), s.strands.fetching = true →
    answers (.strAdmit (some (a, b))) s fun t => t.strands.fetching = false ∧ latched 9 (.strCmd 1 0 a b) s t)

/-- VERIFICATION_COMPLETE (in part R111): an admission that passes every check is marked verified; one of the STRAND block that
fails is rejected with its reason, and its context is free. The model's choices: log entry 13. -/
def Obligations.VerificationDecides : Prop :=
  (∀ (s : State) (c : CtxNo) (p : Pending), s.strands.pendings.find? (fun q => decide (q.ctx = c)) = some p → p.verified = false →
      heldByScrub s c = false → admitVerdict s p = 0 →
    answers (.verificationComplete c) s fun t =>
      t.strands.pendings = (s.strands.pendings.map fun q => if q.ctx = c then { q with verified := true } else q) ∧ t.ctxs = s.ctxs)
  ∧ (∀ (s : State) (c : CtxNo) (p : Pending), s.strands.pendings.find? (fun q => decide (q.ctx = c)) = some p → p.verified = false →
      heldByScrub s c = false → admitVerdict s p ≠ 0 → p.via = .strBlock → c < s.ctxs.length → (s.ctx c).phase = .pending →
    answers (.verificationComplete c) s fun t =>
      t.strands.reject = true ∧ t.strands.done = false ∧ t.strands.busy = false ∧ t.strands.reason = admitVerdict s p
        ∧ (t.ctx c).phase = .free ∧ ∀ d, d ≠ c → t.ctx d = s.ctx d)

/-- ADMISSION_TAKES_EFFECT (in part R108, R326, R381): at the rotation boundary, with no release or substitution due there, an
admission whose boundary this is, or one that is ready with no partner to tell, takes effect: the context has its Strand, at
rotation 0 from the next bead, a fresh key pair, and its chain at 32 zero bytes, unless the generator fails (R379); a lead first
names the boundary to its pendant.
RELEASE_TAKES_EFFECT (in part R235, R400): the context's windows and engine steps end, its ring group and security state clear,
its aperture window closes, and its scrub begins with the next bead. The model's choices: log entries 7, 13. -/
def Obligations.AdmissionsAndReleases : Prop :=
  (∀ (s : State) (c : CtxNo) (p : Pending), s.strands.pendings.find? (fun q => decide (q.ctx = c)) = some p →
      atBoundary s = true → anyReleaseDue s = false → anySwapDue s = false →
      ((p.boundary = some (s.period + 1) ∧ p.verified = true)
        ∨ (p.boundary = none ∧ admitReady (withNamed s c) p = true ∧ relays s = false
            ∧ ∀ a, p.replay = some a → (s.period + 1).toNat % 4 = a.1)) →
      admitVerdict s p = 0 → c < s.ctxs.length → c < s.rings.length →
    answers (.admissionTakesEffect c) s fun t =>
      if (drawPair s).2.locket.rngFailed then t.locket.rngFailed = true ∧ (t.ctx c).strand = (s.ctx c).strand
      else (t.ctx c).phase = .admitted ∧ (t.ctx c).strand = some (readStrand p.image) ∧ (t.ctx c).rot = 0
        ∧ (t.ctx c).admitBead = s.bead + 1 ∧ (t.ctx c).admitPeriod = s.period + 1 ∧ (t.ring c).chain = zeros 32
        ∧ assoc c t.bezel.keys = some (drawPair s).1)
  ∧ (∀ (s : State) (c : CtxNo) (p : Pending), s.strands.pendings.find? (fun q => decide (q.ctx = c)) = some p →
      atBoundary s = true → anyReleaseDue s = false → anySwapDue s = false → p.boundary = none →
      admitReady (withNamed s c) p = true → relays s = true → readyBy s (s.period + 3) = true →
    answers (.admissionTakesEffect c) s fun t =>
      (∃ q, t.strands.pendings.find? (fun q => decide (q.ctx = c)) = some q ∧ q.boundary = some (s.period + 3))
        ∧ itemSent 4 s t ∧ t.ctxs = s.ctxs)
  ∧ (∀ (s : State) (c : CtxNo), atBoundary s = true → releaseIsDue s c = true → shapeOk s → c < 16 →
    answers (.releaseTakesEffect c) s fun t =>
      (t.ctx c).phase = .scrubbing ∧ (t.ctx c).sec = Sec.reset ∧ t.ring c = Ring.reset
        ∧ (t.ctx c).scrub = some { began := s.bead + 1, keyLoaded := false, lines := [], otherDone := false }
        ∧ t.running c = false ∧ (t.bezel.apertures.getD c ⟨false, 0, 0⟩).open_ = false
        ∧ (∀ q ∈ t.seqs, ∀ w, q.2.win = some w → w.1 ≠ c) ∧ ∀ e ∈ t.engines, e.2.ctx ≠ c)

/-- CONTEXT_KEY_DESTROY, SCRUB_WRITE and SCRUB_COMPLETION (in part R400, R401): once no LP4X access of the context is in flight, a
scrub key takes the place of the context's, and with no effect in flight its scratch partitions are zero at once; the scrub writes
zeros through that key in a free slot start; at its end the key is gone and the context is free, with SCRUB_DONE. Where the
generator fails (R379) the key stays. The model's choices: log entries 7, 13. -/
def Obligations.ScrubRuns : Prop :=
  (∀ (s : State) (c : CtxNo) (r : Scrub), (s.ctx c).scrub = some r → r.keyLoaded = false → r.began ≤ s.bead →
      lp4xInFlight s c = false → s.locket.rngFailed = false → c < s.ctxs.length →
    answers (.contextKeyDestroy c) s fun t =>
      if (drawPair s).2.locket.rngFailed then t.locket.rngFailed = true ∧ (t.ctx c).scrub = some r
      else (t.ctx c).scrub.map (·.keyLoaded) = some true ∧ assoc c t.bezel.keys = some (drawPair s).1 ∧ t.lp4x = s.lp4x
        ∧ (anyInFlight s c = false → r.otherDone = false → (t.ctx c).scrub.map (·.otherDone) = some true
            ∧ ∀ p ∈ (s.ctx c).parts, ∀ k, k < partSize s c → memGet t.store (storeKey 1 (p.1 * 2 ^ 18 + p.2) + k) = 0))
  ∧ (∀ (s : State) (ch u : Nat) (c : CtxNo), scrubStart s ch = true → scrubOn s ch = some (c, u) → ch < s.bezel.channels.length →
    answers (.scrubWrite ch) s fun t =>
      slotTaken t ch = true ∧ t.lp4x = (storeLine c ch u (zeros 1024) s).lp4x ∧ t.lp4xCheck = (storeLine c ch u (zeros 1024) s).lp4xCheck)
  ∧ (∀ (s : State) (c : CtxNo) (r : Scrub), (s.ctx c).scrub = some r → r.keyLoaded = true → r.otherDone = true → r.lines = [] →
      (s.ctx c).phase = .scrubbing → c < s.ctxs.length →
    answers (.scrubCompletion c) s fun t =>
      (t.ctx c).phase = .free ∧ (t.ctx c).scrub = none ∧ (t.ctx c).segs = [] ∧ (t.ctx c).parts = []
        ∧ assoc c t.bezel.keys = none ∧ raised evScrubDone s t)

/-! ## The twin pair -/

/-- TWIN_CELL_RECEIVE (in part R321, R323, R334): a good cell of the partner ends the run of missed heartbeats and shows the
partner's role, health and epoch; a lead stays lead on its healthy pendant's cell; a pendant in lockstep keeps the bead of a FAULT
cell that no event of its own answers; a cell that is not whole changes nothing.
MISSED_HEARTBEAT (in part R323, R333, R337, R338): the first seven in a row are counted; the eighth leaves a lead ALONE with a
raise of 2 due, and makes a pendant with evidence of the lead's silence the acting lead of the next epoch; after a FAULT cell the
pendant leads at once. The model's choices: log entry 14. -/
def Obligations.CellsAndHeartbeats : Prop :=
  (∀ (s : State) (c : Bytes), s.paired = true → cellWhole c = true → leAt c 2 1 = partnerOf s.startup.slot →
      s.pair.regs.role = .lead → s.pair.regs.state = .lockstep → leAt c 1 1 = 2 → (leAt c 0x14 2).testBit 1 = false → leAt c 3 1 ≠ 3 →
    answers (.twinCellReceive c) s fun t =>
      t.pair.link.missRun = 0 ∧ t.pair.link.cellNow = true ∧ t.pair.link.goodRun = s.pair.link.goodRun + 1
        ∧ t.pair.link.partnerRole = 2 ∧ t.pair.link.partnerHealth = leAt c 3 1
        ∧ t.pair.link.partnerEpoch = BitVec.ofNat 32 (leAt c 4 4)
        ∧ t.pair.regs.role = .lead ∧ t.pair.regs.state = .lockstep ∧ t.pair.regs.epoch = s.pair.regs.epoch)
  ∧ (∀ (s : State) (c : Bytes), s.paired = true → cellWhole c = true → leAt c 2 1 = partnerOf s.startup.slot →
      s.pair.regs.role = .pendant → s.pair.regs.state = .lockstep → leAt c 1 1 = 1 → (leAt c 0x14 2).testBit 0 = true →
      s.pair.cmp.withheld = [] →
    answers (.twinCellReceive c) s fun t => t.pair.link.lost = some (leAt c 8 8) ∧ t.pair.regs.role = .pendant)
  ∧ (∀ (s : State) (c : Bytes), cellWhole c = false → answers (.twinCellReceive c) s fun t => t = s)
  ∧ (∀ s : State, countsCells s = true → s.pair.link.cellNow = false → s.pair.link.lost = none → tokenWaits s = false →
      s.pair.link.missRun < 7 →
    answers .missedHeartbeat s fun t =>
      t.pair.link.missRun = s.pair.link.missRun + 1 ∧ t.pair.regs.missed = s.pair.regs.missed + 1
        ∧ t.pair.regs.role = s.pair.regs.role ∧ t.pair.regs.state = s.pair.regs.state ∧ t.pair.regs.epoch = s.pair.regs.epoch)
  ∧ (∀ s : State, countsCells s = true → s.pair.link.cellNow = false → s.pair.link.lost = none → s.pair.link.missRun = 7 →
      s.pair.regs.role = .lead → partnered s = true →
    answers .missedHeartbeat s fun t =>
      t.pair.regs.state = .alone ∧ t.pair.regs.role = .lead ∧ t.pair.takeover.raiseDue = 2 ∧ raised evTwinLost s t)
  ∧ (∀ s : State, countsCells s = true → s.pair.regs.role = .pendant → s.pair.regs.state = .lockstep → s.pair.link.cellNow = false →
      s.pair.link.lost = none → s.pair.link.missRun = 7 → s.pair.regs.evidence ≠ 0 → s.pair.regs.silentEn = true →
    answers .missedHeartbeat s fun t =>
      t.pair.regs.role = .lead ∧ t.pair.regs.state = .acting ∧ t.pair.regs.epoch = s.pair.regs.epoch + 1 ∧ raised evTwinLost s t)
  ∧ (∀ (s : State) (b : Nat), s.pair.link.lost = some b →
    answers .missedHeartbeat s fun t =>
      t.pair.regs.role = .lead ∧ t.pair.regs.epoch = s.pair.regs.epoch + 1 ∧ t.pair.takeover.lossBead = some b
        ∧ t.pair.link.lost = none)

/-- TWIN_INPUT (in part R323, R325): a follower places a relayed input in its inbox, a relayed aperture write in its channel's
queue; the second copy does nothing, and an input whose latch bead has passed leaves its context diverged. TWIN_COMMIT: SR_HEAD
follows the lead's. TWIN_KEYS (in part R393): the context takes the session of the record, or none. TWIN_READY: the lead keeps the
period. The model's choices: log entry 14. -/
def Obligations.TwinItemsKept : Prop :=
  (∀ (s : State) (i : RelayedInput) (k : InputKind), s.follows = true → i ∉ s.pair.link.seenInputs → s.bead < i.latchBead →
      i.castType ≠ 0x42 → castKind i.castType.toNat i.ctx i.payload = some k →
    answers (.twinInput i) s fun t =>
      t.inbox = s.inbox ++ [⟨i.latchBead, i.source, k, s.bezel.posted, some i.suborder⟩] ∧ i ∈ t.pair.link.seenInputs)
  ∧ (∀ (s : State) (i : RelayedInput) (n x ch u : Nat), s.follows = true → i ∉ s.pair.link.seenInputs → s.bead < i.latchBead →
      i.castType = 0x42 → n = leAt i.payload 0 8 / 2 ^ 32 → x = leAt i.payload 0 8 % 2 ^ 32 → windowLine s n x true = some (ch, u) →
    answers (.twinInput i) s fun t =>
      t.bezel.queue = s.bezel.queue ++ [(ch, .write n x (i.payload.drop 8) s.bezel.posted none i.latchBead)] ∧ t.inbox = s.inbox)
  ∧ (∀ (s : State) (i : RelayedInput), s.follows = true → i ∈ s.pair.link.seenInputs → answers (.twinInput i) s fun t => t = s)
  ∧ (∀ (s : State) (i : RelayedInput), s.follows = true → i ∉ s.pair.link.seenInputs → i.latchBead ≤ s.bead → i.ctx < 16 →
    answers (.twinInput i) s fun t => i.ctx ∈ t.pair.cmp.diverged ∧ t.inbox = s.inbox)
  ∧ (∀ (s : State) (c : CtxNo) (n : DWord) (h : Word), s.follows = true → c < s.rings.length →
    answers (.twinCommit c n h) s fun t => (t.ring c).srHead = h ∧ (c, n, h) ∈ t.pair.link.commits)
  ∧ (∀ (s : State) (c : CtxNo) (b : Bytes), s.follows = true → c < s.ctxs.length → b.length = 112 → keysAgain s c b = false →
      b.take 64 = zeros 64 →
    answers (.twinKeys c b) s fun t => (t.ctx c).sec.session = none)
  ∧ (∀ (s : State) (c : CtxNo) (b : Bytes), s.follows = true → c < s.ctxs.length → b.length = 112 → keysAgain s c b = false →
      b.take 64 ≠ zeros 64 →
    answers (.twinKeys c b) s fun t =>
      (t.ctx c).sec.session = some
        { hmEnc := keyOf (slice b 0 16), mhEnc := keyOf (slice b 16 16), hmMac := keyOf (slice b 32 16), mhMac := keyOf (slice b 48 16),
          mbHm := leAt b 80 8, mbMh := leAt b 88 8, rqIdx := leAt b 96 8, srIdx := leAt b 104 8 })
  ∧ (∀ (s : State) (p : Word), s.pair.regs.role = .lead →
    answers (.twinReady p) s fun t => t.pair.link.readyPeriod = some p ∧ t = { s with pair := t.pair })

/-- TWIN_ADMIT, TWIN_RELEASE, TWIN_FORCED_RELEASE and TWIN_ROLE_SWAP (in part R326, R432): an order of the lead waits for the
boundary it names; one whose boundary has passed leaves its context diverged. The model's choices: log entry 14. -/
def Obligations.TwinOrders : Prop :=
  (∀ (s : State) (b : Word) (g : GrantRecord), s.follows = true → s.running g.ctx = false → (∀ p ∈ s.strands.pendings, p.ctx ≠ g.ctx) →
      g.ctx < s.ctxs.length → laterThan b s.period = true →
    answers (.twinAdmit b g) s fun t =>
      t.strands.pendings = s.strands.pendings ++ [⟨g.ctx, .twin, g.image, g.record, false, some b, none, some (g.segBases, g.partBases)⟩]
        ∧ (t.ctx g.ctx).phase = .pending)
  ∧ (∀ (s : State) (b : Word) (c : CtxNo), s.follows = true → s.running c = true → c ≠ 0 → (b, c, false) ∉ s.strands.twinReleases →
      laterThan b s.period = true →
    answers (.twinRelease b c) s fun t => t.strands.twinReleases = s.strands.twinReleases ++ [(b, c, false)] ∧ t.running c = true)
  ∧ (∀ (s : State) (b : Word) (c : CtxNo), s.follows = true → s.running c = true → c ≠ 0 → (b, c, true) ∉ s.strands.twinReleases →
      laterThan b s.period = true →
    answers (.twinForcedRelease b c) s fun t => t.strands.twinReleases = s.strands.twinReleases ++ [(b, c, true)] ∧ t.running c = true)
  ∧ (∀ (s : State) (b : Word) (c : CtxNo), s.follows = true → s.running c = true → c ≠ 0 → c < 16 →
      (b, c, false) ∉ s.strands.twinReleases → laterThan b s.period = false →
    answers (.twinRelease b c) s fun t => c ∈ t.pair.cmp.diverged ∧ t.strands = s.strands)
  ∧ (∀ (s : State) (b : Word), s.follows = true →
    answers (.twinRoleSwap b) s fun t => t.pair.takeover.swapAt = some b ∧ t = { s with pair := t.pair })

/-- TWIN_SIGNET, SIGNET_MISSING, TWIN_WITHHELD and FAULT_HUNT_DONE (in part R328, R329, R330): equal Signets end a comparison,
other ones and missing ones raise TWIN_DIVERGENCE and leave the context diverged; an event that both members raise does not, one of
the partner alone does; 16 rotations after a mismatch a lead that found a local fault sets FAULT, and with no fault found the
context rejoins from step 4. The model's choices: log entry 40. -/
def Obligations.DivergenceJudged : Prop :=
  (∀ (s : State) (x y : SignetItem) (b : Nat), lockstepCtx s x.ctx = true → s.pair.regs.role = .pendant → s.pair.cmp.own = [(y, b)] →
      sameSignet x y = true → y.signet = x.signet →
    answers (.twinSignet x) s fun t => t.pair.cmp.own = [] ∧ t.pair.cmp.diverged = s.pair.cmp.diverged ∧ t.events = s.events)
  ∧ (∀ (s : State) (x y : SignetItem) (b : Nat), lockstepCtx s x.ctx = true → s.pair.regs.role = .pendant → s.pair.cmp.own = [(y, b)] →
      sameSignet x y = true → y.signet ≠ x.signet →
    answers (.twinSignet x) s fun t =>
      raised evTwinDivergence s t ∧ x.ctx ∈ t.pair.cmp.diverged ∧ t.pair.regs.diverge = s.pair.regs.diverge + 1)
  ∧ (∀ (s : State) (c : CtxNo) (y : SignetItem) (b : Nat), lockstepCtx s c = true → s.pair.regs.role = .pendant →
      s.pair.cmp.own = [(y, b)] → y.ctx = c → b + s.rotLen ≤ s.bead →
    answers (.signetMissing c) s fun t =>
      raised evTwinDivergence s t ∧ c ∈ t.pair.cmp.diverged ∧ t.pair.regs.diverge = s.pair.regs.diverge + 1)
  ∧ (∀ (s : State) (c : CtxNo) (p : Word) (code : Half) (b : Nat), lockstepCtx s c = true → laterThan p s.period = false →
      unordered p s.period = false → code.toNat ≠ evTwinDivergence → s.pair.cmp.withheld = [⟨b, c, code.toNat, false⟩] →
    answers (.twinWithheld c p code) s fun t =>
      t.pair.cmp.withheld = [⟨b, c, code.toNat, true⟩] ∧ t.pair.cmp.diverged = s.pair.cmp.diverged)
  ∧ (∀ (s : State) (c : CtxNo) (p : Word) (code : Half), lockstepCtx s c = true → laterThan p s.period = false →
      unordered p s.period = false → code.toNat ≠ evTwinDivergence → s.pair.cmp.withheld = [] →
    answers (.twinWithheld c p code) s fun t => c ∈ t.pair.cmp.diverged)
  ∧ (∀ (s : State) (h : Hunt) (b : Bool), s.pair.cmp.hunts = [h] → h.rotation + 16 ≤ s.rotCount → h.localFault = true →
      s.pair.regs.role = .lead →
    answers (.faultHuntDone h.ctx b) s fun t => t.pair.link.setFault = true ∧ t.pair.cmp.hunts = [])
  ∧ (∀ (s : State) (h : Hunt), s.pair.cmp.hunts = [h] → h.rotation + 16 ≤ s.rotCount → h.localFault = false →
    answers (.faultHuntDone h.ctx false) s fun t => t.pair.join.step = 4 ∧ h.ctx ∈ t.pair.cmp.diverged)

/-- TWIN_REPORT (in part R332): the lead forwards the report to every connection. TWIN_REPORT_SEND: after 2^20 beads a pendant sends
one. SELFTEST_SUBSTITUTION (in part R331): after 2^16 rotations a pendant orders a substitution on every Setting die, which begins
its copy or waits. The model's choices: log entry 29. -/
def Obligations.TwinReports : Prop :=
  (∀ (s : State) (r : Bytes), s.pair.regs.role = .lead →
    answers (.twinReport r) s fun t =>
      t.out = (s.mgmt.conns.map fun k => Output.notice k.id (slice r 0 128)).reverse ++ s.out ∧ t.pair.link.lastReport = slice r 0 128)
  ∧ (∀ s : State, s.pair.regs.role = .pendant → s.pair.link.reportBead + 2 ^ 20 ≤ s.bead →
    answers .twinReportSend s fun t => t.pair.link.reportBead = s.bead ∧ itemSent 9 s t)
  ∧ (∀ s : State, s.pair.regs.role = .pendant → s.pair.cmp.selftestRot + 65536 ≤ s.rotCount →
    answers .selftestSubstitution s fun t =>
      t.pair.cmp.selftestRot = s.rotCount ∧ t.pair.cmp.turn = s.pair.cmp.turn + 1
        ∧ ∀ d, d < settingDies s.grade → d < s.spares.length →
            (t.spare d).copying.isSome ∨ s.pair.cmp.turn % 256 ∈ (t.spare d).waits)

/-- PROMOTION_COMPLETE, PROMOTION_CONFIRM, DETACHED_RETAKE and ROLE_EXCHANGE (in part R335, R339, R432): a completed promotion
leaves the lead ALONE, or still ACTING until it is confirmed, with PAIR_PROMOTED; a detached member leads again one epoch past EH;
at boundary P the members exchange their roles in the next epoch. The model's choices: log entries 14, 37. -/
def Obligations.PromotionsEnd : Prop :=
  (∀ s : State, s.pair.regs.role = .lead → s.pair.takeover.lossBead.isSome →
    answers .promotionComplete s fun t =>
      t.pair.takeover.lossBead = none ∧ t.pair.regs.state = (if s.pair.regs.state = .acting then .acting else .alone)
        ∧ t.pair.regs.role = .lead ∧ raised evPairPromoted s t)
  ∧ (∀ s : State, s.pair.regs.role = .lead → s.pair.regs.state = .acting → confirmOver s = true → ehBehind s = true →
    answers .promotionConfirm s fun t =>
      t.pair.regs.state = .alone ∧ t.pair.regs.role = .lead ∧ t.pair.takeover.confirmSince = none ∧ raised evPairPromoted s t)
  ∧ (∀ s : State, s.pair.regs.state = .detached → confirmOver s = true →
    answers .detachedRetake s fun t =>
      t.pair.regs.role = .lead ∧ t.pair.regs.state = .acting ∧ t.pair.regs.epoch = (s.pair.regs.eh.getD s.pair.regs.epoch) + 1)
  ∧ (∀ s : State, s.pair.takeover.swapAt = some (s.period + 1) → atBoundary s = true → s.pair.regs.state = .lockstep →
      s.pair.regs.role = .pendant →
    answers .roleExchange s fun t =>
      t.pair.regs.role = .lead ∧ t.pair.regs.epoch = s.pair.regs.epoch + 1 ∧ t.pair.takeover.swapAt = none)
  ∧ (∀ s : State, s.pair.takeover.swapAt = some (s.period + 1) → atBoundary s = true → s.pair.regs.state = .lockstep →
      s.pair.regs.role = .lead →
    answers .roleExchange s fun t =>
      t.pair.regs.role = .pendant ∧ t.pair.regs.epoch = s.pair.regs.epoch + 1 ∧ t.pair.takeover.swapAt = none)

/-- EPOCH_BEAT (in part R338): the epoch of a lead that is ALONE rises by 1 after 2^BEAT periods. EPOCH_RAISE (in part R319, R338):
at a rotation boundary a lead's raise of 2 that is due takes place, and an unpaired module's epoch passes those its ports
report. PAIR_LISTEN_END (in part R319): who hears no lead and no partner leads alone; who hears lead cells joins; of two that start
together the even slot leads; a partner of another position is refused. The model's choices: log entry 14. -/
def Obligations.EpochsAndStart : Prop :=
  (∀ (s : State) (r : Nat), s.pair.takeover.beatSince = some r → s.pair.regs.role = .lead → s.pair.regs.state = .alone →
      r + 2 ^ beatLog s.pair.regs ≤ s.rotCount →
    answers .epochBeat s fun t => t.pair.regs.epoch = s.pair.regs.epoch + 1 ∧ t.pair.takeover.beatSince = some s.rotCount)
  ∧ (∀ s : State, atBoundary s = true → s.paired = true → s.pair.regs.role = .lead → s.pair.takeover.raiseDue = 2 →
    answers .epochRaise s fun t => t.pair.regs.epoch = s.pair.regs.epoch + 2 ∧ t.pair.takeover.raiseDue = 0)
  ∧ (∀ s : State, atBoundary s = true → (s.paired = false ∨ (s.pair.regs.role = .unpaired ∧ s.pair.takeover.listening = false)) →
    answers .epochRaise s fun t => t.pair.regs.epoch = raisedEpoch s)
  ∧ (∀ s : State, s.paired = true → s.startup.ready = true → s.pair.takeover.listening = true →
    (answers (.pairListenEnd .nothing) s fun t =>
      t.pair.regs.role = .lead ∧ t.pair.regs.state = .alone ∧ t.pair.regs.epoch = firstEpoch s ∧ t.pair.takeover.listening = false)
    ∧ (answers (.pairListenEnd .leadCells) s fun t =>
      t.pair.regs.role = .joining ∧ t.pair.join.step = 1 ∧ t.pair.takeover.listening = false)
    ∧ (answers (.pairListenEnd (.startingPartner (partnerOf s.startup.slot))) s fun t =>
      t.pair.regs.role = (if s.startup.slot % 2 = 0 then .lead else .joining) ∧ t.pair.takeover.listening = false)
    ∧ (∀ n, n ≠ partnerOf s.startup.slot → answers (.pairListenEnd (.startingPartner n)) s fun t =>
      t.pair.regs.role = .unpaired ∧ raised evPairWiring s t ∧ t.pair.takeover.listening = false))

/-! ## Management -/

/-- STATUS, EVENTS_READ, LOG_READ and HM_STATUS (in part R411, R412, R418, R419, R428): each answers STATUS 0 with its payload, and
changes nothing else but the connections' times. The payloads' layouts are the model's choices: log entry 33. -/
def Obligations.ManagementReads : Prop :=
  ∀ (s : State) (id i : Nat), operates s id →
    (answers (.status id) s fun t =>
      t.out = .mgmt id 0x01 0 (statusPayload s) :: s.out ∧ { t with out := s.out, mgmt := { t.mgmt with conns := s.mgmt.conns } } = s)
    ∧ (answers (.eventsRead id i) s fun t =>
      t.out = .mgmt id 0x02 0 (eventsPayload s i) :: s.out ∧ { t with out := s.out, mgmt := { t.mgmt with conns := s.mgmt.conns } } = s)
    ∧ (answers (.logRead id i) s fun t =>
      t.out = .mgmt id 0x03 0 (reportsPayload s i) :: s.out ∧ { t with out := s.out, mgmt := { t.mgmt with conns := s.mgmt.conns } } = s)
    ∧ (answers (.hmStatus id) s fun t =>
      t.out = .mgmt id 0x31 0 (hmPayload s) :: s.out ∧ { t with out := s.out, mgmt := { t.mgmt with conns := s.mgmt.conns } } = s)

/-- ADMIT, RELEASE, TOKEN and ROLE_SWAP wait as inputs of source 10 (in part R295, R411, R416, R423, R432); a follower
refuses ADMIT, RELEASE and ROLE_SWAP with NOT_LEAD (in part R412). The model's choices: log entries 7, 33. -/
def Obligations.ManagementLatches : Prop :=
  (∀ (s : State) (id : Nat), operates s id → s.follows = false →
    (∀ a r : Bytes, answers (.mgmtAdmit id a r) s fun t =>
      latched 10 (.mgmtAdmit id (slice a 0 12) r (imageOf s a)) s t ∧ t.mgmt.image = [])
    ∧ (∀ (c : CtxNo) (f : Bool), answers (.release id c f) s fun t => latched 10 (.mgmtRelease id c f) s t)
    ∧ (∀ p : Word, answers (.roleSwap id p) s fun t => latched 10 (.mgmtSwap id p) s t))
  ∧ (∀ (s : State) (id k a l : Nat) (n : Word), operates s id →
    answers (.token id k a n l) s fun t => latched 10 (.mgmtToken id k a n l) s t)
  ∧ (∀ (s : State) (id : Nat), operates s id → s.follows = true →
    (∀ a r : Bytes, answers (.mgmtAdmit id a r) s fun t => t.out = .mgmt id 0x10 0x10 [] :: s.out ∧ t.inbox = s.inbox)
    ∧ (∀ (c : CtxNo) (f : Bool), answers (.release id c f) s fun t => t.out = .mgmt id 0x11 0x10 [] :: s.out ∧ t.inbox = s.inbox)
    ∧ (∀ p : Word, answers (.roleSwap id p) s fun t => t.out = .mgmt id 0x40 0x10 [] :: s.out ∧ t.inbox = s.inbox))

/-- MGMT_CONNECT (in part R408, R409, R410): a client of TLS 1.3 with the one suite and scheme, at an address and the port of the
module, is accepted while fewer than four are open, an operator, an observer or, before the first root, a bootstrap client, and
takes the notices that waited; a fifth, and one at another port, is not. MGMT_IDLE_CLOSE closes a connection after 300 s without a
command. The model's choices: log entries 9, 10, 45. -/
def Obligations.ConnectionsOpen : Prop :=
  (∀ (s : State) (q : ConnectReq) (o b : Bool), s.mgmt.up = true → q.port = 4433 → q.dest ∈ netAddresses s.mgmt.net →
      s.mgmt.conns.length < 4 → q.tls13 = true → q.suite = 0x00C6 → q.scheme = 0x0708 →
      ((s.mgmt.operatorRoot ≠ [] ∧ q.chain = 1 ∧ o = true ∧ b = false)
        ∨ (s.mgmt.operatorRoot ≠ [] ∧ q.chain = 2 ∧ s.mgmt.observerRoot ≠ [] ∧ o = false ∧ b = false)
        ∨ (s.mgmt.operatorRoot = [] ∧ q.selfSignedKey ≠ [] ∧ o = false ∧ b = true)) →
    answers (.mgmtConnect q) s fun t =>
      t.mgmt.conns = s.mgmt.conns ++ [⟨s.mgmt.nextConn, o, b, q.selfSignedKey, s.bead⟩] ∧ t.mgmt.nextConn = s.mgmt.nextConn + 1
        ∧ t.mgmt.notices = [] ∧ t.out = (s.mgmt.notices.map fun n => Output.notice s.mgmt.nextConn n).reverse ++ s.out)
  ∧ (∀ (s : State) (q : ConnectReq), 4 ≤ s.mgmt.conns.length ∨ q.port ≠ 4433 → answers (.mgmtConnect q) s fun t => t = s)
  ∧ (∀ (s : State) (id : Nat), (∀ c ∈ s.mgmt.conns, c.id = id → c.last + 300 * 25000000 ≤ s.bead) →
    answers (.mgmtIdleClose id) s fun t =>
      t.mgmt.conns = (s.mgmt.conns.filter fun c => decide (c.id ≠ id)) ∧ t = { s with mgmt := t.mgmt })

/-- IMG_PIECE, ROOT_SET, RESET and HEALTH_CLEAR (in part R410, R413, R423): a piece joins the staging area; a bootstrap client sets
the first roots, later a signature by the operator root does, and anything else is refused; RESET is to come in 1 s (in part R411); two
contributions to the health clear. The model's choices: log entries 7, 45. -/
def Obligations.ManagementActs : Prop :=
  (∀ (s : State) (id off b : Nat) (d : Bytes), operates s id → s.mgmt.imageBase = some b → d.length ≤ 65536 → off + d.length ≤ 2 ^ 32 →
    answers (.imgPiece id off d) s fun t => t.mgmt.image = s.mgmt.image ++ [(off, d)] ∧ t.out = .mgmt id 0x12 0 [] :: s.out)
  ∧ (∀ (s : State) (id : Nat) (c : Conn) (op ob g : Bytes), s.startup.ready = true → s.mgmt.operatorRoot = [] →
      s.mgmt.conns.find? (fun c => decide (c.id = id)) = some c → c.bootstrap = true →
    answers (.rootSet id op ob g) s fun t =>
      t.mgmt.operatorRoot = c.key ∧ t.mgmt.observerRoot = ob ∧ t.out = .mgmt id 0x60 0 [] :: s.out)
  ∧ (∀ (s : State) (id : Nat) (op ob g : Bytes), operates s id → op ≠ [] →
    answers (.rootSet id op ob g) s fun t =>
      if sm2Verify sm2Id s.mgmt.operatorRoot (op ++ ob) g then
        t.mgmt.operatorRoot = op ∧ t.mgmt.observerRoot = ob ∧ t.out = .mgmt id 0x60 0 [] :: s.out
      else t.mgmt.operatorRoot = s.mgmt.operatorRoot ∧ t.mgmt.observerRoot = s.mgmt.observerRoot
        ∧ ∃ n, n ≠ 0 ∧ t.out = .mgmt id 0x60 n [] :: s.out)
  ∧ (∀ (s : State) (id : Nat), operates s id →
    answers (.reset id) s fun t => t.mgmt.resetDue = some (s.bead + 25000000) ∧ t.out = .mgmt id 0x41 0 [] :: s.out)
  ∧ (∀ (s : State) (id : Nat), operates s id →
    answers (.healthClear id) s fun t => t.health.slotGuard = false ∧ t.health.unexplained = false
      ∧ t.health.tripped = s.health.tripped ∧ t.health.fatal = s.health.fatal)

/-- DEBUG_TOKEN (in part R378, R405, R417): an accepted token sets DEBUG with its digest, the first one in a reset, and raises
DEBUG_ENABLED; any other is refused with a STATUS other than 0, and DEBUG stays. TOKEN_LEASE_EXPIRY: a lease that has passed ends
its token, whose serial stays. REPLACE_REQUEST comes again after 24 h. HEALTH_LOG_WRITE: after 600 s the report is logged (in part
R415, R416, R419). The model's choices: log entries 7, 9. -/
def Obligations.TokensAndTimes : Prop :=
  (∀ (s : State) (id : Nat) (d : Bytes), operates s id →
    answers (.debugToken id d) s fun t =>
      if debugOk s d then
        t.locket.debugOn = true ∧ t.locket.debug = (if s.locket.debugOn then s.locket.debug else sm3 d) ∧ raised evDebugEnabled s t
      else t.locket = s.locket ∧ ∃ n, n ≠ 0 ∧ t.out = .mgmt id 0x21 n [] :: s.out)
  ∧ (∀ s : State, s.mgmt.pairToken.held = true → s.mgmt.pairToken.lease ≤ s.bead →
    answers (.tokenLeaseExpiry 1) s fun t => t.mgmt.pairToken.held = false ∧ t.pair.regs.token = false
      ∧ t.mgmt.pairToken.serial = s.mgmt.pairToken.serial)
  ∧ (∀ s : State, s.mgmt.seaToken.held = true → s.mgmt.seaToken.lease ≤ s.bead →
    answers (.tokenLeaseExpiry 2) s fun t => t.mgmt.seaToken.held = false ∧ t.mgmt.seaToken.serial = s.mgmt.seaToken.serial)
  ∧ (∀ (s : State) (b : Nat), s.mgmt.replaceAt = some b → s.health.now = .replace → b + 24 * 3600 * 25000000 ≤ s.bead →
    answers .replaceRequest s fun t => raised evReplaceRequest s t ∧ t.mgmt.replaceAt = some s.bead)
  ∧ (∀ s : State, s.startup.ready = true → s.mgmt.healthLogAt + 600 * 25000000 ≤ s.bead →
    answers .healthLogWrite s fun t => t.mgmt.healthLog = healthReport s :: s.mgmt.healthLog ∧ t.mgmt.healthLogAt = s.bead)

/-- HM_PIECE (in part R427): below its rate a table or body piece is staged and checked; above its rate a piece is BUSY. HM_ARM,
HM_DISARM and HM_CONFIRM (in part R428, R430): a READY image at or above the floor, in a pair with its levels, is armed; disarmed;
the running image is confirmed and the staging clears. HM_AUTO_CONFIRM confirms it after 30 minutes.
The model's choices: log entry 32. -/
def Obligations.HallmarkSteps : Prop :=
  (∀ (s : State) (id i : Nat) (p : Bytes), operates s id → hmBusy s = false → p.length = 4096 → s.mgmt.hm.armed = false →
      s.mgmt.hm.installing = false → i ≠ 0 → s.mgmt.hm.staged ≠ [] → i < hmCount (hmHeader s.mgmt.hm.staged) →
    answers (.hmPiece id i p) s fun t =>
      t.mgmt.hm.staged = (hmSettle { s.mgmt.hm with staged := assocSet i p s.mgmt.hm.staged }).staged
        ∧ t.out = .mgmt id 0x30 0 [] :: s.out)
  ∧ (∀ (s : State) (id i : Nat) (p : Bytes), operates s id → hmBusy s = true →
    answers (.hmPiece id i p) s fun t => t.mgmt.hm = s.mgmt.hm ∧ t.out = .mgmt id 0x30 0x11 [] :: s.out)
  ∧ (∀ (s : State) (id : Nat), operates s id → hmState s.mgmt.hm = .ready → fusedFloor s ≤ hmGeneration (hmHeader s.mgmt.hm.staged) →
      (partnered s = false ∨ hmLevels s = true) →
    answers (.hmArm id) s fun t => t.mgmt.hm.armed = true ∧ t.out = .mgmt id 0x32 0 [] :: s.out)
  ∧ (∀ (s : State) (id : Nat), operates s id →
    answers (.hmDisarm id) s fun t => t.mgmt.hm.armed = false ∧ t.out = .mgmt id 0x33 0 [] :: s.out)
  ∧ (∀ (s : State) (id : Nat), operates s id → s.mgmt.hm.confirmed = false →
    answers (.hmConfirm id) s fun t => t.mgmt.hm.confirmed = true ∧ t.mgmt.hm.staged = [] ∧ hmState t.mgmt.hm = .empty)
  ∧ (∀ (s : State) (b : Nat), s.mgmt.hm.readySince = some b → b + 1800 * 25000000 ≤ s.bead → s.mgmt.hm.confirmed = false →
    answers .hmAutoConfirm s fun t => t.mgmt.hm.confirmed = true ∧ t.mgmt.hm.staged = [])

/-- CAST_EXPORT (in part R421): a frozen ring answers up to 64 KiB from the offset, one that is not frozen is refused.
CAST_IMPORT (in part R422): a replay module with no context but 0 takes a line of a recorded ring into its own.
The model's choices: log entry 36. -/
def Obligations.CastRingsTravel : Prop :=
  (∀ (s : State) (id off : Nat), operates s id → s.cast.frozen = true → castAble s = true → off < castRingBytes s.cast →
    answers (.castExport id off) s fun t =>
      ∃ p, t.out = .mgmt id 0x50 0 p :: s.out ∧ p.length = min 65536 (castRingBytes s.cast - off) ∧ t.lp4x = s.lp4x)
  ∧ (∀ (s : State) (id off : Nat), operates s id → s.cast.frozen = false →
    answers (.castExport id off) s fun t => ∃ n, n ≠ 0 ∧ t.out = .mgmt id 0x50 n [] :: s.out)
  ∧ (∀ (s : State) (id l : Nat) (d : Bytes), operates s id → s.cast.replay = true → s.admitted = [] → castAble s = true →
      d.length = 1024 → 1024 * l + 1024 ≤ castRingBytes s.cast →
    answers (.castImport id (1024 * l) d) s fun t =>
      t.out = .mgmt id 0x51 0 [] :: s.out
        ∧ t.lp4x = (storeLine 0 (castPlace s (1024 * l)).1 (castPlace s (1024 * l)).2
            (overlay (readLine 0 (castPlace s (1024 * l)).1 (castPlace s (1024 * l)).2 s).1 0 d) s).lp4x)

/-! ## Start-up, pins and links -/

/-- POWER_GOOD, CRYSTAL_STABLE, CRYSTAL_FALLBACK and ROOT_PLL_LOCK: steps 1 to 5 of start-up (in part R350, R351, Table 15-6), with
the fall-back in MODE 1 or after 1,024 windows without a stable judgement.
LOADER_START, TRAY_SEAT_HOLD, LP4X_TRAINING_COMPLETE, ALIGNMENT_EDGE and ALIGNMENT_CHECK_DONE: steps 6 to 9 (in part R292, R293,
R378, R431, R450, R451). The model's choices: log entries 6, 28. -/
def Obligations.StartUpSteps : Prop :=
  (∀ (s : State) (w : Word), s.startup.powered = false →
    answers (.powerGood w) s fun t =>
      t.startup.powered = true ∧ t.startup.step = 2 ∧ t.clock.clockWord = w ∧ t.clock.ref = .oscillator)
  ∧ (∀ (s : State) (ws : List Nat), atStep 2 s = true → bootMode s.clock.clockWord = false → s.clock.judged = false →
    (((ws.take 1024).foldl windowStep (0, 0)).2 = 8 →
      answers (.crystalStable ws) s fun t => t.startup.step = 3 ∧ t.clock.ref = .crystal ∧ t.clock.bootFallback = s.clock.bootFallback)
    ∧ (((ws.take 1024).foldl windowStep (0, 0)).2 ≠ 8 → 1024 ≤ ws.length →
      answers (.crystalStable ws) s fun t => t.startup.step = 2 ∧ t.clock.judged = true ∧ t.clock.ref = s.clock.ref))
  ∧ (∀ (s : State) (n : Nat), atStep 2 s = true → (bootMode s.clock.clockWord = true ∨ s.clock.judged = true) →
    (24375 ≤ n → n ≤ 25625 →
      answers (.crystalFallback true n) s fun t => t.startup.step = 3 ∧ t.clock.ref = .crystal ∧ t.clock.bootFallback = true)
    ∧ (answers (.crystalFallback false n) s fun t => t.startup.stopped = true ∧ t.startup.step = 2))
  ∧ (∀ (s : State) (v : BitVec 3) (a b c : Bool), atStep 3 s = true →
    answers (.rootPllLock v a b c) s fun t =>
      t.clock.rootLock = true ∧ t.startup.step = 5 ∧ t.startup.slot = v.toNat ∧ t.startup.seat.used = a ∧ t.startup.cool.used = b
        ∧ t.startup.quiesce.used = c)
  ∧ (∀ (s : State) (r : LoadedRegions), atStep 5 s = true → s.mgmt.hm.installing = false → s.mgmt.hm.armed = false →
      s.mgmt.hm.failedStarts < 3 →
    answers (.loaderStart true r) s fun t =>
      t.startup.step = 7 ∧ t.mgmt.up = true ∧ t.mgmt.net = r.net ∧ t.locket.rngOk = true ∧ t.locket.rngFailed = false
        ∧ t.locket.loader = sm3 r.loader)
  ∧ (∀ (s : State) (r : LoadedRegions), atStep 5 s = true → s.mgmt.hm.installing = false → s.mgmt.hm.armed = false →
      3 ≤ s.mgmt.hm.failedStarts →
    answers (.loaderStart true r) s fun t => t.startup.step = 6 ∧ t.mgmt.up = true ∧ t.mgmt.hm.recovery = true)
  ∧ (∀ s : State, atStep 7 s = true → s.startup.seat.used = true →
    answers .traySeatHold s fun t => t.startup.holdDone = true ∧ t.startup.step = 7)
  ∧ (∀ (s : State) (l : List Nat), atStep 7 s = true → s.startup.holdDone = true → s.bezel.channels.length = 48 → s.grade ≤ 4 →
      (∀ ch, ch < channelCount s.grade → l.getD ch 5 ≤ 4) →
    answers (.lp4xTrainingComplete l) s fun t =>
      t.startup.step = 8 ∧ ∀ ch, ch < channelCount s.grade → (t.chan ch).state = 1)
  ∧ (∀ s : State, atStep 8 s = true → s.startup.counting = false →
    answers .alignmentEdge s fun t =>
      t.startup.counting = true ∧ t.bead = 0 ∧ t.beadInRot = 0 ∧ t.period = 0 ∧ t.rotLen = lrot s.rate 0)
  ∧ (∀ s : State, atStep 8 s = true → s.startup.counting = true → 1024 ≤ s.bead →
    (answers (.alignmentCheckDone true) s fun t => t.startup.step = 9)
    ∧ (answers (.alignmentCheckDone false) s fun t =>
      t.startup.alignTries = s.startup.alignTries + 1 ∧ t.startup.counting = false ∧ (2 ≤ s.startup.alignTries → t.startup.stopped = true)))

/-- FACET_TEST_COMPLETE: a Facet that fails is retired; with none, and enough healthy Facets, start-up goes on to step 10, or to 11
where COOL_OK is asserted. STARTUP_READY: the module is ready and sealed with its E_base, and context 0 has a fresh key pair (in part
R15, R364, R449), unless the generator fails (R379). The model's choices: log entries 7, 28. -/
def Obligations.ModuleReady : Prop :=
  (∀ s : State, atStep 9 s = true → s.startup.facetsReleased = true → enoughFacets s = true →
    answers (.facetTestComplete []) s fun t => t.startup.step = if s.startup.cool.used then 11 else 10)
  ∧ (∀ (s : State) (p : Nat), atStep 9 s = true → s.startup.facetsReleased = true → p / 272 < settingDies s.grade →
      p / 272 < s.spares.length →
    answers (.facetTestComplete [p]) s fun t => p % 272 ∈ (t.spare (p / 272)).retired)
  ∧ (∀ (s : State) (ws : Settings) (e : Nat), atStep 11 s = true →
    answers (.startupReady ws e) s fun t =>
      t.startup.ready = true ∧ t.startup.step = 12 ∧ t.sealed = true ∧ t.power.eBase = e ∧ t.power.target = 1000 * e
        ∧ if (drawPair s).2.locket.rngFailed then t.locket.rngFailed = true
          else (assoc 0 t.bezel.keys).map (·.1) = some (Config.trng s.locket.draws))

/-- TRAY_SEAT_CHANGE, COOL_OK_CHANGE and QUIESCE_N_CHANGE (in part R294, R445, R446): once beads run, a change is an input of source
10; the seventeenth change of QUIESCE_N within a second is chatter. CHATTER_END: after 10 s without a change the input counts again.
PAIR_SLOT_CHANGE, PCIE_LINK_UP, PCIE_LINK_DOWN and JTAG_INSTRUCTION (in part R436, R437, R445, R456): the slot stays as it was
sampled; the link comes; with its loss the accesses that wait go, with PCIE_DOWN; each die of the chain has its instruction, without
a debug token one of three. The model's choices: log entries 11, 28, 41. -/
def Obligations.PinsAndLinks : Prop :=
  (∀ (s : State) (b : Bool), 5 ≤ s.startup.step → s.startup.counting = true → s.startup.seat.filtered ≠ b →
      s.startup.seat.chatter = false → s.startup.seat.changes.length < 16 →
    answers (.traySeatChange b) s fun t => t.startup.seat.filtered = b ∧ latched 10 (.pin .traySeat b) s t)
  ∧ (∀ (s : State) (b : Bool), 5 ≤ s.startup.step → s.startup.counting = true → s.startup.cool.filtered ≠ b →
      s.startup.cool.chatter = false → s.startup.cool.changes.length < 16 →
    answers (.coolOkChange b) s fun t => t.startup.cool.filtered = b ∧ latched 10 (.pin .coolOk b) s t)
  ∧ (∀ (s : State) (b : Bool), 5 ≤ s.startup.step → s.startup.counting = true → s.startup.quiesce.filtered ≠ b →
      s.startup.quiesce.chatter = false → s.startup.quiesce.changes.length < 16 →
    answers (.quiesceNChange b) s fun t => t.startup.quiesce.filtered = b ∧ latched 10 (.pin .quiesce b) s t)
  ∧ (∀ (s : State) (b : Bool) (x : Nat) (r : List Nat), 5 ≤ s.startup.step → s.startup.quiesce.filtered ≠ b →
      s.startup.quiesce.chatter = false → s.startup.quiesce.changes = x :: r → r.length = 15 →
      (∀ y ∈ x :: r, s.bead < y + 25000000) →
    answers (.quiesceNChange b) s fun t =>
      t.startup.quiesce.chatter = true ∧ raised evInputChatter s t ∧ t.inbox = s.inbox)
  ∧ (∀ (s : State) (n : PinName), (pinOf s.startup n).chatter = true → (pinOf s.startup n).changes.headD 0 + 250000000 ≤ s.bead →
      s.startup.counting = true →
    answers (.chatterEnd n) s fun t =>
      (pinOf t.startup n).chatter = false ∧ latched 10 (.pin n (pinOf s.startup n).filtered) s t)
  ∧ (∀ (s : State) (v : BitVec 3), s.startup.straps ≠ v → 5 ≤ s.startup.step →
    answers (.pairSlotChange v) s fun t => t.startup.straps = v ∧ t.startup.slot = s.startup.slot ∧ raised evStrapChanged s t)
  ∧ (∀ s : State, 7 ≤ s.startup.step →
    answers .pcieLinkUp s fun t => t.ports.linkUp = true ∧ t.ports.msixEn = true ∧ t = { s with ports := t.ports })
  ∧ (∀ s : State, s.ports.linkUp = true →
    answers .pcieLinkDown s fun t => t.ports.linkUp = false ∧ t.bezel.queue = [] ∧ raised evPcieDown s t)
  ∧ (∀ (s : State) (l : List Byte), answers (.jtagInstruction l) s fun t =>
      t.ports.jtag.length = (scanChain s).length
        ∧ (s.locket.debugOn = false → ∀ a ∈ t.ports.jtag, a = Config.jtagOpcode 0 ∨ a = Config.jtagOpcode 1 ∨ a = 0xFF))

/-- MODULE_RESET and POWER_LOSS (in part R381, R403): what is fused, in flash or in LP4X stays; keys, scratch, contexts and registers
go, and the commands that wait stay in their queue. A reset that a RESET has ordered does not come before its second has passed
(in part R411). The model's choices: log entry 47. -/
def Obligations.ResetsKeep : Prop :=
  (∀ (s : State) (b : Nat), s.mgmt.resetDue = some b → b ≤ s.bead →
    answers .moduleReset s fun t =>
      t.bezel.keys = [] ∧ t.store = [] ∧ t.admitted = [] ∧ t.startup.ready = false ∧ t.ports.linkUp = false ∧ t.bead = 0
        ∧ t.lp4x = s.lp4x ∧ t.locket.floors = s.locket.floors ∧ t.grade = s.grade ∧ t.mgmt.operatorRoot = s.mgmt.operatorRoot
        ∧ t.events.log = s.events.log ∧ t.pending = s.pending)
  ∧ (∀ (s : State) (b : Nat), s.mgmt.resetDue = some b → s.bead < b → s.startup.counting = true →
    answers .moduleReset s fun t => t = s)
  ∧ (∀ s : State,
    answers .powerLoss s fun t =>
      t.bezel.keys = [] ∧ t.store = [] ∧ t.admitted = [] ∧ t.startup.ready = false ∧ t.ports.linkUp = false ∧ t.bead = 0
        ∧ t.lp4x = s.lp4x ∧ t.locket.floors = s.locket.floors ∧ t.grade = s.grade ∧ t.mgmt.operatorRoot = s.mgmt.operatorRoot
        ∧ t.events.log = s.events.log ∧ t.pending = s.pending)

/-! ## The cues -/

/-- IDLE and IDLE_LOAD (in part R78): their bead passes and nothing changes. CLEAR (in part R83): its Facet's cells are cleared,
and no other's. ROUND and LSUM_OUT (in part R58, R60, R82, R83): the rows that the mask names stand in the Facet's scratch two
beads later, and the cells stay. LSUM_IN (in part R56, R83): the records are added to the cells of the rows that the mask names.
Each holds where its addresses lie in the partition. The model's choices: log entry 2. -/
def Obligations.IdleAndCells : Prop :=
  (∀ (s : State) (u : UnitNo) (i : Issue), begun s u i → i.cue = .idle → answers (.idle u) s fun t => t = done u s)
  ∧ (∀ (s : State) (u : UnitNo) (i : Issue) (l : BitVec 4), begun s u i → i.cue = .idleLoad l →
    answers (.idleLoad u) s fun t => t = done u s)
  ∧ (∀ (s : State) (u : UnitNo) (i : Issue), begun s u i → i.cue = .clear →
    answers (.clear u) s fun t =>
      t.cells.get (unitIdx u) = List.replicate 1024 Cell.zero ∧ (∀ g, g ≠ unitIdx u → t.cells.get g = s.cells.get g)
        ∧ t.effects = s.effects ∧ t.store = s.store ∧ t.ctxs = s.ctxs ∧ t.events = s.events)
  ∧ (∀ (s : State) (u : UnitNo) (i : Issue) (f : RoundFields) (fmt : Fmt) (kd ks : Nat), begun s u i → i.cue = .round f →
      roundFmt f.fmtOut.toNat = some fmt →
      ownKey s i.ctx (unitIdx u) (issueAddr s i f.dBase.toNat f.dStr.toNat) (32 * elemBytes fmt 32) = some kd →
      ownKey s i.ctx (unitIdx u) (issueAddr s i f.sBase.toNat f.sStr.toNat) 4 = some ks →
    answers (.round u) s fun t =>
      (let rows := (chunks 32 ((s.cells.get (unitIdx u)).map (Cell.convert fmt f.w.toInt f.eOut.toInt (decide (f.sat = 1))))).zipIdx.filter
         fun r => bit (i.rowMask f.rmen f.rmreg) r.2
       let st := (rows.map fun r => r.1.map (·.2)).flatten.foldl Status.or {}
       makes 2 u i (.bytes (rows.map (fun r => (kd + r.2 * elemBytes fmt 32, packElems fmt (r.1.map (·.1))))
         ++ if f.sten = 1 then [(ks, leBytes 4 st.word)] else [])) s t)
        ∧ t.cells = s.cells ∧ t.store = s.store ∧ t.ctxs = s.ctxs ∧ t.events = s.events)
  ∧ (∀ (s : State) (u : UnitNo) (i : Issue) (f : LsumOutFields) (kd : Nat), begun s u i → i.cue = .lsumOut f →
      ownKey s i.ctx (unitIdx u) (issueAddr s i f.dBase.toNat f.dStr.toNat) 16384 = some kd →
    answers (.lsumOut u) s fun t =>
      makes 2 u i (.bytes (((chunks 32 (s.cells.get (unitIdx u))).zipIdx.filter fun r => bit (i.rowMask f.rmen f.rmreg) r.2).map
          fun r => (kd + r.2 * 512, (r.1.map Cell.record).flatten))) s t
        ∧ t.cells = s.cells ∧ t.store = s.store ∧ t.ctxs = s.ctxs ∧ t.events = s.events)
  ∧ (∀ (s : State) (u : UnitNo) (i : Issue) (f : LsumInFields) (ks : Nat), begun s u i → i.cue = .lsumIn f → s.bad = [] →
      (s.cells.get (unitIdx u)).length = 1024 →
      ownKey s i.ctx (unitIdx u) (issueAddr s i f.sBase.toNat f.sStr.toNat) 16384 = some ks →
    answers (.lsumIn u) s fun t =>
      (∀ n, n < 1024 →
        (t.cells.get (unitIdx u)).getD n Cell.zero =
          if bit (i.rowMask f.rmen f.rmreg) (n / 32) then
            ((s.cells.get (unitIdx u)).getD n Cell.zero).addRecord ((chunks 16 (memRead s.store ks 16384)).getD n [])
          else (s.cells.get (unitIdx u)).getD n Cell.zero)
        ∧ (∀ g, g ≠ unitIdx u → t.cells.get g = s.cells.get g)
        ∧ t.effects = s.effects ∧ t.store = s.store ∧ t.ctxs = s.ctxs ∧ t.events = s.events)

/-- MAC and MAC_CLR (in part R41, R79 to R81): cell (x, y) of a row that the mask names takes the products of row x of A and
column y of B on top of what it held, or with MAC_CLR of a cleared cell; the other rows keep what they held, or are cleared; no
other Facet's cells change. The model's choices: log entries 2, 8. -/
def Obligations.MacAccumulates : Prop :=
  (∀ (s : State) (u : UnitNo) (i : Issue) (f : MacFields) (fa fb : Fmt) (k ka kb : Nat), begun s u i →
      i.cue = .mac f → macFmt f.fmtA.toNat = some fa → macFmt f.fmtB.toNat = some fb →
      macDepth fa fb = some k → s.bad = [] → (s.cells.get (unitIdx u)).length = 1024 →
      ownKey s i.ctx (unitIdx u) (issueAddr s i f.aBase.toNat f.aStr.toNat) (elemBytes fa (32 * k)) = some ka →
      ownKey s i.ctx (unitIdx u) (issueAddr s i f.bBase.toNat f.bStr.toNat) (elemBytes fb (32 * k)) = some kb →
    answers (.mac u) s fun t =>
      (∀ x y, x < 32 → y < 32 →
        (t.cells.get (unitIdx u)).getD (32 * x + y) Cell.zero =
          (let old := (s.cells.get (unitIdx u)).getD (32 * x + y) Cell.zero
           let a := (chunks k ((elems fa (memRead s.store ka (elemBytes fa (32 * k)))).map (decodeVal fa))).getD x []
           let b := (chunks 32 ((elems fb (memRead s.store kb (elemBytes fb (32 * k)))).map (decodeVal fb))).map
             fun r => r.getD y (.zero false)
           if bit (i.rowMask f.rmen f.rmreg) x then
             old.addProducts (decide (fa = .bf16)) (if fa = .bf16 then f.w.toInt else 0) a b
           else old))
        ∧ (∀ g, g ≠ unitIdx u → t.cells.get g = s.cells.get g)
        ∧ t.effects = s.effects ∧ t.store = s.store ∧ t.ctxs = s.ctxs ∧ t.events = s.events)
  ∧ (∀ (s : State) (u : UnitNo) (i : Issue) (f : MacFields) (fa fb : Fmt) (k ka kb : Nat), begun s u i →
      i.cue = .macClr f → macFmt f.fmtA.toNat = some fa → macFmt f.fmtB.toNat = some fb →
      macDepth fa fb = some k → s.bad = [] →
      ownKey s i.ctx (unitIdx u) (issueAddr s i f.aBase.toNat f.aStr.toNat) (elemBytes fa (32 * k)) = some ka →
      ownKey s i.ctx (unitIdx u) (issueAddr s i f.bBase.toNat f.bStr.toNat) (elemBytes fb (32 * k)) = some kb →
    answers (.macClr u) s fun t =>
      (∀ x y, x < 32 → y < 32 →
        (t.cells.get (unitIdx u)).getD (32 * x + y) Cell.zero =
          (let a := (chunks k ((elems fa (memRead s.store ka (elemBytes fa (32 * k)))).map (decodeVal fa))).getD x []
           let b := (chunks 32 ((elems fb (memRead s.store kb (elemBytes fb (32 * k)))).map (decodeVal fb))).map
             fun r => r.getD y (.zero false)
           if bit (i.rowMask f.rmen f.rmreg) x then
             Cell.zero.addProducts (decide (fa = .bf16)) (if fa = .bf16 then f.w.toInt else 0) a b
           else Cell.zero))
        ∧ (∀ g, g ≠ unitIdx u → t.cells.get g = s.cells.get g)
        ∧ t.effects = s.effects ∧ t.store = s.store ∧ t.ctxs = s.ctxs ∧ t.events = s.events)

/-- COPY and FILL (in part R84, R85, R96, R143): the source bytes, or the pattern, reach the destination two beads later, or four
where the move leaves the mover's die, as a write of scratch, a store or a buffer, or of control registers; the cue drives its
Chain slot until then. READ and WRITE (in part R86, R130, R156, R159, R164): the plain line, or the sealed one, is there 18
beads later; a READ of a line that cannot be corrected leaves MEM_UE for that bead. The model's choices: log entries 2, 10, 53. -/
def Obligations.MoversAndSlots : Prop :=
  (∀ (s : State) (u : UnitNo) (i : Issue) (f : MoveFields) (so dO d : Nat) (ls ld : List (Nat × Nat)), begun s u i → i.cue = .copy f →
      s.bad = [] → issueAddr s i (f.src.toNat % 2 ^ 34) f.srcStr.toNat = so → issueAddr s i (f.dst.toNat % 2 ^ 34) f.dstStr.toNat = dO →
      (∀ o, moveEnd s i.ctx (f.src.toNat / 2 ^ 34) so false ≠ some (3, o)) →
      (∀ o, moveEnd s i.ctx (f.dst.toNat / 2 ^ 34) dO true ≠ some (3, o)) →
      locate s i.ctx (f.src.toNat / 2 ^ 34) so (moveBytes f) false = some ls →
      locate s i.ctx (f.dst.toNat / 2 ^ 34) dO (readPieces s ls).length true = some ld →
      d = (if sameDie u [moveEnd s i.ctx (f.dst.toNat / 2 ^ 34) dO true, moveEnd s i.ctx (f.src.toNat / 2 ^ 34) so false] then 2 else 4) →
    answers (.copy u) s fun t =>
      makes d u i (.bytes (cutPieces ld (readPieces s ls))) s t ∧ t.drives = (drive u i.ctx f.slot.toNat 0 (d - 1) s).drives
        ∧ t.store = s.store ∧ t.ctxs = s.ctxs ∧ t.events = s.events)
  ∧ (∀ (s : State) (u : UnitNo) (i : Issue) (f : MoveFields) (so dO off : Nat) (e : Nat × Nat) (ls : List (Nat × Nat)), begun s u i →
      i.cue = .copy f → s.bad = [] → issueAddr s i (f.src.toNat % 2 ^ 34) f.srcStr.toNat = so →
      issueAddr s i (f.dst.toNat % 2 ^ 34) f.dstStr.toNat = dO →
      (∀ o, moveEnd s i.ctx (f.src.toNat / 2 ^ 34) so false ≠ some (3, o)) →
      locate s i.ctx (f.src.toNat / 2 ^ 34) so (moveBytes f) false = some ls →
      moveEnd s i.ctx (f.dst.toNat / 2 ^ 34) dO true = some (3, off) →
      moveEnd s i.ctx (f.dst.toNat / 2 ^ 34) ((dO : Int) + (readPieces s ls).length - 1) true = some e →
    answers (.copy u) s fun t =>
      makes 4 u i (.regs off (readPieces s ls)) s t ∧ t.drives = (drive u i.ctx f.slot.toNat 0 3 s).drives
        ∧ t.store = s.store ∧ t.ctxs = s.ctxs ∧ t.events = s.events)
  ∧ (∀ (s : State) (u : UnitNo) (i : Issue) (f : MoveFields) (dO d : Nat) (ld : List (Nat × Nat)), begun s u i → i.cue = .fill f →
      issueAddr s i (f.dst.toNat % 2 ^ 34) f.dstStr.toNat = dO →
      (∀ o, moveEnd s i.ctx (f.dst.toNat / 2 ^ 34) dO true ≠ some (3, o)) →
      locate s i.ctx (f.dst.toNat / 2 ^ 34) dO (fillBytes (BitVec.ofNat 32 f.src.toNat) (moveBytes f)).length true = some ld →
      d = (if sameDie u [moveEnd s i.ctx (f.dst.toNat / 2 ^ 34) dO true] then 2 else 4) →
    answers (.fill u) s fun t =>
      makes d u i (.bytes (cutPieces ld (fillBytes (BitVec.ofNat 32 f.src.toNat) (moveBytes f)))) s t
        ∧ t.drives = (drive u i.ctx f.slot.toNat 0 (d - 1) s).drives ∧ t.store = s.store ∧ t.ctxs = s.ctxs ∧ t.events = s.events)
  ∧ (∀ (s : State) (u : UnitNo) (i : Issue) (f : MoveFields) (dO off : Nat) (e : Nat × Nat), begun s u i → i.cue = .fill f →
      issueAddr s i (f.dst.toNat % 2 ^ 34) f.dstStr.toNat = dO →
      moveEnd s i.ctx (f.dst.toNat / 2 ^ 34) dO true = some (3, off) →
      moveEnd s i.ctx (f.dst.toNat / 2 ^ 34) ((dO : Int) + (fillBytes (BitVec.ofNat 32 f.src.toNat) (moveBytes f)).length - 1) true = some e →
    answers (.fill u) s fun t =>
      makes 4 u i (.regs off (fillBytes (BitVec.ofNat 32 f.src.toNat) (moveBytes f))) s t
        ∧ t.drives = (drive u i.ctx f.slot.toNat 0 3 s).drives ∧ t.store = s.store ∧ t.ctxs = s.ctxs ∧ t.events = s.events)
  ∧ (∀ (s : State) (u : UnitNo) (i : Issue) (f : MemFields) (so ch l : Nat) (ld : List (Nat × Nat)), begun s u i → i.cue = .read f →
      cueLine s u i f false = some (ch, l) → stopped s ch = false → (checkLine s ch l).2.2 = false →
      claspSeg s i.ctx (f.saddr.toNat / 2 ^ 34) = false → issueAddr s i (f.saddr.toNat % 2 ^ 34) f.sStr.toNat = so →
      locate s i.ctx (f.saddr.toNat / 2 ^ 34) so
        (xts false (keyPair s i.ctx).1 (keyPair s i.ctx).2 (lineKey ch l) (checkLine s ch l).1).length true = some ld →
    answers (.read u) s fun t =>
      makes 18 u i (.bytes (cutPieces ld (xts false (keyPair s i.ctx).1 (keyPair s i.ctx).2 (lineKey ch l) (checkLine s ch l).1))) s t
        ∧ t.drives = (drive u i.ctx f.slot.toNat 14 17 s).drives ∧ t.store = s.store ∧ t.lp4x = s.lp4x ∧ t.events = s.events)
  ∧ (∀ (s : State) (u : UnitNo) (i : Issue) (f : MemFields) (ch l : Nat), begun s u i → i.cue = .read f →
      cueLine s u i f false = some (ch, l) → stopped s ch = false → (checkLine s ch l).2.2 = true →
    answers (.read u) s fun t =>
      ∃ e ∈ t.effects, e.due = s.bead + 18 ∧ e.unit = u ∧ e.ctx = i.ctx ∧
        e.kind = .memUe (f.laddr.toNat / 2 ^ 34) (issueAddr s i (f.laddr.toNat % 2 ^ 34) f.lStr.toNat).toNat ch
          (linePlace l).1 (linePlace l).2.1 (linePlace l).2.2)
  ∧ (∀ (s : State) (u : UnitNo) (i : Issue) (f : MemFields) (so ch l : Nat) (ls : List (Nat × Nat)), begun s u i → i.cue = .write f →
      s.bad = [] → cueLine s u i f true = some (ch, l) → stopped s ch = false →
      claspSeg s i.ctx (f.saddr.toNat / 2 ^ 34) = false → issueAddr s i (f.saddr.toNat % 2 ^ 34) f.sStr.toNat = so →
      locate s i.ctx (f.saddr.toNat / 2 ^ 34) so 1024 false = some ls →
    answers (.write u) s fun t =>
      makes 18 u i (.line ch l (sealLine s i.ctx ch l (readPieces s ls)).1 (sealLine s i.ctx ch l (readPieces s ls)).2) s t
        ∧ t.drives = (drive u i.ctx f.slot.toNat 0 3 s).drives ∧ t.store = s.store ∧ t.lp4x = s.lp4x ∧ t.events = s.events)

/-- The 36 vector operations (in part R61 to R64, R87, R88): where the operands lie in the partition, what the operation computes
of them, in the lanes that the mask names, reaches the destination two beads later. They are ADD, SUB, MUL, FMA, MIN, MAX, ABS,
NEG, CMP_EQ, CMP_LT, CMP_LE, RCP, RSQRT, SQRT, EXP2, LOG2, SIN2PI, COS2PI, CVT_FROM_I32, CVT_TO_I32, the five conversions from
BF16, E4M3, E5M2, INT8 and INT4 and the five to them, COPY, PICK, TADD, TMIN, TMAX and PACK. The model's choices: log entries
2, 53. -/
def Obligations.VectorLanes : Prop :=
  ∀ (op : VOp) (s : State) (u : UnitNo) (i : Issue) (f : VecFields) (ka kd : Nat), begun s u i → i.cue = .vec op f → s.bad = [] →
      ownKey s i.ctx (unitIdx u) (issueAddr s i (4 * f.aOff.toNat) f.aStr.toNat) (elemBytes (vopIn op) (32 * (f.n.toNat + 1))) = some ka →
      ownKey s i.ctx (unitIdx u) (issueAddr s i (4 * f.dOff.toNat) f.dStr.toNat) (vopBytes op f.n.toNat) = some kd →
    (let n := 32 * (f.n.toNat + 1)
     let lanes := i.rowMask f.lmen f.lmreg
     let as := elems (vopIn op) (memRead s.store ka (elemBytes (vopIn op) n))
     let at32 := fun k => (elems .fp32 (memRead s.store k (elemBytes .fp32 n))).map wordOf
     let result := fun (codes : List Nat) (t : State) =>
       makes 2 u i (.bytes ((laneWrites (vopOut op) (if vopWhole op then 0xFFFFFFFF else lanes) codes
         (memRead s.store kd (vopBytes op f.n.toNat))).map fun w => (kd + w.1, w.2))) s t
         ∧ t.store = s.store ∧ t.ctxs = s.ctxs ∧ t.cells = s.cells ∧ t.events = s.events
     match vopShape (f.cOff.extractLsb' 8 8).toInt (f.cOff.getLsbD 7) op with
     | .un g => answers (vecCommand op u) s (result (as.map g))
     | .bin g => ∀ kb, ownKey s i.ctx (unitIdx u) (issueAddr s i (4 * f.bOff.toNat) f.bStr.toNat) (elemBytes .fp32 n) = some kb →
       answers (vecCommand op u) s (result (List.zipWith (fun x y => (g (wordOf x) y).toNat) as (at32 kb)))
     | .tern g => ∀ kb kc, ownKey s i.ctx (unitIdx u) (issueAddr s i (4 * f.bOff.toNat) f.bStr.toNat) (elemBytes .fp32 n) = some kb →
       ownKey s i.ctx (unitIdx u) (issueAddr s i (4 * f.cOff.toNat) f.cStr.toNat) (elemBytes .fp32 n) = some kc →
       answers (vecCommand op u) s
         (result (List.zipWith (fun x (yz : Word × Word) => (g (wordOf x) yz.1 yz.2).toNat) as ((at32 kb).zip (at32 kc))))
     | .tree g => ∀ kb, ownKey s i.ctx (unitIdx u) (issueAddr s i (4 * f.bOff.toNat) f.bStr.toNat) (elemBytes .fp32 n) = some kb →
       answers (vecCommand op u) s
         (result ((as.zip (at32 kb)).zipIdx.map fun x => if bit lanes (x.2 % 32) then (g (wordOf x.1.1) x.1.2).toNat else x.1.1))
     | .pack => answers (vecCommand op u) s (result (packWords lanes as)))

/-- LOOP (in part R91): its body's frame is entered, to run TRIPS times. ARMS (in part R93): the select bit chooses the arm that
is entered. MLOAD (in part R94, R95): the mask register takes the word of the Facet's scratch, of the engine's own store or of
the unit's mask mailbox, and its binding. MLOGIC and MSET (in part R94): the register takes the function of two registers, or the
value, and no binding. No other unit's sequencer changes. The model's choices: log entry 2. -/
def Obligations.ControlCues : Prop :=
  (∀ (s : State) (u : UnitNo) (i : Issue) (b : BitVec 11) (n : BitVec 16), begun s u i → i.cue = .loop b n → assoc u s.engines = none →
    answers (.loop u) s fun t =>
      (t.seq u).frames = { isLoop := true, first := i.pos + 1, last := i.pos + 1 + b.toNat, ret := i.pos + b.toNat + 2,
                           trips := n.toNat + 1, idx := 0, live := true } :: (s.seq u).frames
        ∧ (t.seq u).pc = i.pos + 1 ∧ ∀ v, v ≠ u → t.seq v = s.seq v)
  ∧ (∀ (s : State) (u : UnitNo) (i : Issue) (a b : BitVec 8) (p : BitVec 1) (r : BitVec 3) (n : BitVec 5), begun s u i →
      i.cue = .arms a b p r n →
    answers (.arms u) s fun t =>
      (t.seq u).pc = (if bit (i.mask r.toNat) n.toNat = decide (p = 1) then i.pos + a.toNat + 2 else i.pos + 1)
        ∧ (∃ e, (t.seq u).frames = e :: (s.seq u).frames ∧ e.isLoop = false ∧ e.first = (t.seq u).pc
            ∧ e.ret = i.pos + a.toNat + b.toNat + 3
            ∧ e.last = if bit (i.mask r.toNat) n.toNat = decide (p = 1) then i.pos + a.toNat + b.toNat + 2 else i.pos + a.toNat + 1)
        ∧ ∀ v, v ≠ u → t.seq v = s.seq v)
  ∧ (∀ (s : State) (u : UnitNo) (i : Issue) (r : BitVec 3) (o : BitVec 20) (x : BitVec 6) (b : BitVec 1) (l : BitVec 8) (k : Nat),
      begun s u i → i.cue = .mload r o x b l → unitKind u = some .facet ∨ unitKind u = some .edge → (s.seq u).masks.length = 8 →
      ownKey s i.ctx (unitIdx u) (issueAddr s i o.toNat x.toNat) 4 = some k →
    answers (.mload u) s fun t =>
      ((t.seq u).masks[r.toNat]?) = some ⟨BitVec.ofNat 32 (leNat (memRead s.store k 4)), if b = 1 then some l else none⟩
        ∧ (∀ q, q ≠ r.toNat → (t.seq u).masks[q]? = (s.seq u).masks[q]?) ∧ ∀ v, v ≠ u → t.seq v = s.seq v)
  ∧ (∀ (s : State) (u : UnitNo) (i : Issue) (r : BitVec 3) (o : BitVec 20) (x : BitVec 6) (b : BitVec 1) (l : BitVec 8) (k : UnitKind)
      (a : Nat), begun s u i → i.cue = .mload r o x b l → unitKind u = some k → k ≠ .facet → k ≠ .edge → (s.seq u).masks.length = 8 →
      issueAddr s i o.toNat x.toNat = a → a + 4 ≤ (if hasMailbox k then 256 else storeBytes k) →
    answers (.mload u) s fun t =>
      ((t.seq u).masks[r.toNat]?) =
          some ⟨BitVec.ofNat 32 (leNat (readUnit s u (a + if hasMailbox k then 0xFFFF00 else 0) 4)), if b = 1 then some l else none⟩
        ∧ (∀ q, q ≠ r.toNat → (t.seq u).masks[q]? = (s.seq u).masks[q]?) ∧ ∀ v, v ≠ u → t.seq v = s.seq v)
  ∧ (∀ (s : State) (u : UnitNo) (i : Issue) (d a b : BitVec 3) (f : BitVec 2), begun s u i → i.cue = .mlogic d a b f →
      (s.seq u).masks.length = 8 →
    answers (.mlogic u) s fun t =>
      ((t.seq u).masks[d.toNat]?) = some ⟨logicFn f (i.mask a.toNat) (i.mask b.toNat), none⟩
        ∧ (∀ q, q ≠ d.toNat → (t.seq u).masks[q]? = (s.seq u).masks[q]?) ∧ ∀ v, v ≠ u → t.seq v = s.seq v)
  ∧ (∀ (s : State) (u : UnitNo) (i : Issue) (r : BitVec 3) (x : Word), begun s u i → i.cue = .mset r x →
      (s.seq u).masks.length = 8 →
    answers (.mset u) s fun t =>
      ((t.seq u).masks[r.toNat]?) = some ⟨x, none⟩
        ∧ (∀ q, q ≠ r.toNat → (t.seq u).masks[q]? = (s.seq u).masks[q]?) ∧ ∀ v, v ≠ u → t.seq v = s.seq v)

/-- ATTN, MERGE, BWD, INIT, SELECT, WRITE_KV, GROUP, FETCH, WALK, INSERT, CONV and REFORM (in part R89, R171): each begins its
unit's step with the descriptor that the store holds, for the step's length. HOLD (in part R172): in the last bead of a GROUP,
CONV or REFORM step its results are formed, to stand in the next bead; with no step it does nothing.
The model's choices: log entries 2, 21, 22. -/
def Obligations.EngineSteps : Prop :=
  (∀ (s : State) (u : UnitNo) (i : Issue) (f : EngFields) (o : Nat), ∀ x ∈ engCommands u, begun s u i → i.cue = .eng f →
      unitKind u = some x.1 → f.eop.toNat = x.2.1 → issueAddr s i f.desc.toNat f.descStr.toNat = o →
      o + descBytes x.1 ≤ storeBytes x.1 →
    answers x.2.2 s fun t => ∃ st, assoc u t.engines = some st ∧ st.began = s.bead ∧ st.ctx = i.ctx ∧ st.eop = x.2.1
      ∧ st.desc = readUnit s u o (descBytes x.1) ∧ st.seg = f.opnd.toNat / 2 ^ 34
      ∧ st.off = issueAddr s i (f.opnd.toNat % 2 ^ 34) f.opndStr.toNat ∧ st.len = stepLen x.1 st ∧ st.seen = s.bead ∧ st.cut = false)
  ∧ (∀ (s : State) (u : UnitNo) (i : Issue) (f : EngFields) (st : EngStep), begun s u i → i.cue = .eng f → f.eop = 0x3F →
      s.bad = [] → assoc u s.engines = some st → st.cut = false → 1 ≤ st.len → s.bead + 1 = st.began + st.len → st.plan = [] →
    answers (.hold u) s fun t =>
      (unitKind u = some .charm → st.eop = 1 → ∃ e ∈ t.effects, e.due = s.bead + 1 ∧ e.began = st.began ∧ e.unit = u
        ∧ e.kind = .bytes (storeWrites .charm u [(st.cOutOff, groupOut (groupIn s u st))]))
      ∧ (unitKind u = some .cabochon → st.eop = 1 → ∃ e ∈ t.effects, e.due = s.bead + 1 ∧ e.began = st.began ∧ e.unit = u
        ∧ e.kind = .bytes (storeWrites .cabochon u (convWrites s u st)))
      ∧ (unitKind u = some .cabochon → st.eop ≠ 1 → ∃ e ∈ t.effects, e.due = s.bead + 1 ∧ e.began = st.began ∧ e.unit = u
        ∧ e.kind = .bytes (storeWrites .cabochon u (reformWrites s u st))))
  ∧ (∀ (s : State) (u : UnitNo) (i : Issue) (f : EngFields), begun s u i → i.cue = .eng f → f.eop = 0x3F → assoc u s.engines = none →
    answers (.hold u) s fun t => t = done u s)

/-! ## The port cues -/

/-- FSEND and the send of FXCH (in part R117, R120 to R122, R398, Table 4-4): in a module that takes part one packet waits to leave
at the end of the bead, whose header says the sender, the destination, the role, the position and the epoch, with the payload
under the sea key and a good CRC. FSEND of a context whose outputs are withheld, of a joining member, and in a module that takes
no part, sends nothing (in part R116, R117). The model's choices: log entries 2, 17. -/
def Obligations.PacketsSent : Prop :=
  (∀ (s : State) (u : UnitNo) (i : Issue) (f : PortFields) (body : Bytes) (sp off : Nat),
      ∀ x ∈ [(1, Instr.fsend u), (3, .fxch u)], begun s u i →
      i.cue = .port f → unitKind u = some .fabric → f.pop.toNat = x.1 → portRead s u (portOff s i f) (portBytes f) = some body →
      0 ≤ issueAddr s i (f.raddr.toNat % 2 ^ 34) f.rstr.toNat → s.bad = [] → takesPart s = true →
      translateRemote s i.ctx (f.raddr.toNat / 2 ^ 34) (issueAddr s i (f.raddr.toNat % 2 ^ 34) f.rstr.toNat).toNat = some (sp, off) →
      s.held i.ctx = false → s.pair.regs.role ≠ .joining →
    answers x.2 s fun t =>
      ∃ p, t.sends = s.sends ++ [(i.ctx, unitIdx u, p)] ∧ pktSrc p = s.ownModule % 4096 ∧ pktDst p = f.rmod.toNat
        ∧ pktLead p = s.leads ∧ pktLen p = portBytes f ∧ pktBead p = s.beadInRot % 65536 ∧ pktPeriod p = s.period
        ∧ pktEpoch p = s.pair.regs.epoch ∧ pktDest p = (f.rmod.toNat * 2 ^ 52 + sp * 2 ^ 48 + off) % 2 ^ 64
        ∧ pktBody p = seaCrypt s i.ctx p body ∧ pktGood p = true)
  ∧ (∀ (s : State) (u : UnitNo) (i : Issue) (f : PortFields) (body : Bytes) (x : Nat × Nat), begun s u i →
      i.cue = .port f → unitKind u = some .fabric → f.pop.toNat = 1 → portRead s u (portOff s i f) (portBytes f) = some body →
      0 ≤ issueAddr s i (f.raddr.toNat % 2 ^ 34) f.rstr.toNat → s.bad = [] →
      translateRemote s i.ctx (f.raddr.toNat / 2 ^ 34) (issueAddr s i (f.raddr.toNat % 2 ^ 34) f.rstr.toNat).toNat = some x →
      s.held i.ctx = true ∨ s.pair.regs.role = .joining ∨ takesPart s = false →
    answers (.fsend u) s fun t => t = done u s)

/-- FRECV and the receive of FXCH (in part R123, R124): of the held packets that the cue can take, the chosen one reaches the
port's buffer in the next bead, deciphered, and none of them is held any more; where there is none, FABRIC_MISS is raised and
nothing is written. FABRIC_PACKET_RECEIVE (in part R117, R123, R125): at a module that takes part a packet that comes before its
due bead is held until then, unless 64 of its port wait; a late one, and one too many, are discarded with their events; a transit
within 4 beads of the latency raises FABRIC_MARGIN. The model's choices: log entries 2, 17. -/
def Obligations.PacketsReceived : Prop :=
  (∀ (s : State) (u : UnitNo) (i : Issue) (f : PortFields) (h : Nat × HeldPacket), begun s u i →
      i.cue = .port f → unitKind u = some .fabric → f.pop.toNat = 2 →
      pktChoose (pktCands s u (portOff s i f) (portBytes f) (f.param.toNat % 4096)) = some h →
      0 ≤ portOff s i f → portOff s i f + portBytes f ≤ 262144 →
    answers (.frecv u) s fun t =>
      makes 1 u i (.bytes [(unitKey u (portOff s i f).toNat, seaCrypt s i.ctx h.2.bytes (pktBody h.2.bytes))]) s t
        ∧ t.fabric.held = (s.fabric.held.filter fun g => !pktCandidate s u (portOff s i f) (portBytes f) (f.param.toNat % 4096) g)
        ∧ t.store = s.store ∧ t.lp4x = s.lp4x)
  ∧ (∀ (s : State) (u : UnitNo) (i : Issue) (f : PortFields) (o : Int) (h : Nat × HeldPacket), begun s u i →
      i.cue = .port f → unitKind u = some .fabric → f.pop.toNat = 3 → o = portOff s i f + 0x20000 → s.bad = [] →
      pktChoose (pktCands s u o (portBytes f) (f.param.toNat % 4096)) = some h → 0 ≤ o → o + portBytes f ≤ 262144 →
    answers (.fxch u) s fun t =>
      makes 1 u i (.bytes [(unitKey u o.toNat, seaCrypt s i.ctx h.2.bytes (pktBody h.2.bytes))]) s t
        ∧ t.fabric.held = (s.fabric.held.filter fun g => !pktCandidate s u o (portBytes f) (f.param.toNat % 4096) g)
        ∧ t.store = s.store ∧ t.lp4x = s.lp4x)
  ∧ (∀ (s : State) (u : UnitNo) (i : Issue) (f : PortFields) (o : Int),
      ∀ x ∈ [(2, (0 : Int), Instr.frecv u), (3, 0x20000, .fxch u)], begun s u i → i.cue = .port f →
      unitKind u = some .fabric → f.pop.toNat = x.1 → o = portOff s i f + x.2.1 → s.bad = [] →
      (∀ g ∈ s.fabric.held, pktCandidate s u o (portBytes f) (f.param.toNat % 4096) g = false) →
    answers x.2.2 s fun t =>
      raised evFabricMiss s t ∧ t.fabric.held = s.fabric.held ∧ t.effects = s.effects ∧ t.store = s.store ∧ t.lp4x = s.lp4x)
  ∧ (∀ (s : State) (port tr due : Nat) (p : Bytes), port < 4 → takesPart s = true →
      s.beadOf (pktPeriod p) (pktBead p) + (fabLatency s : Int) = due → s.bead < due → packetsWaiting s port < 64 →
    answers (.fabricPacketReceive port p tr) s fun t =>
      t.fabric.held = s.fabric.held ++ [(port, { due := due, bytes := p, transit := tr })]
        ∧ t.effects = s.effects ∧ t.store = s.store ∧ t.lp4x = s.lp4x)
  ∧ (∀ (s : State) (port tr : Nat) (p : Bytes), port < 4 → takesPart s = true →
      s.beadOf (pktPeriod p) (pktBead p) + (fabLatency s : Int) ≤ s.bead →
    answers (.fabricPacketReceive port p tr) s fun t =>
      raised evFabricUnclaimed s t ∧ t.fabric.held = s.fabric.held ∧ t.effects = s.effects ∧ t.store = s.store ∧ t.lp4x = s.lp4x)
  ∧ (∀ (s : State) (port tr : Nat) (p : Bytes), port < 4 → takesPart s = true →
      (s.bead : Int) < s.beadOf (pktPeriod p) (pktBead p) + (fabLatency s : Int) → 64 ≤ packetsWaiting s port →
    answers (.fabricPacketReceive port p tr) s fun t =>
      raised evFabricOverrun s t ∧ t.fabric.held = s.fabric.held ∧ t.effects = s.effects ∧ t.store = s.store ∧ t.lp4x = s.lp4x)
  ∧ (∀ (s : State) (port tr : Nat) (p : Bytes), port < 4 → takesPart s = true → fabLatency s ≤ tr + 4 → tr ≤ fabLatency s + 4 →
    answers (.fabricPacketReceive port p tr) s fun t => raised evFabricMargin s t)

/-- RQ_TAKE, LIVE_SET, LIVE_CLR and STATE_GET (in part R203, R204, R209, Table 7-1): as many entries as fit leave the queue for the
port's buffer, the words of rows change, and the live word is read, each a bead later. SREC_PUT (in part R210 to R213, R309): a
record given in one cue, with no cancelled row, is committed in its bead with BEAD filled in and the losses before it in GAP, and
waits for its Signet; one that cannot be delivered counts as lost; a first piece of several is kept.
The model's choices: log entries 2, 19, 53. -/
def Obligations.HostPortActs : Prop :=
  (∀ (s : State) (u : UnitNo) (i : Issue) (f : PortFields) (n : Nat), begun s u i → i.cue = .port f → unitKind u = some .host →
      f.pop.toNat = 1 → i.ctx < s.rings.length → 0 ≤ portOff s i f → portOff s i f + portBytes f ≤ 262144 →
      n = min (s.ring i.ctx).queue.length ((portBytes f - 32) / 64) →
    answers (.rqTake u) s fun t =>
      (t.ring i.ctx).queue = (s.ring i.ctx).queue.drop n
        ∧ makes 1 u i (.bytes [(unitKey u (portOff s i f).toNat, leBytes 4 n ++ leBytes 4 ((s.ring i.ctx).queue.length - n) ++ zeros 24
          ++ (((s.ring i.ctx).queue.take n).map fun e => slice e 0 64).flatten)]) s t
        ∧ t.store = s.store ∧ t.ctxs = s.ctxs ∧ t.events = s.events)
  ∧ (∀ (s : State) (u : UnitNo) (i : Issue) (f : PortFields) (b : Bytes), begun s u i → i.cue = .port f → unitKind u = some .host →
      f.pop.toNat = 3 → s.bad = [] → portRead s u (portOff s i f) 256 = some b →
    answers (.liveSet u) s fun t =>
      makes 1 u i (.liveSet (f.param.toNat % 256)
        (((chunks 8 b).zipIdx.map fun x => (x.2, BitVec.ofNat 64 (leNat x.1))).filter fun x => x.2 ≠ 0)) s t
        ∧ t.live = s.live ∧ t.rows = s.rows ∧ t.store = s.store)
  ∧ (∀ (s : State) (u : UnitNo) (i : Issue) (f : PortFields) (b : Bytes), begun s u i → i.cue = .port f → unitKind u = some .host →
      f.pop.toNat = 4 → s.bad = [] → portRead s u (portOff s i f) 4 = some b →
    answers (.liveClr u) s fun t =>
      makes 1 u i (.liveClr (f.param.toNat % 256) (BitVec.ofNat 32 (leNat b))) s t
        ∧ t.live = s.live ∧ t.rows = s.rows ∧ t.store = s.store)
  ∧ (∀ (s : State) (u : UnitNo) (i : Issue) (f : PortFields) (l : LiveWord), begun s u i → i.cue = .port f → unitKind u = some .host →
      f.pop.toNat = 5 → s.liveWord (f.param.toNat % 256) = l → 0 ≤ portOff s i f → portOff s i f + 32 ≤ 262144 →
    answers (.stateGet u) s fun t =>
      makes 1 u i (.bytes [(unitKey u (portOff s i f).toNat,
        leBytes 4 l.live.toNat ++ leBytes 4 l.cxl.toNat ++ leBytes 4 l.rep.toNat ++ zeros 20)]) s t
        ∧ t.live = s.live ∧ t.store = s.store)
  ∧ (∀ (s : State) (u : UnitNo) (i : Issue) (f : PortFields) (b : Bytes) (lost : Bool), begun s u i → i.cue = .port f →
      unitKind u = some .host → f.pop.toNat = 2 → f.param.getLsbD 0 = true → f.param.getLsbD 1 = true → s.bad = [] →
      portRead s u (portOff s i f) (portBytes f) = some b → i.ctx < s.rings.length → (s.ring i.ctx).gather = none →
      leAt b 0x24 4 = b.length → b.length + (if (s.ctx i.ctx).sec.session.isSome then 16 else 0) ≤ srSlot (s.ring i.ctx).srCtl →
      (∀ x ∈ recordRows b, entryCancelled s i.ctx x.2 = false) → recordLost s i.ctx = lost →
    answers (.srecPut u) s fun t =>
      ∃ old e, (t.ring i.ctx).committed = old ++ [e] ∧ (∀ y ∈ old, y ∈ (s.ring i.ctx).committed) ∧ e.bead = s.bead
        ∧ e.step = leAt b 8 8 ∧ e.record = overlay b 0x10 (leBytes 8 s.bead) ∧ e.signet = none ∧ e.delivered = false ∧ e.lost = lost
        ∧ e.gap = (if lost then 0 else (s.ring i.ctx).gap)
        ∧ (t.ring i.ctx).gap = (if lost then (s.ring i.ctx).gap + 1 else 0)
        ∧ (t.ring i.ctx).srGap = (if lost then (s.ring i.ctx).srGap + 1 else (s.ring i.ctx).srGap)
        ∧ t.store = s.store ∧ t.effects = s.effects)
  ∧ (∀ (s : State) (u : UnitNo) (i : Issue) (f : PortFields) (b : Bytes), begun s u i → i.cue = .port f →
      unitKind u = some .host → f.pop.toNat = 2 → f.param.getLsbD 0 = true → f.param.getLsbD 1 = false → s.bad = [] →
      portRead s u (portOff s i f) (portBytes f) = some b → i.ctx < s.rings.length → (s.ring i.ctx).gather = none →
    answers (.srecPut u) s fun t =>
      (t.ring i.ctx).gather = some b ∧ (t.ring i.ctx).committed = (s.ring i.ctx).committed ∧ t.events = s.events)

/-! ## Clasp -/

/-- CLASP_FRAME_RECEIVE (in part R252, R253, R255, R264, R269, R270, R278, R337): a frame whose blocks hold no error and whose body
passes every check is the period's frame and is counted, with its arrival and its epoch; one that fails a check, or comes second,
is counted as bad. BLOCK_LOCK_GAIN and BLOCK_LOCK_LOSS (in part R254): 64 valid sync headers give block lock, 16 invalid ones of
64 end it. The model's choices: log entries 16, 50. -/
def Obligations.ClaspReceives : Prop :=
  (∀ (s : State) (p : Nat) (a : ClaspArrival), p < 4 → s.clasps.length = 4 → claspEnabled s p = true → (s.clasp p).blockLock = true →
      s.cast.replay = false → frameWhole a = true → frameKind a.body = true → framePort a.body p = true →
      frameNewer (s.clasp p) a.body = true → framePeriod s (s.clasp p) a.body = true → frameInTime a.arrTenths = true →
      ((s.clasp p).mode = 2 ∧ (s.clasp p).state ≠ .up ∨ slipOf (s.clasp p).grid (receivePhase s (s.clasp p) a.arrTenths) = 0) →
      (s.clasp p).frame = none →
    answers (.claspFrameReceive p a) s fun t =>
      (t.clasp p).frame = some (a.body, a.arrTenths) ∧ (t.clasp p).good = (s.clasp p).good + 1 ∧ (t.clasp p).bad = (s.clasp p).bad
        ∧ (t.clasp p).lastSeq = some (frameSeq a.body) ∧ (t.clasp p).arr = BitVec.ofInt 16 (a.arrTenths / 10)
        ∧ (t.clasp p).slip = 0 ∧ (t.clasp p).epochSeen = some (BitVec.ofNat 32 (leAt a.body 8 4))
        ∧ t.pair.regs.eh = (if (s.clasp p).state = .up then some (epochMax s.pair.regs.eh (BitVec.ofNat 32 (leAt a.body 8 4)))
            else s.pair.regs.eh)
        ∧ (3320 < a.arrTenths.natAbs → raised evClaspMargin s t) ∧ t.store = s.store ∧ t.lp4x = s.lp4x)
  ∧ (∀ (s : State) (p : Nat) (a : ClaspArrival), p < 4 → s.clasps.length = 4 → claspEnabled s p = true → (s.clasp p).blockLock = true →
      s.cast.replay = false →
      frameWhole a = false ∨ frameKind a.body = false ∨ framePort a.body p = false ∨ frameNewer (s.clasp p) a.body = false
        ∨ framePeriod s (s.clasp p) a.body = false ∨ frameInTime a.arrTenths = false
        ∨ (¬((s.clasp p).mode = 2 ∧ (s.clasp p).state ≠ .up) ∧ slipOf (s.clasp p).grid (receivePhase s (s.clasp p) a.arrTenths) ≠ 0)
        ∨ (s.clasp p).frame.isSome = true →
    answers (.claspFrameReceive p a) s fun t =>
      (t.clasp p).frame = (s.clasp p).frame ∧ (t.clasp p).good = (s.clasp p).good ∧ (t.clasp p).bad = (s.clasp p).bad + 1
        ∧ (t.clasp p).lastSeq = (s.clasp p).lastSeq ∧ t.pair.regs.eh = s.pair.regs.eh
        ∧ (frameWhole a = true → frameKind a.body = true → framePort a.body p = false → raised evClaspWiring s t))
  ∧ (∀ (s : State) (p : Nat) (h : List (BitVec 2)), p < 4 → s.clasps.length = 4 → claspEnabled s p = true → 64 ≤ h.length →
      (∀ x ∈ h.take 64, x = 1 ∨ x = 2) →
    answers (.blockLockGain p h) s fun t => (t.clasp p).blockLock = true ∧ (∀ q, q ≠ p → t.clasp q = s.clasp q) ∧ t.events = s.events)
  ∧ (∀ (s : State) (p : Nat) (h : List (BitVec 2)), p < 4 → s.clasps.length = 4 →
      16 ≤ ((h.take 64).filter fun x => decide (x ≠ 1 ∧ x ≠ 2)).length →
    answers (.blockLockLoss p h) s fun t => (t.clasp p).blockLock = false ∧ (∀ q, q ≠ p → t.clasp q = s.clasp q) ∧ t.events = s.events)

/-- CLASP_LATCH (in part R273, R279, R280, R354): the latch counts the period as good or bad, changes the state by the runs, holds a
port at its ninth change in 60 s, releases a held one where RELEASE was written, and forms the entry of CRECV. CRECV (in part
R272): that entry stands in the frame buffer a bead later. CSEND (in part R272, R275): its records are taken for the period's
frame. The model's choices: log entry 16. -/
def Obligations.ClaspLatches : Prop :=
  (∀ (s : State) (p : Nat) (good : Bool) (g b : Nat) (flap : Bool) (st : ClaspState), p < 4 → s.clasps.length = 4 →
      claspEnabled s p = true → (s.clasp p).latched = false → s.beadInRot = (s.clasp p).due + 1 → s.cast.replay = false →
      good = ((s.clasp p).frame.isSome && (s.clasp p).blockLock
        && !(decide ((s.clasp p).mode = 2 ∧ 2 ≤ (s.clasp p).offWindows) && !(s.clasp p).lockSrc)) →
      g = (if good then min 64 ((s.clasp p).goodRun + 1) else 0) → b = (if good then 0 else min 4 ((s.clasp p).badRun + 1)) →
      flap = decide (8 ≤ ((s.clasp p).transitions.filter fun t => decide ((s.clasp p).periods + 1 < t + 60000 * s.rate)).length) →
      st = (match (s.clasp p).state with
        | .disabled => .training
        | .training => if 64 ≤ g ∧ (s.clasp p).alignFailed = false then if flap then .held else .up else .training
        | .up => if 4 ≤ b then if flap then .held else .training else .up
        | .held => if (s.clasp p).releaseDue then .training else .held) →
    answers (.claspLatch p) s fun t =>
      (t.clasp p).latched = true ∧ (t.clasp p).periods = (s.clasp p).periods + 1 ∧ (t.clasp p).badRun = b
        ∧ ((s.clasp p).state ≠ .held → (t.clasp p).goodRun = g) ∧ (t.clasp p).state = st
        ∧ (t.clasp p).entry = crecvEntry (if st = .up ∧ (s.clasp p).blockLock = true then (s.clasp p).frame.map (·.1) else none)
        ∧ (t.clasp p).entryGood = (decide (st = .up) && (s.clasp p).blockLock && (s.clasp p).frame.isSome)
        ∧ ((s.clasp p).state = .training → st = .up → raised evClaspUp s t)
        ∧ ((s.clasp p).state = .up → st = .training → raised evClaspDown s t)
        ∧ ((s.clasp p).state ≠ .held → st = .held → raised evClaspFlap s t)
        ∧ t.store = s.store ∧ t.effects = s.effects)
  ∧ (∀ (s : State) (u : UnitNo) (i : Issue) (f : PortFields), begun s u i → i.cue = .port f → unitKind u = some .clasp →
      f.pop.toNat = 1 → unitIdx u < s.clasps.length → (s.clasp (unitIdx u)).latched = true → 0 ≤ portOff s i f →
      portOff s i f + 2080 ≤ 262144 →
    answers (.crecv u) s fun t =>
      makes 1 u i (.bytes [(claspKey u (portOff s i f).toNat, (s.clasp (unitIdx u)).entry)]) s t
        ∧ (t.clasp (unitIdx u)).crecvDone = ((s.clasp (unitIdx u)).crecvDone || (s.clasp (unitIdx u)).entryGood)
        ∧ t.store = s.store ∧ t.events = s.events)
  ∧ (∀ (s : State) (u : UnitNo) (i : Issue) (f : PortFields) (n : Nat), begun s u i → i.cue = .port f → unitKind u = some .clasp →
      f.pop.toNat = 2 → s.bad = [] → unitIdx u < s.clasps.length → n = min 64 (f.param.toNat % 128) → 0 ≤ portOff s i f →
      portOff s i f + 16 * n ≤ 262144 →
    answers (.csend u) s fun t =>
      (t.clasp (unitIdx u)).csend = some (memRead s.store (claspKey u (portOff s i f).toNat) (16 * n))
        ∧ t.effects = s.effects ∧ t.store = s.store ∧ t.events = s.events)

/-- CLASP_FRAME_DECISION (in part R266, R275): once the bead's cues and slot guards have acted, the decision of Table 9-6 is taken.
CLASP_FRAME_SEND (in part R252, R254 to R259, R266, R303): the decided frame goes out once, as scrambled blocks, with its type, SEQ,
PERIOD_LO, EPOCH and a good CRC; a module that leaves sends LEAVING frames, one in replay mode IDLE blocks.
CLASP_ALIGNMENT and CLASP_ALIGN_COMPLETE (in part R268): alignment runs while context 0 alone is admitted; 64 steady measurements
with the slew over lengthen the rotation once and take PERIOD_LO from the port, unsteady ones raise CLASP_ALIGN.
CLASP_RELEASE (in part R280): a HELD port is to be released at its latch. The model's choices: log entries 16, 46, 50. -/
def Obligations.ClaspSends : Prop :=
  (∀ (s r : State) (p : Nat) (w : Bool), decisionDue p s = true → settle s = r → decisionDue p r = true →
      (r.seq (unitNo .clasp p)).issue = none → r.clasps.length = 4 → (r.clasp p).signetDue = none →
      w = ((r.clasp p).crecvDone && (r.clasp p).csend.isSome && r.owner (unitNo .clasp p) != 0 && !r.held (r.owner (unitNo .clasp p))) →
    answers (.claspFrameDecision p) s fun t =>
      (t.clasp p).decision =
          some (if (r.clasp p).state ≠ .up then .train
            else match r.pair.regs.role with
              | .pendant => .beacon w
              | .joining => .beacon false
              | _ => if w then .result else .hold)
        ∧ (t.clasp p).decidedPeriod = r.period
        ∧ (t.clasp p).signetPrev = (if (r.clasp p).sentSigPrev then some (r.clasp p).signet else none)
        ∧ (t.clasp p).csend = (r.clasp p).csend ∧ t.out = r.out ∧ t.effects = r.effects ∧ t.store = r.store)
  ∧ (∀ (s : State) (p : Nat) (d : ClaspDecision), p < 4 → s.clasps.length = 4 → (s.clasp p).state ≠ .disabled →
      s.cast.replay = false → (s.clasp p).leaving = false →
      (s.clasp p).decision = some d → (s.clasp p).sent = false → (s.clasp p).due + 278 ≤ s.beadInRot →
    answers (.claspFrameSend p) s fun t =>
      ∃ b a h, t.out = .claspFrame p (s.clasp p).decidedPeriod b a (lineBlocks h (frameBlocks b)) :: s.out
        ∧ leAt b 0 1 = (match d with | .train => 5 | .beacon _ => 4 | .result => 2 | .hold => 3)
        ∧ leAt b 2 2 = (s.clasp p).txSeq.toNat ∧ leAt b 4 2 = (s.clasp p).decidedPeriod.toNat % 65536
        ∧ leAt b 8 4 = s.pair.regs.epoch.toNat ∧ leAt b (b.length - 4) 4 = crc32 (b.take (b.length - 4)) ∧ b.length % 8 = 0
        ∧ (t.clasp p).sent = true ∧ (t.clasp p).txSeq = (s.clasp p).txSeq + 1
        ∧ (∀ q, q ≠ p → t.clasp q = s.clasp q) ∧ t.store = s.store ∧ t.events = s.events)
  ∧ (∀ (s : State) (p : Nat), p < 4 → s.clasps.length = 4 → (s.clasp p).state ≠ .disabled → s.cast.replay = false →
      (s.clasp p).leaving = true →
    answers (.claspFrameSend p) s fun t =>
      ∃ b a h, t.out = .claspFrame p s.period b a (lineBlocks h (frameBlocks b)) :: s.out ∧ leAt b 0 1 = 6
        ∧ leAt b 4 2 = s.period.toNat % 65536 ∧ (t.clasp p).txSeq = (s.clasp p).txSeq + 1)
  ∧ (∀ (s : State) (p : Nat), p < 4 → (s.clasp p).state ≠ .disabled → s.cast.replay = true →
    answers (.claspFrameSend p) s fun t => t = { s with out := .claspIdle p :: s.out })
  ∧ (∀ (s : State) (p : Nat), p < 4 → s.clasps.length = 4 → (s.clasp p).mode = 2 → claspEnabled s p = true → s.clock.ref = .clasp →
      (s.clasp p).lockSrc = true → (s.clasp p).blockLock = true → (s.clasp p).aligned = false → (s.clasp p).alignFailed = false →
      s.admitted = [] →
    answers (.claspAlignment p) s fun t => (t.clasp p).aligning = true ∧ t.period = s.period ∧ t.rotLen = s.rotLen ∧ t.events = s.events)
  ∧ (∀ (s : State) (p : Nat) (m : AlignMeasure), p < 4 → s.clasps.length = 4 → (s.clasp p).aligning = true → s.admitted = [] →
      m.es.length = 64 → (∀ a ∈ m.es, ∀ b ∈ m.es, a - b ≤ 66) → slewOver s m = true →
    answers (.claspAlignComplete p m) s fun t =>
      t.period.toNat = s.period.toNat / 65536 * 65536 + m.periodLo.toNat ∧ t.rotLen = s.rotLen + alignBeads s m
        ∧ (t.clasp p).aligned = true ∧ (t.clasp p).aligning = false ∧ t.beadInRot = s.beadInRot ∧ t.bead = s.bead
        ∧ t.events = s.events)
  ∧ (∀ (s : State) (p : Nat) (m : AlignMeasure) (a b : Int), p < 4 → s.clasps.length = 4 → (s.clasp p).aligning = true →
      s.admitted = [] → m.es.length = 64 → a ∈ m.es → b ∈ m.es → 66 < a - b →
    answers (.claspAlignComplete p m) s fun t =>
      raised evClaspAlign s t ∧ t.period = s.period ∧ t.rotLen = s.rotLen ∧ (t.clasp p).aligning = false ∧ (t.clasp p).alignFailed = true)
  ∧ (∀ (s : State) (p : Nat), p < 4 → s.clasps.length = 4 → (s.clasp p).state = .held →
    answers (.claspRelease p) s fun t =>
      (t.clasp p).releaseDue = true ∧ (t.clasp p).state = .held ∧ (∀ q, q ≠ p → t.clasp q = s.clasp q) ∧ t.events = s.events)

/-! ## Mailboxes and registers -/

/-- The six mailbox commands (in part R387, R388, R389, R395): GET_CERT answers a part of the certificate chain, REPORT a signed
report, KX_BEGIN and KX_FINISH give the context a session, PACKAGE a load or a sea key, and END takes the session away; each of
the checks that the cases name ends it with its code. With the random numbers failed a key exchange is refused (in part R379);
a busy mailbox ignores them all. The model's choices: log entries 10, 27. -/
def Obligations.MailboxCommands : Prop :=
  (∀ (s : State) (c : CtxNo) (off : Nat), s.ports.linkUp = true → s.startup.ready = true → c < 16 → s.ctxs.length = 16 →
      (s.ctx c).mailbox.busy = false → (s.ctx c).mailbox.len = 4 → off = leNat (boxRequest s c) →
    answers (.getCert c) s fun t =>
      (t.ctx c).mailbox.done = true ∧ (t.ctx c).mailbox.err = false ∧ (t.ctx c).mailbox.busy = false
        ∧ (t.ctx c).mailbox.data = overlay (s.ctx c).mailbox.data 0
            (leBytes 4 s.locket.certChain.length ++ (s.locket.certChain.drop off).take 4028)
        ∧ (t.ctx c).sec = (s.ctx c).sec)
  ∧ (∀ (s : State) (c : CtxNo) (o : Bytes), s.ports.linkUp = true → s.startup.ready = true → c < 16 → s.ctxs.length = 16 →
      (s.ctx c).mailbox.busy = false → (s.ctx c).mailbox.len = 160 → s.running c = true → s.locket.rngFailed = false →
      (drawNumber s).2.locket.rngFailed = false →
      o = (match (s.ctx c).record with | some r => r.owner | none => zeros 32) →
    answers (.kxBegin c) s fun t =>
      (if sm3 (slice (boxRequest s c) 32 64) ≠ o then
        (t.ctx c).mailbox.err = true ∧ (t.ctx c).mailbox.code = 2 ∧ (t.ctx c).sec = (s.ctx c).sec
      else match sm2Respond o moduleId (slice (boxRequest s c) 32 64) (slice (boxRequest s c) 96 64) dikE (drawNumber s).1 with
        | none => (t.ctx c).mailbox.err = true ∧ (t.ctx c).mailbox.code = 2 ∧ (t.ctx c).sec = (s.ctx c).sec
        | some a => (t.ctx c).mailbox.done = true ∧ (t.ctx c).sec.session = none ∧ (t.ctx c).sec.exchange = some ⟨a.k, a.sA⟩))
  ∧ (∀ (s : State) (c : CtxNo), s.ports.linkUp = true → s.startup.ready = true → c < 16 → s.ctxs.length = 16 →
      (s.ctx c).mailbox.busy = false → s.locket.rngFailed = true → ∀ x ∈ [Instr.kxBegin c, .kxFinish c],
    answers x s fun t =>
      (t.ctx c).mailbox.err = true ∧ (t.ctx c).mailbox.done = false ∧ (t.ctx c).mailbox.busy = false ∧ (t.ctx c).sec = (s.ctx c).sec)
  ∧ (∀ (s : State) (c : CtxNo), s.ports.linkUp = true → s.startup.ready = true → c < 16 → s.ctxs.length = 16 →
      (s.ctx c).mailbox.busy = false → (s.ctx c).mailbox.len = 32 → s.running c = true → s.locket.rngFailed = false →
    answers (.kxFinish c) s fun t =>
      match (s.ctx c).sec.exchange with
      | none => (t.ctx c).mailbox.err = true ∧ (t.ctx c).mailbox.code = 6
      | some e =>
        (t.ctx c).sec.exchange = none ∧
          (if boxRequest s c = e.sA then
            (t.ctx c).mailbox.done = true ∧ (t.ctx c).sec.session = some (sessionOf e.k) ∧ raised evSessionUp s t
          else
            (t.ctx c).mailbox.err = true ∧ (t.ctx c).mailbox.code = 2 ∧ (t.ctx c).sec.session = (s.ctx c).sec.session
              ∧ raised evKxFail s t))
  ∧ (∀ (s : State) (c : CtxNo), s.ports.linkUp = true → s.startup.ready = true → c < 16 → s.ctxs.length = 16 →
      (s.ctx c).mailbox.busy = false → (s.ctx c).mailbox.len = 32 → s.running c = true → lacksSession s c = false →
    answers (.report c) s fun t =>
      match (s.ctx c).sec.session with
      | none => (t.ctx c).mailbox.done = true
          ∧ (t.ctx c).mailbox.data = overlay (s.ctx c).mailbox.data 0 (attest c (boxRequest s c) (zeros 64) s).1
      | some k =>
        if sessTag k.hmMac 1 1 c k.mbHm (boxRequest s c) ≠ (s.ctx c).mailbox.tag then
          (t.ctx c).mailbox.err = true ∧ (t.ctx c).mailbox.code = 2 ∧ (t.ctx c).sec.session = some k
        else
          (t.ctx c).mailbox.done = true ∧ (t.ctx c).sec.session = some { k with mbHm := k.mbHm + 1, mbMh := k.mbMh + 1 })
  ∧ (∀ (s : State) (c : CtxNo) (q : Bytes), s.ports.linkUp = true → s.startup.ready = true → c < 16 → s.ctxs.length = 16 →
      (s.ctx c).mailbox.busy = false → (s.ctx c).mailbox.len ≤ 4032 → s.running c = true → q = boxRequest s c →
    answers (.package c) s fun t =>
      (pkgCheck s c q ≠ 0 →
        (t.ctx c).mailbox.err = true ∧ (t.ctx c).mailbox.code = BitVec.ofNat 8 (pkgCheck s c q) ∧ raised evPackageFail s t
          ∧ (t.ctx c).sec = (s.ctx c).sec)
      ∧ (∀ k, pkgCheck s c q = 0 → pkgKey q (((pkgMembers q).find? fun m => slice m 0 32 = moduleId).getD []) = some k →
        (leAt q 6 1 ≠ 3 → (t.ctx c).mailbox.done = true ∧
          (t.ctx c).sec.load = some ⟨leAt q 6 1, leAt q (256 + 160 * leAt q 7 1) 8, leAt q 8 8, 0, k.1, k.2, slice q 0x10 32, []⟩)
        ∧ (leAt q 6 1 = 3 → sm3 (keyBytes k.1) = slice q 0x10 32 →
          (t.ctx c).mailbox.done = true ∧ (t.ctx c).sec.seaKey = some k.1)))
  ∧ (∀ (s : State) (c : CtxNo), s.ports.linkUp = true → s.startup.ready = true → c < 16 → s.ctxs.length = 16 →
      (s.ctx c).mailbox.busy = false → (s.ctx c).mailbox.len = 0 → s.running c = true → lacksSession s c = false →
    answers (.end_ c) s fun t =>
      match (s.ctx c).sec.session with
      | none => (t.ctx c).mailbox.err = true ∧ (t.ctx c).mailbox.code = 6
      | some k =>
        if sessTag k.hmMac 1 1 c k.mbHm [] ≠ (s.ctx c).mailbox.tag then
          (t.ctx c).mailbox.err = true ∧ (t.ctx c).mailbox.code = 2 ∧ (t.ctx c).sec.session = some k
        else (t.ctx c).mailbox.done = true ∧ (t.ctx c).sec.session = none)
  ∧ (∀ (s : State) (c : CtxNo), (s.ctx c).mailbox.busy = true → ∀ i ∈ [Instr.getCert c, .kxBegin c, .kxFinish c, .report c, .package c, .end_ c],
    exec i s = .next s)

/-- REGISTER_WRITE (in part R14 to R16, R452, R460): the registers of the first list read back the fields written to them; the RWL
registers of the second do so until the seal, and ignore a write after it; narrower and unaligned writes are ignored.
EVT_PEND_CLEAR (in part R14, R472): a bit is cleared unless a record of the present bead stands behind it. EVENT_MSI (in part
R472): a message goes out for a new unmasked event, at most once in 256 beads. LOUPE_CTL_WRITE (in part R454, R457): LOUPE_CTL
needs a debug token. The model's choices: log entries 12, 52. -/
def Obligations.RegistersAct : Prop :=
  (∀ (s : State) (v : DWord) (off : Nat) (fs : List (Nat × Nat)), s.ports.linkUp = true → s.startup.ready = true →
      (off, fs) ∈ [(0x200000, [(16, 10), (8, 5), (0, 7)]), (0x300010, [(6, 26)]), (0x300014, [(0, 32)]), (0x300018, [(0, 32)]),
        (0x300020, [(6, 26)]), (0x300024, [(0, 32)]), (0xC00008, [(0, 32)]), (0xD00000, [(10, 22)]), (0xD00004, [(0, 8)]),
        (0xD00008, [(0, 20)]), (0x1000000, [(31, 1), (16, 11)])] →
    answers (.registerWrite off 4 v) s fun t =>
      readReg t off = keep (v.setWidth 32) fs ∧ t.ctxs = s.ctxs ∧ t.store = s.store ∧ t.lp4x = s.lp4x ∧ t.events.log = s.events.log)
  ∧ (∀ (s : State) (v : DWord) (off : Nat) (fs : List (Nat × Nat)), s.ports.linkUp = true → s.startup.ready = true →
      (off, fs) ∈ [(0x100000, [(31, 1), (24, 4), (20, 3), (8, 2), (0, 2)]), (0x300000, [(31, 1)]), (0x500000, [(7, 1), (0, 4)]),
        (0x900000, [(0, 8)]), (0xA00000, [(31, 1), (20, 4), (16, 4), (0, 1)]),
        (0xC00000, [(31, 1), (24, 3), (18, 3), (12, 6), (0, 6)])] →
    answers (.registerWrite off 4 v) s fun t =>
      (s.sealed = true → t = s)
        ∧ (s.sealed = false → readReg t off = keep (v.setWidth 32) fs ∧ t.ctxs = s.ctxs ∧ t.store = s.store ∧ t.events = s.events))
  ∧ (∀ (s : State) (v : DWord) (off w : Nat), (w ≠ 4 ∧ w ≠ 8) ∨ off % 4 ≠ 0 → answers (.registerWrite off w v) s fun t => t = s)
  ∧ (∀ (s : State) (g : Nat) (v : Word), s.ports.linkUp = true → g < 10 →
    answers (.evtPendClear g v) s fun t =>
      (∀ k, k < 32 → bit ((assoc g t.events.pend).getD 0) k =
        (bit ((assoc g s.events.pend).getD 0) k &&
          (!bit v k || (s.startup.counting && bit ((assoc g s.events.pendNow).getD 0) k))))
        ∧ (∀ h, h ≠ g → assoc h t.events.pend = assoc h s.events.pend) ∧ t.events.log = s.events.log ∧ t.ctxs = s.ctxs)
  ∧ (∀ s : State, s.ports.linkUp = true → s.ports.msixEn = true → bit s.events.ctl 31 = true → s.events.unmaskedNew = true →
      (∀ b, s.events.lastMsi = some b → b + 256 ≤ s.bead) →
    answers .eventMsi s fun t =>
      t.out = .msix (bits s.events.ctl.toNat 16 11) :: s.out ∧ t.events.lastMsi = some s.bead ∧ t.events.unmaskedNew = false
        ∧ t.events.log = s.events.log ∧ t.events.pend = s.events.pend)
  ∧ (∀ (s : State) (b : Nat), s.events.lastMsi = some b → s.bead < b + 256 → answers .eventMsi s fun t => t = s)
  ∧ (∀ (s : State) (v : Word), s.ports.linkUp = true → s.startup.ready = true → s.locket.debugOn = true →
    answers (.loupeCtlWrite v) s fun t =>
      readReg t 0xF00000 = keep v [(31, 1), (16, 3), (0, 12)] + (if bit v 31 && s.locket.loupeReady then 0x40000000 else 0)
        ∧ t.out = .loupe (bits v.toNat 0 12) (bit v 31 && s.locket.loupeReady) :: s.out ∧ t.events = s.events)
  ∧ (∀ (s : State) (v : Word), s.locket.debugOn = false → answers (.loupeCtlWrite v) s fun t => t = s)

/-- LOW_HALF_READ (R461): a read of GLB_BEAD_LO or EVT_HEAD_LO latches the high half of its counter into a shadow; the next
read of the high register answers that shadow and ends it; without one, the present high half. The log, the contexts and
the stores stay. In part R460: a narrower read takes its bytes of the register with the effects of a whole read, a 64-bit read
answers both words, the lower first, and one that no aligned registers contain reads 0 and does nothing. -/
def Obligations.LowHalvesLatch : Prop :=
  (∀ (s : State) (off : Nat), s.ports.linkUp = true →
  answers (.lowHalfRead ⟨off, 4⟩) s fun t =>
    t.out = .regRead off (hostRead s off) :: s.out
      ∧ (off = 0x18 → t.beadShadow = some (BitVec.ofNat 32 (s.bead / 2 ^ 32)))
      ∧ (off = 0x1000008 → t.headShadow = some (BitVec.ofNat 32 (s.events.head / 2 ^ 32)))
      ∧ (off = 0x1C → t.beadShadow = none
          ∧ hostRead s off = (match s.beadShadow with | some x => x | none => BitVec.ofNat 32 (s.bead / 2 ^ 32)))
      ∧ (off = 0x100000C → t.headShadow = none
          ∧ hostRead s off = (match s.headShadow with | some x => x | none => BitVec.ofNat 32 (s.events.head / 2 ^ 32)))
      ∧ t.events = s.events ∧ t.ctxs = s.ctxs ∧ t.store = s.store)
  ∧ (∀ (s : State) (reg byte w : Nat), s.ports.linkUp = true → reg % 4 = 0 → 1 ≤ w → byte + w ≤ 4 →
    answers (.lowHalfRead ⟨reg + byte, w⟩) s fun t =>
      t.out = .regRead (reg + byte) (BitVec.ofNat 32 ((hostRead s reg).toNat / 256 ^ byte % 256 ^ w)) :: s.out
        ∧ (reg = 0x18 → t.beadShadow = some (BitVec.ofNat 32 (s.bead / 2 ^ 32))) ∧ (reg = 0x1C → t.beadShadow = none)
        ∧ (reg = 0x1000008 → t.headShadow = some (BitVec.ofNat 32 (s.events.head / 2 ^ 32))) ∧ (reg = 0x100000C → t.headShadow = none))
  ∧ (∀ s : State, s.ports.linkUp = true →
    answers (.lowHalfRead ⟨0x18, 8⟩) s fun t =>
      t.out = .regRead 0x1C (BitVec.ofNat 32 (s.bead / 2 ^ 32)) :: .regRead 0x18 (BitVec.ofNat 32 s.bead) :: s.out
        ∧ t.beadShadow = none ∧ t.events = s.events)
  ∧ (∀ (s : State) (off w : Nat), s.ports.linkUp = true → 4 < off % 4 + w → off % 4 ≠ 0 →
    answers (.lowHalfRead ⟨off, w⟩) s fun t => t.out = .regRead off 0 :: s.out ∧ { t with out := s.out } = s)

/-! ## Time, the queue and the whole machine -/

/-- BEAD_BOUNDARY (in part R98, R118, R260): the bead counter goes on by one; after the last bead of a rotation the period goes on
by one, with the length of Table 9-7. ROTATION_BOUNDARY (in part R35, R108): the boundary's work is done once, in the last bead,
and moves no counter of time. While the bead counter stands, both do nothing. The model's choices: log entries 2, 3. -/
def Obligations.BoundariesMoveTime : Prop :=
  (∀ s : State, s.startup.counting = true →
    answers .beadBoundary s fun t =>
      t.bead = s.bead + 1
        ∧ (s.beadInRot + 1 < s.rotLen → t.beadInRot = s.beadInRot + 1 ∧ t.period = s.period ∧ t.rotLen = s.rotLen ∧ t.rotCount = s.rotCount)
        ∧ (s.rotLen ≤ s.beadInRot + 1 → t.beadInRot = 0 ∧ t.period = s.period + 1 ∧ t.rotCount = s.rotCount + 1
            ∧ t.rotLen = lrot (endBead (rotationBoundary s)).rate (s.period + 1).toNat))
  ∧ (∀ s : State, s.startup.counting = true → s.beadInRot + 1 = s.rotLen → s.rotDone = false →
    answers .rotationBoundary s fun t =>
      t.rotDone = true ∧ t.bead = s.bead ∧ t.beadInRot = s.beadInRot ∧ t.period = s.period ∧ t.rotLen = s.rotLen)
  ∧ (∀ s : State, s.startup.counting = false ∨ s.beadInRot + 1 ≠ s.rotLen ∨ s.rotDone = true → answers .rotationBoundary s fun t => t = s)
  ∧ (∀ s : State, s.startup.counting = false → answers .beadBoundary s fun t => t = s)

/-- What some registers read right after reset: those of the first list, whose tables give a value other than zero, and those of
the second, zero; and no command waits. The values that the manual does not give are the model's choices: log entries 4, 6. -/
def Obligations.ResetValues : Prop :=
  (∀ x ∈ [((0x900000 : Nat), (40 : Word)), (0x900108, 0x80000000), (0x900148, 0x80000000), (0x900188, 0x80000000),
      (0x9001C8, 0x80000000), (0xA00000, 0x00DC0001), (0x200000, 0x00000A19), (0x500000, 0x00000081),
      (0xF00000, 0x00010000)],
    readReg State.reset x.1 = x.2)
  ∧ (∀ o ∈ [0x10, 0x18, 0x20, 0x40, 0x100000, 0x100004, 0x200004, 0x300000, 0x300008, 0x300010, 0x701000, 0x701008, 0x701028,
      0x900100, 0x900104, 0x90010C, 0xA00004, 0xA00008, 0xA00010, 0xA00014, 0xC00000, 0xC00004, 0xC00008, 0xC0000C, 0xC00010,
      0xC00014, 0xD00000, 0xD00010, 0xE00000, 0xE00120, 0xE10004, 0x1000000, 0x1000008],
    readReg State.reset o = 0)
  ∧ State.reset.pending = []

/-- The state after reset is sound: its memories are in canonical form (log entry 5), its contexts, ring groups, Clasp ports and
channels have the manual's numbers, and the bead stands within its rotation. The model's choices: log entries 5, 6. -/
def Obligations.ResetSound : Prop := sound State.reset

/-- A step runs the command at the front of the queue with the queue's rest; on an empty queue it idles. The queue is the model's:
log entry 4. -/
def Obligations.StepRunsFront : Prop :=
  (∀ (c : Instr) (rest : List Instr) (s : State), s.pending = c :: rest → step s = exec c { s with pending := rest })
  ∧ (∀ (c : Instr) (s : State), step { s with pending := c :: s.pending } = exec c s)
  ∧ (∀ s : State, s.pending = [] → step s = .next s)

/-- Every command goes on to a next state; none touches the queue of commands, the grade or the steppings. A cue command carries
out its unit's begun cue or does nothing, writes no memory at once (in part R96, R98), and moves no counter of time.
The model's choices: log entries 1, 2. -/
def Obligations.CommandsKeep : Prop :=
  (∀ (c : Instr) (s : State),
    answers c s fun t => t.pending = s.pending ∧ t.grade = s.grade ∧ t.steppings = s.steppings)
  ∧ (∀ (c : Instr) (u : UnitNo) (s : State), cueUnit c = some u →
    answers c s fun t =>
      (t = s ∨ t = performCue u s) ∧ t.store = s.store ∧ t.lp4x = s.lp4x ∧ t.lp4xCheck = s.lp4xCheck ∧ t.bead = s.bead
        ∧ t.beadInRot = s.beadInRot ∧ t.rotLen = s.rotLen ∧ t.period = s.period)

/-- Every step from a sound state goes on to a sound state: the memories stay in canonical form, the contexts, ring groups, Clasp
ports and channels keep their numbers, the bead stays within its rotation. The model's choices: log entries 1, 4, 5. -/
def Obligations.SoundKept : Prop := ∀ s : State, sound s → ∃ t, step s = .next t ∧ sound t

/-- The cue words and the cues are the same (in part R75 to R95): every cue that uses no reserved code is read from its own word, and
a word from which a cue is read is that cue's word, bit for bit. -/
def Obligations.CueWordsRoundTrip : Prop :=
  (∀ c : CueWord, c.cue.spelled = true → decodeCue (encodeCue c) = some c)
  ∧ (∀ (w : BitVec 128) (c : CueWord), decodeCue w = some c → c.cue.spelled = true ∧ encodeCue c = w)

/-- Where a word spells a cue, its bits [127:110] are the cue's header and its bits [109:0] the fields of its class (R75);
all-zero bits are the plain IDLE cue. Some words, written out by the field tables of chapter 3 (Tables 3-4 to 3-13): the cue
that each spells, and words that spell none (a reserved class, a reserved bit that is 1, EOP 0x00). -/
def Obligations.CueWordsSpelled : Prop :=
  (∀ (w : BitVec 128) (c : CueWord), decodeCue w = some c →
    c.pred = ⟨w.extractLsb' 119 1, w.extractLsb' 118 1, w.extractLsb' 115 3, w.extractLsb' 110 5⟩
      ∧ decodeBody (w.extractLsb' 124 4).toNat (w.extractLsb' 120 4).toNat (w.extractLsb' 0 110).toNat = some c.cue)
  ∧ decodeCue 0 = some ⟨⟨0, 0, 0, 0⟩, .idle⟩
  ∧ decodeCue (BitVec.ofNat 128 (1 * 2 ^ 124 + 1 * 2 ^ 119 + 1 * 2 ^ 118 + 6 * 2 ^ 115 + 31 * 2 ^ 110 + 4 * 2 ^ 107 + 4 * 2 ^ 104
      + 511 * 2 ^ 95 + 1 * 2 ^ 94 + 5 * 2 ^ 91 + 64 * 2 ^ 73 + 2 * 2 ^ 67 + 4096 * 2 ^ 49 + 63 * 2 ^ 43))
    = some ⟨⟨1, 1, 6, 31⟩, .mac { fmtA := 4, fmtB := 4, w := -1, rmen := 1, rmreg := 5, aBase := 64, aStr := 2, bBase := 4096, bStr := 63 }⟩
  ∧ decodeCue (BitVec.ofNat 128 (3 * 2 ^ 124 + 1 * 2 ^ 120 + 0x0400000400 * 2 ^ 70 + 0x0800000020 * 2 ^ 30 + 1 * 2 ^ 24 + 3 * 2 ^ 18
      + 700 * 2 ^ 8))
    = some ⟨⟨0, 0, 0, 0⟩, .write { laddr := 0x0400000400, saddr := 0x0800000020, lStr := 1, sStr := 3, slot := 700 }⟩
  ∧ decodeCue (BitVec.ofNat 128 (4 * 2 ^ 124 + 3 * 2 ^ 104 + 15 * 2 ^ 100 + 1 * 2 ^ 80 + 2 * 2 ^ 58 + 3 * 2 ^ 36 + 4 * 2 ^ 14 + 5 * 2 ^ 8))
    = some ⟨⟨0, 0, 0, 0⟩, .vec .fma ⟨15, 0, 0, 1, 0, 2, 0, 3, 0, 4, 5⟩⟩
  ∧ decodeCue (BitVec.ofNat 128 (5 * 2 ^ 124 + 63 * 2 ^ 104))
    = some ⟨⟨0, 0, 0, 0⟩, .eng { eop := 63, desc := 0, descStr := 0, opnd := 0, opndStr := 0, slot := 0, param := 0 }⟩
  ∧ decodeCue (BitVec.ofNat 128 (7 * 2 ^ 124 + 3 * 2 ^ 99 + 9 * 2 ^ 83)) = some ⟨⟨0, 0, 0, 0⟩, .loop 3 9⟩
  ∧ decodeCue (BitVec.ofNat 128 (9 * 2 ^ 124)) = none
  ∧ decodeCue 1 = none
  ∧ decodeCue (BitVec.ofNat 128 (5 * 2 ^ 124)) = none
end

