-- ==== Sys2Proof/Laws/Memory.lean ====
section
/-! SUPPORT. The memory operations: they keep the canonical form, a read after a write gives what was written, and every
other address reads as before. -/

namespace Sys2Proof.Machine

/-- The canonical form, said of the list as a whole. -/
theorem memWf_iff (m : List Host.Cell) :
    memWf m = true ↔ m.Pairwise (fun c d => c.1 < d.1) ∧ ∀ c ∈ m, c.2 ≠ 0 := by
  induction m with
  | nil => simp [memWf]
  | cons c m ih =>
    cases m with
    | nil => simp [memWf]
    | cons d r =>
      simp only [memWf, Bool.and_eq_true, decide_eq_true_eq, ih, List.pairwise_cons, List.forall_mem_cons]
      constructor
      · rintro ⟨⟨h1, h2⟩, ⟨h3, h4⟩, h5, h6⟩
        exact ⟨⟨⟨h2, fun x hx => Nat.lt_trans h2 (h3 x hx)⟩, h3, h4⟩, h1, h5, h6⟩
      · rintro ⟨⟨⟨h2, -⟩, h3, h4⟩, h1, h5, h6⟩
        exact ⟨⟨h1, h2⟩, ⟨h3, h4⟩, h5, h6⟩

theorem memWf_nil : memWf [] = true := rfl

/-- Part of a canonical list is canonical. -/
theorem memWf_filter {m : List Host.Cell} (p : Host.Cell → Bool) (h : memWf m = true) : memWf (m.filter p) = true := by
  rw [memWf_iff] at *
  exact ⟨h.1.filter p, fun c hc => h.2 c (List.mem_of_mem_filter hc)⟩

theorem mem_memCells {a : Nat} {bs : Bytes} {c : Host.Cell} :
    c ∈ memCells a bs ↔ a ≤ c.1 ∧ bs[c.1 - a]? = some c.2 ∧ c.2 ≠ 0 := by
  induction bs generalizing a with
  | nil => simp [memCells]
  | cons b bs ih =>
    have key : (a + 1 ≤ c.1 ∧ bs[c.1 - (a + 1)]? = some c.2 ∧ c.2 ≠ 0) ↔
        (c.1 ≠ a ∧ a ≤ c.1 ∧ (b :: bs)[c.1 - a]? = some c.2 ∧ c.2 ≠ 0) := by
      constructor
      · rintro ⟨h, h1, h2⟩
        refine ⟨by omega, by omega, ?_, h2⟩
        rw [show c.1 - a = (c.1 - (a + 1)) + 1 by omega]; simpa using h1
      · rintro ⟨h, h0, h1, h2⟩
        rw [show c.1 - a = (c.1 - (a + 1)) + 1 by omega] at h1
        exact ⟨by omega, by simpa using h1, h2⟩
    unfold memCells
    split
    · next hb =>
      rw [ih, key]
      constructor
      · rintro ⟨-, h⟩; exact h
      · rintro ⟨h, h1, h2⟩
        refine ⟨fun e => ?_, h, h1, h2⟩
        rw [e, Nat.sub_self] at h1
        simp only [List.getElem?_cons_zero, Option.some.injEq] at h1
        exact h2 (h1 ▸ hb)
    · next hb =>
      rw [List.mem_cons, ih, key]
      constructor
      · rintro (rfl | ⟨-, h⟩)
        · exact ⟨Nat.le_refl _, by simp, hb⟩
        · exact h
      · rintro ⟨h, h1, h2⟩
        by_cases e : c.1 = a
        · left
          rw [e, Nat.sub_self] at h1
          simp only [List.getElem?_cons_zero, Option.some.injEq] at h1
          exact Prod.ext e h1.symm
        · exact .inr ⟨e, h, h1, h2⟩

theorem memCells_pairwise (a : Nat) (bs : Bytes) : (memCells a bs).Pairwise (fun c d => c.1 < d.1) := by
  induction bs generalizing a with
  | nil => simp [memCells]
  | cons b bs ih =>
    unfold memCells
    split
    · exact ih _
    · rw [List.pairwise_cons]
      exact ⟨fun c hc => (mem_memCells.1 hc).1, ih _⟩

theorem lt_of_mem_memCells {a : Nat} {bs : Bytes} {c : Host.Cell} (h : c ∈ memCells a bs) : a ≤ c.1 ∧ c.1 < a + bs.length := by
  obtain ⟨h0, h1, -⟩ := mem_memCells.1 h
  have := (List.getElem?_eq_some_iff.1 h1).1
  omega

/-- Writing keeps the canonical form. -/
theorem memWf_memWrite {m : List Host.Cell} (a : Nat) (bs : Bytes) (h : memWf m = true) : memWf (memWrite m a bs) = true := by
  have hl := memWf_filter (fun c => decide (c.1 < a)) h
  have hr := memWf_filter (fun c => decide (a + bs.length ≤ c.1)) h
  rw [memWf_iff] at *
  unfold memWrite
  simp only [List.pairwise_append, List.mem_append, List.mem_filter, decide_eq_true_eq]
  refine ⟨⟨⟨hl.1, memCells_pairwise a bs, ?_⟩, hr.1, ?_⟩, ?_⟩
  · intro c hc d hd
    have := lt_of_mem_memCells hd
    omega
  · rintro c (hc | hc) d hd
    · omega
    · have := lt_of_mem_memCells hc
      omega
  · rintro c ((hc | hc) | hc)
    · exact h.2 c hc.1
    · exact (mem_memCells.1 hc).2.2
    · exact h.2 c hc.1

/-- Clearing keeps the canonical form. -/
theorem memWf_memClear {m : List Host.Cell} (a n : Nat) (h : memWf m = true) : memWf (memClear m a n) = true :=
  memWf_filter _ h

/-- An address is listed once. -/
theorem eq_of_key {m : List Host.Cell} (h : m.Pairwise fun c d => c.1 < d.1) {c d : Host.Cell} (hc : c ∈ m) (hd : d ∈ m)
    (e : c.1 = d.1) : c = d := by
  induction m with
  | nil => cases hc
  | cons x r ih =>
    rw [List.pairwise_cons] at h
    rcases List.mem_cons.1 hc with h1 | h1 <;> rcases List.mem_cons.1 hd with h2 | h2
    · exact h1.trans h2.symm
    · have := h.1 d h2; subst h1; omega
    · have := h.1 c h1; subst h2; omega
    · exact ih h.2 h1 h2

/-- A listed byte reads as listed. -/
theorem memGet_of_mem {m : List Host.Cell} (h : memWf m = true) {c : Host.Cell} (hc : c ∈ m) : memGet m c.1 = c.2 := by
  rw [memWf_iff] at h
  unfold memGet
  have hs : (m.find? fun d => decide (d.1 = c.1)).isSome := by
    rw [List.find?_isSome]; exact ⟨c, hc, by simp⟩
  obtain ⟨d, hd⟩ := Option.isSome_iff_exists.1 hs
  rw [hd]
  have hm := List.mem_of_find?_eq_some hd
  have he : d.1 = c.1 := by simpa using List.find?_some hd
  rw [eq_of_key h.1 hm hc he]

/-- An address with no entry reads 0. -/
theorem memGet_of_not_mem {m : List Host.Cell} {a : Nat} (h : ∀ c ∈ m, c.1 ≠ a) : memGet m a = 0 := by
  unfold memGet
  rw [List.find?_eq_none.2 (by simpa using h)]

/-- What a byte reads as, by the entries. -/
theorem memGet_eq_iff {m : List Host.Cell} (h : memWf m = true) {a : Nat} {b : Byte} (hb : b ≠ 0) : memGet m a = b ↔ (a, b) ∈ m := by
  constructor
  · intro e
    unfold memGet at e
    split at e
    · next c hc =>
      have he : c.1 = a := by simpa using List.find?_some hc
      have : c = (a, b) := Prod.ext he e
      exact this ▸ List.mem_of_find?_eq_some hc
    · exact absurd e.symm hb
  · exact memGet_of_mem h

/-- Two canonical lists that hold the same entries at an address read alike there. -/
theorem memGet_congr {m n : List Host.Cell} (hm : memWf m = true) (hn : memWf n = true) {a : Nat}
    (h : ∀ b, (a, b) ∈ m ↔ (a, b) ∈ n) : memGet m a = memGet n a := by
  by_cases e : memGet m a = 0
  · by_cases e' : memGet n a = 0
    · rw [e, e']
    · have := (memGet_eq_iff hn e').1 rfl
      rw [← h] at this
      exact memGet_of_mem hm this
  · have := (memGet_eq_iff hm e).1 rfl
    rw [h] at this
    exact (memGet_of_mem hn this).symm

/-- A write leaves every byte outside as it was. -/
theorem memGet_memWrite_other {m : List Host.Cell} (h : memWf m = true) {a x : Nat} {bs : Bytes} (hx : x < a ∨ a + bs.length ≤ x) :
    memGet (memWrite m a bs) x = memGet m x := by
  refine memGet_congr (memWf_memWrite a bs h) h fun b => ?_
  simp only [memWrite, List.mem_append, List.mem_filter, decide_eq_true_eq]
  constructor
  · rintro ((hc | hc) | hc)
    · exact hc.1
    · have := lt_of_mem_memCells hc; simp only at this; omega
    · exact hc.1
  · intro hc
    rcases hx with hx | hx
    · exact .inl (.inl ⟨hc, hx⟩)
    · exact .inr ⟨hc, hx⟩

/-- A write is read back. -/
theorem memGet_memWrite_same {m : List Host.Cell} (h : memWf m = true) {a i : Nat} {bs : Bytes} (hi : i < bs.length) :
    memGet (memWrite m a bs) (a + i) = bs[i] := by
  have hw := memWf_memWrite a bs h
  by_cases hb : bs[i] = 0
  · rw [hb]
    refine memGet_of_not_mem fun c hc e => ?_
    simp only [memWrite, List.mem_append, List.mem_filter, decide_eq_true_eq] at hc
    rcases hc with (hc | hc) | hc
    · omega
    · obtain ⟨-, h1, h2⟩ := mem_memCells.1 hc
      rw [e, Nat.add_sub_cancel_left, List.getElem?_eq_getElem hi] at h1
      exact h2 (Option.some.inj h1 ▸ hb)
    · omega
  · rw [memGet_eq_iff hw hb]
    refine List.mem_append_left _ (List.mem_append_right _ (mem_memCells.2 ⟨by simp, ?_, hb⟩))
    simp [hi]

/-- A cleared byte reads 0. -/
theorem memGet_memClear_same {m : List Host.Cell} {a n x : Nat} (hx : a ≤ x ∧ x < a + n) : memGet (memClear m a n) x = 0 := by
  refine memGet_of_not_mem fun c hc e => ?_
  simp only [memClear, List.mem_filter, decide_eq_true_eq] at hc
  omega

/-- Clearing leaves every byte outside as it was. -/
theorem memGet_memClear_other {m : List Host.Cell} (h : memWf m = true) {a n x : Nat} (hx : x < a ∨ a + n ≤ x) :
    memGet (memClear m a n) x = memGet m x := by
  refine memGet_congr (memWf_memClear a n h) h fun b => ?_
  simp only [memClear, List.mem_filter, decide_eq_true_eq]
  exact ⟨fun hc => hc.1, fun hc => ⟨hc, hx⟩⟩

end Sys2Proof.Machine
end

