-- ==== Sys2Proof/Laws/Lists.lean ====
section
/-! SUPPORT. The small lists of the state: association lists, places of a list, contexts, rings and ports one at a time. -/

namespace Sys2Proof.Machine

@[simp] theorem modifyAt_length {α : Type} (f : α → α) (i : Nat) (l : List α) : (modifyAt f i l).length = l.length := by
  induction l generalizing i with
  | nil => cases i <;> rfl
  | cons a r ih => cases i with
    | zero => rfl
    | succ i => simp [modifyAt, ih]

theorem modifyAt_getD {α : Type} (f : α → α) (i j : Nat) (l : List α) (d : α) :
    (modifyAt f i l).getD j d = if j = i ∧ i < l.length then f (l.getD j d) else l.getD j d := by
  induction l generalizing i j with
  | nil => cases i <;> simp [modifyAt]
  | cons a r ih => cases i with
    | zero => cases j <;> simp [modifyAt]
    | succ i => cases j with
      | zero => simp [modifyAt]
      | succ j => simpa [modifyAt] using ih i j

theorem assoc_assocSet_same {α : Type} (k : Nat) (a : α) (l : List (Nat × α)) : assoc k (assocSet k a l) = some a := by
  induction l with
  | nil => simp [assocSet, assoc]
  | cons b r ih =>
    simp only [assocSet]
    split
    · simp [assoc]
    · split
      · simp [assoc]
      · rename_i h
        simp only [assoc]
        rw [if_neg (fun e => h e.symm)]
        exact ih

theorem assoc_assocSet_other {α : Type} (k j : Nat) (a : α) (l : List (Nat × α)) (h : j ≠ k) :
    assoc j (assocSet k a l) = assoc j l := by
  induction l with
  | nil => simp [assocSet, assoc, Ne.symm h]
  | cons b r ih =>
    simp only [assocSet]
    split
    · simp [assoc, Ne.symm h]
    · split
      · rename_i e
        simp only [assoc]
        rw [if_neg (Ne.symm h), if_neg (fun x => h (x.symm.trans e.symm))]
      · simp only [assoc]
        split
        · rfl
        · exact ih

theorem State.modCtx_ctx (f : Ctx → Ctx) (c d : CtxNo) (s : State) :
    (s.modCtx f c).ctx d = if d = c ∧ c < s.ctxs.length then f (s.ctx d) else s.ctx d :=
  modifyAt_getD f c d s.ctxs Ctx.reset

theorem State.modRing_ring (f : Ring → Ring) (c d : CtxNo) (s : State) :
    (s.modRing f c).ring d = if d = c ∧ c < s.rings.length then f (s.ring d) else s.ring d :=
  modifyAt_getD f c d s.rings Ring.reset

theorem State.modClasp_clasp (f : Clasp → Clasp) (p q : Nat) (s : State) :
    (s.modClasp f p).clasp q = if q = p ∧ p < s.clasps.length then f (s.clasp q) else s.clasp q :=
  modifyAt_getD f p q s.clasps Clasp.reset

theorem State.modChan_chan (f : Channel → Channel) (c d : Nat) (s : State) :
    (s.modChan f c).chan d = if d = c ∧ c < s.bezel.channels.length then f (s.chan d) else s.chan d :=
  modifyAt_getD f c d s.bezel.channels Channel.reset

@[simp] theorem State.setSeq_seq_same (u : UnitNo) (q : Seq) (s : State) : (s.setSeq u q).seq u = q := by
  simp [State.setSeq, State.seq, assoc_assocSet_same]

theorem State.setSeq_seq_other (u v : UnitNo) (q : Seq) (s : State) (h : v ≠ u) : (s.setSeq u q).seq v = s.seq v := by
  simp [State.setSeq, State.seq, assoc_assocSet_other _ _ _ _ h]

@[simp] theorem State.setLive_liveWord_same (w : Nat) (l : LiveWord) (s : State) : (s.setLive w l).liveWord w = l := by
  simp [State.setLive, State.liveWord, assoc_assocSet_same]

theorem State.setLive_liveWord_other (w v : Nat) (l : LiveWord) (s : State) (h : v ≠ w) :
    (s.setLive w l).liveWord v = s.liveWord v := by
  simp [State.setLive, State.liveWord, assoc_assocSet_other _ _ _ _ h]

end Sys2Proof.Machine
end

