-- ==== Sys2Proof/Laws/Spine.lean ====
section
/-! SUPPORT. The spine of a state: what time, the queue and the numbers of parts are. One lemma per function that leaves the
spine as it was; `simp` rewrites with every one. -/

namespace Sys2Proof.Machine

structure Spine where
  grade : Nat
  steppings : List (BitVec 4)
  bead : Nat
  beadInRot : Nat
  rotLen : Nat
  period : Word
  rotCount : Nat
  pending : List Instr
  contexts : Nat
  ringGroups : Nat
  ports : Nat
  channels : Nat

def State.spine (s : State) : Spine :=
  { grade := s.grade, steppings := s.steppings, bead := s.bead, beadInRot := s.beadInRot, rotLen := s.rotLen, period := s.period,
    rotCount := s.rotCount, pending := s.pending, contexts := s.ctxs.length, ringGroups := s.rings.length,
    ports := s.clasps.length, channels := s.bezel.channels.length }

@[simp] theorem foldl_spine {α : Type} (g : State → α → State) (h : ∀ t x, (g t x).spine = t.spine) (l : List α) (s : State) :
    (l.foldl g s).spine = s.spine := by
  induction l generalizing s with
  | nil => rfl
  | cons a r ih => rw [List.foldl_cons, ih, h]

@[simp] theorem foldl_spine2 {α β : Type} (g : β × State → α → β × State) (h : ∀ t x, (g t x).2.spine = t.2.spine) (l : List α) (s : β × State) :
    (l.foldl g s).2.spine = s.2.spine := by
  induction l generalizing s with
  | nil => rfl
  | cons a r ih => rw [List.foldl_cons, ih, h]

@[simp] theorem when_spine (p : Bool) (f : State → State) (s : State) (h : ∀ t : State, (f t).spine = t.spine) : (when_ p f s).spine = s.spine := by
  unfold when_; split
  · exact h s
  · rfl

theorem onIssue_spine (u : UnitNo) (f : Issue → Option (State → State)) (s : State)
    (h : ∀ i g, f i = some g → ∀ t : State, (g t).spine = t.spine) : (onIssue u f s).spine = s.spine := by
  unfold onIssue; split
  · rfl
  · split
    · rename_i hf; rw [h _ _ hf]; rfl
    · rfl

@[simp] theorem State.modCtx_spine (f : Ctx → Ctx) (c : CtxNo) (s : State) : (s.modCtx f c).spine = s.spine := by
  simp [State.modCtx, State.spine]
@[simp] theorem State.modRing_spine (f : Ring → Ring) (c : CtxNo) (s : State) : (s.modRing f c).spine = s.spine := by
  simp [State.modRing, State.spine]
@[simp] theorem State.modClasp_spine (f : Clasp → Clasp) (p : Nat) (s : State) : (s.modClasp f p).spine = s.spine := by
  simp [State.modClasp, State.spine]
@[simp] theorem State.modChan_spine (f : Channel → Channel) (p : Nat) (s : State) : (s.modChan f p).spine = s.spine := by
  simp [State.modChan, State.spine]
@[simp] theorem State.modBezel_spine (f : Bezel → Bezel) (s : State) (h : (f s.bezel).channels.length = s.bezel.channels.length) :
    (s.modBezel f).spine = s.spine := by
  simp [State.modBezel, State.spine, h]

@[simp] theorem State.modLink_spine (x0 : TwinLink → TwinLink) (x1 : State) : (State.modLink x0 x1).spine = x1.spine := by rfl
@[simp] theorem leadFault_spine (x0 : State) : (leadFault x0).spine = x0.spine := by unfold leadFault; (repeat' split) <;> simp
@[simp] theorem State.modSig_spine (x0 : Signets → Signets) (x1 : State) : (State.modSig x0 x1).spine = x1.spine := by rfl
@[simp] theorem State.setSeq_spine (x0 : UnitNo) (x1 : Seq) (x2 : State) : (State.setSeq x0 x1 x2).spine = x2.spine := by rfl
@[simp] theorem State.modStr_spine (x0 : StrandBlock → StrandBlock) (x1 : State) : (State.modStr x0 x1).spine = x1.spine := by rfl
@[simp] theorem sendItem_spine (x0 : ℕ) (x1 : ℕ) (x2 : Bytes) (x3 : State) : (sendItem x0 x1 x2 x3).spine = x3.spine := by rfl
@[simp] theorem State.modMgmt_spine (x0 : Mgmt → Mgmt) (x1 : State) : (State.modMgmt x0 x1).spine = x1.spine := by rfl
@[simp] theorem State.modJoin_spine (x0 : Join → Join) (x1 : State) : (State.modJoin x0 x1).spine = x1.spine := by rfl
@[simp] theorem State.fresh_spine (x0 : State) : (State.fresh x0).2.spine = x0.spine := by rfl
@[simp] theorem dropPair_spine (x0 : State) : (dropPair x0).spine = x0.spine := by rfl
@[simp] theorem State.modClock_spine (x0 : Clock → Clock) (x1 : State) : (State.modClock x0 x1).spine = x1.spine := by rfl
@[simp] theorem enterFrame_spine (x0 : UnitNo) (x1 : SeqFrame) (x2 : State) : (enterFrame x0 x1 x2).spine = x2.spine := by rfl
@[simp] theorem boundaryDone_spine (x0 : State) : (boundaryDone x0).spine = x0.spine := by rfl
@[simp] theorem endWindows_spine (x0 : CtxNo) (x1 : State) : (endWindows x0 x1).spine = x1.spine := by rfl
@[simp] theorem andMasks_spine (x0 : State) : (andMasks x0).spine = x0.spine := by rfl
@[simp] theorem State.withFetchWord_spine (x0 : State) (x1 : ℕ) (x2 : ℕ) : (State.withFetchWord x0 x1 x2).spine = x0.spine := by rfl
@[simp] theorem dropPending_spine (x0 : CtxNo) (x1 : State) : (dropPending x0 x1).spine = x1.spine := by rfl
@[simp] theorem drive_spine (x0 : UnitNo) (x1 : CtxNo) (x2 : ℕ) (x3 : ℕ) (x4 : ℕ) (x5 : State) : (drive x0 x1 x2 x3 x4 x5).spine = x5.spine := by rfl
@[simp] theorem State.setLive_spine (x0 : ℕ) (x1 : LiveWord) (x2 : State) : (State.setLive x0 x1 x2).spine = x2.spine := by rfl
@[simp] theorem readLine_spine (x0 : CtxNo) (x1 : ℕ) (x2 : ℕ) (x3 : State) : (readLine x0 x1 x2 x3).2.2.spine = x3.spine := by unfold readLine; (repeat' split) <;> simp
@[simp] theorem beginLoad_spine (x0 : UnitNo) (x1 : State) : (beginLoad x0 x1).spine = x1.spine := by unfold beginLoad; dsimp only; (repeat' split) <;> simp
@[simp] theorem sendAdmit_spine (x0 : Word) (x1 : ℕ) (x2 : CtxNo) (x3 : Bytes) (x4 : State) : (sendAdmit x0 x1 x2 x3 x4).spine = x4.spine := by rfl
@[simp] theorem doClear_spine (x0 : UnitNo) (x1 : State) : (doClear x0 x1).spine = x1.spine := by rfl
@[simp] theorem dropAccess_spine (x0 : ℕ × HostAccess) (x1 : State) : (dropAccess x0 x1).spine = x1.spine := by rfl
@[simp] theorem takeMover_spine (x0 : State) : (takeMover x0).spine = x0.spine := by rfl
@[simp] theorem putLine_spine (x0 : ℕ) (x1 : ℕ) (x2 : Bytes) (x3 : Bytes) (x4 : State) : (putLine x0 x1 x2 x3 x4).spine = x4.spine := by rfl
@[simp] theorem freeStage_spine (x0 : State) : (freeStage x0).spine = x0.spine := by rfl
@[simp] theorem joinFrom_spine (x0 : ℕ) (x1 : State) : (joinFrom x0 x1).spine = x1.spine := by rfl
@[simp] theorem markDirty_spine (x0 : List ℕ) (x1 : State) : (markDirty x0 x1).spine = x1.spine := by unfold markDirty; (repeat' split) <;> simp
@[simp] theorem claspWindow_spine (x0 : ℕ) (x1 : Bool) (x2 : Bool) (x3 : State) : (claspWindow x0 x1 x2 x3).spine = x3.spine := by simp [claspWindow]
@[simp] theorem keepOld_spine (x0 : ℕ) (x1 : ℕ) (x2 : State) : (keepOld x0 x1 x2).spine = x2.spine := by rfl
@[simp] theorem State.modOver_spine (x0 : TwinOver → TwinOver) (x1 : State) : (State.modOver x0 x1).spine = x1.spine := by rfl
@[simp] theorem patrolStarves_spine (x0 : ℕ) (x1 : State) : (patrolStarves x0 x1).spine = x1.spine := by unfold patrolStarves; (repeat' split) <;> simp
@[simp] theorem partnerDirty_spine (x0 : List ℕ) (x1 : State) : (partnerDirty x0 x1).spine = x1.spine := by rfl
@[simp] theorem healthWrite_spine (x0 : State) : (healthWrite x0).spine = x0.spine := by unfold healthWrite; (repeat' split) <;> simp
@[simp] theorem takeSlot_spine (x0 : ℕ) (x1 : State) : (takeSlot x0 x1).spine = x1.spine := by simp [takeSlot]
@[simp] theorem sendSync_spine (x0 : CtxNo) (x1 : ℕ) (x2 : Bytes) (x3 : State) : (sendSync x0 x1 x2 x3).spine = x3.spine := by simp [sendSync]
@[simp] theorem lockGain_spine (x0 : ℕ) (x1 : List (BitVec 2)) (x2 : State) : (lockGain x0 x1 x2).spine = x2.spine := by unfold lockGain; (repeat' split) <;> simp
@[simp] theorem noteTail_spine (x0 : State) : (noteTail x0).spine = x0.spine := by unfold noteTail; (repeat' split) <;> simp
@[simp] theorem idleClose_spine (x0 : ℕ) (x1 : State) : (idleClose x0 x1).spine = x1.spine := by rfl
@[simp] theorem liveClr_spine (x0 : ℕ) (x1 : Word) (x2 : State) : (liveClr x0 x1 x2).spine = x2.spine := by rfl
@[simp] theorem storePut_spine (x0 : ℕ) (x1 : Bytes) (x2 : State) : (storePut x0 x1 x2).spine = x2.spine := by rfl
@[simp] theorem endSteps_spine (x0 : State) : (endSteps x0).spine = x0.spine := by rfl
@[simp] theorem ringBytes_spine (x0 : ℕ) (x1 : ℕ) (x2 : State) : (ringBytes x0 x1 x2).2.spine = x2.spine := by simp [ringBytes]
@[simp] theorem sendReady_spine (x0 : State) : (sendReady x0).spine = x0.spine := by unfold sendReady; (repeat' split) <;> simp
@[simp] theorem stampStep_spine (x0 : UnitNo) (x1 : ℕ) (x2 : State) : (stampStep x0 x1 x2).spine = x2.spine := by rfl
@[simp] theorem State.later_spine (x0 : State) (x1 : ℕ) (x2 : UnitNo) (x3 : CtxNo) (x4 : EffKind) : (State.later x0 x1 x2 x3 x4).spine = x0.spine := by rfl
@[simp] theorem cancelRow_spine (x0 : ℕ) (x1 : State) : (cancelRow x0 x1).spine = x1.spine := by rfl
@[simp] theorem queueWrite_spine (x0 : ℕ) (x1 : ℕ) (x2 : Bytes) (x3 : ℕ) (x4 : State) : (queueWrite x0 x1 x2 x3 x4).spine = x4.spine := by unfold queueWrite; (repeat' split) <;> simp
@[simp] theorem State.modStartup_spine (x0 : Startup → Startup) (x1 : State) : (State.modStartup x0 x1).spine = x1.spine := by rfl
@[simp] theorem State.modFabric_spine (x0 : Fabric → Fabric) (x1 : State) : (State.modFabric x0 x1).spine = x1.spine := by rfl
@[simp] theorem State.modPorts_spine (x0 : Ports → Ports) (x1 : State) : (State.modPorts x0 x1).spine = x1.spine := by rfl
@[simp] theorem noteTransit_spine (x0 : ℕ) (x1 : ℕ) (x2 : State) : (noteTransit x0 x1 x2).spine = x2.spine := by rfl
@[simp] theorem State.modThermal_spine (x0 : Thermal → Thermal) (x1 : State) : (State.modThermal x0 x1).spine = x1.spine := by rfl
@[simp] theorem State.modCmp_spine (x0 : TwinCompare → TwinCompare) (x1 : State) : (State.modCmp x0 x1).spine = x1.spine := by rfl
@[simp] theorem storeUe_spine (x0 : ℕ) (x1 : UnitNo) (x2 : CtxNo) (x3 : ℕ) (x4 : ℕ) (x5 : List (ℕ × ℕ)) (x6 : State) : (storeUe x0 x1 x2 x3 x4 x5 x6).spine = x6.spine := by unfold storeUe; (repeat' split) <;> simp
@[simp] theorem pairFormed_spine (x0 : BitVec 128) (x1 : PairCert) (x2 : State) : (pairFormed x0 x1 x2).spine = x2.spine := by rfl
@[simp] theorem rootPllLock_spine (x0 : BitVec 3) (x1 : Bool) (x2 : Bool) (x3 : Bool) (x4 : State) : (rootPllLock x0 x1 x2 x3 x4).spine = x4.spine := by unfold rootPllLock; (repeat' split) <;> simp
@[simp] theorem pushInput_spine (x0 : ℕ) (x1 : InputKind) (x2 : State) : (pushInput x0 x1 x2).spine = x2.spine := by unfold pushInput; dsimp only; (repeat' split) <;> first | rfl | simp | simp_all
@[simp] theorem cancelWrite_spine (x0 : CtxNo) (x1 : Word) (x2 : State) : (cancelWrite x0 x1 x2).spine = x2.spine := by unfold cancelWrite; (repeat' split) <;> simp
@[simp] theorem State.modSpare_spine (x0 : SpareDie → SpareDie) (x1 : ℕ) (x2 : State) : (State.modSpare x0 x1 x2).spine = x2.spine := by rfl
@[simp] theorem storeClear_spine (x0 : ℕ) (x1 : ℕ) (x2 : State) : (storeClear x0 x1 x2).spine = x2.spine := by rfl
@[simp] theorem placeInput_spine (x0 : ℕ) (x1 : ℕ) (x2 : ℕ) (x3 : InputKind) (x4 : State) : (placeInput x0 x1 x2 x3 x4).spine = x4.spine := by rfl
@[simp] theorem diverge_spine (x0 : CtxNo) (x1 : State) : (diverge x0 x1).spine = x1.spine := by rfl
@[simp] theorem cancelRows_spine (x0 : CtxNo) (x1 : Bytes) (x2 : State) : (cancelRows x0 x1 x2).2.spine = x2.spine := by simp [cancelRows]
@[simp] theorem addPending_spine (x0 : Pending) (x1 : State) : (addPending x0 x1).spine = x1.spine := by simp [addPending]
@[simp] theorem State.modLocket_spine (x0 : Locket → Locket) (x1 : State) : (State.modLocket x0 x1).spine = x1.spine := by rfl
@[simp] theorem State.modTwin_spine (x0 : TwinRegs → TwinRegs) (x1 : State) : (State.modTwin x0 x1).spine = x1.spine := by rfl
@[simp] theorem sscStart_spine (x0 : State) : (sscStart x0).spine = x0.spine := by unfold sscStart; (repeat' split) <;> simp
@[simp] theorem State.modCast_spine (x0 : Cast → Cast) (x1 : State) : (State.modCast x0 x1).spine = x1.spine := by rfl
@[simp] theorem setStep_spine (x0 : ℕ) (x1 : State) : (setStep x0 x1).spine = x1.spine := by rfl
@[simp] theorem copyBoundary_spine (x0 : State) : (copyBoundary x0).spine = x0.spine := by unfold copyBoundary; (repeat' split) <;> simp
@[simp] theorem orderRelease_spine (x0 : CtxNo) (x1 : Bool) (x2 : State) : (orderRelease x0 x1 x2).spine = x2.spine := by unfold orderRelease; grind [State.modStr_spine, sendAdmit_spine, State.modCtx_spine]
@[simp] theorem dropCopy_spine (x0 : ℕ) (x1 : State) : (dropCopy x0 x1).spine = x1.spine := by rfl
@[simp] theorem lineUe_spine (x0 : ℕ) (x1 : UnitNo) (x2 : CtxNo) (x3 : ℕ) (x4 : ℕ) (x5 : ℕ) (x6 : ℕ) (x7 : State) : (lineUe x0 x1 x2 x3 x4 x5 x6 x7).spine = x7.spine := by rfl
@[simp] theorem readEffect_spine (x0 : ℕ) (x1 : State) : (readEffect x0 x1).spine = x1.spine := by unfold readEffect; (repeat' split) <;> simp [State.spine]
@[simp] theorem frameBad_spine (x0 : ℕ) (x1 : State) : (frameBad x0 x1).spine = x1.spine := by simp [frameBad]
@[simp] theorem State.modEvents_spine (x0 : Events → Events) (x1 : State) : (State.modEvents x0 x1).spine = x1.spine := by rfl
@[simp] theorem divergeAll_spine (x0 : State) : (divergeAll x0).spine = x0.spine := by simp [divergeAll]
@[simp] theorem loupeCheck_spine (x0 : State) : (loupeCheck x0).spine = x0.spine := by unfold loupeCheck; (repeat' split) <;> simp
@[simp] theorem modPin_spine (x0 : Pin → Pin) (x1 : PinName) (x2 : State) : (modPin x0 x1 x2).spine = x2.spine := by rfl
@[simp] theorem linkUp_spine (x0 : State) : (linkUp x0).spine = x0.spine := by simp [linkUp]
@[simp] theorem signetGo_spine (x0 : Word) (x1 : State) : (signetGo x0 x1).spine = x1.spine := by unfold signetGo; (repeat' split) <;> simp
@[simp] theorem State.modPower_spine (x0 : Power → Power) (x1 : State) : (State.modPower x0 x1).spine = x1.spine := by rfl
@[simp] theorem doLoop_spine (x0 : UnitNo) (x1 : Issue) (x2 : BitVec 11) (x3 : BitVec 16) (x4 : State) : (doLoop x0 x1 x2 x3 x4).spine = x4.spine := by rfl
@[simp] theorem putStep_spine (x0 : UnitNo) (x1 : EngStep) (x2 : State) : (putStep x0 x1 x2).spine = x2.spine := by rfl
@[simp] theorem liveSet_spine (x0 : ℕ) (x1 : CtxNo) (x2 : List (ℕ × DWord)) (x3 : State) : (liveSet x0 x1 x2 x3).spine = x3.spine := by rfl
@[simp] theorem State.emit_spine (x0 : Output) (x1 : State) : (State.emit x0 x1).spine = x1.spine := by rfl
@[simp] theorem reportSend_spine (x0 : State) : (reportSend x0).spine = x0.spine := by unfold reportSend; (repeat' split) <;> simp
@[simp] theorem claspRelease_spine (x0 : ℕ) (x1 : State) : (claspRelease x0 x1).spine = x1.spine := by unfold claspRelease; (repeat' split) <;> simp
@[simp] theorem takeProbe_spine (x0 : Bytes) (x1 : ℕ) (x2 : State) : (takeProbe x0 x1 x2).spine = x2.spine := by rfl
@[simp] theorem done_spine (x0 : UnitNo) (x1 : State) : (done x0 x1).spine = x1.spine := by rfl
@[simp] theorem referenceLock_spine (x0 : State) : (referenceLock x0).spine = x0.spine := by unfold referenceLock; grind [State.modJoin_spine, State.modClock_spine, State.modClasp_spine]
@[simp] theorem setToken_spine (x0 : ℕ) (x1 : Token → Token) (x2 : State) : (setToken x0 x1 x2).spine = x2.spine := by unfold setToken; (repeat' split) <;> simp
@[simp] theorem setMask_spine (x0 : UnitNo) (x1 : ℕ) (x2 : Word) (x3 : Option (BitVec 8)) (x4 : State) : (setMask x0 x1 x2 x3 x4).spine = x4.spine := by rfl
@[simp] theorem epochRaise_spine (x0 : State) : (epochRaise x0).spine = x0.spine := by unfold epochRaise; (repeat' split) <;> simp
@[simp] theorem feedRecord_spine (x0 : ℕ × Bytes) (x1 : State) : (feedRecord x0 x1).spine = x1.spine := by unfold feedRecord; dsimp only; (repeat' split) <;> simp
@[simp] theorem modPending_spine (x0 : Pending → Pending) (x1 : CtxNo) (x2 : State) : (modPending x0 x1 x2).spine = x2.spine := by rfl
@[simp] theorem formationFails_spine (x0 : State) : (formationFails x0).spine = x0.spine := by rfl
@[simp] theorem copyStep_spine (x0 : State) : (copyStep x0).spine = x0.spine := by unfold copyStep; dsimp only; (repeat' split) <;> first | rfl | simp | simp_all
@[simp] theorem noteFault_spine (x0 : CtxNo) (x1 : Option (ℕ × ℕ)) (x2 : State) : (noteFault x0 x1 x2).spine = x2.spine := by rfl
@[simp] theorem strFetch_spine (x0 : State) : (strFetch x0).spine = x0.spine := by unfold strFetch; (repeat' split) <;> simp
@[simp] theorem State.modHm_spine (x0 : Hallmark → Hallmark) (x1 : State) : (State.modHm x0 x1).spine = x1.spine := by rfl
@[simp] theorem goAlone_spine (x0 : State) : (goAlone x0).spine = x0.spine := by simp [goAlone]
@[simp] theorem startFreeze_spine (x0 : State) : (startFreeze x0).spine = x0.spine := by simp [startFreeze]
@[simp] theorem claspEmit_spine (x0 : ℕ) (x1 : Word) (x2 : Bytes) (x3 : ℤ) (x4 : State) : (claspEmit x0 x1 x2 x3 x4).spine = x4.spine := by simp [claspEmit]
@[simp] theorem pendClear_spine (x0 : ℕ) (x1 : Word) (x2 : State) : (pendClear x0 x1 x2).spine = x2.spine := by unfold pendClear; (repeat' split) <;> simp
@[simp] theorem doArms_spine (x0 : UnitNo) (x1 : Issue) (x2 : BitVec 8) (x3 : BitVec 8) (x4 : BitVec 1) (x5 : BitVec 3) (x6 : BitVec 5) (x7 : State) : (doArms x0 x1 x2 x3 x4 x5 x6 x7).spine = x7.spine := by rfl
@[simp] theorem crystalFallback_spine (x0 : Bool) (x1 : ℕ) (x2 : State) : (crystalFallback x0 x1 x2).spine = x2.spine := by unfold crystalFallback; (repeat' split) <;> simp
@[simp] theorem State.modBox_spine (x0 : Mailbox → Mailbox) (x1 : CtxNo) (x2 : State) : (State.modBox x0 x1 x2).spine = x2.spine := by simp [State.modBox]
@[simp] theorem writeEvent_spine (x0 : ℕ) (x1 : Word) (x2 : State) : (writeEvent x0 x1 x2).spine = x2.spine := by unfold writeEvent; (repeat' split) <;> simp
@[simp] theorem acceptWrite_spine (x0 : ℕ) (x1 : ℕ) (x2 : Bytes) (x3 : State) : (acceptWrite x0 x1 x2 x3).spine = x3.spine := by unfold acceptWrite; (repeat' split) <;> simp
@[simp] theorem portWrite_spine (x0 : UnitNo) (x1 : CtxNo) (x2 : ℤ) (x3 : Bytes) (x4 : State) : (portWrite x0 x1 x2 x3 x4).spine = x4.spine := by unfold portWrite; (repeat' split) <;> simp
@[simp] theorem lockLoss_spine (x0 : ℕ) (x1 : List (BitVec 2)) (x2 : State) : (lockLoss x0 x1 x2).spine = x2.spine := by unfold lockLoss; (repeat' split) <;> simp
@[simp] theorem doCsend_spine (x0 : UnitNo) (x1 : Issue) (x2 : PortFields) (x3 : State) : (doCsend x0 x1 x2 x3).spine = x3.spine := by unfold doCsend; dsimp only; (repeat' split) <;> simp
@[simp] theorem freshUnit_spine (x0 : UnitNo) (x1 : CtxNo) (x2 : State) : (freshUnit x0 x1 x2).spine = x2.spine := by unfold freshUnit; dsimp only; (repeat' split) <;> first | rfl | simp | simp_all
@[simp] theorem leaveSea_spine (x0 : State) : (leaveSea x0).spine = x0.spine := by unfold leaveSea; (repeat' split) <;> simp
@[simp] theorem fetchReads_spine (x0 : CtxNo) (x1 : State) : (fetchReads x0 x1).spine = x1.spine := by unfold fetchReads; dsimp only; (repeat' split) <;> simp
@[simp] theorem takeOver_spine (x0 : Word) (x1 : Bool) (x2 : ℕ) (x3 : State) : (takeOver x0 x1 x2 x3).spine = x3.spine := by simp [takeOver]
@[simp] theorem loseRecord_spine (x0 : CtxNo) (x1 : State) : (loseRecord x0 x1).spine = x1.spine := by simp [loseRecord]
@[simp] theorem claspAlign_spine (x0 : ℕ) (x1 : State) : (claspAlign x0 x1).spine = x1.spine := by unfold claspAlign; grind [State.modClasp_spine]
@[simp] theorem performWrite_spine (x0 : ℕ) (x1 : ℕ) (x2 : Bytes) (x3 : Bytes) (x4 : ℕ) (x5 : ℕ) (x6 : ℕ) (x7 : State) : (performWrite x0 x1 x2 x3 x4 x5 x6 x7).spine = x7.spine := by unfold performWrite; (repeat' split) <;> simp
@[simp] theorem epochBeat_spine (x0 : State) : (epochBeat x0).spine = x0.spine := by unfold epochBeat; (repeat' split) <;> simp
@[simp] theorem scanLoad_spine (x0 : List Byte) (x1 : State) : (scanLoad x0 x1).spine = x1.spine := by rfl
@[simp] theorem countUse_spine (x0 : UnitNo) (x1 : Cue) (x2 : State) : (countUse x0 x1 x2).spine = x2.spine := by unfold countUse; grind [State.modThermal_spine]
@[simp] theorem wakeZone_spine (x0 : ℕ) (x1 : State) : (wakeZone x0 x1).spine = x1.spine := by rfl
@[simp] theorem noteLocalFault_spine (x0 : CtxNo) (x1 : State) : (noteLocalFault x0 x1).spine = x1.spine := by rfl
@[simp] theorem startRetire_spine (x0 : ℕ) (x1 : ℕ) (x2 : State) : (startRetire x0 x1 x2).spine = x2.spine := by rfl
@[simp] theorem withhold_spine (x0 : CtxNo) (x1 : State) : (withhold x0 x1).spine = x1.spine := by simp [withhold]
@[simp] theorem beginLoads_spine (x0 : State) : (beginLoads x0).spine = x0.spine := by simp [beginLoads]
@[simp] theorem State.modSec_spine (x0 : Sec → Sec) (x1 : CtxNo) (x2 : State) : (State.modSec x0 x1 x2).spine = x2.spine := by simp [State.modSec]
@[simp] theorem leaseExpiry_spine (x0 : ℕ) (x1 : State) : (leaseExpiry x0 x1).spine = x1.spine := by unfold leaseExpiry; grind [setToken_spine]
@[simp] theorem strCommand_spine (x0 : ℕ) (x1 : CtxNo) (x2 : Bytes) (x3 : Bytes) (x4 : State) : (strCommand x0 x1 x2 x3 x4).spine = x4.spine := by unfold strCommand; (repeat' split) <;> simp
@[simp] theorem unitUe_spine (x0 : ℕ) (x1 : UnitNo) (x2 : List (ℕ × ℕ)) (x3 : State) : (unitUe x0 x1 x2 x3).spine = x3.spine := by unfold unitUe; (repeat' split) <;> simp
@[simp] theorem writeStrCmd_spine (x0 : Word) (x1 : State) : (writeStrCmd x0 x1).spine = x1.spine := by unfold writeStrCmd; (repeat' split) <;> simp
@[simp] theorem doMlogic_spine (x0 : UnitNo) (x1 : Issue) (x2 : BitVec 3) (x3 : BitVec 3) (x4 : BitVec 3) (x5 : BitVec 2) (x6 : State) : (doMlogic x0 x1 x2 x3 x4 x5 x6).spine = x6.spine := by rfl
@[simp] theorem hmInstall_spine (x0 : State) : (hmInstall x0).spine = x0.spine := by rfl
@[simp] theorem sendKeys_spine (x0 : CtxNo) (x1 : State) : (sendKeys x0 x1).spine = x1.spine := by unfold sendKeys; (repeat' split) <;> simp
@[simp] theorem partnerWithheld_spine (x0 : CtxNo) (x1 : ℕ) (x2 : State) : (partnerWithheld x0 x1 x2).spine = x2.spine := by unfold partnerWithheld; (repeat' split) <;> simp
@[simp] theorem crystalStable_spine (x0 : List ℕ) (x1 : State) : (crystalStable x0 x1).spine = x1.spine := by unfold crystalStable; (repeat' split) <;> simp
@[simp] theorem newLead_spine (x0 : State) : (newLead x0).spine = x0.spine := by rfl
@[simp] theorem backToHold_spine (x0 : State) : (backToHold x0).spine = x0.spine := by rfl
@[simp] theorem chainDirty_spine (x0 : CtxNo) (x1 : State) : (chainDirty x0 x1).spine = x1.spine := by simp [chainDirty]
@[simp] theorem form_spine (x0 : State) : (form x0).spine = x0.spine := by unfold form; (repeat' split) <;> simp
@[simp] theorem powerGood_spine (x0 : Word) (x1 : State) : (powerGood x0 x1).spine = x1.spine := by unfold powerGood; (repeat' split) <;> simp
@[simp] theorem channelUe_spine (x0 : ℕ) (x1 : ℕ) (x2 : State) : (channelUe x0 x1 x2).spine = x2.spine := by unfold channelUe; (repeat' split) <;> simp
@[simp] theorem rejoin_spine (x0 : CtxNo) (x1 : State) : (rejoin x0 x1).spine = x1.spine := by rfl
@[simp] theorem setRing_spine (x0 : Ring → Ring) (x1 : CtxNo) (x2 : State) : (setRing x0 x1 x2).spine = x2.spine := by simp [setRing]
@[simp] theorem boxDone_spine (x0 : CtxNo) (x1 : Bytes) (x2 : Bytes) (x3 : State) : (boxDone x0 x1 x2 x3).spine = x3.spine := by simp [boxDone]
@[simp] theorem openWindow_spine (x0 : CtxNo) (x1 : ℕ) (x2 : DirEntry) (x3 : State) : (openWindow x0 x1 x2 x3).spine = x3.spine := by simp [openWindow]
@[simp] theorem assign_spine (x0 : CtxNo) (x1 : Bool) (x2 : ℕ) (x3 : Bytes) (x4 : State) : (assign x0 x1 x2 x3 x4).spine = x4.spine := by simp [assign]
@[simp] theorem slewTo_spine (x0 : Ref) (x1 : State) : (slewTo x0 x1).spine = x1.spine := by unfold slewTo; (repeat' split) <;> simp
@[simp] theorem releaseBlock_spine (x0 : CtxNo) (x1 : State) : (releaseBlock x0 x1).spine = x1.spine := by unfold releaseBlock; (repeat' split) <;> simp
@[simp] theorem boxErr_spine (x0 : CtxNo) (x1 : ℕ) (x2 : State) : (boxErr x0 x1 x2).spine = x2.spine := by simp [boxErr]
@[simp] theorem writeSignet_spine (x0 : ℕ) (x1 : Word) (x2 : State) : (writeSignet x0 x1 x2).spine = x2.spine := by unfold writeSignet; (repeat' split) <;> simp
@[simp] theorem respond_spine (x0 : ℕ) (x1 : ℕ) (x2 : ℕ) (x3 : Bytes) (x4 : State) : (respond x0 x1 x2 x3 x4).spine = x4.spine := by simp [respond]
@[simp] theorem loseEntry_spine (x0 : Committed) (x1 : CtxNo) (x2 : State) : (loseEntry x0 x1 x2).spine = x2.spine := by simp [loseEntry]
@[simp] theorem portUe_spine (x0 : UnitNo) (x1 : ℤ) (x2 : ℕ) (x3 : State) : (portUe x0 x1 x2 x3).spine = x3.spine := by simp [portUe]
@[simp] theorem indexWrite_spine (x0 : ℕ) (x1 : CtxNo) (x2 : Word) (x3 : State) : (indexWrite x0 x1 x2 x3).spine = x3.spine := by unfold indexWrite; (repeat' split) <;> simp
@[simp] theorem loupeBegin_spine (x0 : State) : (loupeBegin x0).spine = x0.spine := by simp [loupeBegin]
@[simp] theorem pushNotice_spine (x0 : Bytes) (x1 : State) : (pushNotice x0 x1).spine = x1.spine := by unfold pushNotice; (repeat' split) <;> simp
@[simp] theorem readWord_spine (x0 : ℕ) (x1 : State) : (readWord x0 x1).spine = x1.spine := by simp [readWord]
@[simp] theorem registerRead_spine (x0 : RegAccess) (x1 : State) : (registerRead x0 x1).spine = x1.spine := by unfold registerRead; dsimp only; (repeat' split) <;> simp
@[simp] theorem channelRestart_spine (x0 : ℕ) (x1 : State) : (channelRestart x0 x1).spine = x1.spine := by unfold channelRestart; (repeat' split) <;> simp
@[simp] theorem notShared_spine (x0 : Withheld) (x1 : State) : (notShared x0 x1).spine = x1.spine := by unfold notShared; (repeat' split) <;> simp
@[simp] theorem startCopy_spine (x0 : ℕ) (x1 : ℕ) (x2 : State) : (startCopy x0 x1 x2).spine = x2.spine := by unfold startCopy; (repeat' split) <;> simp
@[simp] theorem mayDiverge_spine (x0 : CtxNo) (x1 : State) : (mayDiverge x0 x1).spine = x1.spine := by unfold mayDiverge; dsimp only; (repeat' split) <;> simp
@[simp] theorem hmCountPiece_spine (x0 : State) : (hmCountPiece x0).spine = x0.spine := by rfl
@[simp] theorem gateCheck_spine (x0 : State) : (gateCheck x0).spine = x0.spine := by unfold gateCheck; (repeat' split) <;> simp
@[simp] theorem writeStrand_spine (x0 : ℕ) (x1 : Word) (x2 : State) : (writeStrand x0 x1 x2).spine = x2.spine := by unfold writeStrand; (repeat' split) <;> simp
@[simp] theorem doLiveSet_spine (x0 : UnitNo) (x1 : Issue) (x2 : PortFields) (x3 : State) : (doLiveSet x0 x1 x2 x3).spine = x3.spine := by unfold doLiveSet; (repeat' split) <;> simp
@[simp] theorem notePartner_spine (x0 : Bytes) (x1 : State) : (notePartner x0 x1).spine = x1.spine := by rfl
@[simp] theorem noteSilence_spine (x0 : ℕ) (x1 : Silence → Silence) (x2 : State) : (noteSilence x0 x1 x2).spine = x2.spine := by rfl
@[simp] theorem doStateGet_spine (x0 : UnitNo) (x1 : Issue) (x2 : PortFields) (x3 : State) : (doStateGet x0 x1 x2 x3).spine = x3.spine := by simp [doStateGet]
@[simp] theorem endSession_spine (x0 : CtxNo) (x1 : State) : (endSession x0 x1).spine = x1.spine := by simp [endSession]
@[simp] theorem itemsLost_spine (x0 : State) : (itemsLost x0).spine = x0.spine := by unfold itemsLost; (repeat' split) <;> simp
@[simp] theorem seatHold_spine (x0 : State) : (seatHold x0).spine = x0.spine := by unfold seatHold; (repeat' split) <;> simp
@[simp] theorem pushAdmit_spine (x0 : ℕ) (x1 : Bytes) (x2 : Bytes) (x3 : State) : (pushAdmit x0 x1 x2 x3).spine = x3.spine := by simp [pushAdmit]
@[simp] theorem forceRelease_spine (x0 : CtxNo) (x1 : State) : (forceRelease x0 x1).spine = x1.spine := by simp [forceRelease]
@[simp] theorem referenceChange_spine (x0 : State) : (referenceChange x0).spine = x0.spine := by unfold referenceChange; grind [slewTo_spine]
@[simp] theorem cmdDone_spine (x0 : Via) (x1 : ℕ) (x2 : CtxNo) (x3 : ℕ) (x4 : State) : (cmdDone x0 x1 x2 x3 x4).spine = x4.spine := by unfold cmdDone; (repeat' split) <;> simp
@[simp] theorem writeFabric_spine (x0 : ℕ) (x1 : Word) (x2 : State) : (writeFabric x0 x1 x2).spine = x2.spine := by unfold writeFabric; grind [leaveSea_spine, form_spine, State.modFabric_spine]
@[simp] theorem loupeShow_spine (x0 : State) : (loupeShow x0).spine = x0.spine := by unfold loupeShow; (repeat' split) <;> simp
@[simp] theorem openBlock_spine (x0 : CtxNo) (x1 : Bytes) (x2 : State) : (openBlock x0 x1 x2).spine = x2.spine := by unfold openBlock; (repeat' split) <;> simp
@[simp] theorem sendLeaving_spine (x0 : ℕ) (x1 : State) : (sendLeaving x0 x1).spine = x1.spine := by simp [sendLeaving]
@[simp] theorem getCert_spine (x0 : CtxNo) (x1 : State) : (getCert x0 x1).spine = x1.spine := by unfold getCert; (repeat' split) <;> simp
@[simp] theorem latchRequest_spine (x0 : CtxNo) (x1 : State) : (latchRequest x0 x1).spine = x1.spine := by unfold latchRequest; grind [pushInput_spine, State.modRing_spine]
@[simp] theorem lostItem_spine (x0 : CtxNo) (x1 : State) : (lostItem x0 x1).spine = x1.spine := by unfold lostItem; (repeat' split) <;> simp
@[simp] theorem writeRecord_spine (x0 : CtxNo) (x1 : Bytes) (x2 : State) : (writeRecord x0 x1 x2).spine = x2.spine := by unfold writeRecord; (repeat' split) <;> simp
@[simp] theorem chainEvent_spine (x0 : Bool) (x1 : CtxNo) (x2 : State) : (chainEvent x0 x1 x2).spine = x2.spine := by simp [chainEvent]
@[simp] theorem patrol_spine (x0 : ℕ) (x1 : State) : (patrol x0 x1).spine = x1.spine := by unfold patrol; dsimp only; (repeat' split) <;> simp
@[simp] theorem onesRead_spine (x0 : ℕ) (x1 : ℕ) (x2 : State) : (onesRead x0 x1 x2).spine = x2.spine := by rfl
@[simp] theorem retake_spine (x0 : State) : (retake x0).spine = x0.spine := by unfold retake; (repeat' split) <;> simp
@[simp] theorem boxRefused_spine (x0 : CtxNo) (x1 : State) : (boxRefused x0 x1).spine = x1.spine := by simp [boxRefused]
@[simp] theorem refuse_spine (x0 : ℕ) (x1 : ℕ) (x2 : State) : (refuse x0 x1 x2).spine = x2.spine := by simp [refuse]
@[simp] theorem writePort_spine (x0 : ℕ) (x1 : ℕ) (x2 : Word) (x3 : State) : (writePort x0 x1 x2 x3).spine = x3.spine := by unfold writePort; (repeat' split) <;> simp
@[simp] theorem retire_spine (x0 : ℕ) (x1 : ℕ) (x2 : State) : (retire x0 x1 x2).spine = x2.spine := by unfold retire; dsimp only; (repeat' split) <;> simp
@[simp] theorem dropBlock_spine (x0 : CtxNo) (x1 : State) : (dropBlock x0 x1).spine = x1.spine := by rfl
@[simp] theorem connect_spine (x0 : ConnectReq) (x1 : State) : (connect x0 x1).spine = x1.spine := by unfold connect; (repeat' split) <;> simp
@[simp] theorem doMset_spine (x0 : UnitNo) (x1 : BitVec 3) (x2 : Word) (x3 : State) : (doMset x0 x1 x2 x3).spine = x3.spine := by rfl
@[simp] theorem writeLoupe_spine (x0 : Word) (x1 : State) : (writeLoupe x0 x1).spine = x1.spine := by unfold writeLoupe; (repeat' split) <;> simp
@[simp] theorem castExport_spine (x0 : ℕ) (x1 : ℕ) (x2 : State) : (castExport x0 x1 x2).spine = x2.spine := by unfold castExport; grind [respond_spine, ringBytes_spine, refuse_spine]
@[simp] theorem twinReport_spine (x0 : Bytes) (x1 : State) : (twinReport x0 x1).spine = x1.spine := by unfold twinReport; (repeat' split) <;> simp
@[simp] theorem eventMsi_spine (x0 : State) : (eventMsi x0).spine = x0.spine := by unfold eventMsi; grind [State.modEvents_spine, State.emit_spine]
@[simp] theorem strAdmit_spine (x0 : Option (Bytes × Bytes)) (x1 : State) : (strAdmit x0 x1).spine = x1.spine := by unfold strAdmit; (repeat' split) <;> simp
@[simp] theorem castCtl_spine (x0 : Word) (x1 : State) : (castCtl x0 x1).spine = x1.spine := by unfold castCtl; grind [startFreeze_spine, State.modCast_spine]
@[simp] theorem twinCommit_spine (x0 : CtxNo) (x1 : DWord) (x2 : Word) (x3 : State) : (twinCommit x0 x1 x2 x3).spine = x3.spine := by unfold twinCommit; (repeat' split) <;> simp
@[simp] theorem ringRead_spine (x0 : State) : (ringRead x0).spine = x0.spine := by unfold ringRead; dsimp only; (repeat' split) <;> simp
@[simp] theorem requestChain_spine (x0 : State) : (requestChain x0).spine = x0.spine := by unfold requestChain; (repeat' split) <;> simp
@[simp] theorem raiseAt_spine (x0 : ℕ) (x1 : Option CtxNo) (x2 : ℕ) (x3 : ℕ) (x4 : Bool) (x5 : Bool) (x6 : Bytes) (x7 : State) : (raiseAt x0 x1 x2 x3 x4 x5 x6 x7).spine = x7.spine := by unfold raiseAt; grind [startFreeze_spine, sendItem_spine, withhold_spine, pushNotice_spine, State.modCmp_spine, State.modCtx_spine, State.modEvents_spine]
@[simp] theorem twinReleaseAt_spine (x0 : Word) (x1 : CtxNo) (x2 : Bool) (x3 : State) : (twinReleaseAt x0 x1 x2 x3).spine = x3.spine := by unfold twinReleaseAt; (repeat' split) <;> simp
@[simp] theorem doRqTake_spine (x0 : UnitNo) (x1 : Issue) (x2 : PortFields) (x3 : State) : (doRqTake x0 x1 x2 x3).spine = x3.spine := by simp [doRqTake]
@[simp] theorem loadKeys_spine (x0 : CtxNo) (x1 : Bytes) (x2 : State) : (loadKeys x0 x1 x2).spine = x2.spine := by unfold loadKeys; (repeat' split) <;> simp
@[simp] theorem trayPulled_spine (x0 : State) : (trayPulled x0).spine = x0.spine := by simp [trayPulled]
@[simp] theorem mgmtSwap_spine (x0 : ℕ) (x1 : Word) (x2 : State) : (mgmtSwap x0 x1 x2).spine = x2.spine := by unfold mgmtSwap; (repeat' split) <;> simp
@[simp] theorem twinAdmit_spine (x0 : Word) (x1 : GrantRecord) (x2 : State) : (twinAdmit x0 x1 x2).spine = x2.spine := by unfold twinAdmit; (repeat' split) <;> simp
@[simp] theorem latchAdmit_spine (x0 : Via) (x1 : Bytes) (x2 : Bytes) (x3 : Option (ℕ × ℕ)) (x4 : State) : (latchAdmit x0 x1 x2 x3 x4).spine = x4.spine := by unfold latchAdmit; grind [cmdDone_spine, addPending_spine]
@[simp] theorem storeLine_spine (x0 : CtxNo) (x1 : ℕ) (x2 : ℕ) (x3 : Bytes) (x4 : State) : (storeLine x0 x1 x2 x3 x4).spine = x4.spine := by unfold storeLine; (repeat' split) <;> simp
@[simp] theorem seatEffect_spine (x0 : Bool) (x1 : State) : (seatEffect x0 x1).spine = x1.spine := by unfold seatEffect; (repeat' split) <;> simp
@[simp] theorem forceAll_spine (x0 : State) : (forceAll x0).spine = x0.spine := by simp [forceAll]
@[simp] theorem doLiveClr_spine (x0 : UnitNo) (x1 : Issue) (x2 : PortFields) (x3 : State) : (doLiveClr x0 x1 x2 x3).spine = x3.spine := by unfold doLiveClr; (repeat' split) <;> simp
@[simp] theorem mgmtToken_spine (x0 : ℕ) (x1 : ℕ) (x2 : ℕ) (x3 : Word) (x4 : ℕ) (x5 : State) : (mgmtToken x0 x1 x2 x3 x4 x5).spine = x5.spine := by unfold mgmtToken; grind [setToken_spine, respond_spine, refuse_spine]
@[simp] theorem selftestRound_spine (x0 : State) : (selftestRound x0).spine = x0.spine := by unfold selftestRound; (repeat' split) <;> simp
@[simp] theorem twinInput_spine (x0 : RelayedInput) (x1 : State) : (twinInput x0 x1).spine = x1.spine := by unfold twinInput; dsimp only; (repeat' split) <;> simp
@[simp] theorem shareDue_spine (x0 : State) : (shareDue x0).spine = x0.spine := by simp [shareDue]
@[simp] theorem castImport_spine (x0 : ℕ) (x1 : ℕ) (x2 : Bytes) (x3 : State) : (castImport x0 x1 x2 x3).spine = x3.spine := by unfold castImport; (repeat' split) <;> simp
@[simp] theorem latchRelease_spine (x0 : Via) (x1 : CtxNo) (x2 : Bool) (x3 : State) : (latchRelease x0 x1 x2 x3).spine = x3.spine := by unfold latchRelease; (repeat' split) <;> simp
@[simp] theorem retryCopy_spine (x0 : ℕ) (x1 : State) : (retryCopy x0 x1).spine = x1.spine := by unfold retryCopy; (repeat' split) <;> simp
@[simp] theorem mgmtAdmit_spine (x0 : ℕ) (x1 : Bytes) (x2 : Bytes) (x3 : Option Bytes) (x4 : State) : (mgmtAdmit x0 x1 x2 x3 x4).spine = x4.spine := by unfold mgmtAdmit; dsimp only; (repeat' split) <;> simp
@[simp] theorem pkgFails_spine (x0 : CtxNo) (x1 : ℕ) (x2 : State) : (pkgFails x0 x1 x2).spine = x2.spine := by simp [pkgFails]
@[simp] theorem takeEntry_spine (x0 : CtxNo) (x1 : Bytes) (x2 : Bytes) (x3 : State) : (takeEntry x0 x1 x2 x3).spine = x3.spine := by unfold takeEntry; dsimp only; (repeat' split) <;> simp
@[simp] theorem claspSend_spine (x0 : ℕ) (x1 : State) : (claspSend x0 x1).spine = x1.spine := by unfold claspSend; dsimp only; (repeat' split) <;> simp
@[simp] theorem spareStarves_spine (x0 : ℕ) (x1 : State) : (spareStarves x0 x1).spine = x1.spine := by unfold spareStarves; (repeat' split) <;> simp
@[simp] theorem rejectPending_spine (x0 : Pending) (x1 : ℕ) (x2 : State) : (rejectPending x0 x1 x2).spine = x2.spine := by unfold rejectPending; (repeat' split) <;> simp
@[simp] theorem raiseCtx_spine (x0 : ℕ) (x1 : CtxNo) (x2 : ℕ) (x3 : Bytes) (x4 : State) : (raiseCtx x0 x1 x2 x3 x4).spine = x4.spine := by simp [raiseCtx]
@[simp] theorem rootSet_spine (x0 : ℕ) (x1 : Bytes) (x2 : Bytes) (x3 : Bytes) (x4 : State) : (rootSet x0 x1 x2 x3 x4).spine = x4.spine := by unfold rootSet; (repeat' split) <;> simp
@[simp] theorem imgPiece_spine (x0 : ℕ) (x1 : ℕ) (x2 : Bytes) (x3 : State) : (imgPiece x0 x1 x2 x3).spine = x3.spine := by unfold imgPiece; grind [State.modMgmt_spine, respond_spine, refuse_spine]
@[simp] theorem castLine_spine (x0 : State) : (castLine x0).spine = x0.spine := by unfold castLine; grind [storeLine_spine, takeSlot_spine, State.modCast_spine]
@[simp] theorem twinWithheld_spine (x0 : CtxNo) (x1 : Half) (x2 : State) : (twinWithheld x0 x1 x2).spine = x2.spine := by unfold twinWithheld; (repeat' split) <;> simp
@[simp] theorem raise_spine (x0 : ℕ) (x1 : Bytes) (x2 : State) : (raise x0 x1 x2).spine = x2.spine := by simp [raise]
@[simp] theorem castPut_spine (x0 : ℕ) (x1 : ℕ) (x2 : ℕ) (x3 : ℕ) (x4 : ℕ) (x5 : ℕ) (x6 : Word) (x7 : Bytes) (x8 : State) : (castPut x0 x1 x2 x3 x4 x5 x6 x7 x8).spine = x8.spine := by unfold castPut; grind [raise_spine, State.modCast_spine]
@[simp] theorem claspRaise_spine (x0 : ℕ) (x1 : ℕ) (x2 : State) : (claspRaise x0 x1 x2).spine = x2.spine := by simp [claspRaise]
@[simp] theorem loadFails_spine (x0 : CtxNo) (x1 : State) : (loadFails x0 x1).spine = x1.spine := by simp [loadFails]
@[simp] theorem castPacket_spine (x0 : UnitNo) (x1 : CtxNo) (x2 : Bytes) (x3 : State) : (castPacket x0 x1 x2 x3).spine = x3.spine := by unfold castPacket; (repeat' split) <;> simp
@[simp] theorem castMgmt_spine (x0 : InputKind) (x1 : ℕ) (x2 : State) : (castMgmt x0 x1 x2).spine = x2.spine := by unfold castMgmt; (repeat' split) <;> simp
@[simp] theorem scrubWrite_spine (x0 : ℕ) (x1 : State) : (scrubWrite x0 x1).spine = x1.spine := by unfold scrubWrite; (repeat' split) <;> simp
@[simp] theorem replayPacket_spine (x0 : UnitNo) (x1 : CtxNo) (x2 : Bytes) (x3 : State) : (replayPacket x0 x1 x2 x3).spine = x3.spine := by unfold replayPacket; (repeat' split) <;> simp
@[simp] theorem castInput_spine (x0 : ℕ) (x1 : ℕ) (x2 : CtxNo) (x3 : ℕ) (x4 : Bytes) (x5 : State) : (castInput x0 x1 x2 x3 x4 x5).spine = x5.spine := by unfold castInput; (repeat' split) <;> simp
@[simp] theorem guardContext_spine (x0 : UnitNo) (x1 : UnitNo) (x2 : Bytes) (x3 : CtxNo) (x4 : State) : (guardContext x0 x1 x2 x3 x4).spine = x4.spine := by unfold guardContext; (repeat' split) <;> simp
@[simp] theorem kxFinish_spine (x0 : CtxNo) (x1 : State) : (kxFinish x0 x1).spine = x1.spine := by unfold kxFinish; (repeat' split) <;> simp
@[simp] theorem oppForce_spine (x0 : State) : (oppForce x0).spine = x0.spine := by unfold oppForce; (repeat' split) <;> simp
@[simp] theorem epochReported_spine (x0 : Word) (x1 : State) : (epochReported x0 x1).spine = x1.spine := by unfold epochReported; dsimp only; (repeat' split) <;> simp
@[simp] theorem resyncStalled_spine (x0 : State) : (resyncStalled x0).spine = x0.spine := by unfold resyncStalled; (repeat' split) <;> simp
@[simp] theorem beginJoin_spine (x0 : ℕ) (x1 : State) : (beginJoin x0 x1).spine = x1.spine := by unfold beginJoin; (repeat' split) <;> simp
@[simp] theorem sourceLost_spine (x0 : State) : (sourceLost x0).spine = x0.spine := by simp [sourceLost]
@[simp] theorem counterMismatch_spine (x0 : State) : (counterMismatch x0).spine = x0.spine := by simp [counterMismatch]
@[simp] theorem channelStop_spine (x0 : ℕ) (x1 : State) : (channelStop x0 x1).spine = x1.spine := by unfold channelStop; (repeat' split) <;> simp
@[simp] theorem fetchRequest_spine (x0 : CtxNo) (x1 : FetchReply) (x2 : State) : (fetchRequest x0 x1 x2).spine = x2.spine := by unfold fetchRequest; dsimp only; (repeat' split) <;> simp
@[simp] theorem mismatch_spine (x0 : CtxNo) (x1 : ℕ) (x2 : ℕ) (x3 : DWord) (x4 : State) : (mismatch x0 x1 x2 x3 x4).spine = x4.spine := by unfold mismatch; dsimp only; (repeat' split) <;> simp
@[simp] theorem srecFormat_spine (x0 : CtxNo) (x1 : State) : (srecFormat x0 x1).spine = x1.spine := by simp [srecFormat]
@[simp] theorem segFault_spine (x0 : CtxNo) (x1 : UnitNo) (x2 : ℕ) (x3 : ℤ) (x4 : State) : (segFault x0 x1 x2 x3 x4).spine = x4.spine := by simp [segFault]
@[simp] theorem applyHostWrite_spine (x0 : ℕ) (x1 : ℕ) (x2 : Bytes) (x3 : List (ℕ × ℕ × Bytes × Bytes)) (x4 : ℕ) (x5 : ℕ) (x6 : State) : (applyHostWrite x0 x1 x2 x3 x4 x5 x6).spine = x6.spine := by unfold applyHostWrite; dsimp only; (repeat' split) <;> simp
@[simp] theorem followerCell_spine (x0 : ℕ) (x1 : ℕ) (x2 : ℕ) (x3 : State) : (followerCell x0 x1 x2 x3).spine = x3.spine := by unfold followerCell; (repeat' split) <;> simp
@[simp] theorem repairLine_spine (x0 : ℕ) (x1 : Bytes) (x2 : State) : (repairLine x0 x1 x2).spine = x2.spine := by unfold repairLine; grind [State.modChan_spine, storeLine_spine, takeSlot_spine]
@[simp] theorem requestFault_spine (x0 : State) : (requestFault x0).spine = x0.spine := by rfl
@[simp] theorem linkDown_spine (x0 : State) : (linkDown x0).spine = x0.spine := by unfold linkDown; (repeat' split) <;> simp
@[simp] theorem replaceAgain_spine (x0 : State) : (replaceAgain x0).spine = x0.spine := by unfold replaceAgain; (repeat' split) <;> simp
@[simp] theorem leadCell_spine (x0 : ℕ) (x1 : ℕ) (x2 : ℕ) (x3 : Word) (x4 : State) : (leadCell x0 x1 x2 x3 x4).spine = x4.spine := by unfold leadCell; dsimp only; (repeat' split) <;> simp
@[simp] theorem hmConfirm_spine (x0 : State) : (hmConfirm x0).spine = x0.spine := by unfold hmConfirm; grind [State.modHm_spine, raise_spine, State.modLocket_spine]
@[simp] theorem applyRequest_spine (x0 : CtxNo) (x1 : Bytes) (x2 : ℕ) (x3 : State) : (applyRequest x0 x1 x2 x3).spine = x3.spine := by unfold applyRequest; (repeat' split) <;> simp
@[simp] theorem deliverRecord_spine (x0 : CtxNo) (x1 : State) : (deliverRecord x0 x1).spine = x1.spine := by unfold deliverRecord; dsimp only; (repeat' split) <;> simp
@[simp] theorem mailPackage_spine (x0 : CtxNo) (x1 : State) : (mailPackage x0 x1).spine = x1.spine := by unfold mailPackage; grind [State.modSec_spine, sendKeys_spine, boxDone_spine, pkgFails_spine]
@[simp] theorem readSegLine_spine (x0 : ℕ) (x1 : UnitNo) (x2 : CtxNo) (x3 : ℕ) (x4 : ℤ) (x5 : State) : (readSegLine x0 x1 x2 x3 x4 x5).2.spine = x5.spine := by unfold readSegLine; grind [segFault_spine, readLine_spine, lineUe_spine]
@[simp] theorem readSeg_spine (x0 : ℕ) (x1 : UnitNo) (x2 : CtxNo) (x3 : ℕ) (x4 : ℤ) (x5 : ℕ) (x6 : State) : (readSeg x0 x1 x2 x3 x4 x5 x6).2.spine = x6.spine := by unfold readSeg; (repeat' split) <;> simp
@[simp] theorem powerStep_spine (x0 : State) : (powerStep x0).spine = x0.spine := by unfold powerStep; dsimp only; (repeat' split) <;> simp
@[simp] theorem ownFault_spine (x0 : CtxNo) (x1 : UnitNo) (x2 : ℤ) (x3 : State) : (ownFault x0 x1 x2 x3).spine = x3.spine := by simp [ownFault]
@[simp] theorem joinConverge_spine (x0 : State) : (joinConverge x0).spine = x0.spine := by unfold joinConverge; (repeat' split) <;> simp
@[simp] theorem mr4Read_spine (x0 : ℕ) (x1 : BitVec 3) (x2 : State) : (mr4Read x0 x1 x2).spine = x2.spine := by unfold mr4Read; grind [State.modChan_spine, oppForce_spine]
@[simp] theorem requestBegin_spine (x0 : Bytes) (x1 : ℕ) (x2 : State) : (requestBegin x0 x1 x2).spine = x2.spine := by simp [requestBegin]
@[simp] theorem coolWatch_spine (x0 : State) : (coolWatch x0).spine = x0.spine := by unfold coolWatch; grind [State.modThermal_spine, raise_spine]
@[simp] theorem requestRead_spine (x0 : ℕ) (x1 : SigRequest) (x2 : State) : (requestRead x0 x1 x2).spine = x2.spine := by unfold requestRead; grind [State.modSig_spine, requestFault_spine, readLine_spine, lineUe_spine]
@[simp] theorem verifyDone_spine (x0 : CtxNo) (x1 : State) : (verifyDone x0 x1).spine = x1.spine := by unfold verifyDone; grind [modPending_spine, rejectPending_spine]
@[simp] theorem splitWait_spine (x0 : State) : (splitWait x0).spine = x0.spine := by simp [splitWait]
@[simp] theorem writeSegLine_spine (x0 : ℕ) (x1 : UnitNo) (x2 : CtxNo) (x3 : ℕ) (x4 : ℤ) (x5 : Bytes) (x6 : State) : (writeSegLine x0 x1 x2 x3 x4 x5 x6).spine = x6.spine := by unfold writeSegLine; (repeat' split) <;> simp
@[simp] theorem compareSignets_spine (x0 : SignetItem) (x1 : SignetItem) (x2 : State) : (compareSignets x0 x1 x2).spine = x2.spine := by unfold compareSignets; (repeat' split) <;> simp
@[simp] theorem scrubDone_spine (x0 : CtxNo) (x1 : State) : (scrubDone x0 x1).spine = x1.spine := by unfold scrubDone; (repeat' split) <;> simp
@[simp] theorem freezeDone_spine (x0 : State) : (freezeDone x0).spine = x0.spine := by unfold freezeDone; (repeat' split) <;> simp
@[simp] theorem partnerSilent_spine (x0 : State) : (partnerSilent x0).spine = x0.spine := by unfold partnerSilent; dsimp only; (repeat' split) <;> simp
@[simp] theorem claspRaiseOwner_spine (x0 : ℕ) (x1 : ℕ) (x2 : State) : (claspRaiseOwner x0 x1 x2).spine = x2.spine := by unfold claspRaiseOwner; grind [raiseAt_spine, claspRaise_spine]
@[simp] theorem cueInvalid_spine (x0 : UnitNo) (x1 : CtxNo) (x2 : Option (BitVec 128)) (x3 : ℕ) (x4 : State) : (cueInvalid x0 x1 x2 x3 x4).spine = x4.spine := by simp [cueInvalid]
@[simp] theorem fabRaise_spine (x0 : ℕ) (x1 : ℕ) (x2 : ℕ) (x3 : ℕ) (x4 : ℕ) (x5 : State) : (fabRaise x0 x1 x2 x3 x4 x5).spine = x5.spine := by simp [fabRaise]
@[simp] theorem commitRecord_spine (x0 : CtxNo) (x1 : Bytes) (x2 : State) : (commitRecord x0 x1 x2).spine = x2.spine := by unfold commitRecord; grind [srecFormat_spine, loseRecord_spine, chainEvent_spine, cancelRows_spine, State.modRing_spine]
@[simp] theorem strapChange_spine (x0 : BitVec 3) (x1 : State) : (strapChange x0 x1).spine = x1.spine := by unfold strapChange; grind [State.modStartup_spine, raise_spine]
@[simp] theorem applyIndex_spine (x0 : ℕ) (x1 : Word) (x2 : ℕ) (x3 : State) : (applyIndex x0 x1 x2 x3).spine = x3.spine := by unfold applyIndex; dsimp only; (repeat' split) <;> simp
@[simp] theorem replayFeed_spine (x0 : State) : (replayFeed x0).spine = x0.spine := by unfold replayFeed; dsimp only; (repeat' split) <;> simp
@[simp] theorem refusePair_spine (x0 : ℕ) (x1 : State) : (refusePair x0 x1).spine = x1.spine := by unfold refusePair; (repeat' split) <;> simp
@[simp] theorem hmLoader_spine (x0 : State) : (hmLoader x0).spine = x0.spine := by unfold hmLoader; (repeat' split) <;> simp
@[simp] theorem acceptDebug_spine (x0 : Bytes) (x1 : State) : (acceptDebug x0 x1).spine = x1.spine := by simp [acceptDebug]
@[simp] theorem oppJudge_spine (x0 : ℕ) (x1 : State) : (oppJudge x0 x1).spine = x1.spine := by unfold oppJudge; (repeat' split) <;> simp
@[simp] theorem writeSeg_spine (x0 : UnitNo) (x1 : CtxNo) (x2 : ℕ) (x3 : ℤ) (x4 : Bytes) (x5 : State) : (writeSeg x0 x1 x2 x3 x4 x5).2.spine = x5.spine := by unfold writeSeg; (repeat' split) <;> simp
@[simp] theorem applyCancel_spine (x0 : CtxNo) (x1 : DWord) (x2 : ℕ) (x3 : State) : (applyCancel x0 x1 x2 x3).spine = x3.spine := by unfold applyCancel; dsimp only; (repeat' split) <;> simp
@[simp] theorem promotionDone_spine (x0 : State) : (promotionDone x0).spine = x0.spine := by unfold promotionDone; dsimp only; (repeat' split) <;> simp
@[simp] theorem quiesceCheck_spine (x0 : State) : (quiesceCheck x0).spine = x0.spine := by unfold quiesceCheck; (repeat' split) <;> simp
@[simp] theorem apertureEvent_spine (x0 : ℕ) (x1 : ℕ) (x2 : State) : (apertureEvent x0 x1 x2).spine = x2.spine := by rfl
@[simp] theorem confirmPromotion_spine (x0 : State) : (confirmPromotion x0).spine = x0.spine := by unfold confirmPromotion; (repeat' split) <;> simp
@[simp] theorem oppRequest_spine (x0 : Word) (x1 : State) : (oppRequest x0 x1).spine = x1.spine := by unfold oppRequest; grind [State.modClock_spine, oppJudge_spine]
@[simp] theorem theirSignet_spine (x0 : SignetItem) (x1 : State) : (theirSignet x0 x1).spine = x1.spine := by unfold theirSignet; (repeat' split) <;> simp
@[simp] theorem readStoreSeg_spine (x0 : ℕ) (x1 : UnitNo) (x2 : CtxNo) (x3 : ℕ) (x4 : ℤ) (x5 : ℕ) (x6 : State) : (readStoreSeg x0 x1 x2 x3 x4 x5 x6).2.spine = x6.spine := by unfold readStoreSeg; (repeat' split) <;> simp
@[simp] theorem hmAutoConfirm_spine (x0 : State) : (hmAutoConfirm x0).spine = x0.spine := by unfold hmAutoConfirm; (repeat' split) <;> simp
@[simp] theorem frameGood_spine (x0 : ℕ) (x1 : ClaspArrival) (x2 : State) : (frameGood x0 x1 x2).spine = x2.spine := by unfold frameGood; dsimp only; (repeat' split) <;> simp
@[simp] theorem crystalFails_spine (x0 : State) : (crystalFails x0).spine = x0.spine := by unfold crystalFails; dsimp only; (repeat' split) <;> simp
@[simp] theorem loadComplete_spine (x0 : CtxNo) (x1 : State) : (loadComplete x0 x1).spine = x1.spine := by unfold loadComplete; grind [State.modSec_spine, loadFails_spine]
@[simp] theorem writeLineReq_spine (x0 : UnitKind) (x1 : UnitNo) (x2 : LineReq) (x3 : EngStep) (x4 : State) : (writeLineReq x0 x1 x2 x3 x4).spine = x4.spine := by unfold writeLineReq; (repeat' split) <;> simp
@[simp] theorem doWrite_spine (x0 : UnitNo) (x1 : Issue) (x2 : MemFields) (x3 : State) : (doWrite x0 x1 x2 x3).spine = x3.spine := by unfold doWrite; dsimp only; (repeat' split) <;> simp
@[simp] theorem claspChange_spine (x0 : ℕ) (x1 : ClaspState) (x2 : State) : (claspChange x0 x1 x2).spine = x2.spine := by unfold claspChange; grind [State.modClasp_spine, claspRaiseOwner_spine, claspRaise_spine]
@[simp] theorem signetMissing_spine (x0 : CtxNo) (x1 : State) : (signetMissing x0 x1).spine = x1.spine := by unfold signetMissing; (repeat' split) <;> simp
@[simp] theorem closeWindow_spine (x0 : UnitNo) (x1 : State) : (closeWindow x0 x1).spine = x1.spine := by unfold closeWindow; grind [State.setSeq_spine, cueInvalid_spine]
@[simp] theorem fabRecv_spine (x0 : UnitNo) (x1 : Issue) (x2 : ℤ) (x3 : ℕ) (x4 : ℕ) (x5 : State) : (fabRecv x0 x1 x2 x3 x4 x5).spine = x5.spine := by unfold fabRecv; grind [portWrite_spine, fabRaise_spine, noteSilence_spine, State.modFabric_spine, raiseCtx_spine, castPacket_spine, replayPacket_spine]
@[simp] theorem listenEnd_spine (x0 : PairHeard) (x1 : State) : (listenEnd x0 x1).spine = x1.spine := by unfold listenEnd; grind [newLead_spine, State.modOver_spine, refusePair_spine, State.modTwin_spine, beginJoin_spine]
@[simp] theorem fabUnclaimed_spine (x0 : State) : (fabUnclaimed x0).spine = x0.spine := by simp [fabUnclaimed]
@[simp] theorem beginCue_spine (x0 : UnitNo) (x1 : CtxNo) (x2 : ℕ) (x3 : State) : (beginCue x0 x1 x2 x3).spine = x3.spine := by unfold beginCue; grind [State.setSeq_spine, countUse_spine, cueInvalid_spine]
@[simp] theorem writeOwn_spine (x0 : UnitNo) (x1 : CtxNo) (x2 : ℤ) (x3 : ℕ) (x4 : List (ℕ × Bytes)) (x5 : State) : (writeOwn x0 x1 x2 x3 x4 x5).2.spine = x5.spine := by unfold writeOwn; (repeat' split) <;> simp
@[simp] theorem promotionForced_spine (x0 : State) : (promotionForced x0).spine = x0.spine := by unfold promotionForced; (repeat' split) <;> simp
@[simp] theorem doFrecv_spine (x0 : UnitNo) (x1 : Issue) (x2 : PortFields) (x3 : State) : (doFrecv x0 x1 x2 x3).spine = x3.spine := by simp [doFrecv]
@[simp] theorem packetArrives_spine (x0 : ℕ) (x1 : Bytes) (x2 : ℕ) (x3 : State) : (packetArrives x0 x1 x2 x3).spine = x3.spine := by unfold packetArrives; dsimp only; (repeat' split) <;> simp
@[simp] theorem doRound_spine (x0 : UnitNo) (x1 : Issue) (x2 : RoundFields) (x3 : State) : (doRound x0 x1 x2 x3).spine = x3.spine := by unfold doRound; (repeat' split) <;> simp
@[simp] theorem readOwn_spine (x0 : ℕ) (x1 : UnitNo) (x2 : CtxNo) (x3 : ℤ) (x4 : ℕ) (x5 : State) : (readOwn x0 x1 x2 x3 x4 x5).2.spine = x5.spine := by unfold readOwn; (repeat' split) <;> simp
@[simp] theorem writeStoreSeg_spine (x0 : UnitNo) (x1 : CtxNo) (x2 : ℕ) (x3 : ℤ) (x4 : Bytes) (x5 : State) : (writeStoreSeg x0 x1 x2 x3 x4 x5).2.spine = x5.spine := by unfold writeStoreSeg; (repeat' split) <;> simp
@[simp] theorem missHeartbeat_spine (x0 : State) : (missHeartbeat x0).spine = x0.spine := by unfold missHeartbeat; dsimp only; (repeat' split) <;> simp
@[simp] theorem claspCount_spine (x0 : ℕ) (x1 : State) : (claspCount x0 x1).spine = x1.spine := by unfold claspCount; grind [State.fresh_spine, State.modClasp_spine, claspChange_spine]
@[simp] theorem homeWord_spine (x0 : UnitNo) (x1 : Issue) (x2 : ℤ) (x3 : State) : (homeWord x0 x1 x2 x3).2.spine = x3.spine := by unfold homeWord; dsimp only; (repeat' split) <;> simp
@[simp] theorem ownSignet_spine (x0 : SignetItem) (x1 : State) : (ownSignet x0 x1).spine = x1.spine := by unfold ownSignet; dsimp only; (repeat' split) <;> simp
@[simp] theorem doRead_spine (x0 : UnitNo) (x1 : Issue) (x2 : MemFields) (x3 : State) : (doRead x0 x1 x2 x3).spine = x3.spine := by unfold doRead; dsimp only; (repeat' split) <;> simp
@[simp] theorem claspReceive_spine (x0 : ℕ) (x1 : ClaspArrival) (x2 : State) : (claspReceive x0 x1 x2).spine = x2.spine := by unfold claspReceive; dsimp only; (repeat' split) <;> simp
@[simp] theorem readElems_spine (x0 : UnitNo) (x1 : Issue) (x2 : ℕ) (x3 : BitVec 16) (x4 : BitVec 6) (x5 : Fmt) (x6 : State) : (readElems x0 x1 x2 x3 x4 x5 x6).2.spine = x6.spine := by simp [readElems]
@[simp] theorem startRef_spine (x0 : UnitKind) (x1 : UnitNo) (x2 : EngStep) (x3 : State) : (startRef x0 x1 x2 x3).2.spine = x3.spine := by unfold startRef; dsimp only; (repeat' split) <;> simp
@[simp] theorem hostWriteArrives_spine (x0 : ℕ) (x1 : Bytes) (x2 : Bool) (x3 : State) : (hostWriteArrives x0 x1 x2 x3).spine = x3.spine := by unfold hostWriteArrives; dsimp only; (repeat' split) <;> simp
@[simp] theorem signetDone_spine (x0 : SignetItem) (x1 : State) : (signetDone x0 x1).spine = x1.spine := by unfold signetDone; grind [ownSignet_spine, raise_spine, castPut_spine]
@[simp] theorem doSrecPut_spine (x0 : UnitNo) (x1 : Issue) (x2 : PortFields) (x3 : State) : (doSrecPut x0 x1 x2 x3).spine = x3.spine := by unfold doSrecPut; dsimp only; (repeat' split) <;> simp
@[simp] theorem claspLatch_spine (x0 : ℕ) (x1 : State) : (claspLatch x0 x1).spine = x1.spine := by unfold claspLatch; dsimp only; (repeat' split) <;> simp
@[simp] theorem moveInto_spine (x0 : ℕ) (x1 : UnitNo) (x2 : CtxNo) (x3 : ℕ) (x4 : ℤ) (x5 : Bytes) (x6 : State) : (moveInto x0 x1 x2 x3 x4 x5 x6).spine = x6.spine := by unfold moveInto; (repeat' split) <;> simp
@[simp] theorem claspSignetDone_spine (x0 : ℕ) (x1 : State) : (claspSignetDone x0 x1).spine = x1.spine := by unfold claspSignetDone; (repeat' split) <;> simp
@[simp] theorem doCrecv_spine (x0 : UnitNo) (x1 : Issue) (x2 : PortFields) (x3 : State) : (doCrecv x0 x1 x2 x3).spine = x3.spine := by unfold doCrecv; grind [State.modClasp_spine, State.later_spine, claspLatch_spine]
@[simp] theorem vecCodes_spine (x0 : VOp) (x1 : UnitNo) (x2 : Issue) (x3 : VecFields) (x4 : State) : (vecCodes x0 x1 x2 x3 x4).2.spine = x4.spine := by unfold vecCodes; (repeat' split) <;> simp
@[simp] theorem doMload_spine (x0 : UnitNo) (x1 : Issue) (x2 : BitVec 3) (x3 : BitVec 20) (x4 : BitVec 6) (x5 : BitVec 1) (x6 : BitVec 8) (x7 : State) : (doMload x0 x1 x2 x3 x4 x5 x6 x7).spine = x7.spine := by simp [doMload]
@[simp] theorem doLsumOut_spine (x0 : UnitNo) (x1 : Issue) (x2 : LsumOutFields) (x3 : State) : (doLsumOut x0 x1 x2 x3).spine = x3.spine := by simp [doLsumOut]
@[simp] theorem doVec_spine (x0 : VOp) (x1 : UnitNo) (x2 : Issue) (x3 : VecFields) (x4 : State) : (doVec x0 x1 x2 x3 x4).spine = x4.spine := by simp [doVec]
@[simp] theorem requestComplete_spine (x0 : SigRequest) (x1 : State) : (requestComplete x0 x1).spine = x1.spine := by simp [requestComplete]
@[simp] theorem doFill_spine (x0 : UnitNo) (x1 : Issue) (x2 : MoveFields) (x3 : State) : (doFill x0 x1 x2 x3).spine = x3.spine := by simp [doFill]
@[simp] theorem signRecord_spine (x0 : CtxNo) (x1 : Committed) (x2 : State) : (signRecord x0 x1 x2).spine = x2.spine := by unfold signRecord; (repeat' split) <;> simp
@[simp] theorem signetEngine_spine (x0 : ℕ) (x1 : State) : (signetEngine x0 x1).spine = x1.spine := by unfold signetEngine; (repeat' split) <;> simp
@[simp] theorem nameBoundary_spine (x0 : Pending) (x1 : State) : (nameBoundary x0 x1).spine = x1.spine := by unfold nameBoundary; grind [modPending_spine, sendAdmit_spine]

@[simp] theorem spine_mk (grade : Nat) (steppings : List (BitVec 4)) (sealed : Bool) (bead : Nat) (beadInRot : Nat) (rotLen : Nat) (period : Word) (rotCount : Nat) (rotDone : Bool) (beadShadow : Option Word) (headShadow : Option Word) (spares : List SpareDie) (cells : CellArrays) (seqs : List (UnitNo × Seq)) (engines : List (UnitNo × EngStep)) (rowStats : List (UnitNo × List (Word × Word))) (effects : List Effect) (drives : List Drive) (ctxs : List Ctx) (strands : StrandBlock) (store : List Host.Cell) (lp4x : List Host.Cell) (lp4xCheck : List Host.Cell) (replaced : List OldLine) (bad : List Nat) (bezel : Bezel) (rows : List (Nat × Row)) (live : List (Nat × LiveWord)) (rings : List Ring) (sends : List (CtxNo × Nat × Bytes)) (claspRate : Nat) (clasps : List Clasp) (cast : Cast) (signets : Signets) (pair : Pair) (fabric : Fabric) (clock : Clock) (power : Power) (thermal : Thermal) (locket : Locket) (mgmt : Mgmt) (health : HealthSources) (events : Events) (startup : Startup) (ports : Ports) (inbox : List Input) (out : List Output) (free : Nat) (pending : List Instr) :
    (State.mk grade steppings sealed bead beadInRot rotLen period rotCount rotDone beadShadow headShadow spares cells seqs engines rowStats effects drives ctxs strands store lp4x lp4xCheck replaced bad bezel rows live rings sends claspRate clasps cast signets pair fabric clock power thermal locket mgmt health events startup ports inbox out free pending).spine = ⟨grade, steppings, bead, beadInRot, rotLen, period, rotCount, pending, ctxs.length, rings.length, clasps.length, bezel.channels.length⟩ := rfl
@[simp] theorem spine_fold (s : State) : Spine.mk s.grade s.steppings s.bead s.beadInRot s.rotLen s.period s.rotCount s.pending
    s.ctxs.length s.rings.length s.clasps.length s.bezel.channels.length = s.spine := rfl

end Sys2Proof.Machine
end

