-- ==== Sys2Proof/Laws/SpineMore.lean ====
section
/-! SUPPORT. The functions that leave the spine as it was and whose lemma is not one rewriting. -/

namespace Sys2Proof.Machine

@[simp] theorem takeLive_spine (c : CtxNo) (w : Nat) (b : Bytes) (s : State) : (takeLive c w b s).spine = s.spine := by
  unfold takeLive
  refine (foldl_spine _ (fun t i => ?_) _ _).trans rfl
  dsimp only
  split <;> rfl
@[simp] theorem swapNow_spine (x0 : ℕ) (x1 : State) : (swapNow x0 x1).spine = x1.spine := by unfold swapNow; (repeat' split) <;> simp
@[simp] theorem readRegs_spine (o n : Nat) (s : State) : (readRegs o n s).2.spine = s.spine := by
  induction n generalizing o s with
  | zero => rfl
  | succ n ih => unfold readRegs; dsimp only; rw [ih, readEffect_spine]
@[simp] theorem relayGrants_spine (s : State) : (relayGrants s).spine = s.spine := by
  unfold relayGrants
  refine foldl_spine _ (fun t x => ?_) _ _
  dsimp only
  split <;> simp
@[simp] theorem clearLive_spine (x0 : CtxNo) (x1 : State) : (clearLive x0 x1).spine = x1.spine := by simp [clearLive]
@[simp] theorem rejoinDue_spine (x0 : State) : (rejoinDue x0).spine = x0.spine := by unfold rejoinDue; dsimp only; (repeat' split) <;> simp
@[simp] theorem writeLocked_spine (x0 : ℕ) (x1 : Word) (x2 : State) : (writeLocked x0 x1 x2).spine = x2.spine := by unfold writeLocked; (repeat' split) <;> simp
@[simp] theorem takeCtx_spine (c : CtxNo) (b : Bytes) (s : State) : (takeCtx c b s).spine = s.spine := by
  unfold takeCtx
  dsimp only
  rw [foldl_spine _ (fun t w => takeLive_spine _ _ _ _), State.modCtx_spine, foldl_spine, State.modRing_spine]
  intro t p
  repeat' split
  all_goals first | rfl | simp
@[simp] theorem readPosted_spine (x0 : ℕ) (x1 : ℕ) (x2 : ℕ) (x3 : State) : (readPosted x0 x1 x2 x3).2.2.spine = x3.spine := by unfold readPosted; dsimp only; (repeat' split) <;> simp
/-- A protected command leaves the spine as it was where its own work does. -/
theorem boxProtected_spine (c : CtxNo) (n : Nat) (f : Bytes → State → Bytes × State) (s : State)
    (h : ∀ q t, (f q t).2.spine = t.spine) : (boxProtected c n f s).spine = s.spine := by
  unfold boxProtected
  dsimp only
  repeat' split
  all_goals simp [h]
@[simp] theorem spareSwap_spine (x0 : ℕ) (x1 : State) : (spareSwap x0 x1).spine = x1.spine := by unfold spareSwap; (repeat' split) <;> simp
@[simp] theorem sendLanes_spine (k n : Nat) (b : Bytes) (s : State) : (sendLanes k n b s).spine = s.spine := by
  unfold sendLanes
  refine (foldl_spine _ (fun t w => ?_) _ _).trans rfl
  dsimp only
  split <;> rfl
@[simp] theorem sendCell_spine (s : State) : (sendCell s).spine = s.spine := by
  unfold sendCell
  dsimp only
  split
  · rw [State.modLink_spine, sendLanes_spine]; rfl
  · rfl
@[simp] theorem withdrawCommits_spine (s : State) : (withdrawCommits s).spine = s.spine := by
  unfold withdrawCommits
  refine foldl_spine _ (fun t c => ?_) _ _
  split
  · exact foldl_spine _ (fun v x => loseEntry_spine _ _ _) _ _
  · rfl
@[simp] theorem openWindows_spine (c : CtxNo) (s : State) : (openWindows c s).spine = s.spine := by
  unfold openWindows
  split
  · refine foldl_spine _ (fun t x => ?_) _ _
    split <;> simp
  · rfl
@[simp] theorem performRead_spine (x0 : ℕ) (x1 : ℕ) (x2 : ℕ) (x3 : ℕ) (x4 : ℕ) (x5 : State) : (performRead x0 x1 x2 x3 x4 x5).spine = x5.spine := by unfold performRead; dsimp only; (repeat' split) <;> simp
@[simp] theorem sendPacket_spine (k : Nat) (b : Bytes) (s : State) : (sendPacket k b s).spine = s.spine := by
  unfold sendPacket
  rw [sendLanes_spine]; rfl
@[simp] theorem putGranule_spine (c : CtxNo) (a : Nat) (b : Bytes) (s : State) : (putGranule c a b s).spine = s.spine := by
  unfold putGranule
  split
  · simp
  · split
    · simp
    · refine foldl_spine _ (fun t x => ?_) _ _
      dsimp only
      split
      · simp
      · rfl
@[simp] theorem sendProbes_spine (s : State) : (sendProbes s).spine = s.spine := by
  unfold sendProbes
  split
  · exact foldl_spine _ (fun t m => foldl_spine _ (fun v p => sendPacket_spine _ _ _) _ _) _ _
  · rfl
@[simp] theorem mailEnd_spine (c : CtxNo) (s : State) : (mailEnd c s).spine = s.spine := by
  unfold mailEnd
  split
  · simp
  · exact boxProtected_spine _ _ _ _ fun _ _ => endSession_spine _ _
@[simp] theorem formResult_spine (x0 : UnitKind) (x1 : UnitNo) (x2 : EngStep) (x3 : State) : (formResult x0 x1 x2 x3).2.spine = x3.spine := by unfold formResult; dsimp only; (repeat' split) <;> simp
@[simp] theorem sendPackets_spine (x0 : State) : (sendPackets x0).spine = x0.spine := by simp [sendPackets]
@[simp] theorem fabSend_spine (x0 : UnitNo) (x1 : Issue) (x2 : PortFields) (x3 : State) : (fabSend x0 x1 x2 x3).spine = x3.spine := by unfold fabSend; dsimp only; (repeat' split) <;> simp
@[simp] theorem castRole_spine (r : Role) (b : Nat) (s : State) : (castRole r b s).spine = s.spine := by
  unfold castRole
  split
  · rfl
  · dsimp only
    refine (foldl_spine _ (fun t c => ?_) _ _).trans rfl
    split <;> simp
@[simp] theorem finishStep_spine (x0 : UnitKind) (x1 : UnitNo) (x2 : EngStep) (x3 : State) : (finishStep x0 x1 x2 x3).spine = x3.spine := by unfold finishStep; dsimp only; (repeat' split) <;> simp
@[simp] theorem judgeHealth_spine (x0 : ℕ) (x1 : State) : (judgeHealth x0 x1).spine = x1.spine := by unfold judgeHealth; dsimp only; (repeat' split) <;> simp
@[simp] theorem formStep_spine (x0 : UnitKind) (x1 : UnitNo) (x2 : EngStep) (x3 : State) : (formStep x0 x1 x2 x3).2.spine = x3.spine := by unfold formStep; dsimp only; (repeat' split) <;> simp
@[simp] theorem oppTake_spine (l : List Nat) (s : State) : (oppTake l s).spine = s.spine := by
  induction l generalizing s with
  | nil => rfl
  | cons t r ih =>
    unfold oppTake
    dsimp only
    split <;> simp [ih]
@[simp] theorem oppOver_spine (t : Nat) (s : State) : (oppOver t s).spine = s.spine := by
  unfold oppOver
  dsimp only
  rw [oppTake_spine]; rfl
@[simp] theorem facetTest_spine (l : List Nat) (s : State) : (facetTest l s).spine = s.spine := by
  unfold facetTest
  split
  · extract_lets t
    have h : t.spine = s.spine := by
      refine (judgeHealth_spine _ _).trans (foldl_spine _ (fun t p => ?_) _ _)
      split <;> simp
    clear_value t
    split
    · rw [State.modStartup_spine, setStep_spine, h]
    · rw [setStep_spine, h]
  · rfl
@[simp] theorem moveSource_spine (d : Nat) (u : UnitNo) (c : CtxNo) (g : Nat) (o : Int) (n : Nat) (s : State) :
    (moveSource d u c g o n s).2.spine = s.spine := by
  unfold moveSource
  split
  · simp
  · simp
@[simp] theorem oppStep_spine (x0 : State) : (oppStep x0).spine = x0.spine := by unfold oppStep; (repeat' split) <;> simp
@[simp] theorem readSegLineAt_spine (x0 : ℕ) (x1 : UnitNo) (x2 : CtxNo) (x3 : ℕ) (x4 : ℤ) (x5 : State) : (readSegLineAt x0 x1 x2 x3 x4 x5).2.spine = x5.spine := by unfold readSegLineAt; dsimp only; (repeat' split) <;> simp
@[simp] theorem receiveCell_spine (x0 : Bytes) (x1 : State) : (receiveCell x0 x1).spine = x1.spine := by unfold receiveCell; dsimp only; (repeat' split) <;> simp
@[simp] theorem setHealth_spine (x0 : HealthSources → HealthSources) (x1 : ℕ) (x2 : State) : (setHealth x0 x1 x2).spine = x2.spine := by simp [setHealth]
@[simp] theorem facetFails_spine (x0 : ℕ) (x1 : ℕ) (x2 : State) : (facetFails x0 x1 x2).spine = x2.spine := by simp [facetFails]
@[simp] theorem quiesceEffect_spine (a : Bool) (s : State) : (quiesceEffect a s).spine = s.spine := by
  unfold quiesceEffect
  split
  · rw [quiesceCheck_spine]
    refine foldl_spine _ (fun t c => ?_) _ _
    dsimp only
    repeat' split
    all_goals simp
  · dsimp only
    split
    · rw [joinFrom_spine]; rfl
    · rfl
@[simp] theorem unitFails_spine (x0 : UnitNo) (x1 : State) : (unitFails x0 x1).spine = x1.spine := by simp [unitFails]
@[simp] theorem packageActs_spine (x0 : ℕ) (x1 : Sensor) (x2 : Sensor) (x3 : State) : (packageActs x0 x1 x2 x3).spine = x3.spine := by unfold packageActs; dsimp only; (repeat' split) <;> simp
@[simp] theorem doLsumIn_spine (x0 : UnitNo) (x1 : Issue) (x2 : LsumInFields) (x3 : State) : (doLsumIn x0 x1 x2 x3).spine = x3.spine := by simp [doLsumIn]
@[simp] theorem doMac_spine (x0 : Bool) (x1 : UnitNo) (x2 : Issue) (x3 : MacFields) (x4 : State) : (doMac x0 x1 x2 x3 x4).spine = x4.spine := by unfold doMac; dsimp only; (repeat' split) <;> simp
@[simp] theorem huntDone_spine (x0 : CtxNo) (x1 : Bool) (x2 : State) : (huntDone x0 x1 x2).spine = x2.spine := by unfold huntDone; dsimp only; (repeat' split) <;> simp
@[simp] theorem performAccess_spine (x0 : ℕ) (x1 : ℕ × HostAccess) (x2 : State) : (performAccess x0 x1 x2).spine = x2.spine := by unfold performAccess; dsimp only; (repeat' split) <;> simp
@[simp] theorem heartbeatDue_spine (x0 : State) : (heartbeatDue x0).spine = x0.spine := by unfold heartbeatDue; (repeat' split) <;> simp
@[simp] theorem guardPair_spine (x0 : Drive) (x1 : Drive) (x2 : State) : (guardPair x0 x1 x2).spine = x2.spine := by simp [guardPair]
@[simp] theorem showUe_spine (x0 : CtxNo) (x1 : UnitNo) (x2 : ℕ) (x3 : ℕ) (x4 : ℕ) (x5 : ℕ) (x6 : ℕ) (x7 : ℕ) (x8 : State) : (showUe x0 x1 x2 x3 x4 x5 x6 x7 x8).spine = x8.spine := by unfold showUe; dsimp only; (repeat' split) <;> simp
@[simp] theorem oppChange_spine (x0 : State) : (oppChange x0).spine = x0.spine := by unfold oppChange; (repeat' split) <;> simp
@[simp] theorem hostReadArrives_spine (o n : Nat) (s : State) : (hostReadArrives o n s).spine = s.spine := by
  unfold hostReadArrives
  extract_lets k x fit
  repeat' split
  all_goals first
    | rfl
    | simp
    | (refine foldl_spine _ (fun t y => ?_) _ _
       split
       · exact State.modBezel_spine _ _ rfl
       · rfl)
@[simp] theorem readLineReq_spine (x0 : UnitKind) (x1 : UnitNo) (x2 : LineReq) (x3 : EngStep) (x4 : State) : (readLineReq x0 x1 x2 x3 x4).2.spine = x4.spine := by unfold readLineReq; dsimp only; (repeat' split) <;> simp
@[simp] theorem hostSlotAccess_spine (x0 : ℕ) (x1 : State) : (hostSlotAccess x0 x1).spine = x1.spine := by unfold hostSlotAccess; (repeat' split) <;> simp
@[simp] theorem coolEffect_spine (x0 : Bool) (x1 : State) : (coolEffect x0 x1).spine = x1.spine := by unfold coolEffect; (repeat' split) <;> simp
@[simp] theorem rngFails_spine (x0 : State) : (rngFails x0).spine = x0.spine := by simp [rngFails]
@[simp] theorem tripClear_spine (x0 : State) : (tripClear x0).spine = x0.spine := by unfold tripClear; (repeat' split) <;> simp
@[simp] theorem slotGuards_spine (x0 : State) : (slotGuards x0).spine = x0.spine := by simp [slotGuards]
@[simp] theorem doFxch_spine (x0 : UnitNo) (x1 : Issue) (x2 : PortFields) (x3 : State) : (doFxch x0 x1 x2 x3).spine = x3.spine := by simp [doFxch]
@[simp] theorem testUnit_spine (x0 : UnitNo) (x1 : State) : (testUnit x0 x1).spine = x1.spine := by unfold testUnit; (repeat' split) <;> simp
@[simp] theorem fatalFailure_spine (x0 : ℕ) (x1 : State) : (fatalFailure x0 x1).spine = x1.spine := by simp [fatalFailure]
@[simp] theorem trip_spine (x0 : ℕ) (x1 : ℤ) (x2 : State) : (trip x0 x1 x2).spine = x2.spine := by unfold trip; dsimp only; (repeat' split) <;> simp
@[simp] theorem engineBead_spine (x0 : UnitNo) (x1 : State) : (engineBead x0 x1).spine = x1.spine := by unfold engineBead; dsimp only; (repeat' split) <;> simp
@[simp] theorem testSpares_spine (x0 : ℕ) (x1 : State) : (testSpares x0 x1).spine = x1.spine := by unfold testSpares; dsimp only; (repeat' split) <;> first | rfl | simp | (refine foldl_spine _ (fun t x => ?_) _ _; (repeat' split) <;> simp)
@[simp] theorem startStep_spine (x0 : UnitNo) (x1 : Issue) (x2 : EngFields) (x3 : State) : (startStep x0 x1 x2 x3).spine = x3.spine := by unfold startStep; dsimp only; (repeat' split) <;> simp
@[simp] theorem loaderStart_spine (x0 : Bool) (x1 : Bytes) (x2 : NetSettings) (x3 : State) : (loaderStart x0 x1 x2 x3).spine = x3.spine := by unfold loaderStart; dsimp only; (repeat' split) <;> simp
@[simp] theorem selfTests_spine (x0 : State) : (selfTests x0).spine = x0.spine := by unfold selfTests; (repeat' split) <;> simp
@[simp] theorem doCopy_spine (u : UnitNo) (i : Issue) (f : MoveFields) (s : State) : (doCopy u i f s).spine = s.spine := by
  unfold doCopy
  simp
@[simp] theorem drawKey_spine (x0 : State) : (drawKey x0).2.spine = x0.spine := by unfold drawKey; dsimp only; (repeat' split) <;> simp
@[simp] theorem drawNumber_spine (x0 : State) : (drawNumber x0).2.spine = x0.spine := by simp [drawNumber]
@[simp] theorem pinEffect_spine (x0 : PinName) (x1 : Bool) (x2 : State) : (pinEffect x0 x1 x2).spine = x2.spine := by unfold pinEffect; dsimp only; (repeat' split) <;> simp
@[simp] theorem trained_spine (x0 : List ℕ) (x1 : State) : (trained x0 x1).spine = x1.spine := by unfold trained; dsimp only; (repeat' split) <;> simp
@[simp] theorem linkTrained_spine (q : PairCert) (x0 : PairShare) (x1 : List Half) (x2 : State) : (linkTrained q x0 x1 x2).spine = x2.spine := by unfold linkTrained; dsimp only; (repeat' split) <;> simp
@[simp] theorem dieActs_spine (x0 : ℕ) (x1 : Sensor) (x2 : Sensor) (x3 : State) : (dieActs x0 x1 x2 x3).spine = x3.spine := by unfold dieActs; (repeat' split) <;> simp
@[simp] theorem zoneActs_spine (x0 : ℕ) (x1 : Sensor) (x2 : Sensor) (x3 : State) : (zoneActs x0 x1 x2 x3).spine = x3.spine := by unfold zoneActs; dsimp only; (repeat' split) <;> simp
@[simp] theorem alignmentCheck_spine (x0 : Bool) (x1 : State) : (alignmentCheck x0 x1).spine = x1.spine := by unfold alignmentCheck; dsimp only; (repeat' split) <;> simp
@[simp] theorem applyInput_spine (x0 : InputKind) (x1 : ℕ) (x2 : State) : (applyInput x0 x1 x2).spine = x2.spine := by unfold applyInput; dsimp only; (repeat' split) <;> simp
@[simp] theorem attest_spine (x0 : CtxNo) (x1 : Bytes) (x2 : Bytes) (x3 : State) : (attest x0 x1 x2 x3).2.spine = x3.spine := by simp [attest]
@[simp] theorem mailReport_spine (c : CtxNo) (s : State) : (mailReport c s).spine = s.spine :=
  boxProtected_spine _ _ _ _ fun _ _ => attest_spine _ _ _ _
@[simp] theorem kxBegin_spine (x0 : CtxNo) (x1 : State) : (kxBegin x0 x1).spine = x1.spine := by unfold kxBegin; dsimp only; (repeat' split) <;> simp
@[simp] theorem flushRecords_spine (s : State) : (flushRecords s).spine = s.spine := by
  unfold flushRecords
  refine foldl_spine _ (fun t c => ?_) _ _
  refine foldl_spine _ (fun t x => ?_) _ _
  rw [deliverRecord_spine]
  split
  · exact signRecord_spine _ _ _
  · rfl
@[simp] theorem pinUse_spine (x0 : PinName) (x1 : Bool) (x2 : State) : (pinUse x0 x1 x2).spine = x2.spine := by unfold pinUse; (repeat' split) <;> simp
@[simp] theorem sensorTake_spine (x0 : ℕ) (x1 : ℤ) (x2 : State) : (sensorTake x0 x1 x2).spine = x2.spine := by unfold sensorTake; (repeat' split) <;> simp
@[simp] theorem chatterEnd_spine (x0 : PinName) (x1 : State) : (chatterEnd x0 x1).spine = x1.spine := by unfold chatterEnd; dsimp only; (repeat' split) <;> simp
@[simp] theorem boxWork_spine (c : CtxNo) (n : Nat) (s : State) : (boxWork c n s).spine = s.spine := by
  unfold boxWork
  split <;> simp
@[simp] theorem roleExchange_spine (s : State) : (roleExchange s).spine = s.spine := by
  unfold roleExchange
  dsimp only
  repeat' split
  all_goals simp
@[simp] theorem pinChange_spine (x0 : PinName) (x1 : Bool) (x2 : State) : (pinChange x0 x1 x2).spine = x2.spine := by unfold pinChange; dsimp only; (repeat' split) <;> simp
@[simp] theorem mailbox_spine (c : CtxNo) (n : Nat) (s : State) : (mailbox c n s).spine = s.spine := by
  unfold mailbox
  dsimp only
  repeat' split
  all_goals first | rfl | simp
@[simp] theorem sampleAll_spine (x0 : SensorSamples) (x1 : State) : (sampleAll x0 x1).spine = x1.spine := by simp [sampleAll]
@[simp] theorem writeBox_spine (c : CtxNo) (o : Nat) (v : Word) (s : State) : (writeBox c o v s).spine = s.spine := by
  unfold writeBox
  repeat' split
  all_goals first | rfl | simp
@[simp] theorem writeLocket_spine (o : Nat) (v : Word) (s : State) : (writeLocket o v s).spine = s.spine := by
  unfold writeLocket
  dsimp only
  repeat' split
  all_goals first | rfl | simp

/-- Either branch. -/
theorem ite_spine {p : Prop} [Decidable p] {a b : State} {x : Spine} (ha : a.spine = x) (hb : b.spine = x) :
    (if p then a else b).spine = x := by split <;> assumption

/-! ## Granules on their way -/

theorem placeSync_spine (c : CtxNo) (a : Nat) (b : Bytes) (s t : State) (e : placeSync c a b s = some t) : t.spine = s.spine := by
  unfold placeSync at e
  split at e
  · cases e; rfl
  · split at e
    · cases e; exact putGranule_spine _ _ _ _
    · split at e
      · split at e <;> cases e
        exact (putGranule_spine _ _ _ _).trans (takeMover_spine _)
      · dsimp only at e
        split at e <;> cases e
        exact (putGranule_spine _ _ _ _).trans (foldl_spine _ (fun t ch => takeSlot_spine _ _) _ _)

@[simp] theorem placeWaiting_spine (l : List (CtxNo × Nat × Bytes)) (s : State) : (placeWaiting l s).spine = s.spine := by
  induction l generalizing s with
  | nil => rfl
  | cons x r ih =>
    unfold placeWaiting
    split
    · rename_i t e
      rw [ih, placeSync_spine _ _ _ _ _ e]
    · rfl

@[simp] theorem drainSync_spine (s : State) : (drainSync s).spine = s.spine := when_spine _ _ _ fun t => placeWaiting_spine _ t

@[simp] theorem syncArrives_spine (c : CtxNo) (a : Nat) (b : Bytes) (s : State) : (syncArrives c a b s).spine = s.spine :=
  (drainSync_spine _).trans rfl

theorem readPiece_spine (a : Nat) (s : State) (d : Bytes) (t : State) (e : readPiece a s = some (d, t)) : t.spine = s.spine := by
  unfold readPiece at e
  split at e
  · split at e
    · simp only [Option.some.injEq, Prod.mk.injEq] at e
      rw [← e.2, takeMover_spine]
    · contradiction
  · split at e
    · split at e
      · simp only [Option.some.injEq, Prod.mk.injEq] at e
        rw [← e.2, readLine_spine, takeSlot_spine]
      · contradiction
    · contradiction

@[simp] theorem copyPiece_spine (g : Nat) (s : State) : (copyPiece g s).spine = s.spine := by
  unfold copyPiece
  dsimp only
  split
  · rename_i d t e
    rw [State.modJoin_spine, sendSync_spine, readPiece_spine _ _ _ _ e]
  · rfl

@[simp] theorem granuleCopy_spine (s : State) : (granuleCopy s).spine = s.spine := by
  unfold granuleCopy
  repeat' split
  all_goals simp

/-! ## Keys, scrubs, admissions and releases -/

@[simp] theorem drawOther_spine (f : Nat) (k : BitVec 128) (s : State) : (drawOther f k s).2.spine = s.spine := by
  induction f generalizing k s with
  | zero =>
    unfold drawOther
    dsimp only
    split
    · exact (rngFails_spine _).trans (drawKey_spine s)
    · exact drawKey_spine s
  | succ n ih =>
    unfold drawOther
    dsimp only
    split
    · rw [ih]; exact drawKey_spine s
    · exact drawKey_spine s

@[simp] theorem drawPair_spine (s : State) : (drawPair s).2.spine = s.spine := by
  unfold drawPair
  dsimp only
  rw [drawOther_spine, drawKey_spine]

@[simp] theorem loadPair_spine (c : CtxNo) (s : State) : (loadPair c s).spine = s.spine := by
  unfold loadPair
  dsimp only
  split
  · exact drawPair_spine s
  · rw [State.modBezel_spine _ _ (by rfl), drawPair_spine]

@[simp] theorem clearOther_spine (c : CtxNo) (s : State) : (clearOther c s).spine = s.spine := by
  unfold clearOther
  extract_lets x n s1 us s2
  have h1 : s1.spine = s.spine := by simp only [s1, foldl_spine, storeClear_spine, implies_true]
  have h2 : s2.spine = s1.spine := by simp only [s2, foldl_spine, storeClear_spine, implies_true]
  split
  · refine (foldl_spine _ (fun t p => ?_) _ _).trans (h2.trans h1)
    split
    · rw [storeClear_spine]
    · rfl
  · exact h2.trans h1

@[simp] theorem scrubOther_spine (c : CtxNo) (s : State) : (scrubOther c s).spine = s.spine := by
  unfold scrubOther
  repeat' split
  all_goals simp

@[simp] theorem keyDestroy_spine (c : CtxNo) (s : State) : (keyDestroy c s).spine = s.spine := by
  unfold keyDestroy
  dsimp only
  repeat' split
  all_goals simp

@[simp] theorem loadInto_spine (c : CtxNo) (r : InitLoad) (s : State) : (loadInto c r s).spine = s.spine := by
  unfold loadInto
  dsimp only
  split
  · refine foldl_spine _ (fun t p => ?_) _ _
    split
    · simp
    · rfl
  · exact (foldl_spine _ (fun t x => storePut_spine _ _ _) _ _).trans (writeSeg_spine _ _ _ _ _ _)

@[simp] theorem loadInit_spine (c : CtxNo) (r : InitLoad) (s : State) : (loadInit c r s).spine = s.spine := by
  unfold loadInit
  rw [State.modCtx_spine, loadInto_spine, State.modCtx_spine]

@[simp] theorem admitKeyed_spine (p : Pending) (s : State) : (admitKeyed p s).spine = s.spine := by
  unfold admitKeyed
  extract_lets c t raw r g first per s1 s2 s3 s4 s5 s6 s7 s8 s9 s10
  have h1 : s1.spine = s.spine := by simp [s1]
  have h2 : s2.spine = s.spine := by simp [s2, h1]
  have h3 : s3.spine = s.spine := by simp [s3, h2]
  have h4 : s4.spine = s.spine := by simp [s4, h3]
  have h5 : s5.spine = s.spine := by
    simp only [s5]
    refine (foldl_spine _ (fun t q => ?_) _ _).trans h4
    split <;> simp
  have h6 : s6.spine = s.spine := by simp [s6, h5]
  have h7 : s7.spine = s.spine := by simp [s7, h6]
  have h8 : s8.spine = s.spine := by simp [s8, h7]
  have h9 : s9.spine = s.spine := by
    simp only [s9]
    split <;> simp [h8]
  have h10 : s10.spine = s.spine := by simp only [s10]; split <;> simp [h9]
  rw [cmdDone_spine, h10]

@[simp] theorem admitNow_spine (p : Pending) (s : State) : (admitNow p s).spine = s.spine := by
  unfold admitNow
  dsimp only
  split <;> simp

@[simp] theorem shadowAdmit_spine (g : GrantRecord) (s : State) : (shadowAdmit g s).spine = s.spine := by
  unfold shadowAdmit
  dsimp only
  repeat' split
  all_goals first | rfl | simp

@[simp] theorem withNamed_spine (s : State) (c : CtxNo) : (withNamed s c).spine = s.spine := by
  unfold withNamed
  exact foldl_spine _ (fun t p => admitNow_spine p t) _ _

@[simp] theorem admitOrReject_spine (p : Pending) (s : State) : (admitOrReject p s).spine = s.spine := by
  unfold admitOrReject
  dsimp only
  split <;> simp

@[simp] theorem admissionEffect_spine (c : CtxNo) (s : State) : (admissionEffect c s).spine = s.spine := by
  unfold admissionEffect
  repeat' split
  all_goals first | rfl | simp

@[simp] theorem shadowAdmission_spine (gs : List GrantRecord) (s : State) : (shadowAdmission gs s).spine = s.spine := by
  unfold shadowAdmission
  dsimp only
  repeat' split
  all_goals simp

@[simp] theorem startupReady_spine (ws : Settings) (e : Nat) (s : State) : (startupReady ws e s).spine = s.spine := by
  unfold startupReady
  split
  · extract_lets s1 s2 s3 s4 s5 s6 s7
    have h1 : s1.spine = s.spine := foldl_spine _ (fun t (w : Nat × Word) => writeLocked_spine _ _ _) _ _
    clear_value s1
    have h2 : s2.spine = s.spine := by simp [s2, h1]
    clear_value s2
    have h3 : s3.spine = s.spine := by simp only [s3]; split <;> simp [h2]
    clear_value s3
    have h4 : s4.spine = s.spine := by simp [s4, h3]
    clear_value s4
    have h5 : s5.spine = s.spine := by simp [s5, h4]
    clear_value s5
    have h6 : s6.spine = s.spine := by simp [s6, h5]
    clear_value s6
    have h7 : s7.spine = s.spine := by rw [← h6]; exact loadPair_spine _ _
    clear_value s7
    split <;> simp [h7]
  · rfl

/-! ## The registers -/

@[simp] theorem writeRing_spine (c : CtxNo) (o : Nat) (v : Word) (s : State) : (writeRing c o v s).spine = s.spine := by
  unfold writeRing
  exact ite_spine (indexWrite_spine _ _ _ _) (ite_spine (cancelWrite_spine _ _ _) (ite_spine rfl (State.modRing_spine _ _ _)))

@[simp] theorem writeOpen_spine (o : Nat) (v : Word) (s : State) : (writeOpen o v s).spine = s.spine := by
  unfold writeOpen
  dsimp only
  repeat' split
  all_goals first | rfl | simp

@[simp] theorem writeReg_spine (o : Nat) (v : Word) (s : State) : (writeReg o v s).spine = s.spine := by
  unfold writeReg
  rw [writeOpen_spine]
  split <;> simp

@[simp] theorem hostWrite_spine (o w : Nat) (v : DWord) (s : State) : (hostWrite o w v s).spine = s.spine := by
  unfold hostWrite
  dsimp only
  repeat' split
  all_goals first | rfl | simp

/-! ## Begun cues, effects and inputs -/

theorem portCue_spine (k : UnitKind) (p : Nat) (u : UnitNo) (w : Issue → PortFields → State → State) (i : Issue)
    (g : State → State) (e : portCue k p u w i = some g) (h : ∀ j f t, (w j f t).spine = t.spine) (t : State) :
    (g t).spine = t.spine := by
  unfold portCue at e
  repeat' split at e
  all_goals first | contradiction | (cases e; exact h _ _ _)

@[simp] theorem claspCue_spine (u : UnitNo) (s : State) : (claspCue u s).spine = s.spine :=
  onIssue_spine _ _ _ fun i g e t => portCue_spine _ _ _ _ i g e (fun _ _ _ => doCsend_spine _ _ _ _) t

theorem cueWork_spine (u : UnitNo) (i : Issue) (g : State → State) (e : cueWork u i = some g) (t : State) :
    (g t).spine = t.spine := by
  unfold cueWork at e
  split at e
  all_goals first
    | (cases e; first | rfl | simp)
    | (split at e <;> (cases e; simp))
    | (unfold portWork at e
       split at e <;> first | contradiction | (cases e; simp))

@[simp] theorem performCue_spine (u : UnitNo) (s : State) : (performCue u s).spine = s.spine :=
  onIssue_spine _ _ _ fun i g e t => cueWork_spine u i g e t

@[simp] theorem performAll_spine (s : State) : (performAll s).spine = s.spine := by
  unfold performAll
  exact foldl_spine _ (fun t (q : UnitNo × Seq) => performCue_spine q.1 t) _ _

@[simp] theorem settle_spine (s : State) : (settle s).spine = s.spine := by simp [settle]

@[simp] theorem claspDecide_spine (p : Nat) (s : State) : (claspDecide p s).spine = s.spine := by
  unfold claspDecide
  dsimp only
  repeat' split
  all_goals first | rfl | simp

@[simp] theorem decideNow_spine (p : Nat) (s : State) : (decideNow p s).spine = s.spine := by
  unfold decideNow
  split <;> simp

@[simp] theorem releaseNow_spine (c : CtxNo) (s : State) : (releaseNow c s).spine = s.spine := by
  unfold releaseNow
  extract_lets x named forced s1 s2 s3 s4 s5 s6 s7 vias s8 s9 s10
  have h1 : s1.spine = s.spine := by simp [s1]
  have h2 : s2.spine = s.spine := by simp only [s2]; split <;> simp [h1]
  have h3 : s3.spine = s.spine := by simp [s3, h2]
  have h4 : s4.spine = s.spine := by simp [s4, h3]
  have h5 : s5.spine = s.spine := by simp [s5, h4]
  have h6 : s6.spine = s.spine := by simp [s6, h5]
  have h7 : s7.spine = s.spine := by simp [s7, h6]
  have h8 : s8.spine = s.spine := by simp [s8, h7]
  have h9 : s9.spine = s.spine := by simp [s9, h8]
  have h10 : s10.spine = s.spine := by simp only [s10]; split <;> simp [h9]
  rw [quiesceCheck_spine, h10]


@[simp] theorem seaSplit_spine (m : Nat) (s : State) : (seaSplit m s).spine = s.spine := by
  unfold seaSplit
  split
  · refine ite_spine ?_ rfl
    refine (foldl_spine _ (fun t c => ?_) _ _).trans ((raise_spine _ _ _).trans rfl)
    exact ite_spine (raiseAt_spine _ _ _ _ _ _ _ _) ((withhold_spine _ _).trans (raiseAt_spine _ _ _ _ _ _ _ _))
  · rfl

@[simp] theorem monitorWindow_spine (w : MonitorWindow) (s : State) : (monitorWindow w s).spine = s.spine := by
  unfold monitorWindow
  extract_lets s1 s2 s3 s4 s5 p s6
  have h1 : s1.spine = s.spine := rfl
  have h2 : s2.spine = s.spine := (foldl_spine _ (fun t p => claspWindow_spine _ _ _ t) _ _).trans h1
  clear_value s1 s2
  have h3 : s3.spine = s.spine := ite_spine ((crystalFails_spine _).trans h2) h2
  clear_value s3
  have h4 : s4.spine = s.spine := ite_spine ((raise_spine _ _ _).trans h3) h3
  clear_value s4
  have h5 : s5.spine = s.spine := ite_spine ((setHealth_spine _ _ _).trans ((sourceLost_spine _).trans h4)) h4
  clear_value s5
  have h6 : s6.spine = s.spine :=
    ite_spine ((raise_spine _ _ _).trans ((slewTo_spine _ _).trans ((State.modClasp_spine _ _ _).trans h5))) h5
  clear_value s6
  exact ite_spine ((slewTo_spine _ _).trans h6) h6

@[simp] theorem releaseEffect_spine (c : CtxNo) (s : State) : (releaseEffect c s).spine = s.spine :=
  when_spine _ _ _ fun t => releaseNow_spine c t

@[simp] theorem showEffect_spine (e : Effect) (s : State) : (showEffect e s).spine = s.spine := by
  unfold showEffect
  dsimp only
  split
  · simp
  · simp
  · refine (foldl_spine _ (fun t w => ?_) _ _).trans (markDirty_spine _ _)
    split
    · exact writeReg_spine _ _ _
    · rfl
  all_goals simp

@[simp] theorem showEffects_spine (s : State) : (showEffects s).spine = s.spine := by
  unfold showEffects
  rw [foldl_spine _ (fun t e => showEffect_spine e t)]
  rfl

@[simp] theorem endBead_spine (s : State) : (endBead s).spine = s.spine := by
  unfold endBead
  simp

@[simp] theorem beginCues_spine (s : State) : (beginCues s).spine = s.spine := by
  unfold beginCues
  extract_lets s1 s2
  have h1 : s1.spine = s.spine := foldl_spine _ (fun t (q : UnitNo × Seq) => closeWindow_spine q.1 t) _ _
  have h2 : s2.spine = s.spine := (noteTail_spine _).trans ((foldl_spine _ (fun t c => openWindows_spine c t) _ _).trans h1)
  rw [beginLoads_spine]
  refine (foldl_spine _ (fun t (q : UnitNo × Seq) => ?_) _ _).trans h2
  split <;> simp

theorem mem_insertSorted {α : Type} (le : α → α → Bool) (a x : α) (l : List α) : x ∈ insertSorted le a l ↔ x = a ∨ x ∈ l := by
  induction l with
  | nil => simp [insertSorted]
  | cons b r ih =>
    simp only [insertSorted]
    split
    · simp only [List.mem_cons, ih]; tauto
    · simp only [List.mem_cons]

/-- Sorting keeps the members. -/
theorem mem_sortBy {α : Type} (le : α → α → Bool) (x : α) (l : List α) : x ∈ sortBy le l ↔ x ∈ l := by
  have h : ∀ acc, x ∈ l.foldl (fun acc a => insertSorted le a acc) acc ↔ x ∈ acc ∨ x ∈ l := by
    induction l with
    | nil => simp
    | cons b r ih =>
      intro acc
      rw [List.foldl_cons, ih, mem_insertSorted, List.mem_cons]
      tauto
  simpa [sortBy] using h []

/-- A property that every input keeps is kept by all that are due. -/
theorem dueInputs_all (P : (Nat → State → State) → Prop) (s : State) (h1 : ∀ k, P (applyInput k))
    (h2 : ∀ n x data lines b (e : Effect), P fun sub t =>
      applyHostWrite n x data lines b sub (markDirty (effectGranules t e) t)) : ∀ x ∈ dueInputs s, P x.2.2.2 := by
  intro x hx
  unfold dueInputs at hx
  rw [mem_sortBy, List.mem_append] at hx
  rcases hx with hx | hx
  · obtain ⟨i, -, rfl⟩ := List.mem_map.1 hx
    exact h1 _
  · obtain ⟨e, -, he⟩ := List.mem_filterMap.1 hx
    split at he
    · split at he
      · cases he; exact h2 _ _ _ _ _ _
      · contradiction
    · contradiction

theorem inputFold_spine (m : List (Nat × Nat × Option Nat × (Nat → State → State)))
    (hm : ∀ x ∈ m, ∀ n t, (x.2.2.2 n t).spine = t.spine) (y : Nat × Nat × State) :
    (m.foldl (fun (x : Nat × Nat × State) i =>
      let n := if x.1 = i.1 then x.2.1 else 0
      (i.1, n + 1, i.2.2.2 (i.2.2.1.getD n) x.2.2)) y).2.2.spine = y.2.2.spine := by
  induction m generalizing y with
  | nil => rfl
  | cons a q ih =>
    rw [List.foldl_cons, ih fun b hb => hm b (List.mem_cons_of_mem _ hb)]
    exact hm a List.mem_cons_self _ _

theorem dueWrite_spine (n x : Nat) (data : Bytes) (lines : List (Nat × Nat × Bytes × Bytes)) (b sub : Nat) (e : Effect)
    (t : State) : (applyHostWrite n x data lines b sub (markDirty (effectGranules t e) t)).spine = t.spine := by
  rw [applyHostWrite_spine, markDirty_spine]

theorem dueInputs_spine (s : State) (x : Nat × Nat × Option Nat × (Nat → State → State)) (hx : x ∈ dueInputs s) (n : Nat)
    (t : State) : (x.2.2.2 n t).spine = t.spine := by
  unfold dueInputs at hx
  rw [mem_sortBy, List.mem_append] at hx
  rcases hx with hx | hx
  · obtain ⟨i, -, rfl⟩ := List.mem_map.1 hx
    exact applyInput_spine _ _ _
  · obtain ⟨e, -, he⟩ := List.mem_filterMap.1 hx
    split at he
    · split at he
      · cases he; exact dueWrite_spine _ _ _ _ _ _ _ _
      · contradiction
    · contradiction

@[simp] theorem takeInputs_spine (s : State) : (takeInputs s).spine = s.spine := by
  unfold takeInputs
  extract_lets l s1 r
  have h1 : s1.spine = s.spine := by simp [s1]
  have hr : r.2.2.spine = s1.spine := inputFold_spine l (fun x hx n t => dueInputs_spine s x hx n t) _
  rw [requestChain_spine, hr, h1]

theorem releases_spine (l : List CtxNo) (s : State) :
    (l.foldl (fun t c => if releaseIsDue t c then releaseNow c t else t) s).spine = s.spine := by
  refine foldl_spine _ (fun t c => ?_) _ _
  split
  · exact releaseNow_spine _ _
  · rfl

theorem swaps_spine (l : List Nat) (s : State) : (l.foldl (fun t d => spareSwap d t) s).spine = s.spine :=
  foldl_spine _ (fun t d => spareSwap_spine d t) _ _

theorem admissions_spine (l : List Pending) (s : State) :
    (l.foldl (fun t p => admissionEffect p.ctx t) s).spine = s.spine :=
  foldl_spine _ (fun t (p : Pending) => admissionEffect_spine p.ctx t) _ _

@[simp] theorem boundaryWork_spine (s : State) : (boundaryWork s).spine = s.spine := by
  simp only [boundaryWork, boundaryDone_spine, sendReady_spine, powerStep_spine, roleExchange_spine, epochBeat_spine,
    epochRaise_spine, admissions_spine, swaps_spine, releases_spine, endBead_spine]

@[simp] theorem rotationBoundary_spine (s : State) : (rotationBoundary s).spine = s.spine :=
  when_spine _ _ _ fun t => boundaryWork_spine t

end Sys2Proof.Machine
end

