-- ==== Sys2Proof/Laws/Mems.lean ====
section
/-! SUPPORT. What the memories hold, and one lemma per function that leaves them as they were; `simp` rewrites with every
one. -/

namespace Sys2Proof.Machine

/-- What memory holds. -/
def State.mems (s : State) : List Host.Cell × List Host.Cell × List Host.Cell := (s.store, s.lp4x, s.lp4xCheck)

@[simp] theorem foldl_mems {α : Type} (g : State → α → State) (h : ∀ t x, (g t x).mems = t.mems) (l : List α) (s : State) :
    (l.foldl g s).mems = s.mems := by
  induction l generalizing s with
  | nil => rfl
  | cons a r ih => rw [List.foldl_cons, ih, h]

@[simp] theorem foldl_mems2 {α β : Type} (g : β × State → α → β × State) (h : ∀ t x, (g t x).2.mems = t.2.mems) (l : List α) (s : β × State) :
    (l.foldl g s).2.mems = s.2.mems := by
  induction l generalizing s with
  | nil => rfl
  | cons a r ih => rw [List.foldl_cons, ih, h]

@[simp] theorem when_mems (p : Bool) (f : State → State) (s : State) (h : ∀ t : State, (f t).mems = t.mems) : (when_ p f s).mems = s.mems := by
  unfold when_; split
  · exact h s
  · rfl

theorem onIssue_mems (u : UnitNo) (f : Issue → Option (State → State)) (s : State)
    (h : ∀ i g, f i = some g → ∀ t : State, (g t).mems = t.mems) : (onIssue u f s).mems = s.mems := by
  unfold onIssue; split
  · rfl
  · split
    · rename_i hf; rw [h _ _ hf]; rfl
    · rfl

@[simp] theorem State.modCtx_mems (f : Ctx → Ctx) (c : CtxNo) (s : State) : (s.modCtx f c).mems = s.mems := by
  simp [State.modCtx, State.mems]
@[simp] theorem State.modRing_mems (f : Ring → Ring) (c : CtxNo) (s : State) : (s.modRing f c).mems = s.mems := by
  simp [State.modRing, State.mems]
@[simp] theorem State.modClasp_mems (f : Clasp → Clasp) (p : Nat) (s : State) : (s.modClasp f p).mems = s.mems := by
  simp [State.modClasp, State.mems]
@[simp] theorem State.modChan_mems (f : Channel → Channel) (p : Nat) (s : State) : (s.modChan f p).mems = s.mems := by
  simp [State.modChan, State.mems]
@[simp] theorem State.modBezel_mems (f : Bezel → Bezel) (s : State) : (s.modBezel f).mems = s.mems := rfl

@[simp] theorem State.modLink_mems (x0 : TwinLink → TwinLink) (x1 : State) : (State.modLink x0 x1).mems = x1.mems := by rfl
@[simp] theorem leadFault_mems (x0 : State) : (leadFault x0).mems = x0.mems := by unfold leadFault; (repeat' split) <;> simp
@[simp] theorem State.modSig_mems (x0 : Signets → Signets) (x1 : State) : (State.modSig x0 x1).mems = x1.mems := by rfl
@[simp] theorem State.setSeq_mems (x0 : UnitNo) (x1 : Seq) (x2 : State) : (State.setSeq x0 x1 x2).mems = x2.mems := by rfl
@[simp] theorem State.modStr_mems (x0 : StrandBlock → StrandBlock) (x1 : State) : (State.modStr x0 x1).mems = x1.mems := by rfl
@[simp] theorem sendItem_mems (x0 : ℕ) (x1 : ℕ) (x2 : Bytes) (x3 : State) : (sendItem x0 x1 x2 x3).mems = x3.mems := by rfl
@[simp] theorem State.modMgmt_mems (x0 : Mgmt → Mgmt) (x1 : State) : (State.modMgmt x0 x1).mems = x1.mems := by rfl
@[simp] theorem State.modJoin_mems (x0 : Join → Join) (x1 : State) : (State.modJoin x0 x1).mems = x1.mems := by rfl
@[simp] theorem State.fresh_mems (x0 : State) : (State.fresh x0).2.mems = x0.mems := by rfl
@[simp] theorem dropPair_mems (x0 : State) : (dropPair x0).mems = x0.mems := by rfl
@[simp] theorem State.modClock_mems (x0 : Clock → Clock) (x1 : State) : (State.modClock x0 x1).mems = x1.mems := by rfl
@[simp] theorem enterFrame_mems (x0 : UnitNo) (x1 : SeqFrame) (x2 : State) : (enterFrame x0 x1 x2).mems = x2.mems := by rfl
@[simp] theorem boundaryDone_mems (x0 : State) : (boundaryDone x0).mems = x0.mems := by rfl
@[simp] theorem endWindows_mems (x0 : CtxNo) (x1 : State) : (endWindows x0 x1).mems = x1.mems := by rfl
@[simp] theorem andMasks_mems (x0 : State) : (andMasks x0).mems = x0.mems := by rfl
@[simp] theorem State.withFetchWord_mems (x0 : State) (x1 : ℕ) (x2 : ℕ) : (State.withFetchWord x0 x1 x2).mems = x0.mems := by rfl
@[simp] theorem dropPending_mems (x0 : CtxNo) (x1 : State) : (dropPending x0 x1).mems = x1.mems := by rfl
@[simp] theorem drive_mems (x0 : UnitNo) (x1 : CtxNo) (x2 : ℕ) (x3 : ℕ) (x4 : ℕ) (x5 : State) : (drive x0 x1 x2 x3 x4 x5).mems = x5.mems := by rfl
@[simp] theorem State.setLive_mems (x0 : ℕ) (x1 : LiveWord) (x2 : State) : (State.setLive x0 x1 x2).mems = x2.mems := by rfl
@[simp] theorem readLine_mems (x0 : CtxNo) (x1 : ℕ) (x2 : ℕ) (x3 : State) : (readLine x0 x1 x2 x3).2.2.mems = x3.mems := by unfold readLine; (repeat' split) <;> simp
@[simp] theorem beginLoad_mems (x0 : UnitNo) (x1 : State) : (beginLoad x0 x1).mems = x1.mems := by unfold beginLoad; dsimp only; (repeat' split) <;> simp
@[simp] theorem sendAdmit_mems (x0 : Word) (x1 : ℕ) (x2 : CtxNo) (x3 : Bytes) (x4 : State) : (sendAdmit x0 x1 x2 x3 x4).mems = x4.mems := by rfl
@[simp] theorem doClear_mems (x0 : UnitNo) (x1 : State) : (doClear x0 x1).mems = x1.mems := by rfl
@[simp] theorem dropAccess_mems (x0 : ℕ × HostAccess) (x1 : State) : (dropAccess x0 x1).mems = x1.mems := by rfl
@[simp] theorem takeMover_mems (x0 : State) : (takeMover x0).mems = x0.mems := by rfl
@[simp] theorem freeStage_mems (x0 : State) : (freeStage x0).mems = x0.mems := by rfl
@[simp] theorem joinFrom_mems (x0 : ℕ) (x1 : State) : (joinFrom x0 x1).mems = x1.mems := by rfl
@[simp] theorem markDirty_mems (x0 : List ℕ) (x1 : State) : (markDirty x0 x1).mems = x1.mems := by unfold markDirty; (repeat' split) <;> simp
@[simp] theorem claspWindow_mems (x0 : ℕ) (x1 : Bool) (x2 : Bool) (x3 : State) : (claspWindow x0 x1 x2 x3).mems = x3.mems := by simp [claspWindow]
@[simp] theorem keepOld_mems (x0 : ℕ) (x1 : ℕ) (x2 : State) : (keepOld x0 x1 x2).mems = x2.mems := by rfl
@[simp] theorem State.modOver_mems (x0 : TwinOver → TwinOver) (x1 : State) : (State.modOver x0 x1).mems = x1.mems := by rfl
@[simp] theorem patrolStarves_mems (x0 : ℕ) (x1 : State) : (patrolStarves x0 x1).mems = x1.mems := by unfold patrolStarves; (repeat' split) <;> simp
@[simp] theorem partnerDirty_mems (x0 : List ℕ) (x1 : State) : (partnerDirty x0 x1).mems = x1.mems := by rfl
@[simp] theorem healthWrite_mems (x0 : State) : (healthWrite x0).mems = x0.mems := by unfold healthWrite; (repeat' split) <;> simp
@[simp] theorem takeSlot_mems (x0 : ℕ) (x1 : State) : (takeSlot x0 x1).mems = x1.mems := by simp [takeSlot]
@[simp] theorem sendSync_mems (x0 : CtxNo) (x1 : ℕ) (x2 : Bytes) (x3 : State) : (sendSync x0 x1 x2 x3).mems = x3.mems := by simp [sendSync]
@[simp] theorem lockGain_mems (x0 : ℕ) (x1 : List (BitVec 2)) (x2 : State) : (lockGain x0 x1 x2).mems = x2.mems := by unfold lockGain; (repeat' split) <;> simp
@[simp] theorem noteTail_mems (x0 : State) : (noteTail x0).mems = x0.mems := by unfold noteTail; (repeat' split) <;> simp
@[simp] theorem idleClose_mems (x0 : ℕ) (x1 : State) : (idleClose x0 x1).mems = x1.mems := by rfl
@[simp] theorem liveClr_mems (x0 : ℕ) (x1 : Word) (x2 : State) : (liveClr x0 x1 x2).mems = x2.mems := by rfl
@[simp] theorem endSteps_mems (x0 : State) : (endSteps x0).mems = x0.mems := by rfl
@[simp] theorem ringBytes_mems (x0 : ℕ) (x1 : ℕ) (x2 : State) : (ringBytes x0 x1 x2).2.mems = x2.mems := by simp [ringBytes]
@[simp] theorem sendReady_mems (x0 : State) : (sendReady x0).mems = x0.mems := by unfold sendReady; (repeat' split) <;> simp
@[simp] theorem stampStep_mems (x0 : UnitNo) (x1 : ℕ) (x2 : State) : (stampStep x0 x1 x2).mems = x2.mems := by rfl
@[simp] theorem State.later_mems (x0 : State) (x1 : ℕ) (x2 : UnitNo) (x3 : CtxNo) (x4 : EffKind) : (State.later x0 x1 x2 x3 x4).mems = x0.mems := by rfl
@[simp] theorem cancelRow_mems (x0 : ℕ) (x1 : State) : (cancelRow x0 x1).mems = x1.mems := by rfl
@[simp] theorem queueWrite_mems (x0 : ℕ) (x1 : ℕ) (x2 : Bytes) (x3 : ℕ) (x4 : State) : (queueWrite x0 x1 x2 x3 x4).mems = x4.mems := by unfold queueWrite; (repeat' split) <;> simp
@[simp] theorem State.modStartup_mems (x0 : Startup → Startup) (x1 : State) : (State.modStartup x0 x1).mems = x1.mems := by rfl
@[simp] theorem State.modFabric_mems (x0 : Fabric → Fabric) (x1 : State) : (State.modFabric x0 x1).mems = x1.mems := by rfl
@[simp] theorem State.modPorts_mems (x0 : Ports → Ports) (x1 : State) : (State.modPorts x0 x1).mems = x1.mems := by rfl
@[simp] theorem noteTransit_mems (x0 : ℕ) (x1 : ℕ) (x2 : State) : (noteTransit x0 x1 x2).mems = x2.mems := by rfl
@[simp] theorem State.modThermal_mems (x0 : Thermal → Thermal) (x1 : State) : (State.modThermal x0 x1).mems = x1.mems := by rfl
@[simp] theorem State.modCmp_mems (x0 : TwinCompare → TwinCompare) (x1 : State) : (State.modCmp x0 x1).mems = x1.mems := by rfl
@[simp] theorem storeUe_mems (x0 : ℕ) (x1 : UnitNo) (x2 : CtxNo) (x3 : ℕ) (x4 : ℕ) (x5 : List (ℕ × ℕ)) (x6 : State) : (storeUe x0 x1 x2 x3 x4 x5 x6).mems = x6.mems := by unfold storeUe; (repeat' split) <;> simp
@[simp] theorem pairFormed_mems (x0 : BitVec 128) (x1 : PairCert) (x2 : State) : (pairFormed x0 x1 x2).mems = x2.mems := by rfl
@[simp] theorem rootPllLock_mems (x0 : BitVec 3) (x1 : Bool) (x2 : Bool) (x3 : Bool) (x4 : State) : (rootPllLock x0 x1 x2 x3 x4).mems = x4.mems := by unfold rootPllLock; (repeat' split) <;> simp
@[simp] theorem pushInput_mems (x0 : ℕ) (x1 : InputKind) (x2 : State) : (pushInput x0 x1 x2).mems = x2.mems := by unfold pushInput; dsimp only; (repeat' split) <;> first | rfl | simp | simp_all
@[simp] theorem cancelWrite_mems (x0 : CtxNo) (x1 : Word) (x2 : State) : (cancelWrite x0 x1 x2).mems = x2.mems := by unfold cancelWrite; (repeat' split) <;> simp
@[simp] theorem State.modSpare_mems (x0 : SpareDie → SpareDie) (x1 : ℕ) (x2 : State) : (State.modSpare x0 x1 x2).mems = x2.mems := by rfl
@[simp] theorem placeInput_mems (x0 : ℕ) (x1 : ℕ) (x2 : ℕ) (x3 : InputKind) (x4 : State) : (placeInput x0 x1 x2 x3 x4).mems = x4.mems := by rfl
@[simp] theorem diverge_mems (x0 : CtxNo) (x1 : State) : (diverge x0 x1).mems = x1.mems := by rfl
@[simp] theorem cancelRows_mems (x0 : CtxNo) (x1 : Bytes) (x2 : State) : (cancelRows x0 x1 x2).2.mems = x2.mems := by simp [cancelRows]
@[simp] theorem swapNow_mems (x0 : ℕ) (x1 : State) : (swapNow x0 x1).mems = x1.mems := by unfold swapNow; dsimp only; (repeat' split) <;> first | rfl | simp | simp_all
@[simp] theorem addPending_mems (x0 : Pending) (x1 : State) : (addPending x0 x1).mems = x1.mems := by simp [addPending]
@[simp] theorem State.modLocket_mems (x0 : Locket → Locket) (x1 : State) : (State.modLocket x0 x1).mems = x1.mems := by rfl
@[simp] theorem State.modTwin_mems (x0 : TwinRegs → TwinRegs) (x1 : State) : (State.modTwin x0 x1).mems = x1.mems := by rfl
@[simp] theorem sscStart_mems (x0 : State) : (sscStart x0).mems = x0.mems := by unfold sscStart; (repeat' split) <;> simp
@[simp] theorem State.modCast_mems (x0 : Cast → Cast) (x1 : State) : (State.modCast x0 x1).mems = x1.mems := by rfl
@[simp] theorem setStep_mems (x0 : ℕ) (x1 : State) : (setStep x0 x1).mems = x1.mems := by rfl
@[simp] theorem copyBoundary_mems (x0 : State) : (copyBoundary x0).mems = x0.mems := by unfold copyBoundary; (repeat' split) <;> simp
@[simp] theorem orderRelease_mems (x0 : CtxNo) (x1 : Bool) (x2 : State) : (orderRelease x0 x1 x2).mems = x2.mems := by unfold orderRelease; grind [State.modStr_mems, sendAdmit_mems, State.modCtx_mems]
@[simp] theorem dropCopy_mems (x0 : ℕ) (x1 : State) : (dropCopy x0 x1).mems = x1.mems := by rfl
@[simp] theorem turned_mems (x0 : State) : (turned x0).mems = x0.mems := by rfl
@[simp] theorem alignmentEdge_mems (x0 : State) : (alignmentEdge x0).mems = x0.mems := by unfold alignmentEdge; dsimp only; (repeat' split) <;> first | rfl | simp | simp_all
@[simp] theorem lineUe_mems (x0 : ℕ) (x1 : UnitNo) (x2 : CtxNo) (x3 : ℕ) (x4 : ℕ) (x5 : ℕ) (x6 : ℕ) (x7 : State) : (lineUe x0 x1 x2 x3 x4 x5 x6 x7).mems = x7.mems := by rfl
@[simp] theorem readEffect_mems (x0 : ℕ) (x1 : State) : (readEffect x0 x1).mems = x1.mems := by unfold readEffect; (repeat' split) <;> simp [State.mems]
@[simp] theorem frameBad_mems (x0 : ℕ) (x1 : State) : (frameBad x0 x1).mems = x1.mems := by simp [frameBad]
@[simp] theorem State.modEvents_mems (x0 : Events → Events) (x1 : State) : (State.modEvents x0 x1).mems = x1.mems := by rfl
@[simp] theorem divergeAll_mems (x0 : State) : (divergeAll x0).mems = x0.mems := by simp [divergeAll]
@[simp] theorem loupeCheck_mems (x0 : State) : (loupeCheck x0).mems = x0.mems := by unfold loupeCheck; (repeat' split) <;> simp
@[simp] theorem modPin_mems (x0 : Pin → Pin) (x1 : PinName) (x2 : State) : (modPin x0 x1 x2).mems = x2.mems := by rfl
@[simp] theorem linkUp_mems (x0 : State) : (linkUp x0).mems = x0.mems := by simp [linkUp]
@[simp] theorem signetGo_mems (x0 : Word) (x1 : State) : (signetGo x0 x1).mems = x1.mems := by unfold signetGo; (repeat' split) <;> simp
@[simp] theorem State.modPower_mems (x0 : Power → Power) (x1 : State) : (State.modPower x0 x1).mems = x1.mems := by rfl
@[simp] theorem doLoop_mems (x0 : UnitNo) (x1 : Issue) (x2 : BitVec 11) (x3 : BitVec 16) (x4 : State) : (doLoop x0 x1 x2 x3 x4).mems = x4.mems := by rfl
@[simp] theorem putStep_mems (x0 : UnitNo) (x1 : EngStep) (x2 : State) : (putStep x0 x1 x2).mems = x2.mems := by rfl
@[simp] theorem liveSet_mems (x0 : ℕ) (x1 : CtxNo) (x2 : List (ℕ × DWord)) (x3 : State) : (liveSet x0 x1 x2 x3).mems = x3.mems := by rfl
@[simp] theorem State.emit_mems (x0 : Output) (x1 : State) : (State.emit x0 x1).mems = x1.mems := by rfl
@[simp] theorem reportSend_mems (x0 : State) : (reportSend x0).mems = x0.mems := by unfold reportSend; (repeat' split) <;> simp
@[simp] theorem claspRelease_mems (x0 : ℕ) (x1 : State) : (claspRelease x0 x1).mems = x1.mems := by unfold claspRelease; (repeat' split) <;> simp
@[simp] theorem takeProbe_mems (x0 : Bytes) (x1 : ℕ) (x2 : State) : (takeProbe x0 x1 x2).mems = x2.mems := by rfl
@[simp] theorem done_mems (x0 : UnitNo) (x1 : State) : (done x0 x1).mems = x1.mems := by rfl
@[simp] theorem referenceLock_mems (x0 : State) : (referenceLock x0).mems = x0.mems := by unfold referenceLock; grind [State.modJoin_mems, State.modClock_mems, State.modClasp_mems]
@[simp] theorem setToken_mems (x0 : ℕ) (x1 : Token → Token) (x2 : State) : (setToken x0 x1 x2).mems = x2.mems := by unfold setToken; (repeat' split) <;> simp
@[simp] theorem setMask_mems (x0 : UnitNo) (x1 : ℕ) (x2 : Word) (x3 : Option (BitVec 8)) (x4 : State) : (setMask x0 x1 x2 x3 x4).mems = x4.mems := by rfl
@[simp] theorem epochRaise_mems (x0 : State) : (epochRaise x0).mems = x0.mems := by unfold epochRaise; (repeat' split) <;> simp
@[simp] theorem feedRecord_mems (x0 : ℕ × Bytes) (x1 : State) : (feedRecord x0 x1).mems = x1.mems := by unfold feedRecord; dsimp only; (repeat' split) <;> simp
@[simp] theorem modPending_mems (x0 : Pending → Pending) (x1 : CtxNo) (x2 : State) : (modPending x0 x1 x2).mems = x2.mems := by rfl
@[simp] theorem formationFails_mems (x0 : State) : (formationFails x0).mems = x0.mems := by rfl
@[simp] theorem copyStep_mems (x0 : State) : (copyStep x0).mems = x0.mems := by unfold copyStep; dsimp only; (repeat' split) <;> first | rfl | simp | simp_all
@[simp] theorem noteFault_mems (x0 : CtxNo) (x1 : Option (ℕ × ℕ)) (x2 : State) : (noteFault x0 x1 x2).mems = x2.mems := by rfl
@[simp] theorem strFetch_mems (x0 : State) : (strFetch x0).mems = x0.mems := by unfold strFetch; (repeat' split) <;> simp
@[simp] theorem State.modHm_mems (x0 : Hallmark → Hallmark) (x1 : State) : (State.modHm x0 x1).mems = x1.mems := by rfl
@[simp] theorem goAlone_mems (x0 : State) : (goAlone x0).mems = x0.mems := by simp [goAlone]
@[simp] theorem startFreeze_mems (x0 : State) : (startFreeze x0).mems = x0.mems := by simp [startFreeze]
@[simp] theorem claspEmit_mems (x0 : ℕ) (x1 : Word) (x2 : Bytes) (x3 : ℤ) (x4 : State) : (claspEmit x0 x1 x2 x3 x4).mems = x4.mems := by rfl
@[simp] theorem pendClear_mems (x0 : ℕ) (x1 : Word) (x2 : State) : (pendClear x0 x1 x2).mems = x2.mems := by unfold pendClear; (repeat' split) <;> simp
@[simp] theorem doArms_mems (x0 : UnitNo) (x1 : Issue) (x2 : BitVec 8) (x3 : BitVec 8) (x4 : BitVec 1) (x5 : BitVec 3) (x6 : BitVec 5) (x7 : State) : (doArms x0 x1 x2 x3 x4 x5 x6 x7).mems = x7.mems := by rfl
@[simp] theorem crystalFallback_mems (x0 : Bool) (x1 : ℕ) (x2 : State) : (crystalFallback x0 x1 x2).mems = x2.mems := by unfold crystalFallback; (repeat' split) <;> simp
@[simp] theorem State.modBox_mems (x0 : Mailbox → Mailbox) (x1 : CtxNo) (x2 : State) : (State.modBox x0 x1 x2).mems = x2.mems := by simp [State.modBox]
@[simp] theorem writeEvent_mems (x0 : ℕ) (x1 : Word) (x2 : State) : (writeEvent x0 x1 x2).mems = x2.mems := by unfold writeEvent; (repeat' split) <;> simp
@[simp] theorem acceptWrite_mems (x0 : ℕ) (x1 : ℕ) (x2 : Bytes) (x3 : State) : (acceptWrite x0 x1 x2 x3).mems = x3.mems := by unfold acceptWrite; (repeat' split) <;> simp
@[simp] theorem portWrite_mems (x0 : UnitNo) (x1 : CtxNo) (x2 : ℤ) (x3 : Bytes) (x4 : State) : (portWrite x0 x1 x2 x3 x4).mems = x4.mems := by unfold portWrite; (repeat' split) <;> simp
@[simp] theorem lockLoss_mems (x0 : ℕ) (x1 : List (BitVec 2)) (x2 : State) : (lockLoss x0 x1 x2).mems = x2.mems := by unfold lockLoss; (repeat' split) <;> simp
@[simp] theorem doCsend_mems (x0 : UnitNo) (x1 : Issue) (x2 : PortFields) (x3 : State) : (doCsend x0 x1 x2 x3).mems = x3.mems := by unfold doCsend; dsimp only; (repeat' split) <;> simp
@[simp] theorem freshUnit_mems (x0 : UnitNo) (x1 : CtxNo) (x2 : State) : (freshUnit x0 x1 x2).mems = x2.mems := by unfold freshUnit; dsimp only; (repeat' split) <;> first | rfl | simp | simp_all
@[simp] theorem leaveSea_mems (x0 : State) : (leaveSea x0).mems = x0.mems := by unfold leaveSea; (repeat' split) <;> simp
@[simp] theorem fetchReads_mems (x0 : CtxNo) (x1 : State) : (fetchReads x0 x1).mems = x1.mems := by unfold fetchReads; dsimp only; (repeat' split) <;> simp
@[simp] theorem takeOver_mems (x0 : Word) (x1 : Bool) (x2 : ℕ) (x3 : State) : (takeOver x0 x1 x2 x3).mems = x3.mems := by simp [takeOver]
@[simp] theorem loseRecord_mems (x0 : CtxNo) (x1 : State) : (loseRecord x0 x1).mems = x1.mems := by simp [loseRecord]
@[simp] theorem claspAlign_mems (x0 : ℕ) (x1 : State) : (claspAlign x0 x1).mems = x1.mems := by unfold claspAlign; grind [State.modClasp_mems]
@[simp] theorem performWrite_mems (x0 : ℕ) (x1 : ℕ) (x2 : Bytes) (x3 : Bytes) (x4 : ℕ) (x5 : ℕ) (x6 : ℕ) (x7 : State) : (performWrite x0 x1 x2 x3 x4 x5 x6 x7).mems = x7.mems := by unfold performWrite; (repeat' split) <;> simp
@[simp] theorem epochBeat_mems (x0 : State) : (epochBeat x0).mems = x0.mems := by unfold epochBeat; (repeat' split) <;> simp
@[simp] theorem scanLoad_mems (x0 : List Byte) (x1 : State) : (scanLoad x0 x1).mems = x1.mems := by rfl
@[simp] theorem countUse_mems (x0 : UnitNo) (x1 : Cue) (x2 : State) : (countUse x0 x1 x2).mems = x2.mems := by unfold countUse; grind [State.modThermal_mems]
@[simp] theorem wakeZone_mems (x0 : ℕ) (x1 : State) : (wakeZone x0 x1).mems = x1.mems := by rfl
@[simp] theorem noteLocalFault_mems (x0 : CtxNo) (x1 : State) : (noteLocalFault x0 x1).mems = x1.mems := by rfl
@[simp] theorem startRetire_mems (x0 : ℕ) (x1 : ℕ) (x2 : State) : (startRetire x0 x1 x2).mems = x2.mems := by rfl
@[simp] theorem withhold_mems (x0 : CtxNo) (x1 : State) : (withhold x0 x1).mems = x1.mems := by simp [withhold]
@[simp] theorem beginLoads_mems (x0 : State) : (beginLoads x0).mems = x0.mems := by simp [beginLoads]
@[simp] theorem State.modSec_mems (x0 : Sec → Sec) (x1 : CtxNo) (x2 : State) : (State.modSec x0 x1 x2).mems = x2.mems := by simp [State.modSec]
@[simp] theorem leaseExpiry_mems (x0 : ℕ) (x1 : State) : (leaseExpiry x0 x1).mems = x1.mems := by unfold leaseExpiry; grind [setToken_mems]
@[simp] theorem strCommand_mems (x0 : ℕ) (x1 : CtxNo) (x2 : Bytes) (x3 : Bytes) (x4 : State) : (strCommand x0 x1 x2 x3 x4).mems = x4.mems := by unfold strCommand; (repeat' split) <;> simp
@[simp] theorem unitUe_mems (x0 : ℕ) (x1 : UnitNo) (x2 : List (ℕ × ℕ)) (x3 : State) : (unitUe x0 x1 x2 x3).mems = x3.mems := by unfold unitUe; (repeat' split) <;> simp
@[simp] theorem writeStrCmd_mems (x0 : Word) (x1 : State) : (writeStrCmd x0 x1).mems = x1.mems := by unfold writeStrCmd; (repeat' split) <;> simp
@[simp] theorem doMlogic_mems (x0 : UnitNo) (x1 : Issue) (x2 : BitVec 3) (x3 : BitVec 3) (x4 : BitVec 3) (x5 : BitVec 2) (x6 : State) : (doMlogic x0 x1 x2 x3 x4 x5 x6).mems = x6.mems := by rfl
@[simp] theorem hmInstall_mems (x0 : State) : (hmInstall x0).mems = x0.mems := by rfl
@[simp] theorem sendKeys_mems (x0 : CtxNo) (x1 : State) : (sendKeys x0 x1).mems = x1.mems := by unfold sendKeys; (repeat' split) <;> simp
@[simp] theorem partnerWithheld_mems (x0 : CtxNo) (x1 : ℕ) (x2 : State) : (partnerWithheld x0 x1 x2).mems = x2.mems := by unfold partnerWithheld; (repeat' split) <;> simp
@[simp] theorem crystalStable_mems (x0 : List ℕ) (x1 : State) : (crystalStable x0 x1).mems = x1.mems := by unfold crystalStable; (repeat' split) <;> simp
@[simp] theorem newLead_mems (x0 : State) : (newLead x0).mems = x0.mems := by rfl
@[simp] theorem backToHold_mems (x0 : State) : (backToHold x0).mems = x0.mems := by rfl
@[simp] theorem chainDirty_mems (x0 : CtxNo) (x1 : State) : (chainDirty x0 x1).mems = x1.mems := by simp [chainDirty]
@[simp] theorem form_mems (x0 : State) : (form x0).mems = x0.mems := by unfold form; (repeat' split) <;> simp
@[simp] theorem powerGood_mems (x0 : Word) (x1 : State) : (powerGood x0 x1).mems = x1.mems := by unfold powerGood; (repeat' split) <;> simp
@[simp] theorem channelUe_mems (x0 : ℕ) (x1 : ℕ) (x2 : State) : (channelUe x0 x1 x2).mems = x2.mems := by unfold channelUe; (repeat' split) <;> simp
@[simp] theorem rejoin_mems (x0 : CtxNo) (x1 : State) : (rejoin x0 x1).mems = x1.mems := by rfl
@[simp] theorem setRing_mems (x0 : Ring → Ring) (x1 : CtxNo) (x2 : State) : (setRing x0 x1 x2).mems = x2.mems := by simp [setRing]
@[simp] theorem boxDone_mems (x0 : CtxNo) (x1 : Bytes) (x2 : Bytes) (x3 : State) : (boxDone x0 x1 x2 x3).mems = x3.mems := by simp [boxDone]
@[simp] theorem openWindow_mems (x0 : CtxNo) (x1 : ℕ) (x2 : DirEntry) (x3 : State) : (openWindow x0 x1 x2 x3).mems = x3.mems := by simp [openWindow]
@[simp] theorem assign_mems (x0 : CtxNo) (x1 : Bool) (x2 : ℕ) (x3 : Bytes) (x4 : State) : (assign x0 x1 x2 x3 x4).mems = x4.mems := by simp [assign]
@[simp] theorem slewTo_mems (x0 : Ref) (x1 : State) : (slewTo x0 x1).mems = x1.mems := by unfold slewTo; (repeat' split) <;> simp
@[simp] theorem releaseBlock_mems (x0 : CtxNo) (x1 : State) : (releaseBlock x0 x1).mems = x1.mems := by unfold releaseBlock; (repeat' split) <;> simp
@[simp] theorem boxErr_mems (x0 : CtxNo) (x1 : ℕ) (x2 : State) : (boxErr x0 x1 x2).mems = x2.mems := by simp [boxErr]
@[simp] theorem writeSignet_mems (x0 : ℕ) (x1 : Word) (x2 : State) : (writeSignet x0 x1 x2).mems = x2.mems := by unfold writeSignet; (repeat' split) <;> simp
@[simp] theorem respond_mems (x0 : ℕ) (x1 : ℕ) (x2 : ℕ) (x3 : Bytes) (x4 : State) : (respond x0 x1 x2 x3 x4).mems = x4.mems := by simp [respond]
@[simp] theorem loseEntry_mems (x0 : Committed) (x1 : CtxNo) (x2 : State) : (loseEntry x0 x1 x2).mems = x2.mems := by rfl
@[simp] theorem portUe_mems (x0 : UnitNo) (x1 : ℤ) (x2 : ℕ) (x3 : State) : (portUe x0 x1 x2 x3).mems = x3.mems := by simp [portUe]
@[simp] theorem indexWrite_mems (x0 : ℕ) (x1 : CtxNo) (x2 : Word) (x3 : State) : (indexWrite x0 x1 x2 x3).mems = x3.mems := by unfold indexWrite; (repeat' split) <;> simp
@[simp] theorem loupeBegin_mems (x0 : State) : (loupeBegin x0).mems = x0.mems := by simp [loupeBegin]
@[simp] theorem pushNotice_mems (x0 : Bytes) (x1 : State) : (pushNotice x0 x1).mems = x1.mems := by unfold pushNotice; (repeat' split) <;> simp
@[simp] theorem readWord_mems (x0 : ℕ) (x1 : State) : (readWord x0 x1).mems = x1.mems := by simp [readWord]
@[simp] theorem registerRead_mems (x0 : RegAccess) (x1 : State) : (registerRead x0 x1).mems = x1.mems := by unfold registerRead; dsimp only; (repeat' split) <;> simp
@[simp] theorem channelRestart_mems (x0 : ℕ) (x1 : State) : (channelRestart x0 x1).mems = x1.mems := by unfold channelRestart; (repeat' split) <;> simp
@[simp] theorem spareSwap_mems (x0 : ℕ) (x1 : State) : (spareSwap x0 x1).mems = x1.mems := by unfold spareSwap; (repeat' split) <;> simp
@[simp] theorem notShared_mems (x0 : Withheld) (x1 : State) : (notShared x0 x1).mems = x1.mems := by unfold notShared; (repeat' split) <;> simp
@[simp] theorem startCopy_mems (x0 : ℕ) (x1 : ℕ) (x2 : State) : (startCopy x0 x1 x2).mems = x2.mems := by unfold startCopy; (repeat' split) <;> simp
@[simp] theorem mayDiverge_mems (x0 : CtxNo) (x1 : State) : (mayDiverge x0 x1).mems = x1.mems := by unfold mayDiverge; dsimp only; (repeat' split) <;> simp
@[simp] theorem hmCountPiece_mems (x0 : State) : (hmCountPiece x0).mems = x0.mems := by rfl
@[simp] theorem gateCheck_mems (x0 : State) : (gateCheck x0).mems = x0.mems := by unfold gateCheck; (repeat' split) <;> simp
@[simp] theorem writeStrand_mems (x0 : ℕ) (x1 : Word) (x2 : State) : (writeStrand x0 x1 x2).mems = x2.mems := by unfold writeStrand; (repeat' split) <;> simp
@[simp] theorem doLiveSet_mems (x0 : UnitNo) (x1 : Issue) (x2 : PortFields) (x3 : State) : (doLiveSet x0 x1 x2 x3).mems = x3.mems := by unfold doLiveSet; (repeat' split) <;> simp
@[simp] theorem notePartner_mems (x0 : Bytes) (x1 : State) : (notePartner x0 x1).mems = x1.mems := by rfl
@[simp] theorem noteSilence_mems (x0 : ℕ) (x1 : Silence → Silence) (x2 : State) : (noteSilence x0 x1 x2).mems = x2.mems := by rfl
@[simp] theorem doStateGet_mems (x0 : UnitNo) (x1 : Issue) (x2 : PortFields) (x3 : State) : (doStateGet x0 x1 x2 x3).mems = x3.mems := by simp [doStateGet]
@[simp] theorem endSession_mems (x0 : CtxNo) (x1 : State) : (endSession x0 x1).mems = x1.mems := by simp [endSession]
@[simp] theorem itemsLost_mems (x0 : State) : (itemsLost x0).mems = x0.mems := by unfold itemsLost; (repeat' split) <;> simp
@[simp] theorem seatHold_mems (x0 : State) : (seatHold x0).mems = x0.mems := by unfold seatHold; (repeat' split) <;> simp
@[simp] theorem pushAdmit_mems (x0 : ℕ) (x1 : Bytes) (x2 : Bytes) (x3 : State) : (pushAdmit x0 x1 x2 x3).mems = x3.mems := by simp [pushAdmit]
@[simp] theorem forceRelease_mems (x0 : CtxNo) (x1 : State) : (forceRelease x0 x1).mems = x1.mems := by simp [forceRelease]
@[simp] theorem referenceChange_mems (x0 : State) : (referenceChange x0).mems = x0.mems := by unfold referenceChange; grind [slewTo_mems]
@[simp] theorem cmdDone_mems (x0 : Via) (x1 : ℕ) (x2 : CtxNo) (x3 : ℕ) (x4 : State) : (cmdDone x0 x1 x2 x3 x4).mems = x4.mems := by unfold cmdDone; (repeat' split) <;> simp
@[simp] theorem writeFabric_mems (x0 : ℕ) (x1 : Word) (x2 : State) : (writeFabric x0 x1 x2).mems = x2.mems := by unfold writeFabric; grind [leaveSea_mems, form_mems, State.modFabric_mems]
@[simp] theorem loupeShow_mems (x0 : State) : (loupeShow x0).mems = x0.mems := by unfold loupeShow; (repeat' split) <;> simp
@[simp] theorem openBlock_mems (x0 : CtxNo) (x1 : Bytes) (x2 : State) : (openBlock x0 x1 x2).mems = x2.mems := by unfold openBlock; (repeat' split) <;> simp
@[simp] theorem sendLeaving_mems (x0 : ℕ) (x1 : State) : (sendLeaving x0 x1).mems = x1.mems := by simp [sendLeaving]
@[simp] theorem getCert_mems (x0 : CtxNo) (x1 : State) : (getCert x0 x1).mems = x1.mems := by unfold getCert; (repeat' split) <;> simp
@[simp] theorem latchRequest_mems (x0 : CtxNo) (x1 : State) : (latchRequest x0 x1).mems = x1.mems := by unfold latchRequest; grind [pushInput_mems, State.modRing_mems]
@[simp] theorem lostItem_mems (x0 : CtxNo) (x1 : State) : (lostItem x0 x1).mems = x1.mems := by unfold lostItem; (repeat' split) <;> simp
@[simp] theorem writeRecord_mems (x0 : CtxNo) (x1 : Bytes) (x2 : State) : (writeRecord x0 x1 x2).mems = x2.mems := by unfold writeRecord; (repeat' split) <;> simp
@[simp] theorem chainEvent_mems (x0 : Bool) (x1 : CtxNo) (x2 : State) : (chainEvent x0 x1 x2).mems = x2.mems := by simp [chainEvent]
@[simp] theorem onesRead_mems (x0 : ℕ) (x1 : ℕ) (x2 : State) : (onesRead x0 x1 x2).mems = x2.mems := by rfl
@[simp] theorem retake_mems (x0 : State) : (retake x0).mems = x0.mems := by unfold retake; (repeat' split) <;> simp
@[simp] theorem boxRefused_mems (x0 : CtxNo) (x1 : State) : (boxRefused x0 x1).mems = x1.mems := by rfl
@[simp] theorem refuse_mems (x0 : ℕ) (x1 : ℕ) (x2 : State) : (refuse x0 x1 x2).mems = x2.mems := by simp [refuse]
@[simp] theorem writePort_mems (x0 : ℕ) (x1 : ℕ) (x2 : Word) (x3 : State) : (writePort x0 x1 x2 x3).mems = x3.mems := by unfold writePort; (repeat' split) <;> simp
@[simp] theorem retire_mems (x0 : ℕ) (x1 : ℕ) (x2 : State) : (retire x0 x1 x2).mems = x2.mems := by unfold retire; dsimp only; (repeat' split) <;> simp
@[simp] theorem dropBlock_mems (x0 : CtxNo) (x1 : State) : (dropBlock x0 x1).mems = x1.mems := by rfl
@[simp] theorem connect_mems (x0 : ConnectReq) (x1 : State) : (connect x0 x1).mems = x1.mems := by unfold connect; (repeat' split) <;> simp
@[simp] theorem doMset_mems (x0 : UnitNo) (x1 : BitVec 3) (x2 : Word) (x3 : State) : (doMset x0 x1 x2 x3).mems = x3.mems := by rfl
@[simp] theorem writeLoupe_mems (x0 : Word) (x1 : State) : (writeLoupe x0 x1).mems = x1.mems := by unfold writeLoupe; (repeat' split) <;> simp
@[simp] theorem castExport_mems (x0 : ℕ) (x1 : ℕ) (x2 : State) : (castExport x0 x1 x2).mems = x2.mems := by unfold castExport; grind [respond_mems, ringBytes_mems, refuse_mems]
@[simp] theorem twinReport_mems (x0 : Bytes) (x1 : State) : (twinReport x0 x1).mems = x1.mems := by unfold twinReport; (repeat' split) <;> simp
@[simp] theorem eventMsi_mems (x0 : State) : (eventMsi x0).mems = x0.mems := by unfold eventMsi; grind [State.modEvents_mems, State.emit_mems]
@[simp] theorem strAdmit_mems (x0 : Option (Bytes × Bytes)) (x1 : State) : (strAdmit x0 x1).mems = x1.mems := by unfold strAdmit; (repeat' split) <;> simp
@[simp] theorem castCtl_mems (x0 : Word) (x1 : State) : (castCtl x0 x1).mems = x1.mems := by unfold castCtl; grind [startFreeze_mems, State.modCast_mems]
@[simp] theorem twinCommit_mems (x0 : CtxNo) (x1 : DWord) (x2 : Word) (x3 : State) : (twinCommit x0 x1 x2 x3).mems = x3.mems := by unfold twinCommit; (repeat' split) <;> simp
@[simp] theorem ringRead_mems (x0 : State) : (ringRead x0).mems = x0.mems := by unfold ringRead; dsimp only; (repeat' split) <;> simp
@[simp] theorem requestChain_mems (x0 : State) : (requestChain x0).mems = x0.mems := by unfold requestChain; (repeat' split) <;> simp
@[simp] theorem raiseAt_mems (x0 : ℕ) (x1 : Option CtxNo) (x2 : ℕ) (x3 : ℕ) (x4 : Bool) (x5 : Bool) (x6 : Bytes) (x7 : State) : (raiseAt x0 x1 x2 x3 x4 x5 x6 x7).mems = x7.mems := by unfold raiseAt; grind [startFreeze_mems, sendItem_mems, withhold_mems, pushNotice_mems, State.modCmp_mems, State.modCtx_mems, State.modEvents_mems]
@[simp] theorem twinReleaseAt_mems (x0 : Word) (x1 : CtxNo) (x2 : Bool) (x3 : State) : (twinReleaseAt x0 x1 x2 x3).mems = x3.mems := by unfold twinReleaseAt; (repeat' split) <;> simp
@[simp] theorem doRqTake_mems (x0 : UnitNo) (x1 : Issue) (x2 : PortFields) (x3 : State) : (doRqTake x0 x1 x2 x3).mems = x3.mems := by simp [doRqTake]
@[simp] theorem loadKeys_mems (x0 : CtxNo) (x1 : Bytes) (x2 : State) : (loadKeys x0 x1 x2).mems = x2.mems := by unfold loadKeys; (repeat' split) <;> simp
@[simp] theorem trayPulled_mems (x0 : State) : (trayPulled x0).mems = x0.mems := by simp [trayPulled]
@[simp] theorem mgmtSwap_mems (x0 : ℕ) (x1 : Word) (x2 : State) : (mgmtSwap x0 x1 x2).mems = x2.mems := by unfold mgmtSwap; (repeat' split) <;> simp
@[simp] theorem twinAdmit_mems (x0 : Word) (x1 : GrantRecord) (x2 : State) : (twinAdmit x0 x1 x2).mems = x2.mems := by unfold twinAdmit; (repeat' split) <;> simp
@[simp] theorem latchAdmit_mems (x0 : Via) (x1 : Bytes) (x2 : Bytes) (x3 : Option (ℕ × ℕ)) (x4 : State) : (latchAdmit x0 x1 x2 x3 x4).mems = x4.mems := by unfold latchAdmit; grind [cmdDone_mems, addPending_mems]
@[simp] theorem seatEffect_mems (x0 : Bool) (x1 : State) : (seatEffect x0 x1).mems = x1.mems := by unfold seatEffect; (repeat' split) <;> simp
@[simp] theorem forceAll_mems (x0 : State) : (forceAll x0).mems = x0.mems := by simp [forceAll]
@[simp] theorem doLiveClr_mems (x0 : UnitNo) (x1 : Issue) (x2 : PortFields) (x3 : State) : (doLiveClr x0 x1 x2 x3).mems = x3.mems := by unfold doLiveClr; (repeat' split) <;> simp
@[simp] theorem mgmtToken_mems (x0 : ℕ) (x1 : ℕ) (x2 : ℕ) (x3 : Word) (x4 : ℕ) (x5 : State) : (mgmtToken x0 x1 x2 x3 x4 x5).mems = x5.mems := by unfold mgmtToken; grind [setToken_mems, respond_mems, refuse_mems]
@[simp] theorem selftestRound_mems (x0 : State) : (selftestRound x0).mems = x0.mems := by unfold selftestRound; (repeat' split) <;> simp
@[simp] theorem twinInput_mems (x0 : RelayedInput) (x1 : State) : (twinInput x0 x1).mems = x1.mems := by unfold twinInput; dsimp only; (repeat' split) <;> simp
@[simp] theorem shareDue_mems (x0 : State) : (shareDue x0).mems = x0.mems := by simp [shareDue]
@[simp] theorem latchRelease_mems (x0 : Via) (x1 : CtxNo) (x2 : Bool) (x3 : State) : (latchRelease x0 x1 x2 x3).mems = x3.mems := by unfold latchRelease; (repeat' split) <;> simp
@[simp] theorem retryCopy_mems (x0 : ℕ) (x1 : State) : (retryCopy x0 x1).mems = x1.mems := by unfold retryCopy; (repeat' split) <;> simp
@[simp] theorem mgmtAdmit_mems (x0 : ℕ) (x1 : Bytes) (x2 : Bytes) (x3 : Option Bytes) (x4 : State) : (mgmtAdmit x0 x1 x2 x3 x4).mems = x4.mems := by unfold mgmtAdmit; dsimp only; (repeat' split) <;> simp
@[simp] theorem pkgFails_mems (x0 : CtxNo) (x1 : ℕ) (x2 : State) : (pkgFails x0 x1 x2).mems = x2.mems := by simp [pkgFails]
@[simp] theorem takeEntry_mems (x0 : CtxNo) (x1 : Bytes) (x2 : Bytes) (x3 : State) : (takeEntry x0 x1 x2 x3).mems = x3.mems := by unfold takeEntry; dsimp only; (repeat' split) <;> simp
@[simp] theorem claspSend_mems (x0 : ℕ) (x1 : State) : (claspSend x0 x1).mems = x1.mems := by unfold claspSend; dsimp only; (repeat' split) <;> simp
@[simp] theorem spareStarves_mems (x0 : ℕ) (x1 : State) : (spareStarves x0 x1).mems = x1.mems := by unfold spareStarves; (repeat' split) <;> simp
@[simp] theorem rejectPending_mems (x0 : Pending) (x1 : ℕ) (x2 : State) : (rejectPending x0 x1 x2).mems = x2.mems := by unfold rejectPending; (repeat' split) <;> simp
@[simp] theorem raiseCtx_mems (x0 : ℕ) (x1 : CtxNo) (x2 : ℕ) (x3 : Bytes) (x4 : State) : (raiseCtx x0 x1 x2 x3 x4).mems = x4.mems := by simp [raiseCtx]
@[simp] theorem rootSet_mems (x0 : ℕ) (x1 : Bytes) (x2 : Bytes) (x3 : Bytes) (x4 : State) : (rootSet x0 x1 x2 x3 x4).mems = x4.mems := by unfold rootSet; (repeat' split) <;> simp
@[simp] theorem imgPiece_mems (x0 : ℕ) (x1 : ℕ) (x2 : Bytes) (x3 : State) : (imgPiece x0 x1 x2 x3).mems = x3.mems := by unfold imgPiece; grind [State.modMgmt_mems, respond_mems, refuse_mems]
@[simp] theorem twinWithheld_mems (x0 : CtxNo) (x1 : Half) (x2 : State) : (twinWithheld x0 x1 x2).mems = x2.mems := by unfold twinWithheld; (repeat' split) <;> simp
@[simp] theorem raise_mems (x0 : ℕ) (x1 : Bytes) (x2 : State) : (raise x0 x1 x2).mems = x2.mems := by simp [raise]
@[simp] theorem castPut_mems (x0 : ℕ) (x1 : ℕ) (x2 : ℕ) (x3 : ℕ) (x4 : ℕ) (x5 : ℕ) (x6 : Word) (x7 : Bytes) (x8 : State) : (castPut x0 x1 x2 x3 x4 x5 x6 x7 x8).mems = x8.mems := by unfold castPut; grind [raise_mems, State.modCast_mems]
@[simp] theorem claspRaise_mems (x0 : ℕ) (x1 : ℕ) (x2 : State) : (claspRaise x0 x1 x2).mems = x2.mems := by simp [claspRaise]
@[simp] theorem loadFails_mems (x0 : CtxNo) (x1 : State) : (loadFails x0 x1).mems = x1.mems := by simp [loadFails]
@[simp] theorem castPacket_mems (x0 : UnitNo) (x1 : CtxNo) (x2 : Bytes) (x3 : State) : (castPacket x0 x1 x2 x3).mems = x3.mems := by unfold castPacket; (repeat' split) <;> simp
@[simp] theorem castMgmt_mems (x0 : InputKind) (x1 : ℕ) (x2 : State) : (castMgmt x0 x1 x2).mems = x2.mems := by unfold castMgmt; (repeat' split) <;> simp
@[simp] theorem replayPacket_mems (x0 : UnitNo) (x1 : CtxNo) (x2 : Bytes) (x3 : State) : (replayPacket x0 x1 x2 x3).mems = x3.mems := by unfold replayPacket; (repeat' split) <;> simp
@[simp] theorem castInput_mems (x0 : ℕ) (x1 : ℕ) (x2 : CtxNo) (x3 : ℕ) (x4 : Bytes) (x5 : State) : (castInput x0 x1 x2 x3 x4 x5).mems = x5.mems := by unfold castInput; (repeat' split) <;> simp
@[simp] theorem guardContext_mems (x0 : UnitNo) (x1 : UnitNo) (x2 : Bytes) (x3 : CtxNo) (x4 : State) : (guardContext x0 x1 x2 x3 x4).mems = x4.mems := by unfold guardContext; (repeat' split) <;> simp
@[simp] theorem kxFinish_mems (x0 : CtxNo) (x1 : State) : (kxFinish x0 x1).mems = x1.mems := by unfold kxFinish; (repeat' split) <;> simp
@[simp] theorem oppForce_mems (x0 : State) : (oppForce x0).mems = x0.mems := by unfold oppForce; (repeat' split) <;> simp
@[simp] theorem epochReported_mems (x0 : Word) (x1 : State) : (epochReported x0 x1).mems = x1.mems := by unfold epochReported; dsimp only; (repeat' split) <;> simp
@[simp] theorem resyncStalled_mems (x0 : State) : (resyncStalled x0).mems = x0.mems := by unfold resyncStalled; (repeat' split) <;> simp
@[simp] theorem beginJoin_mems (x0 : ℕ) (x1 : State) : (beginJoin x0 x1).mems = x1.mems := by unfold beginJoin; (repeat' split) <;> simp
@[simp] theorem sourceLost_mems (x0 : State) : (sourceLost x0).mems = x0.mems := by simp [sourceLost]
@[simp] theorem counterMismatch_mems (x0 : State) : (counterMismatch x0).mems = x0.mems := by simp [counterMismatch]
@[simp] theorem channelStop_mems (x0 : ℕ) (x1 : State) : (channelStop x0 x1).mems = x1.mems := by unfold channelStop; (repeat' split) <;> simp
@[simp] theorem fetchRequest_mems (x0 : CtxNo) (x1 : FetchReply) (x2 : State) : (fetchRequest x0 x1 x2).mems = x2.mems := by unfold fetchRequest; dsimp only; (repeat' split) <;> simp
@[simp] theorem mismatch_mems (x0 : CtxNo) (x1 : ℕ) (x2 : ℕ) (x3 : DWord) (x4 : State) : (mismatch x0 x1 x2 x3 x4).mems = x4.mems := by unfold mismatch; dsimp only; (repeat' split) <;> simp
@[simp] theorem srecFormat_mems (x0 : CtxNo) (x1 : State) : (srecFormat x0 x1).mems = x1.mems := by simp [srecFormat]
@[simp] theorem segFault_mems (x0 : CtxNo) (x1 : UnitNo) (x2 : ℕ) (x3 : ℤ) (x4 : State) : (segFault x0 x1 x2 x3 x4).mems = x4.mems := by simp [segFault]
@[simp] theorem followerCell_mems (x0 : ℕ) (x1 : ℕ) (x2 : ℕ) (x3 : State) : (followerCell x0 x1 x2 x3).mems = x3.mems := by unfold followerCell; (repeat' split) <;> simp
@[simp] theorem requestFault_mems (x0 : State) : (requestFault x0).mems = x0.mems := by rfl
@[simp] theorem linkDown_mems (x0 : State) : (linkDown x0).mems = x0.mems := by unfold linkDown; (repeat' split) <;> simp
@[simp] theorem replaceAgain_mems (x0 : State) : (replaceAgain x0).mems = x0.mems := by unfold replaceAgain; (repeat' split) <;> simp
@[simp] theorem leadCell_mems (x0 : ℕ) (x1 : ℕ) (x2 : ℕ) (x3 : Word) (x4 : State) : (leadCell x0 x1 x2 x3 x4).mems = x4.mems := by unfold leadCell; dsimp only; (repeat' split) <;> simp
@[simp] theorem hmConfirm_mems (x0 : State) : (hmConfirm x0).mems = x0.mems := by unfold hmConfirm; grind [State.modHm_mems, raise_mems, State.modLocket_mems]
@[simp] theorem applyRequest_mems (x0 : CtxNo) (x1 : Bytes) (x2 : ℕ) (x3 : State) : (applyRequest x0 x1 x2 x3).mems = x3.mems := by unfold applyRequest; (repeat' split) <;> simp
@[simp] theorem deliverRecord_mems (x0 : CtxNo) (x1 : State) : (deliverRecord x0 x1).mems = x1.mems := by unfold deliverRecord; dsimp only; (repeat' split) <;> simp
@[simp] theorem mailPackage_mems (x0 : CtxNo) (x1 : State) : (mailPackage x0 x1).mems = x1.mems := by unfold mailPackage; grind [State.modSec_mems, sendKeys_mems, boxDone_mems, pkgFails_mems]
@[simp] theorem readSegLine_mems (x0 : ℕ) (x1 : UnitNo) (x2 : CtxNo) (x3 : ℕ) (x4 : ℤ) (x5 : State) : (readSegLine x0 x1 x2 x3 x4 x5).2.mems = x5.mems := by unfold readSegLine; grind [segFault_mems, readLine_mems, lineUe_mems]
@[simp] theorem readSeg_mems (x0 : ℕ) (x1 : UnitNo) (x2 : CtxNo) (x3 : ℕ) (x4 : ℤ) (x5 : ℕ) (x6 : State) : (readSeg x0 x1 x2 x3 x4 x5 x6).2.mems = x6.mems := by unfold readSeg; (repeat' split) <;> simp
@[simp] theorem powerStep_mems (x0 : State) : (powerStep x0).mems = x0.mems := by unfold powerStep; dsimp only; (repeat' split) <;> simp
@[simp] theorem ownFault_mems (x0 : CtxNo) (x1 : UnitNo) (x2 : ℤ) (x3 : State) : (ownFault x0 x1 x2 x3).mems = x3.mems := by simp [ownFault]
@[simp] theorem joinConverge_mems (x0 : State) : (joinConverge x0).mems = x0.mems := by unfold joinConverge; (repeat' split) <;> simp
@[simp] theorem seaFormed_mems (a b : Bool) (x0 : List ℕ) (x1 : State) : (seaFormed a b x0 x1).mems = x1.mems := by unfold seaFormed; dsimp only; (repeat' split) <;> first | rfl | simp | simp_all
@[simp] theorem mr4Read_mems (x0 : ℕ) (x1 : BitVec 3) (x2 : State) : (mr4Read x0 x1 x2).mems = x2.mems := by unfold mr4Read; grind [State.modChan_mems, oppForce_mems]
@[simp] theorem requestBegin_mems (x0 : Bytes) (x1 : ℕ) (x2 : State) : (requestBegin x0 x1 x2).mems = x2.mems := by simp [requestBegin]
@[simp] theorem coolWatch_mems (x0 : State) : (coolWatch x0).mems = x0.mems := by unfold coolWatch; grind [State.modThermal_mems, raise_mems]
@[simp] theorem requestRead_mems (x0 : ℕ) (x1 : SigRequest) (x2 : State) : (requestRead x0 x1 x2).mems = x2.mems := by unfold requestRead; grind [State.modSig_mems, requestFault_mems, readLine_mems, lineUe_mems]
@[simp] theorem verifyDone_mems (x0 : CtxNo) (x1 : State) : (verifyDone x0 x1).mems = x1.mems := by unfold verifyDone; grind [modPending_mems, rejectPending_mems]
@[simp] theorem splitWait_mems (x0 : State) : (splitWait x0).mems = x0.mems := by simp [splitWait]
@[simp] theorem writeSegLine_mems (x0 : ℕ) (x1 : UnitNo) (x2 : CtxNo) (x3 : ℕ) (x4 : ℤ) (x5 : Bytes) (x6 : State) : (writeSegLine x0 x1 x2 x3 x4 x5 x6).mems = x6.mems := by unfold writeSegLine; (repeat' split) <;> simp
@[simp] theorem compareSignets_mems (x0 : SignetItem) (x1 : SignetItem) (x2 : State) : (compareSignets x0 x1 x2).mems = x2.mems := by unfold compareSignets; (repeat' split) <;> simp
@[simp] theorem scrubDone_mems (x0 : CtxNo) (x1 : State) : (scrubDone x0 x1).mems = x1.mems := by unfold scrubDone; (repeat' split) <;> simp
@[simp] theorem freezeDone_mems (x0 : State) : (freezeDone x0).mems = x0.mems := by unfold freezeDone; (repeat' split) <;> simp
@[simp] theorem partnerSilent_mems (x0 : State) : (partnerSilent x0).mems = x0.mems := by unfold partnerSilent; dsimp only; (repeat' split) <;> simp
@[simp] theorem claspRaiseOwner_mems (x0 : ℕ) (x1 : ℕ) (x2 : State) : (claspRaiseOwner x0 x1 x2).mems = x2.mems := by unfold claspRaiseOwner; grind [raiseAt_mems, claspRaise_mems]
@[simp] theorem cueInvalid_mems (x0 : UnitNo) (x1 : CtxNo) (x2 : Option (BitVec 128)) (x3 : ℕ) (x4 : State) : (cueInvalid x0 x1 x2 x3 x4).mems = x4.mems := by simp [cueInvalid]
@[simp] theorem fabRaise_mems (x0 : ℕ) (x1 : ℕ) (x2 : ℕ) (x3 : ℕ) (x4 : ℕ) (x5 : State) : (fabRaise x0 x1 x2 x3 x4 x5).mems = x5.mems := by simp [fabRaise]
@[simp] theorem commitRecord_mems (x0 : CtxNo) (x1 : Bytes) (x2 : State) : (commitRecord x0 x1 x2).mems = x2.mems := by unfold commitRecord; grind [srecFormat_mems, loseRecord_mems, chainEvent_mems, cancelRows_mems, State.modRing_mems]
@[simp] theorem strapChange_mems (x0 : BitVec 3) (x1 : State) : (strapChange x0 x1).mems = x1.mems := by unfold strapChange; grind [State.modStartup_mems, raise_mems]
@[simp] theorem applyIndex_mems (x0 : ℕ) (x1 : Word) (x2 : ℕ) (x3 : State) : (applyIndex x0 x1 x2 x3).mems = x3.mems := by unfold applyIndex; dsimp only; (repeat' split) <;> simp
@[simp] theorem replayFeed_mems (x0 : State) : (replayFeed x0).mems = x0.mems := by unfold replayFeed; dsimp only; (repeat' split) <;> simp
@[simp] theorem refusePair_mems (x0 : ℕ) (x1 : State) : (refusePair x0 x1).mems = x1.mems := by unfold refusePair; (repeat' split) <;> simp
@[simp] theorem hmLoader_mems (x0 : State) : (hmLoader x0).mems = x0.mems := by unfold hmLoader; (repeat' split) <;> simp
@[simp] theorem acceptDebug_mems (x0 : Bytes) (x1 : State) : (acceptDebug x0 x1).mems = x1.mems := by simp [acceptDebug]
@[simp] theorem oppJudge_mems (x0 : ℕ) (x1 : State) : (oppJudge x0 x1).mems = x1.mems := by unfold oppJudge; (repeat' split) <;> simp
@[simp] theorem writeSeg_mems (x0 : UnitNo) (x1 : CtxNo) (x2 : ℕ) (x3 : ℤ) (x4 : Bytes) (x5 : State) : (writeSeg x0 x1 x2 x3 x4 x5).2.mems = x5.mems := by unfold writeSeg; (repeat' split) <;> simp
@[simp] theorem applyCancel_mems (x0 : CtxNo) (x1 : DWord) (x2 : ℕ) (x3 : State) : (applyCancel x0 x1 x2 x3).mems = x3.mems := by unfold applyCancel; dsimp only; (repeat' split) <;> simp
@[simp] theorem promotionDone_mems (x0 : State) : (promotionDone x0).mems = x0.mems := by unfold promotionDone; dsimp only; (repeat' split) <;> simp
@[simp] theorem quiesceCheck_mems (x0 : State) : (quiesceCheck x0).mems = x0.mems := by unfold quiesceCheck; (repeat' split) <;> simp
@[simp] theorem apertureEvent_mems (x0 : ℕ) (x1 : ℕ) (x2 : State) : (apertureEvent x0 x1 x2).mems = x2.mems := by rfl
@[simp] theorem confirmPromotion_mems (x0 : State) : (confirmPromotion x0).mems = x0.mems := by unfold confirmPromotion; (repeat' split) <;> simp
@[simp] theorem oppRequest_mems (x0 : Word) (x1 : State) : (oppRequest x0 x1).mems = x1.mems := by unfold oppRequest; grind [State.modClock_mems, oppJudge_mems]
@[simp] theorem theirSignet_mems (x0 : SignetItem) (x1 : State) : (theirSignet x0 x1).mems = x1.mems := by unfold theirSignet; (repeat' split) <;> simp
@[simp] theorem readStoreSeg_mems (x0 : ℕ) (x1 : UnitNo) (x2 : CtxNo) (x3 : ℕ) (x4 : ℤ) (x5 : ℕ) (x6 : State) : (readStoreSeg x0 x1 x2 x3 x4 x5 x6).2.mems = x6.mems := by unfold readStoreSeg; (repeat' split) <;> simp
@[simp] theorem hmAutoConfirm_mems (x0 : State) : (hmAutoConfirm x0).mems = x0.mems := by unfold hmAutoConfirm; (repeat' split) <;> simp
@[simp] theorem frameGood_mems (x0 : ℕ) (x1 : ClaspArrival) (x2 : State) : (frameGood x0 x1 x2).mems = x2.mems := by unfold frameGood; dsimp only; (repeat' split) <;> simp
@[simp] theorem crystalFails_mems (x0 : State) : (crystalFails x0).mems = x0.mems := by unfold crystalFails; dsimp only; (repeat' split) <;> simp
@[simp] theorem loadComplete_mems (x0 : CtxNo) (x1 : State) : (loadComplete x0 x1).mems = x1.mems := by unfold loadComplete; grind [State.modSec_mems, loadFails_mems]
@[simp] theorem writeLineReq_mems (x0 : UnitKind) (x1 : UnitNo) (x2 : LineReq) (x3 : EngStep) (x4 : State) : (writeLineReq x0 x1 x2 x3 x4).mems = x4.mems := by unfold writeLineReq; (repeat' split) <;> simp
@[simp] theorem doWrite_mems (x0 : UnitNo) (x1 : Issue) (x2 : MemFields) (x3 : State) : (doWrite x0 x1 x2 x3).mems = x3.mems := by unfold doWrite; dsimp only; (repeat' split) <;> simp
@[simp] theorem claspChange_mems (x0 : ℕ) (x1 : ClaspState) (x2 : State) : (claspChange x0 x1 x2).mems = x2.mems := by unfold claspChange; grind [State.modClasp_mems, claspRaiseOwner_mems, claspRaise_mems]
@[simp] theorem signetMissing_mems (x0 : CtxNo) (x1 : State) : (signetMissing x0 x1).mems = x1.mems := by unfold signetMissing; (repeat' split) <;> simp
@[simp] theorem closeWindow_mems (x0 : UnitNo) (x1 : State) : (closeWindow x0 x1).mems = x1.mems := by unfold closeWindow; grind [State.setSeq_mems, cueInvalid_mems]
@[simp] theorem fabRecv_mems (x0 : UnitNo) (x1 : Issue) (x2 : ℤ) (x3 : ℕ) (x4 : ℕ) (x5 : State) : (fabRecv x0 x1 x2 x3 x4 x5).mems = x5.mems := by unfold fabRecv; grind [portWrite_mems, fabRaise_mems, noteSilence_mems, State.modFabric_mems, raiseCtx_mems, castPacket_mems, replayPacket_mems]
@[simp] theorem listenEnd_mems (x0 : PairHeard) (x1 : State) : (listenEnd x0 x1).mems = x1.mems := by unfold listenEnd; grind [newLead_mems, State.modOver_mems, refusePair_mems, State.modTwin_mems, beginJoin_mems]
@[simp] theorem fabUnclaimed_mems (x0 : State) : (fabUnclaimed x0).mems = x0.mems := by simp [fabUnclaimed]
@[simp] theorem beginCue_mems (x0 : UnitNo) (x1 : CtxNo) (x2 : ℕ) (x3 : State) : (beginCue x0 x1 x2 x3).mems = x3.mems := by unfold beginCue; grind [State.setSeq_mems, countUse_mems, cueInvalid_mems]
@[simp] theorem writeOwn_mems (x0 : UnitNo) (x1 : CtxNo) (x2 : ℤ) (x3 : ℕ) (x4 : List (ℕ × Bytes)) (x5 : State) : (writeOwn x0 x1 x2 x3 x4 x5).2.mems = x5.mems := by unfold writeOwn; (repeat' split) <;> simp
@[simp] theorem promotionForced_mems (x0 : State) : (promotionForced x0).mems = x0.mems := by unfold promotionForced; (repeat' split) <;> simp
@[simp] theorem doFrecv_mems (x0 : UnitNo) (x1 : Issue) (x2 : PortFields) (x3 : State) : (doFrecv x0 x1 x2 x3).mems = x3.mems := by simp [doFrecv]
@[simp] theorem packetArrives_mems (x0 : ℕ) (x1 : Bytes) (x2 : ℕ) (x3 : State) : (packetArrives x0 x1 x2 x3).mems = x3.mems := by unfold packetArrives; dsimp only; (repeat' split) <;> simp
@[simp] theorem doRound_mems (x0 : UnitNo) (x1 : Issue) (x2 : RoundFields) (x3 : State) : (doRound x0 x1 x2 x3).mems = x3.mems := by unfold doRound; (repeat' split) <;> simp
@[simp] theorem readOwn_mems (x0 : ℕ) (x1 : UnitNo) (x2 : CtxNo) (x3 : ℤ) (x4 : ℕ) (x5 : State) : (readOwn x0 x1 x2 x3 x4 x5).2.mems = x5.mems := by unfold readOwn; (repeat' split) <;> simp
@[simp] theorem writeStoreSeg_mems (x0 : UnitNo) (x1 : CtxNo) (x2 : ℕ) (x3 : ℤ) (x4 : Bytes) (x5 : State) : (writeStoreSeg x0 x1 x2 x3 x4 x5).2.mems = x5.mems := by unfold writeStoreSeg; (repeat' split) <;> simp
@[simp] theorem missHeartbeat_mems (x0 : State) : (missHeartbeat x0).mems = x0.mems := by unfold missHeartbeat; dsimp only; (repeat' split) <;> simp
@[simp] theorem claspCount_mems (x0 : ℕ) (x1 : State) : (claspCount x0 x1).mems = x1.mems := by unfold claspCount; grind [State.fresh_mems, State.modClasp_mems, claspChange_mems]
@[simp] theorem homeWord_mems (x0 : UnitNo) (x1 : Issue) (x2 : ℤ) (x3 : State) : (homeWord x0 x1 x2 x3).2.mems = x3.mems := by unfold homeWord; dsimp only; (repeat' split) <;> simp
@[simp] theorem ownSignet_mems (x0 : SignetItem) (x1 : State) : (ownSignet x0 x1).mems = x1.mems := by unfold ownSignet; dsimp only; (repeat' split) <;> simp
@[simp] theorem doRead_mems (x0 : UnitNo) (x1 : Issue) (x2 : MemFields) (x3 : State) : (doRead x0 x1 x2 x3).mems = x3.mems := by unfold doRead; dsimp only; (repeat' split) <;> simp
@[simp] theorem claspReceive_mems (x0 : ℕ) (x1 : ClaspArrival) (x2 : State) : (claspReceive x0 x1 x2).mems = x2.mems := by unfold claspReceive; dsimp only; (repeat' split) <;> simp
@[simp] theorem readElems_mems (x0 : UnitNo) (x1 : Issue) (x2 : ℕ) (x3 : BitVec 16) (x4 : BitVec 6) (x5 : Fmt) (x6 : State) : (readElems x0 x1 x2 x3 x4 x5 x6).2.mems = x6.mems := by simp [readElems]
@[simp] theorem startRef_mems (x0 : UnitKind) (x1 : UnitNo) (x2 : EngStep) (x3 : State) : (startRef x0 x1 x2 x3).2.mems = x3.mems := by unfold startRef; dsimp only; (repeat' split) <;> simp
@[simp] theorem hostWriteArrives_mems (x0 : ℕ) (x1 : Bytes) (x2 : Bool) (x3 : State) : (hostWriteArrives x0 x1 x2 x3).mems = x3.mems := by unfold hostWriteArrives; dsimp only; (repeat' split) <;> simp
@[simp] theorem signetDone_mems (x0 : SignetItem) (x1 : State) : (signetDone x0 x1).mems = x1.mems := by unfold signetDone; grind [ownSignet_mems, raise_mems, castPut_mems]
@[simp] theorem doSrecPut_mems (x0 : UnitNo) (x1 : Issue) (x2 : PortFields) (x3 : State) : (doSrecPut x0 x1 x2 x3).mems = x3.mems := by unfold doSrecPut; dsimp only; (repeat' split) <;> simp
@[simp] theorem claspLatch_mems (x0 : ℕ) (x1 : State) : (claspLatch x0 x1).mems = x1.mems := by unfold claspLatch; dsimp only; (repeat' split) <;> simp
@[simp] theorem moveInto_mems (x0 : ℕ) (x1 : UnitNo) (x2 : CtxNo) (x3 : ℕ) (x4 : ℤ) (x5 : Bytes) (x6 : State) : (moveInto x0 x1 x2 x3 x4 x5 x6).mems = x6.mems := by unfold moveInto; (repeat' split) <;> simp
@[simp] theorem claspSignetDone_mems (x0 : ℕ) (x1 : State) : (claspSignetDone x0 x1).mems = x1.mems := by unfold claspSignetDone; (repeat' split) <;> simp
@[simp] theorem doCrecv_mems (x0 : UnitNo) (x1 : Issue) (x2 : PortFields) (x3 : State) : (doCrecv x0 x1 x2 x3).mems = x3.mems := by unfold doCrecv; grind [State.modClasp_mems, State.later_mems, claspLatch_mems]
@[simp] theorem vecCodes_mems (x0 : VOp) (x1 : UnitNo) (x2 : Issue) (x3 : VecFields) (x4 : State) : (vecCodes x0 x1 x2 x3 x4).2.mems = x4.mems := by unfold vecCodes; (repeat' split) <;> simp
@[simp] theorem doMload_mems (x0 : UnitNo) (x1 : Issue) (x2 : BitVec 3) (x3 : BitVec 20) (x4 : BitVec 6) (x5 : BitVec 1) (x6 : BitVec 8) (x7 : State) : (doMload x0 x1 x2 x3 x4 x5 x6 x7).mems = x7.mems := by simp [doMload]
@[simp] theorem doLsumOut_mems (x0 : UnitNo) (x1 : Issue) (x2 : LsumOutFields) (x3 : State) : (doLsumOut x0 x1 x2 x3).mems = x3.mems := by simp [doLsumOut]
@[simp] theorem doVec_mems (x0 : VOp) (x1 : UnitNo) (x2 : Issue) (x3 : VecFields) (x4 : State) : (doVec x0 x1 x2 x3 x4).mems = x4.mems := by simp [doVec]
@[simp] theorem requestComplete_mems (x0 : SigRequest) (x1 : State) : (requestComplete x0 x1).mems = x1.mems := by simp [requestComplete]
@[simp] theorem doFill_mems (x0 : UnitNo) (x1 : Issue) (x2 : MoveFields) (x3 : State) : (doFill x0 x1 x2 x3).mems = x3.mems := by simp [doFill]
@[simp] theorem signRecord_mems (x0 : CtxNo) (x1 : Committed) (x2 : State) : (signRecord x0 x1 x2).mems = x2.mems := by unfold signRecord; (repeat' split) <;> simp
@[simp] theorem signetEngine_mems (x0 : ℕ) (x1 : State) : (signetEngine x0 x1).mems = x1.mems := by unfold signetEngine; (repeat' split) <;> simp
@[simp] theorem nameBoundary_mems (x0 : Pending) (x1 : State) : (nameBoundary x0 x1).mems = x1.mems := by unfold nameBoundary; dsimp only; (repeat' split) <;> simp

@[simp] theorem mems_mk (grade : Nat) (steppings : List (BitVec 4)) (sealed : Bool) (bead : Nat) (beadInRot : Nat) (rotLen : Nat) (period : Word) (rotCount : Nat) (rotDone : Bool) (beadShadow : Option Word) (headShadow : Option Word) (spares : List SpareDie) (cells : CellArrays) (seqs : List (UnitNo × Seq)) (engines : List (UnitNo × EngStep)) (rowStats : List (UnitNo × List (Word × Word))) (effects : List Effect) (drives : List Drive) (ctxs : List Ctx) (strands : StrandBlock) (store : List Host.Cell) (lp4x : List Host.Cell) (lp4xCheck : List Host.Cell) (replaced : List OldLine) (bad : List Nat) (bezel : Bezel) (rows : List (Nat × Row)) (live : List (Nat × LiveWord)) (rings : List Ring) (sends : List (CtxNo × Nat × Bytes)) (claspRate : Nat) (clasps : List Clasp) (cast : Cast) (signets : Signets) (pair : Pair) (fabric : Fabric) (clock : Clock) (power : Power) (thermal : Thermal) (locket : Locket) (mgmt : Mgmt) (health : HealthSources) (events : Events) (startup : Startup) (ports : Ports) (inbox : List Input) (out : List Output) (free : Nat) (pending : List Instr) :
    (State.mk grade steppings sealed bead beadInRot rotLen period rotCount rotDone beadShadow headShadow spares cells seqs engines rowStats effects drives ctxs strands store lp4x lp4xCheck replaced bad bezel rows live rings sends claspRate clasps cast signets pair fabric clock power thermal locket mgmt health events startup ports inbox out free pending).mems = (store, lp4x, lp4xCheck) := rfl
@[simp] theorem mems_fold (s : State) : (s.store, s.lp4x, s.lp4xCheck) = s.mems := rfl

end Sys2Proof.Machine
end

