-- ==== Sys2Proof/Laws/MemsMore.lean ====
section
/-! SUPPORT. The functions that leave the memories as they were and whose lemma is not one rewriting. -/

namespace Sys2Proof.Machine

@[simp] theorem takeLive_mems (c : CtxNo) (w : Nat) (b : Bytes) (s : State) : (takeLive c w b s).mems = s.mems := by
  unfold takeLive
  refine (foldl_mems _ (fun t i => ?_) _ _).trans rfl
  dsimp only
  split <;> rfl
@[simp] theorem readRegs_mems (o n : Nat) (s : State) : (readRegs o n s).2.mems = s.mems := by
  induction n generalizing o s with
  | zero => rfl
  | succ n ih => unfold readRegs; dsimp only; rw [ih, readEffect_mems]
@[simp] theorem relayGrants_mems (s : State) : (relayGrants s).mems = s.mems := by
  unfold relayGrants
  refine foldl_mems _ (fun t x => ?_) _ _
  dsimp only
  split <;> simp
@[simp] theorem clearLive_mems (x0 : CtxNo) (x1 : State) : (clearLive x0 x1).mems = x1.mems := by simp [clearLive]
@[simp] theorem rejoinDue_mems (x0 : State) : (rejoinDue x0).mems = x0.mems := by unfold rejoinDue; dsimp only; (repeat' split) <;> simp
@[simp] theorem writeLocked_mems (x0 : ℕ) (x1 : Word) (x2 : State) : (writeLocked x0 x1 x2).mems = x2.mems := by unfold writeLocked; (repeat' split) <;> simp
@[simp] theorem takeCtx_mems (c : CtxNo) (b : Bytes) (s : State) : (takeCtx c b s).mems = s.mems := by
  unfold takeCtx
  dsimp only
  rw [foldl_mems _ (fun t w => takeLive_mems _ _ _ _), State.modCtx_mems, foldl_mems, State.modRing_mems]
  intro t p
  repeat' split
  all_goals first | rfl | simp
/-- A protected command leaves the mems as it was where its own work does. -/
theorem boxProtected_mems (c : CtxNo) (n : Nat) (f : Bytes → State → Bytes × State) (s : State)
    (h : ∀ q t, (f q t).2.mems = t.mems) : (boxProtected c n f s).mems = s.mems := by
  unfold boxProtected
  dsimp only
  repeat' split
  all_goals simp [h]
@[simp] theorem counterAdopt_mems (x0 : DWord) (x1 : Word) (x2 : State) : (counterAdopt x0 x1 x2).mems = x2.mems := by unfold counterAdopt; (repeat' split) <;> simp
@[simp] theorem sendLanes_mems (k n : Nat) (b : Bytes) (s : State) : (sendLanes k n b s).mems = s.mems := by
  unfold sendLanes
  refine (foldl_mems _ (fun t w => ?_) _ _).trans rfl
  dsimp only
  split <;> rfl
@[simp] theorem sendCell_mems (s : State) : (sendCell s).mems = s.mems := by
  unfold sendCell
  dsimp only
  split
  · rw [State.modLink_mems, sendLanes_mems]; rfl
  · rfl
@[simp] theorem withdrawCommits_mems (s : State) : (withdrawCommits s).mems = s.mems := by
  unfold withdrawCommits
  refine foldl_mems _ (fun t c => ?_) _ _
  split
  · exact foldl_mems _ (fun v x => loseEntry_mems _ _ _) _ _
  · rfl
@[simp] theorem openWindows_mems (c : CtxNo) (s : State) : (openWindows c s).mems = s.mems := by
  unfold openWindows
  split
  · refine foldl_mems _ (fun t x => ?_) _ _
    split <;> simp
  · rfl
@[simp] theorem sendPacket_mems (k : Nat) (b : Bytes) (s : State) : (sendPacket k b s).mems = s.mems := by
  unfold sendPacket
  rw [sendLanes_mems]; rfl
@[simp] theorem sendProbes_mems (s : State) : (sendProbes s).mems = s.mems := by
  unfold sendProbes
  split
  · exact foldl_mems _ (fun t m => foldl_mems _ (fun v p => sendPacket_mems _ _ _) _ _) _ _
  · rfl
@[simp] theorem mailEnd_mems (c : CtxNo) (s : State) : (mailEnd c s).mems = s.mems := by
  unfold mailEnd
  split
  · simp
  · exact boxProtected_mems _ _ _ _ fun _ _ => endSession_mems _ _
@[simp] theorem formResult_mems (x0 : UnitKind) (x1 : UnitNo) (x2 : EngStep) (x3 : State) : (formResult x0 x1 x2 x3).2.mems = x3.mems := by unfold formResult; dsimp only; (repeat' split) <;> simp
@[simp] theorem sendPackets_mems (x0 : State) : (sendPackets x0).mems = x0.mems := by simp [sendPackets]
@[simp] theorem claspAligned_mems (x0 : ℕ) (x1 : AlignMeasure) (x2 : State) : (claspAligned x0 x1 x2).mems = x2.mems := by unfold claspAligned; (repeat' split) <;> simp
@[simp] theorem fabSend_mems (x0 : UnitNo) (x1 : Issue) (x2 : PortFields) (x3 : State) : (fabSend x0 x1 x2 x3).mems = x3.mems := by unfold fabSend; dsimp only; (repeat' split) <;> simp
@[simp] theorem castRole_mems (r : Role) (b : Nat) (s : State) : (castRole r b s).mems = s.mems := by
  unfold castRole
  split
  · rfl
  · dsimp only
    refine (foldl_mems _ (fun t c => ?_) _ _).trans rfl
    split <;> simp
@[simp] theorem finishStep_mems (x0 : UnitKind) (x1 : UnitNo) (x2 : EngStep) (x3 : State) : (finishStep x0 x1 x2 x3).mems = x3.mems := by unfold finishStep; dsimp only; (repeat' split) <;> simp
@[simp] theorem judgeHealth_mems (x0 : ℕ) (x1 : State) : (judgeHealth x0 x1).mems = x1.mems := by unfold judgeHealth; dsimp only; (repeat' split) <;> simp
@[simp] theorem formStep_mems (x0 : UnitKind) (x1 : UnitNo) (x2 : EngStep) (x3 : State) : (formStep x0 x1 x2 x3).2.mems = x3.mems := by unfold formStep; dsimp only; (repeat' split) <;> simp
@[simp] theorem oppTake_mems (l : List Nat) (s : State) : (oppTake l s).mems = s.mems := by
  induction l generalizing s with
  | nil => rfl
  | cons t r ih =>
    unfold oppTake
    dsimp only
    split <;> simp [ih]
@[simp] theorem oppOver_mems (t : Nat) (s : State) : (oppOver t s).mems = s.mems := by
  unfold oppOver
  dsimp only
  rw [oppTake_mems]; rfl
@[simp] theorem facetTest_mems (l : List Nat) (s : State) : (facetTest l s).mems = s.mems := by
  unfold facetTest
  split
  · extract_lets t
    have h : t.mems = s.mems := by
      refine (judgeHealth_mems _ _).trans (foldl_mems _ (fun t p => ?_) _ _)
      split <;> simp
    clear_value t
    split
    · rw [State.modStartup_mems, setStep_mems, h]
    · rw [setStep_mems, h]
  · rfl
@[simp] theorem moveSource_mems (d : Nat) (u : UnitNo) (c : CtxNo) (g : Nat) (o : Int) (n : Nat) (s : State) :
    (moveSource d u c g o n s).2.mems = s.mems := by
  unfold moveSource
  split
  · simp
  · simp
@[simp] theorem oppStep_mems (x0 : State) : (oppStep x0).mems = x0.mems := by unfold oppStep; (repeat' split) <;> simp
@[simp] theorem receiveCell_mems (x0 : Bytes) (x1 : State) : (receiveCell x0 x1).mems = x1.mems := by unfold receiveCell; dsimp only; (repeat' split) <;> simp
@[simp] theorem setHealth_mems (x0 : HealthSources → HealthSources) (x1 : ℕ) (x2 : State) : (setHealth x0 x1 x2).mems = x2.mems := by simp [setHealth]
@[simp] theorem facetFails_mems (x0 : ℕ) (x1 : ℕ) (x2 : State) : (facetFails x0 x1 x2).mems = x2.mems := by simp [facetFails]
@[simp] theorem quiesceEffect_mems (a : Bool) (s : State) : (quiesceEffect a s).mems = s.mems := by
  unfold quiesceEffect
  split
  · rw [quiesceCheck_mems]
    refine foldl_mems _ (fun t c => ?_) _ _
    dsimp only
    repeat' split
    all_goals simp
  · dsimp only
    split
    · rw [joinFrom_mems]; rfl
    · rfl
@[simp] theorem unitFails_mems (x0 : UnitNo) (x1 : State) : (unitFails x0 x1).mems = x1.mems := by simp [unitFails]
@[simp] theorem packageActs_mems (x0 : ℕ) (x1 : Sensor) (x2 : Sensor) (x3 : State) : (packageActs x0 x1 x2 x3).mems = x3.mems := by unfold packageActs; dsimp only; (repeat' split) <;> simp
@[simp] theorem doLsumIn_mems (x0 : UnitNo) (x1 : Issue) (x2 : LsumInFields) (x3 : State) : (doLsumIn x0 x1 x2 x3).mems = x3.mems := by simp [doLsumIn]
@[simp] theorem doMac_mems (x0 : Bool) (x1 : UnitNo) (x2 : Issue) (x3 : MacFields) (x4 : State) : (doMac x0 x1 x2 x3 x4).mems = x4.mems := by unfold doMac; dsimp only; (repeat' split) <;> simp
@[simp] theorem huntDone_mems (x0 : CtxNo) (x1 : Bool) (x2 : State) : (huntDone x0 x1 x2).mems = x2.mems := by unfold huntDone; dsimp only; (repeat' split) <;> simp
@[simp] theorem heartbeatDue_mems (x0 : State) : (heartbeatDue x0).mems = x0.mems := by unfold heartbeatDue; (repeat' split) <;> simp
@[simp] theorem guardPair_mems (x0 : Drive) (x1 : Drive) (x2 : State) : (guardPair x0 x1 x2).mems = x2.mems := by simp [guardPair]
@[simp] theorem showUe_mems (x0 : CtxNo) (x1 : UnitNo) (x2 : ℕ) (x3 : ℕ) (x4 : ℕ) (x5 : ℕ) (x6 : ℕ) (x7 : ℕ) (x8 : State) : (showUe x0 x1 x2 x3 x4 x5 x6 x7 x8).mems = x8.mems := by unfold showUe; dsimp only; (repeat' split) <;> simp
@[simp] theorem oppChange_mems (x0 : State) : (oppChange x0).mems = x0.mems := by unfold oppChange; (repeat' split) <;> simp
@[simp] theorem hostReadArrives_mems (o n : Nat) (s : State) : (hostReadArrives o n s).mems = s.mems := by
  unfold hostReadArrives
  extract_lets k x fit
  repeat' split
  all_goals first
    | rfl
    | simp
    | (refine foldl_mems _ (fun t y => ?_) _ _
       split
       · exact State.modBezel_mems _ _
       · rfl)
@[simp] theorem coolEffect_mems (x0 : Bool) (x1 : State) : (coolEffect x0 x1).mems = x1.mems := by unfold coolEffect; (repeat' split) <;> simp
@[simp] theorem rngFails_mems (x0 : State) : (rngFails x0).mems = x0.mems := by simp [rngFails]
@[simp] theorem tripClear_mems (x0 : State) : (tripClear x0).mems = x0.mems := by unfold tripClear; (repeat' split) <;> simp
@[simp] theorem slotGuards_mems (x0 : State) : (slotGuards x0).mems = x0.mems := by simp [slotGuards]
@[simp] theorem doFxch_mems (x0 : UnitNo) (x1 : Issue) (x2 : PortFields) (x3 : State) : (doFxch x0 x1 x2 x3).mems = x3.mems := by simp [doFxch]
@[simp] theorem testUnit_mems (x0 : UnitNo) (x1 : State) : (testUnit x0 x1).mems = x1.mems := by unfold testUnit; (repeat' split) <;> simp
@[simp] theorem fatalFailure_mems (x0 : ℕ) (x1 : State) : (fatalFailure x0 x1).mems = x1.mems := by simp [fatalFailure]
@[simp] theorem trip_mems (x0 : ℕ) (x1 : ℤ) (x2 : State) : (trip x0 x1 x2).mems = x2.mems := by unfold trip; dsimp only; (repeat' split) <;> simp
@[simp] theorem testSpares_mems (x0 : ℕ) (x1 : State) : (testSpares x0 x1).mems = x1.mems := by unfold testSpares; dsimp only; (repeat' split) <;> first | rfl | simp | (refine foldl_mems _ (fun t x => ?_) _ _; (repeat' split) <;> simp)
@[simp] theorem loaderStart_mems (x0 : Bool) (x1 : Bytes) (x2 : NetSettings) (x3 : State) : (loaderStart x0 x1 x2 x3).mems = x3.mems := by unfold loaderStart; dsimp only; (repeat' split) <;> simp
@[simp] theorem selfTests_mems (x0 : State) : (selfTests x0).mems = x0.mems := by unfold selfTests; (repeat' split) <;> simp
@[simp] theorem doCopy_mems (u : UnitNo) (i : Issue) (f : MoveFields) (s : State) : (doCopy u i f s).mems = s.mems := by
  unfold doCopy
  simp
@[simp] theorem drawKey_mems (x0 : State) : (drawKey x0).2.mems = x0.mems := by unfold drawKey; dsimp only; (repeat' split) <;> simp
@[simp] theorem drawNumber_mems (x0 : State) : (drawNumber x0).2.mems = x0.mems := by simp [drawNumber]
@[simp] theorem pinEffect_mems (x0 : PinName) (x1 : Bool) (x2 : State) : (pinEffect x0 x1 x2).mems = x2.mems := by unfold pinEffect; dsimp only; (repeat' split) <;> simp
@[simp] theorem trained_mems (x0 : List ℕ) (x1 : State) : (trained x0 x1).mems = x1.mems := by unfold trained; dsimp only; (repeat' split) <;> simp
@[simp] theorem linkTrained_mems (q : PairCert) (x0 : PairShare) (x1 : List Half) (x2 : State) : (linkTrained q x0 x1 x2).mems = x2.mems := by unfold linkTrained; dsimp only; (repeat' split) <;> simp
@[simp] theorem dieActs_mems (x0 : ℕ) (x1 : Sensor) (x2 : Sensor) (x3 : State) : (dieActs x0 x1 x2 x3).mems = x3.mems := by unfold dieActs; (repeat' split) <;> simp
@[simp] theorem zoneActs_mems (x0 : ℕ) (x1 : Sensor) (x2 : Sensor) (x3 : State) : (zoneActs x0 x1 x2 x3).mems = x3.mems := by unfold zoneActs; dsimp only; (repeat' split) <;> simp
@[simp] theorem alignmentCheck_mems (x0 : Bool) (x1 : State) : (alignmentCheck x0 x1).mems = x1.mems := by unfold alignmentCheck; dsimp only; (repeat' split) <;> simp
@[simp] theorem applyInput_mems (x0 : InputKind) (x1 : ℕ) (x2 : State) : (applyInput x0 x1 x2).mems = x2.mems := by unfold applyInput; dsimp only; (repeat' split) <;> simp
@[simp] theorem attest_mems (x0 : CtxNo) (x1 : Bytes) (x2 : Bytes) (x3 : State) : (attest x0 x1 x2 x3).2.mems = x3.mems := by simp [attest]
@[simp] theorem mailReport_mems (c : CtxNo) (s : State) : (mailReport c s).mems = s.mems :=
  boxProtected_mems _ _ _ _ fun _ _ => attest_mems _ _ _ _
@[simp] theorem kxBegin_mems (x0 : CtxNo) (x1 : State) : (kxBegin x0 x1).mems = x1.mems := by unfold kxBegin; dsimp only; (repeat' split) <;> simp
@[simp] theorem flushRecords_mems (s : State) : (flushRecords s).mems = s.mems := by
  unfold flushRecords
  refine foldl_mems _ (fun t c => ?_) _ _
  refine foldl_mems _ (fun t x => ?_) _ _
  rw [deliverRecord_mems]
  split
  · exact signRecord_mems _ _ _
  · rfl
@[simp] theorem pinUse_mems (x0 : PinName) (x1 : Bool) (x2 : State) : (pinUse x0 x1 x2).mems = x2.mems := by unfold pinUse; (repeat' split) <;> simp
@[simp] theorem sensorTake_mems (x0 : ℕ) (x1 : ℤ) (x2 : State) : (sensorTake x0 x1 x2).mems = x2.mems := by unfold sensorTake; (repeat' split) <;> simp
@[simp] theorem chatterEnd_mems (x0 : PinName) (x1 : State) : (chatterEnd x0 x1).mems = x1.mems := by unfold chatterEnd; dsimp only; (repeat' split) <;> simp
@[simp] theorem boxWork_mems (c : CtxNo) (n : Nat) (s : State) : (boxWork c n s).mems = s.mems := by
  unfold boxWork
  split <;> simp
@[simp] theorem roleExchange_mems (s : State) : (roleExchange s).mems = s.mems := by
  unfold roleExchange
  dsimp only
  repeat' split
  all_goals simp
@[simp] theorem pinChange_mems (x0 : PinName) (x1 : Bool) (x2 : State) : (pinChange x0 x1 x2).mems = x2.mems := by unfold pinChange; dsimp only; (repeat' split) <;> simp
@[simp] theorem mailbox_mems (c : CtxNo) (n : Nat) (s : State) : (mailbox c n s).mems = s.mems := by
  unfold mailbox
  dsimp only
  repeat' split
  all_goals first | rfl | simp
@[simp] theorem sampleAll_mems (x0 : SensorSamples) (x1 : State) : (sampleAll x0 x1).mems = x1.mems := by simp [sampleAll]
@[simp] theorem writeBox_mems (c : CtxNo) (o : Nat) (v : Word) (s : State) : (writeBox c o v s).mems = s.mems := by
  unfold writeBox
  repeat' split
  all_goals first | rfl | simp
@[simp] theorem writeLocket_mems (o : Nat) (v : Word) (s : State) : (writeLocket o v s).mems = s.mems := by
  unfold writeLocket
  dsimp only
  repeat' split
  all_goals first | rfl | simp

/-- Either branch. -/
theorem ite_mems {p : Prop} [Decidable p] {a b : State} {x : List Host.Cell × List Host.Cell × List Host.Cell} (ha : a.mems = x) (hb : b.mems = x) :
    (if p then a else b).mems = x := by split <;> assumption

theorem readPiece_mems (a : Nat) (s : State) (d : Bytes) (t : State) (e : readPiece a s = some (d, t)) : t.mems = s.mems := by
  unfold readPiece at e
  split at e
  · split at e
    · simp only [Option.some.injEq, Prod.mk.injEq] at e
      rw [← e.2, takeMover_mems]
    · contradiction
  · split at e
    · split at e
      · simp only [Option.some.injEq, Prod.mk.injEq] at e
        rw [← e.2, readLine_mems, takeSlot_mems]
      · contradiction
    · contradiction

@[simp] theorem copyPiece_mems (g : Nat) (s : State) : (copyPiece g s).mems = s.mems := by
  unfold copyPiece
  dsimp only
  split
  · rename_i d t e
    rw [State.modJoin_mems, sendSync_mems, readPiece_mems _ _ _ _ e]
  · rfl

@[simp] theorem granuleCopy_mems (s : State) : (granuleCopy s).mems = s.mems := by
  unfold granuleCopy
  repeat' split
  all_goals simp

@[simp] theorem drawOther_mems (f : Nat) (k : BitVec 128) (s : State) : (drawOther f k s).2.mems = s.mems := by
  induction f generalizing k s with
  | zero =>
    unfold drawOther
    dsimp only
    split
    · exact (rngFails_mems _).trans (drawKey_mems s)
    · exact drawKey_mems s
  | succ n ih =>
    unfold drawOther
    dsimp only
    split
    · rw [ih]; exact drawKey_mems s
    · exact drawKey_mems s

@[simp] theorem drawPair_mems (s : State) : (drawPair s).2.mems = s.mems := by
  unfold drawPair
  dsimp only
  rw [drawOther_mems, drawKey_mems]

@[simp] theorem loadPair_mems (c : CtxNo) (s : State) : (loadPair c s).mems = s.mems := by
  unfold loadPair
  dsimp only
  split
  · exact drawPair_mems s
  · rw [State.modBezel_mems, drawPair_mems]

@[simp] theorem startupReady_mems (ws : Settings) (e : Nat) (s : State) : (startupReady ws e s).mems = s.mems := by
  unfold startupReady
  split
  · extract_lets s1 s2 s3 s4 s5 s6 s7
    have h1 : s1.mems = s.mems := foldl_mems _ (fun t (w : Nat × Word) => writeLocked_mems _ _ _) _ _
    clear_value s1
    have h2 : s2.mems = s.mems := by simp [s2, h1]
    clear_value s2
    have h3 : s3.mems = s.mems := by simp only [s3]; split <;> simp [h2]
    clear_value s3
    have h4 : s4.mems = s.mems := by simp [s4, h3]
    clear_value s4
    have h5 : s5.mems = s.mems := by simp [s5, h4]
    clear_value s5
    have h6 : s6.mems = s.mems := by simp [s6, h5]
    clear_value s6
    have h7 : s7.mems = s.mems := by rw [← h6]; exact loadPair_mems _ _
    clear_value s7
    split <;> simp [h7]
  · rfl

@[simp] theorem writeRing_mems (c : CtxNo) (o : Nat) (v : Word) (s : State) : (writeRing c o v s).mems = s.mems := by
  unfold writeRing
  exact ite_mems (indexWrite_mems _ _ _ _) (ite_mems (cancelWrite_mems _ _ _) (ite_mems rfl (State.modRing_mems _ _ _)))

@[simp] theorem writeOpen_mems (o : Nat) (v : Word) (s : State) : (writeOpen o v s).mems = s.mems := by
  unfold writeOpen
  dsimp only
  repeat' split
  all_goals first | rfl | simp

@[simp] theorem writeReg_mems (o : Nat) (v : Word) (s : State) : (writeReg o v s).mems = s.mems := by
  unfold writeReg
  rw [writeOpen_mems]
  split <;> simp

@[simp] theorem hostWrite_mems (o w : Nat) (v : DWord) (s : State) : (hostWrite o w v s).mems = s.mems := by
  unfold hostWrite
  dsimp only
  repeat' split
  all_goals first | rfl | simp

theorem portCue_mems (k : UnitKind) (p : Nat) (u : UnitNo) (w : Issue → PortFields → State → State) (i : Issue)
    (g : State → State) (e : portCue k p u w i = some g) (h : ∀ j f t, (w j f t).mems = t.mems) (t : State) :
    (g t).mems = t.mems := by
  unfold portCue at e
  repeat' split at e
  all_goals first | contradiction | (cases e; exact h _ _ _)


@[simp] theorem beginCues_mems (s : State) : (beginCues s).mems = s.mems := by
  unfold beginCues
  extract_lets s1 s2
  have h1 : s1.mems = s.mems := foldl_mems _ (fun t (q : UnitNo × Seq) => closeWindow_mems q.1 t) _ _
  have h2 : s2.mems = s.mems := (noteTail_mems _).trans ((foldl_mems _ (fun t c => openWindows_mems c t) _ _).trans h1)
  rw [beginLoads_mems]
  refine (foldl_mems _ (fun t (q : UnitNo × Seq) => ?_) _ _).trans h2
  split <;> simp

@[simp] theorem seaSplit_mems (m : Nat) (s : State) : (seaSplit m s).mems = s.mems := by
  unfold seaSplit
  split
  · refine ite_mems ?_ rfl
    refine (foldl_mems _ (fun t c => ?_) _ _).trans ((raise_mems _ _ _).trans rfl)
    exact ite_mems (raiseAt_mems _ _ _ _ _ _ _ _) ((withhold_mems _ _).trans (raiseAt_mems _ _ _ _ _ _ _ _))
  · rfl

@[simp] theorem monitorWindow_mems (w : MonitorWindow) (s : State) : (monitorWindow w s).mems = s.mems := by
  unfold monitorWindow
  extract_lets s1 s2 s3 s4 s5 p s6
  have h1 : s1.mems = s.mems := rfl
  have h2 : s2.mems = s.mems := (foldl_mems _ (fun t p => claspWindow_mems _ _ _ t) _ _).trans h1
  clear_value s1 s2
  have h3 : s3.mems = s.mems := ite_mems ((crystalFails_mems _).trans h2) h2
  clear_value s3
  have h4 : s4.mems = s.mems := ite_mems ((raise_mems _ _ _).trans h3) h3
  clear_value s4
  have h5 : s5.mems = s.mems := ite_mems ((setHealth_mems _ _ _).trans ((sourceLost_mems _).trans h4)) h4
  clear_value s5
  have h6 : s6.mems = s.mems :=
    ite_mems ((raise_mems _ _ _).trans ((slewTo_mems _ _).trans ((State.modClasp_mems _ _ _).trans h5))) h5
  clear_value s6
  exact ite_mems ((slewTo_mems _ _).trans h6) h6

end Sys2Proof.Machine
end

