-- ==== Sys2Proof/Laws/Canon.lean ====
section
/-! SUPPORT. The memories keep their canonical form: one lemma per function that writes them. -/

namespace Sys2Proof.Machine

/-- The form depends on the memories alone. -/
theorem memCanon_of_mems {s t : State} (e : t.mems = s.mems) (h : memCanon s) : memCanon t := by
  simp only [State.mems, Prod.mk.injEq] at e
  obtain ⟨a, b, c⟩ := e
  unfold memCanon at *
  rw [a, b, c]; exact h

theorem foldl_canon {α : Type} (g : State → α → State) (hg : ∀ t x, memCanon t → memCanon (g t x)) (l : List α) (s : State)
    (h : memCanon s) : memCanon (l.foldl g s) := by
  induction l generalizing s with
  | nil => exact h
  | cons a r ih => exact ih _ (hg _ _ h)

theorem storePut_canon (k : Nat) (b : Bytes) (s : State) (h : memCanon s) : memCanon (storePut k b s) :=
  ⟨memWf_memWrite k b h.1, h.2.1, h.2.2⟩

theorem storeClear_canon (k n : Nat) (s : State) (h : memCanon s) : memCanon (storeClear k n s) :=
  ⟨memWf_memClear k n h.1, h.2.1, h.2.2⟩

theorem putLine_canon (ch u : Nat) (p k : Bytes) (s : State) (h : memCanon s) : memCanon (putLine ch u p k s) :=
  ⟨h.1, memWf_memWrite _ p h.2.1, memWf_memWrite _ k h.2.2⟩

theorem storeLine_canon (c : CtxNo) (ch u : Nat) (b : Bytes) (s : State) (h : memCanon s) : memCanon (storeLine c ch u b s) := by
  unfold storeLine
  split
  · exact memCanon_of_mems (channelUe_mems _ _ _) h
  · exact putLine_canon _ _ _ _ _ h

theorem readLine_canon (c : CtxNo) (ch u : Nat) (s : State) (h : memCanon s) : memCanon (readLine c ch u s).2.2 :=
  memCanon_of_mems (readLine_mems _ _ _ _) h

/-- A line read leaves the store. -/
theorem readLine_store (c : CtxNo) (ch u : Nat) (s : State) : (readLine c ch u s).2.2.store = s.store :=
  congrArg Prod.fst (readLine_mems c ch u s)

/-- A posted line is shown to the read alone. -/
@[simp] theorem readPosted_mems (n ch u : Nat) (s : State) : (readPosted n ch u s).2.2.mems = s.mems := by
  unfold readPosted
  split
  · simp only [State.mems, readLine_store, putLine]
  · exact readLine_mems _ _ _ _

@[simp] theorem performRead_mems (n x len ch u : Nat) (s : State) : (performRead n x len ch u s).mems = s.mems := by
  unfold performRead
  exact (State.emit_mems _ _).trans (ite_mems ((lineUe_mems _ _ _ _ _ _ _ _).trans (readPosted_mems _ _ _ _)) (readPosted_mems _ _ _ _))

@[simp] theorem performAccess_mems (ch : Nat) (q : Nat × HostAccess) (s : State) : (performAccess ch q s).mems = s.mems := by
  unfold performAccess
  dsimp only
  repeat' split
  all_goals simp_all

@[simp] theorem hostSlotAccess_mems (ch : Nat) (s : State) : (hostSlotAccess ch s).mems = s.mems := by
  unfold hostSlotAccess
  repeat' split
  all_goals simp

/-! ## Engine steps read lines as they stood -/

@[simp] theorem readSegLineAt_mems (t : Nat) (u : UnitNo) (c : CtxNo) (g : Nat) (o : Int) (s : State) :
    (readSegLineAt t u c g o s).2.mems = s.mems := by
  unfold readSegLineAt
  split
  · simp
  · split
    · dsimp only
      split <;> simp only [State.mems, readLine_store, putLine, lineUe, State.later]
    · simp

@[simp] theorem readLineReq_mems (k : UnitKind) (u : UnitNo) (r : LineReq) (st : EngStep) (s : State) :
    (readLineReq k u r st s).2.mems = s.mems := by
  unfold readLineReq
  dsimp only
  repeat' split
  all_goals simp

@[simp] theorem engineBead_mems (u : UnitNo) (s : State) : (engineBead u s).mems = s.mems := by
  unfold engineBead
  dsimp only
  repeat' split
  all_goals simp

@[simp] theorem startStep_mems (u : UnitNo) (i : Issue) (f : EngFields) (s : State) : (startStep u i f s).mems = s.mems := by
  unfold startStep
  dsimp only
  repeat' split
  all_goals simp

@[simp] theorem claspCue_mems (u : UnitNo) (s : State) : (claspCue u s).mems = s.mems :=
  onIssue_mems _ _ _ fun i g e t => portCue_mems _ _ _ _ i g e (fun _ _ _ => doCsend_mems _ _ _ _) t

theorem cueWork_mems (u : UnitNo) (i : Issue) (g : State → State) (e : cueWork u i = some g) (t : State) :
    (g t).mems = t.mems := by
  unfold cueWork at e
  split at e
  all_goals first
    | (cases e; first | rfl | simp)
    | (split at e <;> (cases e; simp))
    | (unfold portWork at e
       split at e <;> first | contradiction | (cases e; simp))

/-- No cue writes memory in its own bead. -/
@[simp] theorem performCue_mems (u : UnitNo) (s : State) : (performCue u s).mems = s.mems :=
  onIssue_mems _ _ _ fun i g e t => cueWork_mems u i g e t

@[simp] theorem performAll_mems (s : State) : (performAll s).mems = s.mems := by
  unfold performAll
  exact foldl_mems _ (fun t (q : UnitNo × Seq) => performCue_mems q.1 t) _ _

@[simp] theorem settle_mems (s : State) : (settle s).mems = s.mems := by simp [settle]

@[simp] theorem claspDecide_mems (p : Nat) (s : State) : (claspDecide p s).mems = s.mems := by
  unfold claspDecide
  dsimp only
  repeat' split
  all_goals first | rfl | simp

@[simp] theorem decideNow_mems (p : Nat) (s : State) : (decideNow p s).mems = s.mems := by
  unfold decideNow
  split <;> simp

@[simp] theorem releaseNow_mems (c : CtxNo) (s : State) : (releaseNow c s).mems = s.mems := by
  unfold releaseNow
  extract_lets x named forced s1 s2 s3 s4 s5 s6 s7 vias s8 s9 s10
  have h1 : s1.mems = s.mems := by simp [s1]
  have h2 : s2.mems = s.mems := by simp only [s2]; split <;> simp [h1]
  have h3 : s3.mems = s.mems := by simp [s3, h2]
  have h4 : s4.mems = s.mems := by simp [s4, h3]
  have h5 : s5.mems = s.mems := by simp [s5, h4]
  have h6 : s6.mems = s.mems := by simp [s6, h5]
  have h7 : s7.mems = s.mems := by simp [s7, h6]
  have h8 : s8.mems = s.mems := by simp [s8, h7]
  have h9 : s9.mems = s.mems := by simp [s9, h8]
  have h10 : s10.mems = s.mems := by simp only [s10]; split <;> simp [h9]
  rw [quiesceCheck_mems, h10]

/-! ## What writes memory -/

theorem repairLine_canon (ch : Nat) (b : Bytes) (s : State) (h : memCanon s) : memCanon (repairLine ch b s) := by
  unfold repairLine
  dsimp only
  repeat' split
  all_goals first
    | exact h
    | (apply storeLine_canon; exact memCanon_of_mems (by simp) h)

theorem patrol_canon (ch : Nat) (s : State) (h : memCanon s) : memCanon (patrol ch s) := by
  unfold patrol
  dsimp only
  split
  · split
    · split
      · exact memCanon_of_mems (by simp) h
      · exact putLine_canon _ _ _ _ _ (memCanon_of_mems (by simp) h)
    · split <;> exact memCanon_of_mems (by simp) h
  · exact h

theorem castImport_canon (i o : Nat) (b : Bytes) (s : State) (h : memCanon s) : memCanon (castImport i o b s) := by
  unfold castImport
  repeat' split
  · exact memCanon_of_mems (by simp) h
  · exact memCanon_of_mems (by simp) h
  · refine memCanon_of_mems (respond_mems _ _ _ _ _) (foldl_canon _ (fun t p ht => ?_) _ _ h)
    exact storeLine_canon _ _ _ _ _ (readLine_canon _ _ _ _ ht)

theorem castLine_canon (s : State) (h : memCanon s) : memCanon (castLine s) := by
  unfold castLine
  dsimp only
  split
  · refine memCanon_of_mems (State.modCast_mems _ _) (storeLine_canon _ _ _ _ _ ?_)
    exact memCanon_of_mems (by simp) h
  · exact h

theorem scrubWrite_canon (ch : Nat) (s : State) (h : memCanon s) : memCanon (scrubWrite ch s) := by
  unfold scrubWrite
  repeat' split
  · refine memCanon_of_mems (State.modCtx_mems _ _ _) (storeLine_canon _ _ _ _ _ ?_)
    exact memCanon_of_mems (by simp) h
  · exact h
  · exact h

theorem clearOther_canon (c : CtxNo) (s : State) (h : memCanon s) : memCanon (clearOther c s) := by
  unfold clearOther
  dsimp only
  have h1 := foldl_canon (fun t (p : Nat × Nat) => storeClear (storeKey 1 (p.1 * 2 ^ 18 + p.2)) (partSize s c) t)
    (fun t x ht => storeClear_canon _ _ _ ht) (s.ctx c).parts s h
  have h2 := foldl_canon (fun t u => storeClear (unitKey u 0) (2 ^ 24) t) (fun t x ht => storeClear_canon _ _ _ ht)
    ((((s.ctx c).segs.filter fun e => decide (e.2.space = 2) && !e.2.fab).flatMap fun e => coversUnits e.2.base e.2.size).eraseDups) _ h1
  split
  · refine foldl_canon _ (fun t x ht => ?_) _ _ h2
    split
    · exact storeClear_canon _ _ _ ht
    · exact ht
  · exact h2

theorem scrubOther_canon (c : CtxNo) (s : State) (h : memCanon s) : memCanon (scrubOther c s) := by
  unfold scrubOther
  repeat' split
  · exact memCanon_of_mems (State.modCtx_mems _ _ _) (clearOther_canon _ _ h)
  · exact h
  · exact h

theorem keyDestroy_canon (c : CtxNo) (s : State) (h : memCanon s) : memCanon (keyDestroy c s) := by
  unfold keyDestroy
  dsimp only
  repeat' split
  · exact h
  · exact memCanon_of_mems (loadPair_mems _ _) h
  · exact scrubOther_canon _ _ (memCanon_of_mems (by simp) h)
  · exact h

theorem putGranule_canon (c : CtxNo) (a : Nat) (b : Bytes) (s : State) (h : memCanon s) : memCanon (putGranule c a b s) := by
  unfold putGranule
  dsimp only
  repeat' split
  · exact memCanon_of_mems (by simp) h
  · exact storePut_canon _ _ _ h
  · refine foldl_canon _ (fun t p ht => ?_) _ _ h
    split
    · exact storeLine_canon _ _ _ _ _ (readLine_canon _ _ _ _ ht)
    · exact ht

theorem placeSync_canon (c : CtxNo) (a : Nat) (b : Bytes) (s t : State) (e : placeSync c a b s = some t) (h : memCanon s) :
    memCanon t := by
  unfold placeSync at e
  split at e
  · cases e; exact h
  · split at e
    · cases e; exact putGranule_canon _ _ _ _ h
    · split at e
      · split at e <;> cases e
        exact putGranule_canon _ _ _ _ (memCanon_of_mems (takeMover_mems _) h)
      · dsimp only at e
        split at e <;> cases e
        exact putGranule_canon _ _ _ _ (memCanon_of_mems (foldl_mems _ (fun t ch => takeSlot_mems _ _) _ _) h)

theorem placeWaiting_canon (l : List (CtxNo × Nat × Bytes)) (s : State) (h : memCanon s) : memCanon (placeWaiting l s) := by
  induction l generalizing s with
  | nil => exact h
  | cons x r ih =>
    unfold placeWaiting
    split
    · rename_i t e
      exact ih _ (placeSync_canon _ _ _ _ _ e h)
    · exact h

/-- What waits is written as far as the bead's resources reach. -/
theorem drainSync_canon (s : State) (h : memCanon s) : memCanon (drainSync s) := by
  unfold drainSync when_
  split
  · exact placeWaiting_canon _ _ h
  · exact h

theorem syncArrives_canon (c : CtxNo) (a : Nat) (b : Bytes) (s : State) (h : memCanon s) : memCanon (syncArrives c a b s) :=
  drainSync_canon _ h

theorem endBead_canon (s : State) (h : memCanon s) : memCanon (endBead s) := by
  unfold endBead
  exact drainSync_canon _ (memCanon_of_mems (by simp) h)

theorem loadInto_canon (c : CtxNo) (r : InitLoad) (s : State) (h : memCanon s) : memCanon (loadInto c r s) := by
  unfold loadInto
  dsimp only
  split
  · refine foldl_canon _ (fun t p ht => ?_) _ _ h
    split
    · exact storeLine_canon _ _ _ _ _ (readLine_canon _ _ _ _ ht)
    · exact ht
  · exact foldl_canon _ (fun t x ht => storePut_canon _ _ _ ht) _ _ (memCanon_of_mems (writeSeg_mems _ _ _ _ _ _) h)

theorem loadInit_canon (c : CtxNo) (r : InitLoad) (s : State) (h : memCanon s) : memCanon (loadInit c r s) := by
  unfold loadInit
  exact memCanon_of_mems (State.modCtx_mems _ _ _) (loadInto_canon _ _ _ (memCanon_of_mems (State.modCtx_mems _ _ _) h))

theorem admitKeyed_canon (p : Pending) (s : State) (h : memCanon s) : memCanon (admitKeyed p s) := by
  unfold admitKeyed
  extract_lets c t raw r g first per s1 s2 s3 s4 s5 s6 s7 s8 s9 s10
  have h2 : memCanon s2 := memCanon_of_mems (by simp [s2, s1]) h
  have h3 : memCanon s3 := foldl_canon _ (fun t x ht => loadInit_canon _ _ _ ht) _ _ h2
  clear_value s3
  have e4 : s4.mems = s3.mems := by simp [s4]
  have e5 : s5.mems = s3.mems := by
    simp only [s5]
    refine (foldl_mems _ (fun t q => ?_) _ _).trans e4
    split <;> simp
  have e6 : s6.mems = s3.mems := by simp [s6, e5]
  have e7 : s7.mems = s3.mems := by simp [s7, e6]
  have e8 : s8.mems = s3.mems := by simp [s8, e7]
  have e9 : s9.mems = s3.mems := by
    simp only [s9]
    split <;> simp [e8]
  have e10 : s10.mems = s3.mems := by simp only [s10]; split <;> simp [e9]
  exact memCanon_of_mems ((cmdDone_mems _ _ _ _ _).trans e10) h3

theorem admitNow_canon (p : Pending) (s : State) (h : memCanon s) : memCanon (admitNow p s) := by
  unfold admitNow
  dsimp only
  have h1 : memCanon (loadPair p.ctx s) := memCanon_of_mems (loadPair_mems _ _) h
  split
  · exact h1
  · exact admitKeyed_canon _ _ h1

theorem withNamed_canon (s : State) (c : CtxNo) (h : memCanon s) : memCanon (withNamed s c) := by
  unfold withNamed
  exact foldl_canon _ (fun t p ht => admitNow_canon p t ht) _ _ h

theorem admitOrReject_canon (p : Pending) (s : State) (h : memCanon s) : memCanon (admitOrReject p s) := by
  unfold admitOrReject
  dsimp only
  split
  · exact memCanon_of_mems (rejectPending_mems _ _ _) h
  · exact admitNow_canon _ _ h

theorem admissionEffect_canon (c : CtxNo) (s : State) (h : memCanon s) : memCanon (admissionEffect c s) := by
  unfold admissionEffect
  repeat' split
  all_goals first
    | exact h
    | exact admitOrReject_canon _ _ h
    | exact memCanon_of_mems (by simp) h

theorem shadowAdmit_canon (g : GrantRecord) (s : State) (h : memCanon s) : memCanon (shadowAdmit g s) := by
  unfold shadowAdmit
  dsimp only
  repeat' split
  · exact h
  · exact h
  · exact admitNow_canon _ _ h

theorem shadowAdmission_canon (gs : List GrantRecord) (s : State) (h : memCanon s) : memCanon (shadowAdmission gs s) := by
  unfold shadowAdmission
  dsimp only
  have h1 := foldl_canon (fun t (g : GrantRecord) => diverge g.ctx (shadowAdmit g t))
    (fun t g ht => memCanon_of_mems (diverge_mems _ _) (shadowAdmit_canon g t ht)) gs s h
  split
  · exact h
  · split
    · split
      · exact h
      · exact memCanon_of_mems (by simp) h1
    · split
      · exact memCanon_of_mems (by simp) h
      · exact h

@[simp] theorem releaseEffect_mems (c : CtxNo) (s : State) : (releaseEffect c s).mems = s.mems :=
  when_mems _ _ _ fun t => releaseNow_mems c t

theorem applyHostWrite_canon (n x : Nat) (b : Bytes) (ls : List (Nat × Nat × Bytes × Bytes)) (k sub : Nat) (s : State)
    (h : memCanon s) : memCanon (applyHostWrite n x b ls k sub s) := by
  unfold applyHostWrite
  have h1 : memCanon (ls.foldl (fun t l => putLine l.1 l.2.1 l.2.2.1 l.2.2.2 (keepOld l.1 l.2.1 t)) s) :=
    foldl_canon _ (fun t l ht => putLine_canon _ _ _ _ _ (memCanon_of_mems (keepOld_mems _ _ _) ht)) _ _ h
  generalize ls.foldl (fun t l => putLine l.1 l.2.1 l.2.2.1 l.2.2.2 (keepOld l.1 l.2.1 t)) s = t at h1
  refine memCanon_of_mems ?_ h1
  dsimp only
  rw [assign_mems]
  split <;> simp

theorem showEffect_canon (e : Effect) (s : State) (h : memCanon s) : memCanon (showEffect e s) := by
  unfold showEffect
  have h1 : memCanon (markDirty (effectGranules s e) s) := memCanon_of_mems (markDirty_mems _ _) h
  generalize markDirty (effectGranules s e) s = t at h1
  dsimp only
  split
  all_goals first
    | exact h1
    | exact foldl_canon _ (fun t w ht => storePut_canon _ _ _ ht) _ _ h1
    | exact putLine_canon _ _ _ _ _ (memCanon_of_mems (keepOld_mems _ _ _) h1)
    | exact memCanon_of_mems (foldl_mems _ (fun t w => ite_mems (writeReg_mems _ _ _) rfl) _ _) h1
    | exact memCanon_of_mems (by simp) h1

theorem showEffects_canon (s : State) (h : memCanon s) : memCanon (showEffects s) := by
  unfold showEffects
  exact foldl_canon _ (fun t e ht => showEffect_canon e t ht) _ _ h

end Sys2Proof.Machine
end

