-- ==== Sys2Proof/Laws/Cues.lean ====
section
/-! SUPPORT. Fields put together and taken apart again. -/

namespace Sys2Proof

/-- Fields put together and taken apart are the fields, each cut to its width. -/
theorem unpack_fields (ws vs : List Nat) (h : ws.length = vs.length) :
    unpack ws (fields ws vs) = List.zipWith (fun w x => x % 2 ^ w) ws vs := by
  induction ws generalizing vs with
  | nil => simp [unpack]
  | cons w ws ih =>
    cases vs with
    | nil => simp at h
    | cons x vs =>
      have h' : ws.length = vs.length := by simpa using h
      have hp : 0 < 2 ^ w := Nat.two_pow_pos w
      simp only [fields, List.zip_cons_cons, pack, unpack, List.zipWith_cons_cons]
      rw [Nat.add_mul_mod_self_left, Nat.mod_mod, Nat.add_mul_div_left _ _ hp, Nat.div_eq_of_lt (Nat.mod_lt _ hp), Nat.zero_add]
      exact congrArg _ (ih vs h')

/-- A number taken apart and put together again is the number, cut to the widths together. -/
theorem fields_unpack (ws : List Nat) (v : Nat) : fields ws (unpack ws v) = v % 2 ^ ws.sum := by
  induction ws generalizing v with
  | nil => simp [fields, pack, unpack, Nat.mod_one]
  | cons w ws ih =>
    have hp : 0 < 2 ^ w := Nat.two_pow_pos w
    simp only [fields, unpack, List.zip_cons_cons, pack, List.sum_cons] at ih ⊢
    rw [ih, Nat.mod_mod, pow_add, Nat.mod_mul]

/-- Fields put together stay below their widths together. -/
theorem fields_lt (ws vs : List Nat) : fields ws vs < 2 ^ ws.sum := by
  induction ws generalizing vs with
  | nil => simp [fields, pack]
  | cons w ws ih =>
    cases vs with
    | nil => simp [fields, pack]
    | cons x vs =>
      have := ih vs
      have hp : 0 < 2 ^ w := Nat.two_pow_pos w
      simp only [fields, List.zip_cons_cons, pack, List.sum_cons, pow_add] at this ⊢
      calc x % 2 ^ w + 2 ^ w * pack (ws.zip vs) < 2 ^ w + 2 ^ w * pack (ws.zip vs) := by
            exact Nat.add_lt_add_right (Nat.mod_lt _ hp) _
        _ = 2 ^ w * (pack (ws.zip vs) + 1) := by ring
        _ ≤ 2 ^ w * 2 ^ ws.sum := Nat.mul_le_mul_left _ this

end Sys2Proof
end

