-- ==== Sys2Proof/Laws/State.lean ====
section
/-! SUPPORT. What each update of the state leaves as it was, field by field: `simp` rewrites with every clause, so that no
later proof unfolds a record update. -/

namespace Sys2Proof.Machine

/-- `modClock` changes `clock` alone. -/
@[simp] theorem State.modClock_fields (f : Clock → Clock) (s : State) :
    (s.modClock f).clock = f s.clock ∧ (s.modClock f).grade = s.grade ∧ (s.modClock f).steppings = s.steppings ∧
    (s.modClock f).sealed = s.sealed ∧ (s.modClock f).bead = s.bead ∧ (s.modClock f).beadInRot = s.beadInRot ∧
    (s.modClock f).rotLen = s.rotLen ∧ (s.modClock f).period = s.period ∧ (s.modClock f).rotCount = s.rotCount ∧
    (s.modClock f).rotDone = s.rotDone ∧ (s.modClock f).beadShadow = s.beadShadow ∧
    (s.modClock f).headShadow = s.headShadow ∧ (s.modClock f).spares = s.spares ∧ (s.modClock f).cells = s.cells ∧
    (s.modClock f).seqs = s.seqs ∧ (s.modClock f).engines = s.engines ∧ (s.modClock f).rowStats = s.rowStats ∧
    (s.modClock f).effects = s.effects ∧ (s.modClock f).drives = s.drives ∧ (s.modClock f).ctxs = s.ctxs ∧
    (s.modClock f).strands = s.strands ∧ (s.modClock f).store = s.store ∧ (s.modClock f).lp4x = s.lp4x ∧
    (s.modClock f).lp4xCheck = s.lp4xCheck ∧ (s.modClock f).replaced = s.replaced ∧ (s.modClock f).bad = s.bad ∧
    (s.modClock f).bezel = s.bezel ∧ (s.modClock f).rows = s.rows ∧ (s.modClock f).live = s.live ∧
    (s.modClock f).rings = s.rings ∧ (s.modClock f).sends = s.sends ∧ (s.modClock f).claspRate = s.claspRate ∧
    (s.modClock f).clasps = s.clasps ∧ (s.modClock f).cast = s.cast ∧ (s.modClock f).signets = s.signets ∧
    (s.modClock f).pair = s.pair ∧ (s.modClock f).fabric = s.fabric ∧ (s.modClock f).power = s.power ∧
    (s.modClock f).thermal = s.thermal ∧ (s.modClock f).locket = s.locket ∧ (s.modClock f).mgmt = s.mgmt ∧
    (s.modClock f).health = s.health ∧ (s.modClock f).events = s.events ∧ (s.modClock f).startup = s.startup ∧
    (s.modClock f).ports = s.ports ∧ (s.modClock f).inbox = s.inbox ∧ (s.modClock f).out = s.out ∧
    (s.modClock f).free = s.free ∧ (s.modClock f).pending = s.pending := by
  and_intros <;> rfl

/-- `modPower` changes `power` alone. -/
@[simp] theorem State.modPower_fields (f : Power → Power) (s : State) :
    (s.modPower f).power = f s.power ∧ (s.modPower f).grade = s.grade ∧ (s.modPower f).steppings = s.steppings ∧
    (s.modPower f).sealed = s.sealed ∧ (s.modPower f).bead = s.bead ∧ (s.modPower f).beadInRot = s.beadInRot ∧
    (s.modPower f).rotLen = s.rotLen ∧ (s.modPower f).period = s.period ∧ (s.modPower f).rotCount = s.rotCount ∧
    (s.modPower f).rotDone = s.rotDone ∧ (s.modPower f).beadShadow = s.beadShadow ∧
    (s.modPower f).headShadow = s.headShadow ∧ (s.modPower f).spares = s.spares ∧ (s.modPower f).cells = s.cells ∧
    (s.modPower f).seqs = s.seqs ∧ (s.modPower f).engines = s.engines ∧ (s.modPower f).rowStats = s.rowStats ∧
    (s.modPower f).effects = s.effects ∧ (s.modPower f).drives = s.drives ∧ (s.modPower f).ctxs = s.ctxs ∧
    (s.modPower f).strands = s.strands ∧ (s.modPower f).store = s.store ∧ (s.modPower f).lp4x = s.lp4x ∧
    (s.modPower f).lp4xCheck = s.lp4xCheck ∧ (s.modPower f).replaced = s.replaced ∧ (s.modPower f).bad = s.bad ∧
    (s.modPower f).bezel = s.bezel ∧ (s.modPower f).rows = s.rows ∧ (s.modPower f).live = s.live ∧
    (s.modPower f).rings = s.rings ∧ (s.modPower f).sends = s.sends ∧ (s.modPower f).claspRate = s.claspRate ∧
    (s.modPower f).clasps = s.clasps ∧ (s.modPower f).cast = s.cast ∧ (s.modPower f).signets = s.signets ∧
    (s.modPower f).pair = s.pair ∧ (s.modPower f).fabric = s.fabric ∧ (s.modPower f).clock = s.clock ∧
    (s.modPower f).thermal = s.thermal ∧ (s.modPower f).locket = s.locket ∧ (s.modPower f).mgmt = s.mgmt ∧
    (s.modPower f).health = s.health ∧ (s.modPower f).events = s.events ∧ (s.modPower f).startup = s.startup ∧
    (s.modPower f).ports = s.ports ∧ (s.modPower f).inbox = s.inbox ∧ (s.modPower f).out = s.out ∧
    (s.modPower f).free = s.free ∧ (s.modPower f).pending = s.pending := by
  and_intros <;> rfl

/-- `modThermal` changes `thermal` alone. -/
@[simp] theorem State.modThermal_fields (f : Thermal → Thermal) (s : State) :
    (s.modThermal f).thermal = f s.thermal ∧ (s.modThermal f).grade = s.grade ∧
    (s.modThermal f).steppings = s.steppings ∧ (s.modThermal f).sealed = s.sealed ∧ (s.modThermal f).bead = s.bead ∧
    (s.modThermal f).beadInRot = s.beadInRot ∧ (s.modThermal f).rotLen = s.rotLen ∧
    (s.modThermal f).period = s.period ∧ (s.modThermal f).rotCount = s.rotCount ∧
    (s.modThermal f).rotDone = s.rotDone ∧ (s.modThermal f).beadShadow = s.beadShadow ∧
    (s.modThermal f).headShadow = s.headShadow ∧ (s.modThermal f).spares = s.spares ∧
    (s.modThermal f).cells = s.cells ∧ (s.modThermal f).seqs = s.seqs ∧ (s.modThermal f).engines = s.engines ∧
    (s.modThermal f).rowStats = s.rowStats ∧ (s.modThermal f).effects = s.effects ∧
    (s.modThermal f).drives = s.drives ∧ (s.modThermal f).ctxs = s.ctxs ∧ (s.modThermal f).strands = s.strands ∧
    (s.modThermal f).store = s.store ∧ (s.modThermal f).lp4x = s.lp4x ∧ (s.modThermal f).lp4xCheck = s.lp4xCheck ∧
    (s.modThermal f).replaced = s.replaced ∧ (s.modThermal f).bad = s.bad ∧ (s.modThermal f).bezel = s.bezel ∧
    (s.modThermal f).rows = s.rows ∧ (s.modThermal f).live = s.live ∧ (s.modThermal f).rings = s.rings ∧
    (s.modThermal f).sends = s.sends ∧ (s.modThermal f).claspRate = s.claspRate ∧
    (s.modThermal f).clasps = s.clasps ∧ (s.modThermal f).cast = s.cast ∧ (s.modThermal f).signets = s.signets ∧
    (s.modThermal f).pair = s.pair ∧ (s.modThermal f).fabric = s.fabric ∧ (s.modThermal f).clock = s.clock ∧
    (s.modThermal f).power = s.power ∧ (s.modThermal f).locket = s.locket ∧ (s.modThermal f).mgmt = s.mgmt ∧
    (s.modThermal f).health = s.health ∧ (s.modThermal f).events = s.events ∧ (s.modThermal f).startup = s.startup ∧
    (s.modThermal f).ports = s.ports ∧ (s.modThermal f).inbox = s.inbox ∧ (s.modThermal f).out = s.out ∧
    (s.modThermal f).free = s.free ∧ (s.modThermal f).pending = s.pending := by
  and_intros <;> rfl

/-- `modLocket` changes `locket` alone. -/
@[simp] theorem State.modLocket_fields (f : Locket → Locket) (s : State) :
    (s.modLocket f).locket = f s.locket ∧ (s.modLocket f).grade = s.grade ∧ (s.modLocket f).steppings = s.steppings ∧
    (s.modLocket f).sealed = s.sealed ∧ (s.modLocket f).bead = s.bead ∧ (s.modLocket f).beadInRot = s.beadInRot ∧
    (s.modLocket f).rotLen = s.rotLen ∧ (s.modLocket f).period = s.period ∧ (s.modLocket f).rotCount = s.rotCount ∧
    (s.modLocket f).rotDone = s.rotDone ∧ (s.modLocket f).beadShadow = s.beadShadow ∧
    (s.modLocket f).headShadow = s.headShadow ∧ (s.modLocket f).spares = s.spares ∧ (s.modLocket f).cells = s.cells ∧
    (s.modLocket f).seqs = s.seqs ∧ (s.modLocket f).engines = s.engines ∧ (s.modLocket f).rowStats = s.rowStats ∧
    (s.modLocket f).effects = s.effects ∧ (s.modLocket f).drives = s.drives ∧ (s.modLocket f).ctxs = s.ctxs ∧
    (s.modLocket f).strands = s.strands ∧ (s.modLocket f).store = s.store ∧ (s.modLocket f).lp4x = s.lp4x ∧
    (s.modLocket f).lp4xCheck = s.lp4xCheck ∧ (s.modLocket f).replaced = s.replaced ∧ (s.modLocket f).bad = s.bad ∧
    (s.modLocket f).bezel = s.bezel ∧ (s.modLocket f).rows = s.rows ∧ (s.modLocket f).live = s.live ∧
    (s.modLocket f).rings = s.rings ∧ (s.modLocket f).sends = s.sends ∧ (s.modLocket f).claspRate = s.claspRate ∧
    (s.modLocket f).clasps = s.clasps ∧ (s.modLocket f).cast = s.cast ∧ (s.modLocket f).signets = s.signets ∧
    (s.modLocket f).pair = s.pair ∧ (s.modLocket f).fabric = s.fabric ∧ (s.modLocket f).clock = s.clock ∧
    (s.modLocket f).power = s.power ∧ (s.modLocket f).thermal = s.thermal ∧ (s.modLocket f).mgmt = s.mgmt ∧
    (s.modLocket f).health = s.health ∧ (s.modLocket f).events = s.events ∧ (s.modLocket f).startup = s.startup ∧
    (s.modLocket f).ports = s.ports ∧ (s.modLocket f).inbox = s.inbox ∧ (s.modLocket f).out = s.out ∧
    (s.modLocket f).free = s.free ∧ (s.modLocket f).pending = s.pending := by
  and_intros <;> rfl

/-- `modMgmt` changes `mgmt` alone. -/
@[simp] theorem State.modMgmt_fields (f : Mgmt → Mgmt) (s : State) :
    (s.modMgmt f).mgmt = f s.mgmt ∧ (s.modMgmt f).grade = s.grade ∧ (s.modMgmt f).steppings = s.steppings ∧
    (s.modMgmt f).sealed = s.sealed ∧ (s.modMgmt f).bead = s.bead ∧ (s.modMgmt f).beadInRot = s.beadInRot ∧
    (s.modMgmt f).rotLen = s.rotLen ∧ (s.modMgmt f).period = s.period ∧ (s.modMgmt f).rotCount = s.rotCount ∧
    (s.modMgmt f).rotDone = s.rotDone ∧ (s.modMgmt f).beadShadow = s.beadShadow ∧
    (s.modMgmt f).headShadow = s.headShadow ∧ (s.modMgmt f).spares = s.spares ∧ (s.modMgmt f).cells = s.cells ∧
    (s.modMgmt f).seqs = s.seqs ∧ (s.modMgmt f).engines = s.engines ∧ (s.modMgmt f).rowStats = s.rowStats ∧
    (s.modMgmt f).effects = s.effects ∧ (s.modMgmt f).drives = s.drives ∧ (s.modMgmt f).ctxs = s.ctxs ∧
    (s.modMgmt f).strands = s.strands ∧ (s.modMgmt f).store = s.store ∧ (s.modMgmt f).lp4x = s.lp4x ∧
    (s.modMgmt f).lp4xCheck = s.lp4xCheck ∧ (s.modMgmt f).replaced = s.replaced ∧ (s.modMgmt f).bad = s.bad ∧
    (s.modMgmt f).bezel = s.bezel ∧ (s.modMgmt f).rows = s.rows ∧ (s.modMgmt f).live = s.live ∧
    (s.modMgmt f).rings = s.rings ∧ (s.modMgmt f).sends = s.sends ∧ (s.modMgmt f).claspRate = s.claspRate ∧
    (s.modMgmt f).clasps = s.clasps ∧ (s.modMgmt f).cast = s.cast ∧ (s.modMgmt f).signets = s.signets ∧
    (s.modMgmt f).pair = s.pair ∧ (s.modMgmt f).fabric = s.fabric ∧ (s.modMgmt f).clock = s.clock ∧
    (s.modMgmt f).power = s.power ∧ (s.modMgmt f).thermal = s.thermal ∧ (s.modMgmt f).locket = s.locket ∧
    (s.modMgmt f).health = s.health ∧ (s.modMgmt f).events = s.events ∧ (s.modMgmt f).startup = s.startup ∧
    (s.modMgmt f).ports = s.ports ∧ (s.modMgmt f).inbox = s.inbox ∧ (s.modMgmt f).out = s.out ∧
    (s.modMgmt f).free = s.free ∧ (s.modMgmt f).pending = s.pending := by
  and_intros <;> rfl

/-- `modStartup` changes `startup` alone. -/
@[simp] theorem State.modStartup_fields (f : Startup → Startup) (s : State) :
    (s.modStartup f).startup = f s.startup ∧ (s.modStartup f).grade = s.grade ∧
    (s.modStartup f).steppings = s.steppings ∧ (s.modStartup f).sealed = s.sealed ∧ (s.modStartup f).bead = s.bead ∧
    (s.modStartup f).beadInRot = s.beadInRot ∧ (s.modStartup f).rotLen = s.rotLen ∧
    (s.modStartup f).period = s.period ∧ (s.modStartup f).rotCount = s.rotCount ∧
    (s.modStartup f).rotDone = s.rotDone ∧ (s.modStartup f).beadShadow = s.beadShadow ∧
    (s.modStartup f).headShadow = s.headShadow ∧ (s.modStartup f).spares = s.spares ∧
    (s.modStartup f).cells = s.cells ∧ (s.modStartup f).seqs = s.seqs ∧ (s.modStartup f).engines = s.engines ∧
    (s.modStartup f).rowStats = s.rowStats ∧ (s.modStartup f).effects = s.effects ∧
    (s.modStartup f).drives = s.drives ∧ (s.modStartup f).ctxs = s.ctxs ∧ (s.modStartup f).strands = s.strands ∧
    (s.modStartup f).store = s.store ∧ (s.modStartup f).lp4x = s.lp4x ∧ (s.modStartup f).lp4xCheck = s.lp4xCheck ∧
    (s.modStartup f).replaced = s.replaced ∧ (s.modStartup f).bad = s.bad ∧ (s.modStartup f).bezel = s.bezel ∧
    (s.modStartup f).rows = s.rows ∧ (s.modStartup f).live = s.live ∧ (s.modStartup f).rings = s.rings ∧
    (s.modStartup f).sends = s.sends ∧ (s.modStartup f).claspRate = s.claspRate ∧
    (s.modStartup f).clasps = s.clasps ∧ (s.modStartup f).cast = s.cast ∧ (s.modStartup f).signets = s.signets ∧
    (s.modStartup f).pair = s.pair ∧ (s.modStartup f).fabric = s.fabric ∧ (s.modStartup f).clock = s.clock ∧
    (s.modStartup f).power = s.power ∧ (s.modStartup f).thermal = s.thermal ∧ (s.modStartup f).locket = s.locket ∧
    (s.modStartup f).mgmt = s.mgmt ∧ (s.modStartup f).health = s.health ∧ (s.modStartup f).events = s.events ∧
    (s.modStartup f).ports = s.ports ∧ (s.modStartup f).inbox = s.inbox ∧ (s.modStartup f).out = s.out ∧
    (s.modStartup f).free = s.free ∧ (s.modStartup f).pending = s.pending := by
  and_intros <;> rfl

/-- `modPorts` changes `ports` alone. -/
@[simp] theorem State.modPorts_fields (f : Ports → Ports) (s : State) :
    (s.modPorts f).ports = f s.ports ∧ (s.modPorts f).grade = s.grade ∧ (s.modPorts f).steppings = s.steppings ∧
    (s.modPorts f).sealed = s.sealed ∧ (s.modPorts f).bead = s.bead ∧ (s.modPorts f).beadInRot = s.beadInRot ∧
    (s.modPorts f).rotLen = s.rotLen ∧ (s.modPorts f).period = s.period ∧ (s.modPorts f).rotCount = s.rotCount ∧
    (s.modPorts f).rotDone = s.rotDone ∧ (s.modPorts f).beadShadow = s.beadShadow ∧
    (s.modPorts f).headShadow = s.headShadow ∧ (s.modPorts f).spares = s.spares ∧ (s.modPorts f).cells = s.cells ∧
    (s.modPorts f).seqs = s.seqs ∧ (s.modPorts f).engines = s.engines ∧ (s.modPorts f).rowStats = s.rowStats ∧
    (s.modPorts f).effects = s.effects ∧ (s.modPorts f).drives = s.drives ∧ (s.modPorts f).ctxs = s.ctxs ∧
    (s.modPorts f).strands = s.strands ∧ (s.modPorts f).store = s.store ∧ (s.modPorts f).lp4x = s.lp4x ∧
    (s.modPorts f).lp4xCheck = s.lp4xCheck ∧ (s.modPorts f).replaced = s.replaced ∧ (s.modPorts f).bad = s.bad ∧
    (s.modPorts f).bezel = s.bezel ∧ (s.modPorts f).rows = s.rows ∧ (s.modPorts f).live = s.live ∧
    (s.modPorts f).rings = s.rings ∧ (s.modPorts f).sends = s.sends ∧ (s.modPorts f).claspRate = s.claspRate ∧
    (s.modPorts f).clasps = s.clasps ∧ (s.modPorts f).cast = s.cast ∧ (s.modPorts f).signets = s.signets ∧
    (s.modPorts f).pair = s.pair ∧ (s.modPorts f).fabric = s.fabric ∧ (s.modPorts f).clock = s.clock ∧
    (s.modPorts f).power = s.power ∧ (s.modPorts f).thermal = s.thermal ∧ (s.modPorts f).locket = s.locket ∧
    (s.modPorts f).mgmt = s.mgmt ∧ (s.modPorts f).health = s.health ∧ (s.modPorts f).events = s.events ∧
    (s.modPorts f).startup = s.startup ∧ (s.modPorts f).inbox = s.inbox ∧ (s.modPorts f).out = s.out ∧
    (s.modPorts f).free = s.free ∧ (s.modPorts f).pending = s.pending := by
  and_intros <;> rfl

/-- `modCast` changes `cast` alone. -/
@[simp] theorem State.modCast_fields (f : Cast → Cast) (s : State) :
    (s.modCast f).cast = f s.cast ∧ (s.modCast f).grade = s.grade ∧ (s.modCast f).steppings = s.steppings ∧
    (s.modCast f).sealed = s.sealed ∧ (s.modCast f).bead = s.bead ∧ (s.modCast f).beadInRot = s.beadInRot ∧
    (s.modCast f).rotLen = s.rotLen ∧ (s.modCast f).period = s.period ∧ (s.modCast f).rotCount = s.rotCount ∧
    (s.modCast f).rotDone = s.rotDone ∧ (s.modCast f).beadShadow = s.beadShadow ∧
    (s.modCast f).headShadow = s.headShadow ∧ (s.modCast f).spares = s.spares ∧ (s.modCast f).cells = s.cells ∧
    (s.modCast f).seqs = s.seqs ∧ (s.modCast f).engines = s.engines ∧ (s.modCast f).rowStats = s.rowStats ∧
    (s.modCast f).effects = s.effects ∧ (s.modCast f).drives = s.drives ∧ (s.modCast f).ctxs = s.ctxs ∧
    (s.modCast f).strands = s.strands ∧ (s.modCast f).store = s.store ∧ (s.modCast f).lp4x = s.lp4x ∧
    (s.modCast f).lp4xCheck = s.lp4xCheck ∧ (s.modCast f).replaced = s.replaced ∧ (s.modCast f).bad = s.bad ∧
    (s.modCast f).bezel = s.bezel ∧ (s.modCast f).rows = s.rows ∧ (s.modCast f).live = s.live ∧
    (s.modCast f).rings = s.rings ∧ (s.modCast f).sends = s.sends ∧ (s.modCast f).claspRate = s.claspRate ∧
    (s.modCast f).clasps = s.clasps ∧ (s.modCast f).signets = s.signets ∧ (s.modCast f).pair = s.pair ∧
    (s.modCast f).fabric = s.fabric ∧ (s.modCast f).clock = s.clock ∧ (s.modCast f).power = s.power ∧
    (s.modCast f).thermal = s.thermal ∧ (s.modCast f).locket = s.locket ∧ (s.modCast f).mgmt = s.mgmt ∧
    (s.modCast f).health = s.health ∧ (s.modCast f).events = s.events ∧ (s.modCast f).startup = s.startup ∧
    (s.modCast f).ports = s.ports ∧ (s.modCast f).inbox = s.inbox ∧ (s.modCast f).out = s.out ∧
    (s.modCast f).free = s.free ∧ (s.modCast f).pending = s.pending := by
  and_intros <;> rfl

/-- `modSig` changes `signets` alone. -/
@[simp] theorem State.modSig_fields (f : Signets → Signets) (s : State) :
    (s.modSig f).signets = f s.signets ∧ (s.modSig f).grade = s.grade ∧ (s.modSig f).steppings = s.steppings ∧
    (s.modSig f).sealed = s.sealed ∧ (s.modSig f).bead = s.bead ∧ (s.modSig f).beadInRot = s.beadInRot ∧
    (s.modSig f).rotLen = s.rotLen ∧ (s.modSig f).period = s.period ∧ (s.modSig f).rotCount = s.rotCount ∧
    (s.modSig f).rotDone = s.rotDone ∧ (s.modSig f).beadShadow = s.beadShadow ∧
    (s.modSig f).headShadow = s.headShadow ∧ (s.modSig f).spares = s.spares ∧ (s.modSig f).cells = s.cells ∧
    (s.modSig f).seqs = s.seqs ∧ (s.modSig f).engines = s.engines ∧ (s.modSig f).rowStats = s.rowStats ∧
    (s.modSig f).effects = s.effects ∧ (s.modSig f).drives = s.drives ∧ (s.modSig f).ctxs = s.ctxs ∧
    (s.modSig f).strands = s.strands ∧ (s.modSig f).store = s.store ∧ (s.modSig f).lp4x = s.lp4x ∧
    (s.modSig f).lp4xCheck = s.lp4xCheck ∧ (s.modSig f).replaced = s.replaced ∧ (s.modSig f).bad = s.bad ∧
    (s.modSig f).bezel = s.bezel ∧ (s.modSig f).rows = s.rows ∧ (s.modSig f).live = s.live ∧
    (s.modSig f).rings = s.rings ∧ (s.modSig f).sends = s.sends ∧ (s.modSig f).claspRate = s.claspRate ∧
    (s.modSig f).clasps = s.clasps ∧ (s.modSig f).cast = s.cast ∧ (s.modSig f).pair = s.pair ∧
    (s.modSig f).fabric = s.fabric ∧ (s.modSig f).clock = s.clock ∧ (s.modSig f).power = s.power ∧
    (s.modSig f).thermal = s.thermal ∧ (s.modSig f).locket = s.locket ∧ (s.modSig f).mgmt = s.mgmt ∧
    (s.modSig f).health = s.health ∧ (s.modSig f).events = s.events ∧ (s.modSig f).startup = s.startup ∧
    (s.modSig f).ports = s.ports ∧ (s.modSig f).inbox = s.inbox ∧ (s.modSig f).out = s.out ∧
    (s.modSig f).free = s.free ∧ (s.modSig f).pending = s.pending := by
  and_intros <;> rfl

/-- `modFabric` changes `fabric` alone. -/
@[simp] theorem State.modFabric_fields (f : Fabric → Fabric) (s : State) :
    (s.modFabric f).fabric = f s.fabric ∧ (s.modFabric f).grade = s.grade ∧ (s.modFabric f).steppings = s.steppings ∧
    (s.modFabric f).sealed = s.sealed ∧ (s.modFabric f).bead = s.bead ∧ (s.modFabric f).beadInRot = s.beadInRot ∧
    (s.modFabric f).rotLen = s.rotLen ∧ (s.modFabric f).period = s.period ∧ (s.modFabric f).rotCount = s.rotCount ∧
    (s.modFabric f).rotDone = s.rotDone ∧ (s.modFabric f).beadShadow = s.beadShadow ∧
    (s.modFabric f).headShadow = s.headShadow ∧ (s.modFabric f).spares = s.spares ∧ (s.modFabric f).cells = s.cells ∧
    (s.modFabric f).seqs = s.seqs ∧ (s.modFabric f).engines = s.engines ∧ (s.modFabric f).rowStats = s.rowStats ∧
    (s.modFabric f).effects = s.effects ∧ (s.modFabric f).drives = s.drives ∧ (s.modFabric f).ctxs = s.ctxs ∧
    (s.modFabric f).strands = s.strands ∧ (s.modFabric f).store = s.store ∧ (s.modFabric f).lp4x = s.lp4x ∧
    (s.modFabric f).lp4xCheck = s.lp4xCheck ∧ (s.modFabric f).replaced = s.replaced ∧ (s.modFabric f).bad = s.bad ∧
    (s.modFabric f).bezel = s.bezel ∧ (s.modFabric f).rows = s.rows ∧ (s.modFabric f).live = s.live ∧
    (s.modFabric f).rings = s.rings ∧ (s.modFabric f).sends = s.sends ∧ (s.modFabric f).claspRate = s.claspRate ∧
    (s.modFabric f).clasps = s.clasps ∧ (s.modFabric f).cast = s.cast ∧ (s.modFabric f).signets = s.signets ∧
    (s.modFabric f).pair = s.pair ∧ (s.modFabric f).clock = s.clock ∧ (s.modFabric f).power = s.power ∧
    (s.modFabric f).thermal = s.thermal ∧ (s.modFabric f).locket = s.locket ∧ (s.modFabric f).mgmt = s.mgmt ∧
    (s.modFabric f).health = s.health ∧ (s.modFabric f).events = s.events ∧ (s.modFabric f).startup = s.startup ∧
    (s.modFabric f).ports = s.ports ∧ (s.modFabric f).inbox = s.inbox ∧ (s.modFabric f).out = s.out ∧
    (s.modFabric f).free = s.free ∧ (s.modFabric f).pending = s.pending := by
  and_intros <;> rfl

/-- `modStr` changes `strands` alone. -/
@[simp] theorem State.modStr_fields (f : StrandBlock → StrandBlock) (s : State) :
    (s.modStr f).strands = f s.strands ∧ (s.modStr f).grade = s.grade ∧ (s.modStr f).steppings = s.steppings ∧
    (s.modStr f).sealed = s.sealed ∧ (s.modStr f).bead = s.bead ∧ (s.modStr f).beadInRot = s.beadInRot ∧
    (s.modStr f).rotLen = s.rotLen ∧ (s.modStr f).period = s.period ∧ (s.modStr f).rotCount = s.rotCount ∧
    (s.modStr f).rotDone = s.rotDone ∧ (s.modStr f).beadShadow = s.beadShadow ∧
    (s.modStr f).headShadow = s.headShadow ∧ (s.modStr f).spares = s.spares ∧ (s.modStr f).cells = s.cells ∧
    (s.modStr f).seqs = s.seqs ∧ (s.modStr f).engines = s.engines ∧ (s.modStr f).rowStats = s.rowStats ∧
    (s.modStr f).effects = s.effects ∧ (s.modStr f).drives = s.drives ∧ (s.modStr f).ctxs = s.ctxs ∧
    (s.modStr f).store = s.store ∧ (s.modStr f).lp4x = s.lp4x ∧ (s.modStr f).lp4xCheck = s.lp4xCheck ∧
    (s.modStr f).replaced = s.replaced ∧ (s.modStr f).bad = s.bad ∧ (s.modStr f).bezel = s.bezel ∧
    (s.modStr f).rows = s.rows ∧ (s.modStr f).live = s.live ∧ (s.modStr f).rings = s.rings ∧
    (s.modStr f).sends = s.sends ∧ (s.modStr f).claspRate = s.claspRate ∧ (s.modStr f).clasps = s.clasps ∧
    (s.modStr f).cast = s.cast ∧ (s.modStr f).signets = s.signets ∧ (s.modStr f).pair = s.pair ∧
    (s.modStr f).fabric = s.fabric ∧ (s.modStr f).clock = s.clock ∧ (s.modStr f).power = s.power ∧
    (s.modStr f).thermal = s.thermal ∧ (s.modStr f).locket = s.locket ∧ (s.modStr f).mgmt = s.mgmt ∧
    (s.modStr f).health = s.health ∧ (s.modStr f).events = s.events ∧ (s.modStr f).startup = s.startup ∧
    (s.modStr f).ports = s.ports ∧ (s.modStr f).inbox = s.inbox ∧ (s.modStr f).out = s.out ∧
    (s.modStr f).free = s.free ∧ (s.modStr f).pending = s.pending := by
  and_intros <;> rfl

/-- `modEvents` changes `events` alone. -/
@[simp] theorem State.modEvents_fields (f : Events → Events) (s : State) :
    (s.modEvents f).events = f s.events ∧ (s.modEvents f).grade = s.grade ∧ (s.modEvents f).steppings = s.steppings ∧
    (s.modEvents f).sealed = s.sealed ∧ (s.modEvents f).bead = s.bead ∧ (s.modEvents f).beadInRot = s.beadInRot ∧
    (s.modEvents f).rotLen = s.rotLen ∧ (s.modEvents f).period = s.period ∧ (s.modEvents f).rotCount = s.rotCount ∧
    (s.modEvents f).rotDone = s.rotDone ∧ (s.modEvents f).beadShadow = s.beadShadow ∧
    (s.modEvents f).headShadow = s.headShadow ∧ (s.modEvents f).spares = s.spares ∧ (s.modEvents f).cells = s.cells ∧
    (s.modEvents f).seqs = s.seqs ∧ (s.modEvents f).engines = s.engines ∧ (s.modEvents f).rowStats = s.rowStats ∧
    (s.modEvents f).effects = s.effects ∧ (s.modEvents f).drives = s.drives ∧ (s.modEvents f).ctxs = s.ctxs ∧
    (s.modEvents f).strands = s.strands ∧ (s.modEvents f).store = s.store ∧ (s.modEvents f).lp4x = s.lp4x ∧
    (s.modEvents f).lp4xCheck = s.lp4xCheck ∧ (s.modEvents f).replaced = s.replaced ∧ (s.modEvents f).bad = s.bad ∧
    (s.modEvents f).bezel = s.bezel ∧ (s.modEvents f).rows = s.rows ∧ (s.modEvents f).live = s.live ∧
    (s.modEvents f).rings = s.rings ∧ (s.modEvents f).sends = s.sends ∧ (s.modEvents f).claspRate = s.claspRate ∧
    (s.modEvents f).clasps = s.clasps ∧ (s.modEvents f).cast = s.cast ∧ (s.modEvents f).signets = s.signets ∧
    (s.modEvents f).pair = s.pair ∧ (s.modEvents f).fabric = s.fabric ∧ (s.modEvents f).clock = s.clock ∧
    (s.modEvents f).power = s.power ∧ (s.modEvents f).thermal = s.thermal ∧ (s.modEvents f).locket = s.locket ∧
    (s.modEvents f).mgmt = s.mgmt ∧ (s.modEvents f).health = s.health ∧ (s.modEvents f).startup = s.startup ∧
    (s.modEvents f).ports = s.ports ∧ (s.modEvents f).inbox = s.inbox ∧ (s.modEvents f).out = s.out ∧
    (s.modEvents f).free = s.free ∧ (s.modEvents f).pending = s.pending := by
  and_intros <;> rfl

/-- `modBezel` changes `bezel` alone. -/
@[simp] theorem State.modBezel_fields (f : Bezel → Bezel) (s : State) :
    (s.modBezel f).bezel = f s.bezel ∧ (s.modBezel f).grade = s.grade ∧ (s.modBezel f).steppings = s.steppings ∧
    (s.modBezel f).sealed = s.sealed ∧ (s.modBezel f).bead = s.bead ∧ (s.modBezel f).beadInRot = s.beadInRot ∧
    (s.modBezel f).rotLen = s.rotLen ∧ (s.modBezel f).period = s.period ∧ (s.modBezel f).rotCount = s.rotCount ∧
    (s.modBezel f).rotDone = s.rotDone ∧ (s.modBezel f).beadShadow = s.beadShadow ∧
    (s.modBezel f).headShadow = s.headShadow ∧ (s.modBezel f).spares = s.spares ∧ (s.modBezel f).cells = s.cells ∧
    (s.modBezel f).seqs = s.seqs ∧ (s.modBezel f).engines = s.engines ∧ (s.modBezel f).rowStats = s.rowStats ∧
    (s.modBezel f).effects = s.effects ∧ (s.modBezel f).drives = s.drives ∧ (s.modBezel f).ctxs = s.ctxs ∧
    (s.modBezel f).strands = s.strands ∧ (s.modBezel f).store = s.store ∧ (s.modBezel f).lp4x = s.lp4x ∧
    (s.modBezel f).lp4xCheck = s.lp4xCheck ∧ (s.modBezel f).replaced = s.replaced ∧ (s.modBezel f).bad = s.bad ∧
    (s.modBezel f).rows = s.rows ∧ (s.modBezel f).live = s.live ∧ (s.modBezel f).rings = s.rings ∧
    (s.modBezel f).sends = s.sends ∧ (s.modBezel f).claspRate = s.claspRate ∧ (s.modBezel f).clasps = s.clasps ∧
    (s.modBezel f).cast = s.cast ∧ (s.modBezel f).signets = s.signets ∧ (s.modBezel f).pair = s.pair ∧
    (s.modBezel f).fabric = s.fabric ∧ (s.modBezel f).clock = s.clock ∧ (s.modBezel f).power = s.power ∧
    (s.modBezel f).thermal = s.thermal ∧ (s.modBezel f).locket = s.locket ∧ (s.modBezel f).mgmt = s.mgmt ∧
    (s.modBezel f).health = s.health ∧ (s.modBezel f).events = s.events ∧ (s.modBezel f).startup = s.startup ∧
    (s.modBezel f).ports = s.ports ∧ (s.modBezel f).inbox = s.inbox ∧ (s.modBezel f).out = s.out ∧
    (s.modBezel f).free = s.free ∧ (s.modBezel f).pending = s.pending := by
  and_intros <;> rfl

/-- `modHm` changes `mgmt.hm` alone. -/
@[simp] theorem State.modHm_fields (f : Hallmark → Hallmark) (s : State) :
    (s.modHm f).mgmt.hm = f s.mgmt.hm ∧ (s.modHm f).mgmt.up = s.mgmt.up ∧ (s.modHm f).mgmt.net = s.mgmt.net ∧
    (s.modHm f).mgmt.conns = s.mgmt.conns ∧ (s.modHm f).mgmt.nextConn = s.mgmt.nextConn ∧
    (s.modHm f).mgmt.operatorRoot = s.mgmt.operatorRoot ∧ (s.modHm f).mgmt.observerRoot = s.mgmt.observerRoot ∧
    (s.modHm f).mgmt.notices = s.mgmt.notices ∧ (s.modHm f).mgmt.replaceAt = s.mgmt.replaceAt ∧
    (s.modHm f).mgmt.healthLog = s.mgmt.healthLog ∧ (s.modHm f).mgmt.healthLogAt = s.mgmt.healthLogAt ∧
    (s.modHm f).mgmt.image = s.mgmt.image ∧ (s.modHm f).mgmt.imageBase = s.mgmt.imageBase ∧
    (s.modHm f).mgmt.resetDue = s.mgmt.resetDue ∧ (s.modHm f).mgmt.pairToken = s.mgmt.pairToken ∧
    (s.modHm f).mgmt.seaToken = s.mgmt.seaToken ∧ (s.modHm f).grade = s.grade ∧ (s.modHm f).steppings = s.steppings ∧
    (s.modHm f).sealed = s.sealed ∧ (s.modHm f).bead = s.bead ∧ (s.modHm f).beadInRot = s.beadInRot ∧
    (s.modHm f).rotLen = s.rotLen ∧ (s.modHm f).period = s.period ∧ (s.modHm f).rotCount = s.rotCount ∧
    (s.modHm f).rotDone = s.rotDone ∧ (s.modHm f).beadShadow = s.beadShadow ∧ (s.modHm f).headShadow = s.headShadow ∧
    (s.modHm f).spares = s.spares ∧ (s.modHm f).cells = s.cells ∧ (s.modHm f).seqs = s.seqs ∧
    (s.modHm f).engines = s.engines ∧ (s.modHm f).rowStats = s.rowStats ∧ (s.modHm f).effects = s.effects ∧
    (s.modHm f).drives = s.drives ∧ (s.modHm f).ctxs = s.ctxs ∧ (s.modHm f).strands = s.strands ∧
    (s.modHm f).store = s.store ∧ (s.modHm f).lp4x = s.lp4x ∧ (s.modHm f).lp4xCheck = s.lp4xCheck ∧
    (s.modHm f).replaced = s.replaced ∧ (s.modHm f).bad = s.bad ∧ (s.modHm f).bezel = s.bezel ∧
    (s.modHm f).rows = s.rows ∧ (s.modHm f).live = s.live ∧ (s.modHm f).rings = s.rings ∧
    (s.modHm f).sends = s.sends ∧ (s.modHm f).claspRate = s.claspRate ∧ (s.modHm f).clasps = s.clasps ∧
    (s.modHm f).cast = s.cast ∧ (s.modHm f).signets = s.signets ∧ (s.modHm f).pair = s.pair ∧
    (s.modHm f).fabric = s.fabric ∧ (s.modHm f).clock = s.clock ∧ (s.modHm f).power = s.power ∧
    (s.modHm f).thermal = s.thermal ∧ (s.modHm f).locket = s.locket ∧ (s.modHm f).health = s.health ∧
    (s.modHm f).events = s.events ∧ (s.modHm f).startup = s.startup ∧ (s.modHm f).ports = s.ports ∧
    (s.modHm f).inbox = s.inbox ∧ (s.modHm f).out = s.out ∧ (s.modHm f).free = s.free ∧
    (s.modHm f).pending = s.pending := by
  and_intros <;> rfl

/-- `modTwin` changes `pair.regs` alone. -/
@[simp] theorem State.modTwin_fields (f : TwinRegs → TwinRegs) (s : State) :
    (s.modTwin f).pair.regs = f s.pair.regs ∧ (s.modTwin f).pair.link = s.pair.link ∧
    (s.modTwin f).pair.cmp = s.pair.cmp ∧ (s.modTwin f).pair.takeover = s.pair.takeover ∧
    (s.modTwin f).pair.join = s.pair.join ∧ (s.modTwin f).grade = s.grade ∧ (s.modTwin f).steppings = s.steppings ∧
    (s.modTwin f).sealed = s.sealed ∧ (s.modTwin f).bead = s.bead ∧ (s.modTwin f).beadInRot = s.beadInRot ∧
    (s.modTwin f).rotLen = s.rotLen ∧ (s.modTwin f).period = s.period ∧ (s.modTwin f).rotCount = s.rotCount ∧
    (s.modTwin f).rotDone = s.rotDone ∧ (s.modTwin f).beadShadow = s.beadShadow ∧
    (s.modTwin f).headShadow = s.headShadow ∧ (s.modTwin f).spares = s.spares ∧ (s.modTwin f).cells = s.cells ∧
    (s.modTwin f).seqs = s.seqs ∧ (s.modTwin f).engines = s.engines ∧ (s.modTwin f).rowStats = s.rowStats ∧
    (s.modTwin f).effects = s.effects ∧ (s.modTwin f).drives = s.drives ∧ (s.modTwin f).ctxs = s.ctxs ∧
    (s.modTwin f).strands = s.strands ∧ (s.modTwin f).store = s.store ∧ (s.modTwin f).lp4x = s.lp4x ∧
    (s.modTwin f).lp4xCheck = s.lp4xCheck ∧ (s.modTwin f).replaced = s.replaced ∧ (s.modTwin f).bad = s.bad ∧
    (s.modTwin f).bezel = s.bezel ∧ (s.modTwin f).rows = s.rows ∧ (s.modTwin f).live = s.live ∧
    (s.modTwin f).rings = s.rings ∧ (s.modTwin f).sends = s.sends ∧ (s.modTwin f).claspRate = s.claspRate ∧
    (s.modTwin f).clasps = s.clasps ∧ (s.modTwin f).cast = s.cast ∧ (s.modTwin f).signets = s.signets ∧
    (s.modTwin f).fabric = s.fabric ∧ (s.modTwin f).clock = s.clock ∧ (s.modTwin f).power = s.power ∧
    (s.modTwin f).thermal = s.thermal ∧ (s.modTwin f).locket = s.locket ∧ (s.modTwin f).mgmt = s.mgmt ∧
    (s.modTwin f).health = s.health ∧ (s.modTwin f).events = s.events ∧ (s.modTwin f).startup = s.startup ∧
    (s.modTwin f).ports = s.ports ∧ (s.modTwin f).inbox = s.inbox ∧ (s.modTwin f).out = s.out ∧
    (s.modTwin f).free = s.free ∧ (s.modTwin f).pending = s.pending := by
  and_intros <;> rfl

/-- `modLink` changes `pair.link` alone. -/
@[simp] theorem State.modLink_fields (f : TwinLink → TwinLink) (s : State) :
    (s.modLink f).pair.link = f s.pair.link ∧ (s.modLink f).pair.regs = s.pair.regs ∧
    (s.modLink f).pair.cmp = s.pair.cmp ∧ (s.modLink f).pair.takeover = s.pair.takeover ∧
    (s.modLink f).pair.join = s.pair.join ∧ (s.modLink f).grade = s.grade ∧ (s.modLink f).steppings = s.steppings ∧
    (s.modLink f).sealed = s.sealed ∧ (s.modLink f).bead = s.bead ∧ (s.modLink f).beadInRot = s.beadInRot ∧
    (s.modLink f).rotLen = s.rotLen ∧ (s.modLink f).period = s.period ∧ (s.modLink f).rotCount = s.rotCount ∧
    (s.modLink f).rotDone = s.rotDone ∧ (s.modLink f).beadShadow = s.beadShadow ∧
    (s.modLink f).headShadow = s.headShadow ∧ (s.modLink f).spares = s.spares ∧ (s.modLink f).cells = s.cells ∧
    (s.modLink f).seqs = s.seqs ∧ (s.modLink f).engines = s.engines ∧ (s.modLink f).rowStats = s.rowStats ∧
    (s.modLink f).effects = s.effects ∧ (s.modLink f).drives = s.drives ∧ (s.modLink f).ctxs = s.ctxs ∧
    (s.modLink f).strands = s.strands ∧ (s.modLink f).store = s.store ∧ (s.modLink f).lp4x = s.lp4x ∧
    (s.modLink f).lp4xCheck = s.lp4xCheck ∧ (s.modLink f).replaced = s.replaced ∧ (s.modLink f).bad = s.bad ∧
    (s.modLink f).bezel = s.bezel ∧ (s.modLink f).rows = s.rows ∧ (s.modLink f).live = s.live ∧
    (s.modLink f).rings = s.rings ∧ (s.modLink f).sends = s.sends ∧ (s.modLink f).claspRate = s.claspRate ∧
    (s.modLink f).clasps = s.clasps ∧ (s.modLink f).cast = s.cast ∧ (s.modLink f).signets = s.signets ∧
    (s.modLink f).fabric = s.fabric ∧ (s.modLink f).clock = s.clock ∧ (s.modLink f).power = s.power ∧
    (s.modLink f).thermal = s.thermal ∧ (s.modLink f).locket = s.locket ∧ (s.modLink f).mgmt = s.mgmt ∧
    (s.modLink f).health = s.health ∧ (s.modLink f).events = s.events ∧ (s.modLink f).startup = s.startup ∧
    (s.modLink f).ports = s.ports ∧ (s.modLink f).inbox = s.inbox ∧ (s.modLink f).out = s.out ∧
    (s.modLink f).free = s.free ∧ (s.modLink f).pending = s.pending := by
  and_intros <;> rfl

/-- `modCmp` changes `pair.cmp` alone. -/
@[simp] theorem State.modCmp_fields (f : TwinCompare → TwinCompare) (s : State) :
    (s.modCmp f).pair.cmp = f s.pair.cmp ∧ (s.modCmp f).pair.regs = s.pair.regs ∧
    (s.modCmp f).pair.link = s.pair.link ∧ (s.modCmp f).pair.takeover = s.pair.takeover ∧
    (s.modCmp f).pair.join = s.pair.join ∧ (s.modCmp f).grade = s.grade ∧ (s.modCmp f).steppings = s.steppings ∧
    (s.modCmp f).sealed = s.sealed ∧ (s.modCmp f).bead = s.bead ∧ (s.modCmp f).beadInRot = s.beadInRot ∧
    (s.modCmp f).rotLen = s.rotLen ∧ (s.modCmp f).period = s.period ∧ (s.modCmp f).rotCount = s.rotCount ∧
    (s.modCmp f).rotDone = s.rotDone ∧ (s.modCmp f).beadShadow = s.beadShadow ∧
    (s.modCmp f).headShadow = s.headShadow ∧ (s.modCmp f).spares = s.spares ∧ (s.modCmp f).cells = s.cells ∧
    (s.modCmp f).seqs = s.seqs ∧ (s.modCmp f).engines = s.engines ∧ (s.modCmp f).rowStats = s.rowStats ∧
    (s.modCmp f).effects = s.effects ∧ (s.modCmp f).drives = s.drives ∧ (s.modCmp f).ctxs = s.ctxs ∧
    (s.modCmp f).strands = s.strands ∧ (s.modCmp f).store = s.store ∧ (s.modCmp f).lp4x = s.lp4x ∧
    (s.modCmp f).lp4xCheck = s.lp4xCheck ∧ (s.modCmp f).replaced = s.replaced ∧ (s.modCmp f).bad = s.bad ∧
    (s.modCmp f).bezel = s.bezel ∧ (s.modCmp f).rows = s.rows ∧ (s.modCmp f).live = s.live ∧
    (s.modCmp f).rings = s.rings ∧ (s.modCmp f).sends = s.sends ∧ (s.modCmp f).claspRate = s.claspRate ∧
    (s.modCmp f).clasps = s.clasps ∧ (s.modCmp f).cast = s.cast ∧ (s.modCmp f).signets = s.signets ∧
    (s.modCmp f).fabric = s.fabric ∧ (s.modCmp f).clock = s.clock ∧ (s.modCmp f).power = s.power ∧
    (s.modCmp f).thermal = s.thermal ∧ (s.modCmp f).locket = s.locket ∧ (s.modCmp f).mgmt = s.mgmt ∧
    (s.modCmp f).health = s.health ∧ (s.modCmp f).events = s.events ∧ (s.modCmp f).startup = s.startup ∧
    (s.modCmp f).ports = s.ports ∧ (s.modCmp f).inbox = s.inbox ∧ (s.modCmp f).out = s.out ∧
    (s.modCmp f).free = s.free ∧ (s.modCmp f).pending = s.pending := by
  and_intros <;> rfl

/-- `modOver` changes `pair.takeover` alone. -/
@[simp] theorem State.modOver_fields (f : TwinOver → TwinOver) (s : State) :
    (s.modOver f).pair.takeover = f s.pair.takeover ∧ (s.modOver f).pair.regs = s.pair.regs ∧
    (s.modOver f).pair.link = s.pair.link ∧ (s.modOver f).pair.cmp = s.pair.cmp ∧
    (s.modOver f).pair.join = s.pair.join ∧ (s.modOver f).grade = s.grade ∧ (s.modOver f).steppings = s.steppings ∧
    (s.modOver f).sealed = s.sealed ∧ (s.modOver f).bead = s.bead ∧ (s.modOver f).beadInRot = s.beadInRot ∧
    (s.modOver f).rotLen = s.rotLen ∧ (s.modOver f).period = s.period ∧ (s.modOver f).rotCount = s.rotCount ∧
    (s.modOver f).rotDone = s.rotDone ∧ (s.modOver f).beadShadow = s.beadShadow ∧
    (s.modOver f).headShadow = s.headShadow ∧ (s.modOver f).spares = s.spares ∧ (s.modOver f).cells = s.cells ∧
    (s.modOver f).seqs = s.seqs ∧ (s.modOver f).engines = s.engines ∧ (s.modOver f).rowStats = s.rowStats ∧
    (s.modOver f).effects = s.effects ∧ (s.modOver f).drives = s.drives ∧ (s.modOver f).ctxs = s.ctxs ∧
    (s.modOver f).strands = s.strands ∧ (s.modOver f).store = s.store ∧ (s.modOver f).lp4x = s.lp4x ∧
    (s.modOver f).lp4xCheck = s.lp4xCheck ∧ (s.modOver f).replaced = s.replaced ∧ (s.modOver f).bad = s.bad ∧
    (s.modOver f).bezel = s.bezel ∧ (s.modOver f).rows = s.rows ∧ (s.modOver f).live = s.live ∧
    (s.modOver f).rings = s.rings ∧ (s.modOver f).sends = s.sends ∧ (s.modOver f).claspRate = s.claspRate ∧
    (s.modOver f).clasps = s.clasps ∧ (s.modOver f).cast = s.cast ∧ (s.modOver f).signets = s.signets ∧
    (s.modOver f).fabric = s.fabric ∧ (s.modOver f).clock = s.clock ∧ (s.modOver f).power = s.power ∧
    (s.modOver f).thermal = s.thermal ∧ (s.modOver f).locket = s.locket ∧ (s.modOver f).mgmt = s.mgmt ∧
    (s.modOver f).health = s.health ∧ (s.modOver f).events = s.events ∧ (s.modOver f).startup = s.startup ∧
    (s.modOver f).ports = s.ports ∧ (s.modOver f).inbox = s.inbox ∧ (s.modOver f).out = s.out ∧
    (s.modOver f).free = s.free ∧ (s.modOver f).pending = s.pending := by
  and_intros <;> rfl

/-- `modJoin` changes `pair.join` alone. -/
@[simp] theorem State.modJoin_fields (f : Join → Join) (s : State) :
    (s.modJoin f).pair.join = f s.pair.join ∧ (s.modJoin f).pair.regs = s.pair.regs ∧
    (s.modJoin f).pair.link = s.pair.link ∧ (s.modJoin f).pair.cmp = s.pair.cmp ∧
    (s.modJoin f).pair.takeover = s.pair.takeover ∧ (s.modJoin f).grade = s.grade ∧
    (s.modJoin f).steppings = s.steppings ∧ (s.modJoin f).sealed = s.sealed ∧ (s.modJoin f).bead = s.bead ∧
    (s.modJoin f).beadInRot = s.beadInRot ∧ (s.modJoin f).rotLen = s.rotLen ∧ (s.modJoin f).period = s.period ∧
    (s.modJoin f).rotCount = s.rotCount ∧ (s.modJoin f).rotDone = s.rotDone ∧
    (s.modJoin f).beadShadow = s.beadShadow ∧ (s.modJoin f).headShadow = s.headShadow ∧
    (s.modJoin f).spares = s.spares ∧ (s.modJoin f).cells = s.cells ∧ (s.modJoin f).seqs = s.seqs ∧
    (s.modJoin f).engines = s.engines ∧ (s.modJoin f).rowStats = s.rowStats ∧ (s.modJoin f).effects = s.effects ∧
    (s.modJoin f).drives = s.drives ∧ (s.modJoin f).ctxs = s.ctxs ∧ (s.modJoin f).strands = s.strands ∧
    (s.modJoin f).store = s.store ∧ (s.modJoin f).lp4x = s.lp4x ∧ (s.modJoin f).lp4xCheck = s.lp4xCheck ∧
    (s.modJoin f).replaced = s.replaced ∧ (s.modJoin f).bad = s.bad ∧ (s.modJoin f).bezel = s.bezel ∧
    (s.modJoin f).rows = s.rows ∧ (s.modJoin f).live = s.live ∧ (s.modJoin f).rings = s.rings ∧
    (s.modJoin f).sends = s.sends ∧ (s.modJoin f).claspRate = s.claspRate ∧ (s.modJoin f).clasps = s.clasps ∧
    (s.modJoin f).cast = s.cast ∧ (s.modJoin f).signets = s.signets ∧ (s.modJoin f).fabric = s.fabric ∧
    (s.modJoin f).clock = s.clock ∧ (s.modJoin f).power = s.power ∧ (s.modJoin f).thermal = s.thermal ∧
    (s.modJoin f).locket = s.locket ∧ (s.modJoin f).mgmt = s.mgmt ∧ (s.modJoin f).health = s.health ∧
    (s.modJoin f).events = s.events ∧ (s.modJoin f).startup = s.startup ∧ (s.modJoin f).ports = s.ports ∧
    (s.modJoin f).inbox = s.inbox ∧ (s.modJoin f).out = s.out ∧ (s.modJoin f).free = s.free ∧
    (s.modJoin f).pending = s.pending := by
  and_intros <;> rfl

/-- `modCtx` changes one of `ctxs` alone. -/
@[simp] theorem State.modCtx_fields (f : Ctx → Ctx) (i : CtxNo) (s : State) :
    (s.modCtx f i).ctxs = modifyAt f i s.ctxs ∧ (s.modCtx f i).grade = s.grade ∧
    (s.modCtx f i).steppings = s.steppings ∧ (s.modCtx f i).sealed = s.sealed ∧ (s.modCtx f i).bead = s.bead ∧
    (s.modCtx f i).beadInRot = s.beadInRot ∧ (s.modCtx f i).rotLen = s.rotLen ∧ (s.modCtx f i).period = s.period ∧
    (s.modCtx f i).rotCount = s.rotCount ∧ (s.modCtx f i).rotDone = s.rotDone ∧
    (s.modCtx f i).beadShadow = s.beadShadow ∧ (s.modCtx f i).headShadow = s.headShadow ∧
    (s.modCtx f i).spares = s.spares ∧ (s.modCtx f i).cells = s.cells ∧ (s.modCtx f i).seqs = s.seqs ∧
    (s.modCtx f i).engines = s.engines ∧ (s.modCtx f i).rowStats = s.rowStats ∧ (s.modCtx f i).effects = s.effects ∧
    (s.modCtx f i).drives = s.drives ∧ (s.modCtx f i).strands = s.strands ∧ (s.modCtx f i).store = s.store ∧
    (s.modCtx f i).lp4x = s.lp4x ∧ (s.modCtx f i).lp4xCheck = s.lp4xCheck ∧ (s.modCtx f i).replaced = s.replaced ∧
    (s.modCtx f i).bad = s.bad ∧ (s.modCtx f i).bezel = s.bezel ∧ (s.modCtx f i).rows = s.rows ∧
    (s.modCtx f i).live = s.live ∧ (s.modCtx f i).rings = s.rings ∧ (s.modCtx f i).sends = s.sends ∧
    (s.modCtx f i).claspRate = s.claspRate ∧ (s.modCtx f i).clasps = s.clasps ∧ (s.modCtx f i).cast = s.cast ∧
    (s.modCtx f i).signets = s.signets ∧ (s.modCtx f i).pair = s.pair ∧ (s.modCtx f i).fabric = s.fabric ∧
    (s.modCtx f i).clock = s.clock ∧ (s.modCtx f i).power = s.power ∧ (s.modCtx f i).thermal = s.thermal ∧
    (s.modCtx f i).locket = s.locket ∧ (s.modCtx f i).mgmt = s.mgmt ∧ (s.modCtx f i).health = s.health ∧
    (s.modCtx f i).events = s.events ∧ (s.modCtx f i).startup = s.startup ∧ (s.modCtx f i).ports = s.ports ∧
    (s.modCtx f i).inbox = s.inbox ∧ (s.modCtx f i).out = s.out ∧ (s.modCtx f i).free = s.free ∧
    (s.modCtx f i).pending = s.pending := by
  and_intros <;> rfl

/-- `modRing` changes one of `rings` alone. -/
@[simp] theorem State.modRing_fields (f : Ring → Ring) (i : CtxNo) (s : State) :
    (s.modRing f i).rings = modifyAt f i s.rings ∧ (s.modRing f i).grade = s.grade ∧
    (s.modRing f i).steppings = s.steppings ∧ (s.modRing f i).sealed = s.sealed ∧ (s.modRing f i).bead = s.bead ∧
    (s.modRing f i).beadInRot = s.beadInRot ∧ (s.modRing f i).rotLen = s.rotLen ∧ (s.modRing f i).period = s.period ∧
    (s.modRing f i).rotCount = s.rotCount ∧ (s.modRing f i).rotDone = s.rotDone ∧
    (s.modRing f i).beadShadow = s.beadShadow ∧ (s.modRing f i).headShadow = s.headShadow ∧
    (s.modRing f i).spares = s.spares ∧ (s.modRing f i).cells = s.cells ∧ (s.modRing f i).seqs = s.seqs ∧
    (s.modRing f i).engines = s.engines ∧ (s.modRing f i).rowStats = s.rowStats ∧
    (s.modRing f i).effects = s.effects ∧ (s.modRing f i).drives = s.drives ∧ (s.modRing f i).ctxs = s.ctxs ∧
    (s.modRing f i).strands = s.strands ∧ (s.modRing f i).store = s.store ∧ (s.modRing f i).lp4x = s.lp4x ∧
    (s.modRing f i).lp4xCheck = s.lp4xCheck ∧ (s.modRing f i).replaced = s.replaced ∧ (s.modRing f i).bad = s.bad ∧
    (s.modRing f i).bezel = s.bezel ∧ (s.modRing f i).rows = s.rows ∧ (s.modRing f i).live = s.live ∧
    (s.modRing f i).sends = s.sends ∧ (s.modRing f i).claspRate = s.claspRate ∧ (s.modRing f i).clasps = s.clasps ∧
    (s.modRing f i).cast = s.cast ∧ (s.modRing f i).signets = s.signets ∧ (s.modRing f i).pair = s.pair ∧
    (s.modRing f i).fabric = s.fabric ∧ (s.modRing f i).clock = s.clock ∧ (s.modRing f i).power = s.power ∧
    (s.modRing f i).thermal = s.thermal ∧ (s.modRing f i).locket = s.locket ∧ (s.modRing f i).mgmt = s.mgmt ∧
    (s.modRing f i).health = s.health ∧ (s.modRing f i).events = s.events ∧ (s.modRing f i).startup = s.startup ∧
    (s.modRing f i).ports = s.ports ∧ (s.modRing f i).inbox = s.inbox ∧ (s.modRing f i).out = s.out ∧
    (s.modRing f i).free = s.free ∧ (s.modRing f i).pending = s.pending := by
  and_intros <;> rfl

/-- `modClasp` changes one of `clasps` alone. -/
@[simp] theorem State.modClasp_fields (f : Clasp → Clasp) (i : Nat) (s : State) :
    (s.modClasp f i).clasps = modifyAt f i s.clasps ∧ (s.modClasp f i).grade = s.grade ∧
    (s.modClasp f i).steppings = s.steppings ∧ (s.modClasp f i).sealed = s.sealed ∧ (s.modClasp f i).bead = s.bead ∧
    (s.modClasp f i).beadInRot = s.beadInRot ∧ (s.modClasp f i).rotLen = s.rotLen ∧
    (s.modClasp f i).period = s.period ∧ (s.modClasp f i).rotCount = s.rotCount ∧
    (s.modClasp f i).rotDone = s.rotDone ∧ (s.modClasp f i).beadShadow = s.beadShadow ∧
    (s.modClasp f i).headShadow = s.headShadow ∧ (s.modClasp f i).spares = s.spares ∧
    (s.modClasp f i).cells = s.cells ∧ (s.modClasp f i).seqs = s.seqs ∧ (s.modClasp f i).engines = s.engines ∧
    (s.modClasp f i).rowStats = s.rowStats ∧ (s.modClasp f i).effects = s.effects ∧
    (s.modClasp f i).drives = s.drives ∧ (s.modClasp f i).ctxs = s.ctxs ∧ (s.modClasp f i).strands = s.strands ∧
    (s.modClasp f i).store = s.store ∧ (s.modClasp f i).lp4x = s.lp4x ∧ (s.modClasp f i).lp4xCheck = s.lp4xCheck ∧
    (s.modClasp f i).replaced = s.replaced ∧ (s.modClasp f i).bad = s.bad ∧ (s.modClasp f i).bezel = s.bezel ∧
    (s.modClasp f i).rows = s.rows ∧ (s.modClasp f i).live = s.live ∧ (s.modClasp f i).rings = s.rings ∧
    (s.modClasp f i).sends = s.sends ∧ (s.modClasp f i).claspRate = s.claspRate ∧ (s.modClasp f i).cast = s.cast ∧
    (s.modClasp f i).signets = s.signets ∧ (s.modClasp f i).pair = s.pair ∧ (s.modClasp f i).fabric = s.fabric ∧
    (s.modClasp f i).clock = s.clock ∧ (s.modClasp f i).power = s.power ∧ (s.modClasp f i).thermal = s.thermal ∧
    (s.modClasp f i).locket = s.locket ∧ (s.modClasp f i).mgmt = s.mgmt ∧ (s.modClasp f i).health = s.health ∧
    (s.modClasp f i).events = s.events ∧ (s.modClasp f i).startup = s.startup ∧ (s.modClasp f i).ports = s.ports ∧
    (s.modClasp f i).inbox = s.inbox ∧ (s.modClasp f i).out = s.out ∧ (s.modClasp f i).free = s.free ∧
    (s.modClasp f i).pending = s.pending := by
  and_intros <;> rfl

/-- `modSpare` changes one of `spares` alone. -/
@[simp] theorem State.modSpare_fields (f : SpareDie → SpareDie) (i : Nat) (s : State) :
    (s.modSpare f i).spares = modifyAt f i s.spares ∧ (s.modSpare f i).grade = s.grade ∧
    (s.modSpare f i).steppings = s.steppings ∧ (s.modSpare f i).sealed = s.sealed ∧ (s.modSpare f i).bead = s.bead ∧
    (s.modSpare f i).beadInRot = s.beadInRot ∧ (s.modSpare f i).rotLen = s.rotLen ∧
    (s.modSpare f i).period = s.period ∧ (s.modSpare f i).rotCount = s.rotCount ∧
    (s.modSpare f i).rotDone = s.rotDone ∧ (s.modSpare f i).beadShadow = s.beadShadow ∧
    (s.modSpare f i).headShadow = s.headShadow ∧ (s.modSpare f i).cells = s.cells ∧ (s.modSpare f i).seqs = s.seqs ∧
    (s.modSpare f i).engines = s.engines ∧ (s.modSpare f i).rowStats = s.rowStats ∧
    (s.modSpare f i).effects = s.effects ∧ (s.modSpare f i).drives = s.drives ∧ (s.modSpare f i).ctxs = s.ctxs ∧
    (s.modSpare f i).strands = s.strands ∧ (s.modSpare f i).store = s.store ∧ (s.modSpare f i).lp4x = s.lp4x ∧
    (s.modSpare f i).lp4xCheck = s.lp4xCheck ∧ (s.modSpare f i).replaced = s.replaced ∧
    (s.modSpare f i).bad = s.bad ∧ (s.modSpare f i).bezel = s.bezel ∧ (s.modSpare f i).rows = s.rows ∧
    (s.modSpare f i).live = s.live ∧ (s.modSpare f i).rings = s.rings ∧ (s.modSpare f i).sends = s.sends ∧
    (s.modSpare f i).claspRate = s.claspRate ∧ (s.modSpare f i).clasps = s.clasps ∧ (s.modSpare f i).cast = s.cast ∧
    (s.modSpare f i).signets = s.signets ∧ (s.modSpare f i).pair = s.pair ∧ (s.modSpare f i).fabric = s.fabric ∧
    (s.modSpare f i).clock = s.clock ∧ (s.modSpare f i).power = s.power ∧ (s.modSpare f i).thermal = s.thermal ∧
    (s.modSpare f i).locket = s.locket ∧ (s.modSpare f i).mgmt = s.mgmt ∧ (s.modSpare f i).health = s.health ∧
    (s.modSpare f i).events = s.events ∧ (s.modSpare f i).startup = s.startup ∧ (s.modSpare f i).ports = s.ports ∧
    (s.modSpare f i).inbox = s.inbox ∧ (s.modSpare f i).out = s.out ∧ (s.modSpare f i).free = s.free ∧
    (s.modSpare f i).pending = s.pending := by
  and_intros <;> rfl

/-- `modSec` changes one of `ctxs` alone. -/
@[simp] theorem State.modSec_fields (f : Sec → Sec) (i : CtxNo) (s : State) :
    (s.modSec f i).grade = s.grade ∧ (s.modSec f i).steppings = s.steppings ∧ (s.modSec f i).sealed = s.sealed ∧
    (s.modSec f i).bead = s.bead ∧ (s.modSec f i).beadInRot = s.beadInRot ∧ (s.modSec f i).rotLen = s.rotLen ∧
    (s.modSec f i).period = s.period ∧ (s.modSec f i).rotCount = s.rotCount ∧ (s.modSec f i).rotDone = s.rotDone ∧
    (s.modSec f i).beadShadow = s.beadShadow ∧ (s.modSec f i).headShadow = s.headShadow ∧
    (s.modSec f i).spares = s.spares ∧ (s.modSec f i).cells = s.cells ∧ (s.modSec f i).seqs = s.seqs ∧
    (s.modSec f i).engines = s.engines ∧ (s.modSec f i).rowStats = s.rowStats ∧ (s.modSec f i).effects = s.effects ∧
    (s.modSec f i).drives = s.drives ∧ (s.modSec f i).strands = s.strands ∧ (s.modSec f i).store = s.store ∧
    (s.modSec f i).lp4x = s.lp4x ∧ (s.modSec f i).lp4xCheck = s.lp4xCheck ∧ (s.modSec f i).replaced = s.replaced ∧
    (s.modSec f i).bad = s.bad ∧ (s.modSec f i).bezel = s.bezel ∧ (s.modSec f i).rows = s.rows ∧
    (s.modSec f i).live = s.live ∧ (s.modSec f i).rings = s.rings ∧ (s.modSec f i).sends = s.sends ∧
    (s.modSec f i).claspRate = s.claspRate ∧ (s.modSec f i).clasps = s.clasps ∧ (s.modSec f i).cast = s.cast ∧
    (s.modSec f i).signets = s.signets ∧ (s.modSec f i).pair = s.pair ∧ (s.modSec f i).fabric = s.fabric ∧
    (s.modSec f i).clock = s.clock ∧ (s.modSec f i).power = s.power ∧ (s.modSec f i).thermal = s.thermal ∧
    (s.modSec f i).locket = s.locket ∧ (s.modSec f i).mgmt = s.mgmt ∧ (s.modSec f i).health = s.health ∧
    (s.modSec f i).events = s.events ∧ (s.modSec f i).startup = s.startup ∧ (s.modSec f i).ports = s.ports ∧
    (s.modSec f i).inbox = s.inbox ∧ (s.modSec f i).out = s.out ∧ (s.modSec f i).free = s.free ∧
    (s.modSec f i).pending = s.pending := by
  and_intros <;> rfl

/-- `modBox` changes one of `ctxs` alone. -/
@[simp] theorem State.modBox_fields (f : Mailbox → Mailbox) (i : CtxNo) (s : State) :
    (s.modBox f i).grade = s.grade ∧ (s.modBox f i).steppings = s.steppings ∧ (s.modBox f i).sealed = s.sealed ∧
    (s.modBox f i).bead = s.bead ∧ (s.modBox f i).beadInRot = s.beadInRot ∧ (s.modBox f i).rotLen = s.rotLen ∧
    (s.modBox f i).period = s.period ∧ (s.modBox f i).rotCount = s.rotCount ∧ (s.modBox f i).rotDone = s.rotDone ∧
    (s.modBox f i).beadShadow = s.beadShadow ∧ (s.modBox f i).headShadow = s.headShadow ∧
    (s.modBox f i).spares = s.spares ∧ (s.modBox f i).cells = s.cells ∧ (s.modBox f i).seqs = s.seqs ∧
    (s.modBox f i).engines = s.engines ∧ (s.modBox f i).rowStats = s.rowStats ∧ (s.modBox f i).effects = s.effects ∧
    (s.modBox f i).drives = s.drives ∧ (s.modBox f i).strands = s.strands ∧ (s.modBox f i).store = s.store ∧
    (s.modBox f i).lp4x = s.lp4x ∧ (s.modBox f i).lp4xCheck = s.lp4xCheck ∧ (s.modBox f i).replaced = s.replaced ∧
    (s.modBox f i).bad = s.bad ∧ (s.modBox f i).bezel = s.bezel ∧ (s.modBox f i).rows = s.rows ∧
    (s.modBox f i).live = s.live ∧ (s.modBox f i).rings = s.rings ∧ (s.modBox f i).sends = s.sends ∧
    (s.modBox f i).claspRate = s.claspRate ∧ (s.modBox f i).clasps = s.clasps ∧ (s.modBox f i).cast = s.cast ∧
    (s.modBox f i).signets = s.signets ∧ (s.modBox f i).pair = s.pair ∧ (s.modBox f i).fabric = s.fabric ∧
    (s.modBox f i).clock = s.clock ∧ (s.modBox f i).power = s.power ∧ (s.modBox f i).thermal = s.thermal ∧
    (s.modBox f i).locket = s.locket ∧ (s.modBox f i).mgmt = s.mgmt ∧ (s.modBox f i).health = s.health ∧
    (s.modBox f i).events = s.events ∧ (s.modBox f i).startup = s.startup ∧ (s.modBox f i).ports = s.ports ∧
    (s.modBox f i).inbox = s.inbox ∧ (s.modBox f i).out = s.out ∧ (s.modBox f i).free = s.free ∧
    (s.modBox f i).pending = s.pending := by
  and_intros <;> rfl

/-- `modChan` changes one of `bezel.channels` alone. -/
@[simp] theorem State.modChan_fields (f : Channel → Channel) (i : Nat) (s : State) :
    (s.modChan f i).bezel.channels = modifyAt f i s.bezel.channels ∧
    (s.modChan f i).bezel.patrolEn = s.bezel.patrolEn ∧ (s.modChan f i).bezel.hostSlots = s.bezel.hostSlots ∧
    (s.modChan f i).bezel.apertures = s.bezel.apertures ∧ (s.modChan f i).bezel.queue = s.bezel.queue ∧
    (s.modChan f i).bezel.posted = s.bezel.posted ∧ (s.modChan f i).bezel.keys = s.bezel.keys ∧
    (s.modChan f i).grade = s.grade ∧ (s.modChan f i).steppings = s.steppings ∧ (s.modChan f i).sealed = s.sealed ∧
    (s.modChan f i).bead = s.bead ∧ (s.modChan f i).beadInRot = s.beadInRot ∧ (s.modChan f i).rotLen = s.rotLen ∧
    (s.modChan f i).period = s.period ∧ (s.modChan f i).rotCount = s.rotCount ∧ (s.modChan f i).rotDone = s.rotDone ∧
    (s.modChan f i).beadShadow = s.beadShadow ∧ (s.modChan f i).headShadow = s.headShadow ∧
    (s.modChan f i).spares = s.spares ∧ (s.modChan f i).cells = s.cells ∧ (s.modChan f i).seqs = s.seqs ∧
    (s.modChan f i).engines = s.engines ∧ (s.modChan f i).rowStats = s.rowStats ∧
    (s.modChan f i).effects = s.effects ∧ (s.modChan f i).drives = s.drives ∧ (s.modChan f i).ctxs = s.ctxs ∧
    (s.modChan f i).strands = s.strands ∧ (s.modChan f i).store = s.store ∧ (s.modChan f i).lp4x = s.lp4x ∧
    (s.modChan f i).lp4xCheck = s.lp4xCheck ∧ (s.modChan f i).replaced = s.replaced ∧ (s.modChan f i).bad = s.bad ∧
    (s.modChan f i).rows = s.rows ∧ (s.modChan f i).live = s.live ∧ (s.modChan f i).rings = s.rings ∧
    (s.modChan f i).sends = s.sends ∧ (s.modChan f i).claspRate = s.claspRate ∧ (s.modChan f i).clasps = s.clasps ∧
    (s.modChan f i).cast = s.cast ∧ (s.modChan f i).signets = s.signets ∧ (s.modChan f i).pair = s.pair ∧
    (s.modChan f i).fabric = s.fabric ∧ (s.modChan f i).clock = s.clock ∧ (s.modChan f i).power = s.power ∧
    (s.modChan f i).thermal = s.thermal ∧ (s.modChan f i).locket = s.locket ∧ (s.modChan f i).mgmt = s.mgmt ∧
    (s.modChan f i).health = s.health ∧ (s.modChan f i).events = s.events ∧ (s.modChan f i).startup = s.startup ∧
    (s.modChan f i).ports = s.ports ∧ (s.modChan f i).inbox = s.inbox ∧ (s.modChan f i).out = s.out ∧
    (s.modChan f i).free = s.free ∧ (s.modChan f i).pending = s.pending := by
  and_intros <;> rfl

/-- `emit` changes `out` alone. -/
@[simp] theorem State.emit_fields (o : Output) (s : State) :
    (s.emit o).out = o :: s.out ∧ (s.emit o).grade = s.grade ∧ (s.emit o).steppings = s.steppings ∧
    (s.emit o).sealed = s.sealed ∧ (s.emit o).bead = s.bead ∧ (s.emit o).beadInRot = s.beadInRot ∧
    (s.emit o).rotLen = s.rotLen ∧ (s.emit o).period = s.period ∧ (s.emit o).rotCount = s.rotCount ∧
    (s.emit o).rotDone = s.rotDone ∧ (s.emit o).beadShadow = s.beadShadow ∧ (s.emit o).headShadow = s.headShadow ∧
    (s.emit o).spares = s.spares ∧ (s.emit o).cells = s.cells ∧ (s.emit o).seqs = s.seqs ∧
    (s.emit o).engines = s.engines ∧ (s.emit o).rowStats = s.rowStats ∧ (s.emit o).effects = s.effects ∧
    (s.emit o).drives = s.drives ∧ (s.emit o).ctxs = s.ctxs ∧ (s.emit o).strands = s.strands ∧
    (s.emit o).store = s.store ∧ (s.emit o).lp4x = s.lp4x ∧ (s.emit o).lp4xCheck = s.lp4xCheck ∧
    (s.emit o).replaced = s.replaced ∧ (s.emit o).bad = s.bad ∧ (s.emit o).bezel = s.bezel ∧
    (s.emit o).rows = s.rows ∧ (s.emit o).live = s.live ∧ (s.emit o).rings = s.rings ∧ (s.emit o).sends = s.sends ∧
    (s.emit o).claspRate = s.claspRate ∧ (s.emit o).clasps = s.clasps ∧ (s.emit o).cast = s.cast ∧
    (s.emit o).signets = s.signets ∧ (s.emit o).pair = s.pair ∧ (s.emit o).fabric = s.fabric ∧
    (s.emit o).clock = s.clock ∧ (s.emit o).power = s.power ∧ (s.emit o).thermal = s.thermal ∧
    (s.emit o).locket = s.locket ∧ (s.emit o).mgmt = s.mgmt ∧ (s.emit o).health = s.health ∧
    (s.emit o).events = s.events ∧ (s.emit o).startup = s.startup ∧ (s.emit o).ports = s.ports ∧
    (s.emit o).inbox = s.inbox ∧ (s.emit o).free = s.free ∧ (s.emit o).pending = s.pending := by
  and_intros <;> rfl

/-- `setSeq` changes one of `seqs` alone. -/
@[simp] theorem State.setSeq_fields (u : UnitNo) (q : Seq) (s : State) :
    (s.setSeq u q).seqs = assocSet u q s.seqs ∧ (s.setSeq u q).grade = s.grade ∧
    (s.setSeq u q).steppings = s.steppings ∧ (s.setSeq u q).sealed = s.sealed ∧ (s.setSeq u q).bead = s.bead ∧
    (s.setSeq u q).beadInRot = s.beadInRot ∧ (s.setSeq u q).rotLen = s.rotLen ∧ (s.setSeq u q).period = s.period ∧
    (s.setSeq u q).rotCount = s.rotCount ∧ (s.setSeq u q).rotDone = s.rotDone ∧
    (s.setSeq u q).beadShadow = s.beadShadow ∧ (s.setSeq u q).headShadow = s.headShadow ∧
    (s.setSeq u q).spares = s.spares ∧ (s.setSeq u q).cells = s.cells ∧ (s.setSeq u q).engines = s.engines ∧
    (s.setSeq u q).rowStats = s.rowStats ∧ (s.setSeq u q).effects = s.effects ∧ (s.setSeq u q).drives = s.drives ∧
    (s.setSeq u q).ctxs = s.ctxs ∧ (s.setSeq u q).strands = s.strands ∧ (s.setSeq u q).store = s.store ∧
    (s.setSeq u q).lp4x = s.lp4x ∧ (s.setSeq u q).lp4xCheck = s.lp4xCheck ∧ (s.setSeq u q).replaced = s.replaced ∧
    (s.setSeq u q).bad = s.bad ∧ (s.setSeq u q).bezel = s.bezel ∧ (s.setSeq u q).rows = s.rows ∧
    (s.setSeq u q).live = s.live ∧ (s.setSeq u q).rings = s.rings ∧ (s.setSeq u q).sends = s.sends ∧
    (s.setSeq u q).claspRate = s.claspRate ∧ (s.setSeq u q).clasps = s.clasps ∧ (s.setSeq u q).cast = s.cast ∧
    (s.setSeq u q).signets = s.signets ∧ (s.setSeq u q).pair = s.pair ∧ (s.setSeq u q).fabric = s.fabric ∧
    (s.setSeq u q).clock = s.clock ∧ (s.setSeq u q).power = s.power ∧ (s.setSeq u q).thermal = s.thermal ∧
    (s.setSeq u q).locket = s.locket ∧ (s.setSeq u q).mgmt = s.mgmt ∧ (s.setSeq u q).health = s.health ∧
    (s.setSeq u q).events = s.events ∧ (s.setSeq u q).startup = s.startup ∧ (s.setSeq u q).ports = s.ports ∧
    (s.setSeq u q).inbox = s.inbox ∧ (s.setSeq u q).out = s.out ∧ (s.setSeq u q).free = s.free ∧
    (s.setSeq u q).pending = s.pending := by
  and_intros <;> rfl

/-- `setLive` changes one of `live` alone. -/
@[simp] theorem State.setLive_fields (w : Nat) (l : LiveWord) (s : State) :
    (s.setLive w l).live = assocSet w l s.live ∧ (s.setLive w l).grade = s.grade ∧
    (s.setLive w l).steppings = s.steppings ∧ (s.setLive w l).sealed = s.sealed ∧ (s.setLive w l).bead = s.bead ∧
    (s.setLive w l).beadInRot = s.beadInRot ∧ (s.setLive w l).rotLen = s.rotLen ∧ (s.setLive w l).period = s.period ∧
    (s.setLive w l).rotCount = s.rotCount ∧ (s.setLive w l).rotDone = s.rotDone ∧
    (s.setLive w l).beadShadow = s.beadShadow ∧ (s.setLive w l).headShadow = s.headShadow ∧
    (s.setLive w l).spares = s.spares ∧ (s.setLive w l).cells = s.cells ∧ (s.setLive w l).seqs = s.seqs ∧
    (s.setLive w l).engines = s.engines ∧ (s.setLive w l).rowStats = s.rowStats ∧
    (s.setLive w l).effects = s.effects ∧ (s.setLive w l).drives = s.drives ∧ (s.setLive w l).ctxs = s.ctxs ∧
    (s.setLive w l).strands = s.strands ∧ (s.setLive w l).store = s.store ∧ (s.setLive w l).lp4x = s.lp4x ∧
    (s.setLive w l).lp4xCheck = s.lp4xCheck ∧ (s.setLive w l).replaced = s.replaced ∧ (s.setLive w l).bad = s.bad ∧
    (s.setLive w l).bezel = s.bezel ∧ (s.setLive w l).rows = s.rows ∧ (s.setLive w l).rings = s.rings ∧
    (s.setLive w l).sends = s.sends ∧ (s.setLive w l).claspRate = s.claspRate ∧ (s.setLive w l).clasps = s.clasps ∧
    (s.setLive w l).cast = s.cast ∧ (s.setLive w l).signets = s.signets ∧ (s.setLive w l).pair = s.pair ∧
    (s.setLive w l).fabric = s.fabric ∧ (s.setLive w l).clock = s.clock ∧ (s.setLive w l).power = s.power ∧
    (s.setLive w l).thermal = s.thermal ∧ (s.setLive w l).locket = s.locket ∧ (s.setLive w l).mgmt = s.mgmt ∧
    (s.setLive w l).health = s.health ∧ (s.setLive w l).events = s.events ∧ (s.setLive w l).startup = s.startup ∧
    (s.setLive w l).ports = s.ports ∧ (s.setLive w l).inbox = s.inbox ∧ (s.setLive w l).out = s.out ∧
    (s.setLive w l).free = s.free ∧ (s.setLive w l).pending = s.pending := by
  and_intros <;> rfl

/-- `later` adds one effect in flight and changes nothing else. -/
@[simp] theorem State.later_fields (s : State) (d : Nat) (u : UnitNo) (c : CtxNo) (k : EffKind) :
    (s.later d u c k).effects = { due := s.bead + d, began := s.bead, unit := u, ctx := c, kind := k } :: s.effects ∧
    (s.later d u c k).grade = s.grade ∧ (s.later d u c k).steppings = s.steppings ∧
    (s.later d u c k).sealed = s.sealed ∧ (s.later d u c k).bead = s.bead ∧
    (s.later d u c k).beadInRot = s.beadInRot ∧ (s.later d u c k).rotLen = s.rotLen ∧
    (s.later d u c k).period = s.period ∧ (s.later d u c k).rotCount = s.rotCount ∧
    (s.later d u c k).rotDone = s.rotDone ∧ (s.later d u c k).beadShadow = s.beadShadow ∧
    (s.later d u c k).headShadow = s.headShadow ∧ (s.later d u c k).spares = s.spares ∧
    (s.later d u c k).cells = s.cells ∧ (s.later d u c k).seqs = s.seqs ∧ (s.later d u c k).engines = s.engines ∧
    (s.later d u c k).rowStats = s.rowStats ∧ (s.later d u c k).drives = s.drives ∧ (s.later d u c k).ctxs = s.ctxs ∧
    (s.later d u c k).strands = s.strands ∧ (s.later d u c k).store = s.store ∧ (s.later d u c k).lp4x = s.lp4x ∧
    (s.later d u c k).lp4xCheck = s.lp4xCheck ∧ (s.later d u c k).replaced = s.replaced ∧
    (s.later d u c k).bad = s.bad ∧ (s.later d u c k).bezel = s.bezel ∧ (s.later d u c k).rows = s.rows ∧
    (s.later d u c k).live = s.live ∧ (s.later d u c k).rings = s.rings ∧ (s.later d u c k).sends = s.sends ∧
    (s.later d u c k).claspRate = s.claspRate ∧ (s.later d u c k).clasps = s.clasps ∧
    (s.later d u c k).cast = s.cast ∧ (s.later d u c k).signets = s.signets ∧ (s.later d u c k).pair = s.pair ∧
    (s.later d u c k).fabric = s.fabric ∧ (s.later d u c k).clock = s.clock ∧ (s.later d u c k).power = s.power ∧
    (s.later d u c k).thermal = s.thermal ∧ (s.later d u c k).locket = s.locket ∧ (s.later d u c k).mgmt = s.mgmt ∧
    (s.later d u c k).health = s.health ∧ (s.later d u c k).events = s.events ∧
    (s.later d u c k).startup = s.startup ∧ (s.later d u c k).ports = s.ports ∧ (s.later d u c k).inbox = s.inbox ∧
    (s.later d u c k).out = s.out ∧ (s.later d u c k).free = s.free ∧ (s.later d u c k).pending = s.pending := by
  and_intros <;> rfl

/-- `done` takes the begun cue of a unit and changes nothing else. -/
@[simp] theorem done_fields (u : UnitNo) (s : State) :
    (done u s).seqs = assocSet u { s.seq u with issue := none } s.seqs ∧ (done u s).grade = s.grade ∧
    (done u s).steppings = s.steppings ∧ (done u s).sealed = s.sealed ∧ (done u s).bead = s.bead ∧
    (done u s).beadInRot = s.beadInRot ∧ (done u s).rotLen = s.rotLen ∧ (done u s).period = s.period ∧
    (done u s).rotCount = s.rotCount ∧ (done u s).rotDone = s.rotDone ∧ (done u s).beadShadow = s.beadShadow ∧
    (done u s).headShadow = s.headShadow ∧ (done u s).spares = s.spares ∧ (done u s).cells = s.cells ∧
    (done u s).engines = s.engines ∧ (done u s).rowStats = s.rowStats ∧ (done u s).effects = s.effects ∧
    (done u s).drives = s.drives ∧ (done u s).ctxs = s.ctxs ∧ (done u s).strands = s.strands ∧
    (done u s).store = s.store ∧ (done u s).lp4x = s.lp4x ∧ (done u s).lp4xCheck = s.lp4xCheck ∧
    (done u s).replaced = s.replaced ∧ (done u s).bad = s.bad ∧ (done u s).bezel = s.bezel ∧
    (done u s).rows = s.rows ∧ (done u s).live = s.live ∧ (done u s).rings = s.rings ∧ (done u s).sends = s.sends ∧
    (done u s).claspRate = s.claspRate ∧ (done u s).clasps = s.clasps ∧ (done u s).cast = s.cast ∧
    (done u s).signets = s.signets ∧ (done u s).pair = s.pair ∧ (done u s).fabric = s.fabric ∧
    (done u s).clock = s.clock ∧ (done u s).power = s.power ∧ (done u s).thermal = s.thermal ∧
    (done u s).locket = s.locket ∧ (done u s).mgmt = s.mgmt ∧ (done u s).health = s.health ∧
    (done u s).events = s.events ∧ (done u s).startup = s.startup ∧ (done u s).ports = s.ports ∧
    (done u s).inbox = s.inbox ∧ (done u s).out = s.out ∧ (done u s).free = s.free ∧ (done u s).pending = s.pending := by
  and_intros <;> rfl

/-- `drive` adds one drive and changes nothing else. -/
@[simp] theorem drive_fields (u : UnitNo) (c : CtxNo) (n a b : Nat) (s : State) :
    (drive u c n a b s).grade = s.grade ∧ (drive u c n a b s).steppings = s.steppings ∧
    (drive u c n a b s).sealed = s.sealed ∧ (drive u c n a b s).bead = s.bead ∧
    (drive u c n a b s).beadInRot = s.beadInRot ∧ (drive u c n a b s).rotLen = s.rotLen ∧
    (drive u c n a b s).period = s.period ∧ (drive u c n a b s).rotCount = s.rotCount ∧
    (drive u c n a b s).rotDone = s.rotDone ∧ (drive u c n a b s).beadShadow = s.beadShadow ∧
    (drive u c n a b s).headShadow = s.headShadow ∧ (drive u c n a b s).spares = s.spares ∧
    (drive u c n a b s).cells = s.cells ∧ (drive u c n a b s).seqs = s.seqs ∧
    (drive u c n a b s).engines = s.engines ∧ (drive u c n a b s).rowStats = s.rowStats ∧
    (drive u c n a b s).effects = s.effects ∧ (drive u c n a b s).ctxs = s.ctxs ∧
    (drive u c n a b s).strands = s.strands ∧ (drive u c n a b s).store = s.store ∧
    (drive u c n a b s).lp4x = s.lp4x ∧ (drive u c n a b s).lp4xCheck = s.lp4xCheck ∧
    (drive u c n a b s).replaced = s.replaced ∧ (drive u c n a b s).bad = s.bad ∧
    (drive u c n a b s).bezel = s.bezel ∧ (drive u c n a b s).rows = s.rows ∧ (drive u c n a b s).live = s.live ∧
    (drive u c n a b s).rings = s.rings ∧ (drive u c n a b s).sends = s.sends ∧
    (drive u c n a b s).claspRate = s.claspRate ∧ (drive u c n a b s).clasps = s.clasps ∧
    (drive u c n a b s).cast = s.cast ∧ (drive u c n a b s).signets = s.signets ∧ (drive u c n a b s).pair = s.pair ∧
    (drive u c n a b s).fabric = s.fabric ∧ (drive u c n a b s).clock = s.clock ∧
    (drive u c n a b s).power = s.power ∧ (drive u c n a b s).thermal = s.thermal ∧
    (drive u c n a b s).locket = s.locket ∧ (drive u c n a b s).mgmt = s.mgmt ∧
    (drive u c n a b s).health = s.health ∧ (drive u c n a b s).events = s.events ∧
    (drive u c n a b s).startup = s.startup ∧ (drive u c n a b s).ports = s.ports ∧
    (drive u c n a b s).inbox = s.inbox ∧ (drive u c n a b s).out = s.out ∧ (drive u c n a b s).free = s.free ∧
    (drive u c n a b s).pending = s.pending := by
  and_intros <;> rfl

end Sys2Proof.Machine
end

