-- ==== Sys2Proof/Laws/Events.lean ====
section
/-! SUPPORT. What raising an event can do (R467 to R472), said once: it logs a record, and it changes nothing but the log,
the marks of its context, the twin items and the list of withheld events, the notices, the outputs and a freeze of
Cast. -/

namespace Sys2Proof.Machine

/-- `t` is `s` but for what an event may change. -/
structure EvFrame (s t : State) : Prop where
  grade : t.grade = s.grade
  steppings : t.steppings = s.steppings
  sealed : t.sealed = s.sealed
  bead : t.bead = s.bead
  beadInRot : t.beadInRot = s.beadInRot
  rotLen : t.rotLen = s.rotLen
  period : t.period = s.period
  rotCount : t.rotCount = s.rotCount
  rotDone : t.rotDone = s.rotDone
  beadShadow : t.beadShadow = s.beadShadow
  headShadow : t.headShadow = s.headShadow
  spares : t.spares = s.spares
  cells : t.cells = s.cells
  seqs : t.seqs = s.seqs
  engines : t.engines = s.engines
  rowStats : t.rowStats = s.rowStats
  effects : t.effects = s.effects
  drives : t.drives = s.drives
  strands : t.strands = s.strands
  store : t.store = s.store
  lp4x : t.lp4x = s.lp4x
  lp4xCheck : t.lp4xCheck = s.lp4xCheck
  replaced : t.replaced = s.replaced
  bad : t.bad = s.bad
  bezel : t.bezel = s.bezel
  rows : t.rows = s.rows
  live : t.live = s.live
  rings : t.rings = s.rings
  sends : t.sends = s.sends
  claspRate : t.claspRate = s.claspRate
  clasps : t.clasps = s.clasps
  signets : t.signets = s.signets
  fabric : t.fabric = s.fabric
  clock : t.clock = s.clock
  power : t.power = s.power
  thermal : t.thermal = s.thermal
  locket : t.locket = s.locket
  health : t.health = s.health
  startup : t.startup = s.startup
  ports : t.ports = s.ports
  inbox : t.inbox = s.inbox
  free : t.free = s.free
  pending : t.pending = s.pending
  regs : t.pair.regs = s.pair.regs
  takeover : t.pair.takeover = s.pair.takeover
  join : t.pair.join = s.pair.join
  link : t.pair.link = { s.pair.link with items := t.pair.link.items }
  cmp : t.pair.cmp = { s.pair.cmp with withheld := t.pair.cmp.withheld }
  mgmt : t.mgmt = { s.mgmt with notices := t.mgmt.notices }
  cast : t.cast = { s.cast with freezeAt := t.cast.freezeAt }
  ctxs : t.ctxs.length = s.ctxs.length
  ctx : ∀ c, t.ctx c = { s.ctx c with withheld := (t.ctx c).withheld, withheldCount := (t.ctx c).withheldCount,
                                      lastEvt := (t.ctx c).lastEvt }

theorem EvFrame.refl (s : State) : EvFrame s s := by constructor <;> intros <;> rfl

theorem EvFrame.trans {s t u : State} (h : EvFrame s t) (k : EvFrame t u) : EvFrame s u where
  grade := k.grade.trans h.grade
  steppings := k.steppings.trans h.steppings
  sealed := k.sealed.trans h.sealed
  bead := k.bead.trans h.bead
  beadInRot := k.beadInRot.trans h.beadInRot
  rotLen := k.rotLen.trans h.rotLen
  period := k.period.trans h.period
  rotCount := k.rotCount.trans h.rotCount
  rotDone := k.rotDone.trans h.rotDone
  beadShadow := k.beadShadow.trans h.beadShadow
  headShadow := k.headShadow.trans h.headShadow
  spares := k.spares.trans h.spares
  cells := k.cells.trans h.cells
  seqs := k.seqs.trans h.seqs
  engines := k.engines.trans h.engines
  rowStats := k.rowStats.trans h.rowStats
  effects := k.effects.trans h.effects
  drives := k.drives.trans h.drives
  strands := k.strands.trans h.strands
  store := k.store.trans h.store
  lp4x := k.lp4x.trans h.lp4x
  lp4xCheck := k.lp4xCheck.trans h.lp4xCheck
  replaced := k.replaced.trans h.replaced
  bad := k.bad.trans h.bad
  bezel := k.bezel.trans h.bezel
  rows := k.rows.trans h.rows
  live := k.live.trans h.live
  rings := k.rings.trans h.rings
  sends := k.sends.trans h.sends
  claspRate := k.claspRate.trans h.claspRate
  clasps := k.clasps.trans h.clasps
  signets := k.signets.trans h.signets
  fabric := k.fabric.trans h.fabric
  clock := k.clock.trans h.clock
  power := k.power.trans h.power
  thermal := k.thermal.trans h.thermal
  locket := k.locket.trans h.locket
  health := k.health.trans h.health
  startup := k.startup.trans h.startup
  ports := k.ports.trans h.ports
  inbox := k.inbox.trans h.inbox
  free := k.free.trans h.free
  pending := k.pending.trans h.pending
  regs := k.regs.trans h.regs
  takeover := k.takeover.trans h.takeover
  join := k.join.trans h.join
  link := by rw [k.link, h.link]
  cmp := by rw [k.cmp, h.cmp]
  mgmt := by rw [k.mgmt, h.mgmt]
  cast := by rw [k.cast, h.cast]
  ctxs := k.ctxs.trans h.ctxs
  ctx c := by rw [k.ctx c, h.ctx c]

/-- A match on an optional value whose two ends keep the frame keeps it. -/
theorem EvFrame.when {s t : State} {p : Bool} {f : State → State} (h : EvFrame s t) (k : ∀ x, EvFrame x (f x)) :
    EvFrame s (when_ p f t) := by
  unfold when_
  split
  · exact h.trans (k t)
  · exact h

theorem modEvents_evFrame (f : Events → Events) (s : State) : EvFrame s (s.modEvents f) := by constructor <;> intros <;> rfl

theorem emit_evFrame (o : Output) (s : State) : EvFrame s (s.emit o) := by constructor <;> intros <;> rfl

theorem setItems_evFrame (f : List TwinItem → List TwinItem) (s : State) : EvFrame s (s.modLink fun x => { x with items := f x.items }) := by
  constructor <;> intros <;> rfl

theorem sendItem_evFrame (kind ctx : Nat) (p : Bytes) (s : State) : EvFrame s (sendItem kind ctx p s) :=
  setItems_evFrame (queueItems _) s

theorem noteWithheld_evFrame (w : Withheld) (s : State) :
    EvFrame s (s.modCmp fun m => { m with withheld := m.withheld ++ [w] }) := by
  constructor <;> intros <;> rfl

theorem startFreeze_evFrame (s : State) : EvFrame s (startFreeze s) := by
  unfold startFreeze
  exact (EvFrame.refl s).when fun x => by constructor <;> intros <;> rfl

theorem foldl_evFrame {α : Type} (f : State → α → State) (h : ∀ t a, EvFrame t (f t a)) (l : List α) (s : State) :
    EvFrame s (l.foldl f s) := by
  induction l generalizing s with
  | nil => exact .refl s
  | cons a r ih => exact (h s a).trans (ih (f s a))

theorem notices_evFrame (f : List Bytes → List Bytes) (s : State) :
    EvFrame s (s.modMgmt fun m => { m with notices := f m.notices }) := by
  constructor <;> intros <;> rfl

theorem pushNotice_evFrame (bs : Bytes) (s : State) : EvFrame s (pushNotice bs s) := by
  unfold pushNotice
  split
  · exact notices_evFrame (fun l => (l ++ [bs]).drop (l.length + 1 - 256)) s
  · exact foldl_evFrame _ (fun t c => emit_evFrame _ t) _ s

/-- A change of a context's marks alone. -/
theorem modCtx_evFrame (f : Ctx → Ctx) (c : CtxNo) (s : State)
    (h : ∀ x, f x = { x with withheld := (f x).withheld, withheldCount := (f x).withheldCount, lastEvt := (f x).lastEvt }) :
    EvFrame s (s.modCtx f c) := by
  constructor
  case ctxs => simp
  case ctx =>
    intro d
    rw [State.modCtx_ctx]
    split
    · exact h _
    · rfl
  all_goals rfl

theorem withhold_evFrame (c : CtxNo) (s : State) : EvFrame s (withhold c s) :=
  modCtx_evFrame _ c s fun x => by
    by_cases h : x.withheld
    · rw [if_pos h]
    · rw [if_neg h]

/-- What raising an event leaves as it was. -/
theorem raiseAt_evFrame (code : Nat) (ctx : Option CtxNo) (unit unit2 : Nat) (hold located : Bool) (arg : Bytes) (s : State) :
    EvFrame s (raiseAt code ctx unit unit2 hold located arg s) := by
  unfold raiseAt
  extract_lets nm r masked s1 s2 s3 s4
  have h1 : EvFrame s s2 := by
    cases ctx with
    | none => exact modEvents_evFrame _ s
    | some c => exact (modEvents_evFrame _ s).trans (modCtx_evFrame _ _ _ fun x => rfl)
  have h2 : EvFrame s s3 := by
    refine h1.trans ?_
    cases ctx with
    | none => exact .refl _
    | some c =>
      show EvFrame s2 (if hold then _ else s2)
      split
      · show EvFrame s2 (if _ then _ else _)
        split
        · exact (withhold_evFrame _ _).trans ((sendItem_evFrame _ _ _ _).trans (noteWithheld_evFrame _ _))
        · exact withhold_evFrame _ _
      · exact .refl _
  have h3 : EvFrame s s4 := by
    show EvFrame s (if _ then _ else _)
    split
    · exact h2.trans (pushNotice_evFrame _ _)
    · exact h2
  split
  · exact h3.trans (startFreeze_evFrame _)
  · exact h3

theorem raise_evFrame (code : Nat) (arg : Bytes) (s : State) : EvFrame s (raise code arg s) := raiseAt_evFrame ..

theorem raiseCtx_evFrame (code : Nat) (c : CtxNo) (unit : Nat) (arg : Bytes) (s : State) :
    EvFrame s (raiseCtx code c unit arg s) := raiseAt_evFrame ..

/-- The frame, clause by clause. -/
theorem EvFrame.fields {s t : State} (h : EvFrame s t) :
    t.grade = s.grade ∧ t.steppings = s.steppings ∧ t.sealed = s.sealed ∧ t.bead = s.bead ∧
    t.beadInRot = s.beadInRot ∧ t.rotLen = s.rotLen ∧ t.period = s.period ∧ t.rotCount = s.rotCount ∧
    t.rotDone = s.rotDone ∧ t.beadShadow = s.beadShadow ∧ t.headShadow = s.headShadow ∧ t.spares = s.spares ∧
    t.cells = s.cells ∧ t.seqs = s.seqs ∧ t.engines = s.engines ∧ t.rowStats = s.rowStats ∧ t.effects = s.effects ∧
    t.drives = s.drives ∧ t.strands = s.strands ∧ t.store = s.store ∧ t.lp4x = s.lp4x ∧ t.lp4xCheck = s.lp4xCheck ∧
    t.replaced = s.replaced ∧ t.bad = s.bad ∧ t.bezel = s.bezel ∧ t.rows = s.rows ∧ t.live = s.live ∧
    t.rings = s.rings ∧ t.sends = s.sends ∧ t.claspRate = s.claspRate ∧ t.clasps = s.clasps ∧ t.signets = s.signets ∧
    t.fabric = s.fabric ∧ t.clock = s.clock ∧ t.power = s.power ∧ t.thermal = s.thermal ∧ t.locket = s.locket ∧
    t.health = s.health ∧ t.startup = s.startup ∧ t.ports = s.ports ∧ t.inbox = s.inbox ∧ t.free = s.free ∧
    t.pending = s.pending ∧ t.pair.regs = s.pair.regs ∧ t.pair.takeover = s.pair.takeover ∧
    t.pair.join = s.pair.join ∧ t.pair.link.missRun = s.pair.link.missRun ∧
    t.pair.link.goodRun = s.pair.link.goodRun ∧ t.pair.link.cellNow = s.pair.link.cellNow ∧
    t.pair.link.partnerRole = s.pair.link.partnerRole ∧ t.pair.link.partnerHealth = s.pair.link.partnerHealth ∧
    t.pair.link.partnerEpoch = s.pair.link.partnerEpoch ∧ t.pair.link.partnerId = s.pair.link.partnerId ∧
    t.pair.link.pairKey = s.pair.link.pairKey ∧ t.pair.link.seenInputs = s.pair.link.seenInputs ∧
    t.pair.link.readyPeriod = s.pair.link.readyPeriod ∧ t.pair.link.commits = s.pair.link.commits ∧
    t.pair.link.setFault = s.pair.link.setFault ∧ t.pair.link.leaving = s.pair.link.leaving ∧
    t.pair.link.splitSeen = s.pair.link.splitSeen ∧ t.pair.link.lastReport = s.pair.link.lastReport ∧
    t.pair.link.reportBead = s.pair.link.reportBead ∧ t.pair.link.lost = s.pair.link.lost ∧
    t.pair.link.heard = s.pair.link.heard ∧ t.pair.link.keysSeen = s.pair.link.keysSeen ∧
    t.pair.cmp.own = s.pair.cmp.own ∧ t.pair.cmp.theirs = s.pair.cmp.theirs ∧
    t.pair.cmp.diverged = s.pair.cmp.diverged ∧ t.pair.cmp.mismatches = s.pair.cmp.mismatches ∧
    t.pair.cmp.hunts = s.pair.cmp.hunts ∧ t.pair.cmp.localFaults = s.pair.cmp.localFaults ∧
    t.pair.cmp.agreed = s.pair.cmp.agreed ∧ t.pair.cmp.selftestRot = s.pair.cmp.selftestRot ∧
    t.pair.cmp.selftests = s.pair.cmp.selftests ∧ t.pair.cmp.turn = s.pair.cmp.turn ∧
    t.pair.cmp.covered = s.pair.cmp.covered ∧ t.mgmt.up = s.mgmt.up ∧ t.mgmt.net = s.mgmt.net ∧
    t.mgmt.conns = s.mgmt.conns ∧ t.mgmt.nextConn = s.mgmt.nextConn ∧ t.mgmt.operatorRoot = s.mgmt.operatorRoot ∧
    t.mgmt.observerRoot = s.mgmt.observerRoot ∧ t.mgmt.replaceAt = s.mgmt.replaceAt ∧
    t.mgmt.healthLog = s.mgmt.healthLog ∧ t.mgmt.healthLogAt = s.mgmt.healthLogAt ∧ t.mgmt.image = s.mgmt.image ∧
    t.mgmt.imageBase = s.mgmt.imageBase ∧ t.mgmt.resetDue = s.mgmt.resetDue ∧ t.mgmt.pairToken = s.mgmt.pairToken ∧
    t.mgmt.seaToken = s.mgmt.seaToken ∧ t.mgmt.hm = s.mgmt.hm ∧ t.cast.replay = s.cast.replay ∧
    t.cast.slots = s.cast.slots ∧ t.cast.stripe = s.cast.stripe ∧ t.cast.chBase = s.cast.chBase ∧
    t.cast.sizeGib = s.cast.sizeGib ∧ t.cast.en = s.cast.en ∧ t.cast.fabFull = s.cast.fabFull ∧
    t.cast.freezeOnEvent = s.cast.freezeOnEvent ∧ t.cast.frozen = s.cast.frozen ∧ t.cast.wrapped = s.cast.wrapped ∧
    t.cast.ctxMask = s.cast.ctxMask ∧ t.cast.post = s.cast.post ∧ t.cast.head = s.cast.head ∧
    t.cast.count = s.cast.count ∧ t.cast.lost = s.cast.lost ∧ t.cast.staging = s.cast.staging ∧
    t.cast.tails = s.cast.tails ∧ t.cast.dropped = s.cast.dropped ∧ t.cast.lineAt = s.cast.lineAt ∧
    t.cast.ringBase = s.cast.ringBase ∧ t.cast.feed = s.cast.feed ∧ t.cast.readAt = s.cast.readAt ∧
    t.cast.readLeft = s.cast.readLeft ∧ t.cast.readSkip = s.cast.readSkip ∧ t.cast.seen = s.cast.seen ∧
    t.cast.deltas = s.cast.deltas ∧ t.cast.replayStopped = s.cast.replayStopped ∧ t.ctxs.length = s.ctxs.length :=
  ⟨h.grade, h.steppings, h.sealed, h.bead, h.beadInRot, h.rotLen, h.period, h.rotCount, h.rotDone, h.beadShadow,
   h.headShadow, h.spares, h.cells, h.seqs, h.engines, h.rowStats, h.effects, h.drives, h.strands, h.store, h.lp4x,
   h.lp4xCheck, h.replaced, h.bad, h.bezel, h.rows, h.live, h.rings, h.sends, h.claspRate, h.clasps, h.signets,
   h.fabric, h.clock, h.power, h.thermal, h.locket, h.health, h.startup, h.ports, h.inbox, h.free, h.pending, h.regs,
   h.takeover, h.join, by rw [h.link], by rw [h.link], by rw [h.link], by rw [h.link], by rw [h.link],
   by rw [h.link], by rw [h.link], by rw [h.link], by rw [h.link], by rw [h.link], by rw [h.link], by rw [h.link],
   by rw [h.link], by rw [h.link], by rw [h.link], by rw [h.link], by rw [h.link], by rw [h.link], by rw [h.link],
   by rw [h.cmp], by rw [h.cmp], by rw [h.cmp], by rw [h.cmp], by rw [h.cmp], by rw [h.cmp], by rw [h.cmp],
   by rw [h.cmp], by rw [h.cmp], by rw [h.cmp], by rw [h.cmp], by rw [h.mgmt], by rw [h.mgmt], by rw [h.mgmt],
   by rw [h.mgmt], by rw [h.mgmt], by rw [h.mgmt], by rw [h.mgmt], by rw [h.mgmt], by rw [h.mgmt], by rw [h.mgmt],
   by rw [h.mgmt], by rw [h.mgmt], by rw [h.mgmt], by rw [h.mgmt], by rw [h.mgmt], by rw [h.cast], by rw [h.cast],
   by rw [h.cast], by rw [h.cast], by rw [h.cast], by rw [h.cast], by rw [h.cast], by rw [h.cast], by rw [h.cast],
   by rw [h.cast], by rw [h.cast], by rw [h.cast], by rw [h.cast], by rw [h.cast], by rw [h.cast], by rw [h.cast],
   by rw [h.cast], by rw [h.cast], by rw [h.cast], by rw [h.cast], by rw [h.cast], by rw [h.cast], by rw [h.cast],
   by rw [h.cast], by rw [h.cast], by rw [h.cast], by rw [h.cast], h.ctxs⟩

/-- What `raiseAt` leaves, for `simp`. -/
@[simp] theorem raiseAt_fields (code : Nat) (ctx : Option CtxNo) (unit unit2 : Nat) (hold located : Bool) (arg : Bytes) (s : State) :
    (raiseAt code ctx unit unit2 hold located arg s).grade = s.grade ∧
    (raiseAt code ctx unit unit2 hold located arg s).steppings = s.steppings ∧
    (raiseAt code ctx unit unit2 hold located arg s).sealed = s.sealed ∧
    (raiseAt code ctx unit unit2 hold located arg s).bead = s.bead ∧
    (raiseAt code ctx unit unit2 hold located arg s).beadInRot = s.beadInRot ∧
    (raiseAt code ctx unit unit2 hold located arg s).rotLen = s.rotLen ∧
    (raiseAt code ctx unit unit2 hold located arg s).period = s.period ∧
    (raiseAt code ctx unit unit2 hold located arg s).rotCount = s.rotCount ∧
    (raiseAt code ctx unit unit2 hold located arg s).rotDone = s.rotDone ∧
    (raiseAt code ctx unit unit2 hold located arg s).beadShadow = s.beadShadow ∧
    (raiseAt code ctx unit unit2 hold located arg s).headShadow = s.headShadow ∧
    (raiseAt code ctx unit unit2 hold located arg s).spares = s.spares ∧
    (raiseAt code ctx unit unit2 hold located arg s).cells = s.cells ∧
    (raiseAt code ctx unit unit2 hold located arg s).seqs = s.seqs ∧
    (raiseAt code ctx unit unit2 hold located arg s).engines = s.engines ∧
    (raiseAt code ctx unit unit2 hold located arg s).rowStats = s.rowStats ∧
    (raiseAt code ctx unit unit2 hold located arg s).effects = s.effects ∧
    (raiseAt code ctx unit unit2 hold located arg s).drives = s.drives ∧
    (raiseAt code ctx unit unit2 hold located arg s).strands = s.strands ∧
    (raiseAt code ctx unit unit2 hold located arg s).store = s.store ∧
    (raiseAt code ctx unit unit2 hold located arg s).lp4x = s.lp4x ∧
    (raiseAt code ctx unit unit2 hold located arg s).lp4xCheck = s.lp4xCheck ∧
    (raiseAt code ctx unit unit2 hold located arg s).replaced = s.replaced ∧
    (raiseAt code ctx unit unit2 hold located arg s).bad = s.bad ∧
    (raiseAt code ctx unit unit2 hold located arg s).bezel = s.bezel ∧
    (raiseAt code ctx unit unit2 hold located arg s).rows = s.rows ∧
    (raiseAt code ctx unit unit2 hold located arg s).live = s.live ∧
    (raiseAt code ctx unit unit2 hold located arg s).rings = s.rings ∧
    (raiseAt code ctx unit unit2 hold located arg s).sends = s.sends ∧
    (raiseAt code ctx unit unit2 hold located arg s).claspRate = s.claspRate ∧
    (raiseAt code ctx unit unit2 hold located arg s).clasps = s.clasps ∧
    (raiseAt code ctx unit unit2 hold located arg s).signets = s.signets ∧
    (raiseAt code ctx unit unit2 hold located arg s).fabric = s.fabric ∧
    (raiseAt code ctx unit unit2 hold located arg s).clock = s.clock ∧
    (raiseAt code ctx unit unit2 hold located arg s).power = s.power ∧
    (raiseAt code ctx unit unit2 hold located arg s).thermal = s.thermal ∧
    (raiseAt code ctx unit unit2 hold located arg s).locket = s.locket ∧
    (raiseAt code ctx unit unit2 hold located arg s).health = s.health ∧
    (raiseAt code ctx unit unit2 hold located arg s).startup = s.startup ∧
    (raiseAt code ctx unit unit2 hold located arg s).ports = s.ports ∧
    (raiseAt code ctx unit unit2 hold located arg s).inbox = s.inbox ∧
    (raiseAt code ctx unit unit2 hold located arg s).free = s.free ∧
    (raiseAt code ctx unit unit2 hold located arg s).pending = s.pending ∧
    (raiseAt code ctx unit unit2 hold located arg s).pair.regs = s.pair.regs ∧
    (raiseAt code ctx unit unit2 hold located arg s).pair.takeover = s.pair.takeover ∧
    (raiseAt code ctx unit unit2 hold located arg s).pair.join = s.pair.join ∧
    (raiseAt code ctx unit unit2 hold located arg s).pair.link.missRun = s.pair.link.missRun ∧
    (raiseAt code ctx unit unit2 hold located arg s).pair.link.goodRun = s.pair.link.goodRun ∧
    (raiseAt code ctx unit unit2 hold located arg s).pair.link.cellNow = s.pair.link.cellNow ∧
    (raiseAt code ctx unit unit2 hold located arg s).pair.link.partnerRole = s.pair.link.partnerRole ∧
    (raiseAt code ctx unit unit2 hold located arg s).pair.link.partnerHealth = s.pair.link.partnerHealth ∧
    (raiseAt code ctx unit unit2 hold located arg s).pair.link.partnerEpoch = s.pair.link.partnerEpoch ∧
    (raiseAt code ctx unit unit2 hold located arg s).pair.link.partnerId = s.pair.link.partnerId ∧
    (raiseAt code ctx unit unit2 hold located arg s).pair.link.pairKey = s.pair.link.pairKey ∧
    (raiseAt code ctx unit unit2 hold located arg s).pair.link.seenInputs = s.pair.link.seenInputs ∧
    (raiseAt code ctx unit unit2 hold located arg s).pair.link.readyPeriod = s.pair.link.readyPeriod ∧
    (raiseAt code ctx unit unit2 hold located arg s).pair.link.commits = s.pair.link.commits ∧
    (raiseAt code ctx unit unit2 hold located arg s).pair.link.setFault = s.pair.link.setFault ∧
    (raiseAt code ctx unit unit2 hold located arg s).pair.link.leaving = s.pair.link.leaving ∧
    (raiseAt code ctx unit unit2 hold located arg s).pair.link.splitSeen = s.pair.link.splitSeen ∧
    (raiseAt code ctx unit unit2 hold located arg s).pair.link.lastReport = s.pair.link.lastReport ∧
    (raiseAt code ctx unit unit2 hold located arg s).pair.link.reportBead = s.pair.link.reportBead ∧
    (raiseAt code ctx unit unit2 hold located arg s).pair.link.lost = s.pair.link.lost ∧
    (raiseAt code ctx unit unit2 hold located arg s).pair.link.heard = s.pair.link.heard ∧
    (raiseAt code ctx unit unit2 hold located arg s).pair.link.keysSeen = s.pair.link.keysSeen ∧
    (raiseAt code ctx unit unit2 hold located arg s).pair.cmp.own = s.pair.cmp.own ∧
    (raiseAt code ctx unit unit2 hold located arg s).pair.cmp.theirs = s.pair.cmp.theirs ∧
    (raiseAt code ctx unit unit2 hold located arg s).pair.cmp.diverged = s.pair.cmp.diverged ∧
    (raiseAt code ctx unit unit2 hold located arg s).pair.cmp.mismatches = s.pair.cmp.mismatches ∧
    (raiseAt code ctx unit unit2 hold located arg s).pair.cmp.hunts = s.pair.cmp.hunts ∧
    (raiseAt code ctx unit unit2 hold located arg s).pair.cmp.localFaults = s.pair.cmp.localFaults ∧
    (raiseAt code ctx unit unit2 hold located arg s).pair.cmp.agreed = s.pair.cmp.agreed ∧
    (raiseAt code ctx unit unit2 hold located arg s).pair.cmp.selftestRot = s.pair.cmp.selftestRot ∧
    (raiseAt code ctx unit unit2 hold located arg s).pair.cmp.selftests = s.pair.cmp.selftests ∧
    (raiseAt code ctx unit unit2 hold located arg s).pair.cmp.turn = s.pair.cmp.turn ∧
    (raiseAt code ctx unit unit2 hold located arg s).pair.cmp.covered = s.pair.cmp.covered ∧
    (raiseAt code ctx unit unit2 hold located arg s).mgmt.up = s.mgmt.up ∧
    (raiseAt code ctx unit unit2 hold located arg s).mgmt.net = s.mgmt.net ∧
    (raiseAt code ctx unit unit2 hold located arg s).mgmt.conns = s.mgmt.conns ∧
    (raiseAt code ctx unit unit2 hold located arg s).mgmt.nextConn = s.mgmt.nextConn ∧
    (raiseAt code ctx unit unit2 hold located arg s).mgmt.operatorRoot = s.mgmt.operatorRoot ∧
    (raiseAt code ctx unit unit2 hold located arg s).mgmt.observerRoot = s.mgmt.observerRoot ∧
    (raiseAt code ctx unit unit2 hold located arg s).mgmt.replaceAt = s.mgmt.replaceAt ∧
    (raiseAt code ctx unit unit2 hold located arg s).mgmt.healthLog = s.mgmt.healthLog ∧
    (raiseAt code ctx unit unit2 hold located arg s).mgmt.healthLogAt = s.mgmt.healthLogAt ∧
    (raiseAt code ctx unit unit2 hold located arg s).mgmt.image = s.mgmt.image ∧
    (raiseAt code ctx unit unit2 hold located arg s).mgmt.imageBase = s.mgmt.imageBase ∧
    (raiseAt code ctx unit unit2 hold located arg s).mgmt.resetDue = s.mgmt.resetDue ∧
    (raiseAt code ctx unit unit2 hold located arg s).mgmt.pairToken = s.mgmt.pairToken ∧
    (raiseAt code ctx unit unit2 hold located arg s).mgmt.seaToken = s.mgmt.seaToken ∧
    (raiseAt code ctx unit unit2 hold located arg s).mgmt.hm = s.mgmt.hm ∧
    (raiseAt code ctx unit unit2 hold located arg s).cast.replay = s.cast.replay ∧
    (raiseAt code ctx unit unit2 hold located arg s).cast.slots = s.cast.slots ∧
    (raiseAt code ctx unit unit2 hold located arg s).cast.stripe = s.cast.stripe ∧
    (raiseAt code ctx unit unit2 hold located arg s).cast.chBase = s.cast.chBase ∧
    (raiseAt code ctx unit unit2 hold located arg s).cast.sizeGib = s.cast.sizeGib ∧
    (raiseAt code ctx unit unit2 hold located arg s).cast.en = s.cast.en ∧
    (raiseAt code ctx unit unit2 hold located arg s).cast.fabFull = s.cast.fabFull ∧
    (raiseAt code ctx unit unit2 hold located arg s).cast.freezeOnEvent = s.cast.freezeOnEvent ∧
    (raiseAt code ctx unit unit2 hold located arg s).cast.frozen = s.cast.frozen ∧
    (raiseAt code ctx unit unit2 hold located arg s).cast.wrapped = s.cast.wrapped ∧
    (raiseAt code ctx unit unit2 hold located arg s).cast.ctxMask = s.cast.ctxMask ∧
    (raiseAt code ctx unit unit2 hold located arg s).cast.post = s.cast.post ∧
    (raiseAt code ctx unit unit2 hold located arg s).cast.head = s.cast.head ∧
    (raiseAt code ctx unit unit2 hold located arg s).cast.count = s.cast.count ∧
    (raiseAt code ctx unit unit2 hold located arg s).cast.lost = s.cast.lost ∧
    (raiseAt code ctx unit unit2 hold located arg s).cast.staging = s.cast.staging ∧
    (raiseAt code ctx unit unit2 hold located arg s).cast.tails = s.cast.tails ∧
    (raiseAt code ctx unit unit2 hold located arg s).cast.dropped = s.cast.dropped ∧
    (raiseAt code ctx unit unit2 hold located arg s).cast.lineAt = s.cast.lineAt ∧
    (raiseAt code ctx unit unit2 hold located arg s).cast.ringBase = s.cast.ringBase ∧
    (raiseAt code ctx unit unit2 hold located arg s).cast.feed = s.cast.feed ∧
    (raiseAt code ctx unit unit2 hold located arg s).cast.readAt = s.cast.readAt ∧
    (raiseAt code ctx unit unit2 hold located arg s).cast.readLeft = s.cast.readLeft ∧
    (raiseAt code ctx unit unit2 hold located arg s).cast.readSkip = s.cast.readSkip ∧
    (raiseAt code ctx unit unit2 hold located arg s).cast.seen = s.cast.seen ∧
    (raiseAt code ctx unit unit2 hold located arg s).cast.deltas = s.cast.deltas ∧
    (raiseAt code ctx unit unit2 hold located arg s).cast.replayStopped = s.cast.replayStopped ∧
    (raiseAt code ctx unit unit2 hold located arg s).ctxs.length = s.ctxs.length :=
  (raiseAt_evFrame ..).fields

/-- What `raise` leaves, for `simp`. -/
@[simp] theorem raise_fields (code : Nat) (arg : Bytes) (s : State) :
    (raise code arg s).grade = s.grade ∧ (raise code arg s).steppings = s.steppings ∧
    (raise code arg s).sealed = s.sealed ∧ (raise code arg s).bead = s.bead ∧
    (raise code arg s).beadInRot = s.beadInRot ∧ (raise code arg s).rotLen = s.rotLen ∧
    (raise code arg s).period = s.period ∧ (raise code arg s).rotCount = s.rotCount ∧
    (raise code arg s).rotDone = s.rotDone ∧ (raise code arg s).beadShadow = s.beadShadow ∧
    (raise code arg s).headShadow = s.headShadow ∧ (raise code arg s).spares = s.spares ∧
    (raise code arg s).cells = s.cells ∧ (raise code arg s).seqs = s.seqs ∧ (raise code arg s).engines = s.engines ∧
    (raise code arg s).rowStats = s.rowStats ∧ (raise code arg s).effects = s.effects ∧
    (raise code arg s).drives = s.drives ∧ (raise code arg s).strands = s.strands ∧
    (raise code arg s).store = s.store ∧ (raise code arg s).lp4x = s.lp4x ∧
    (raise code arg s).lp4xCheck = s.lp4xCheck ∧ (raise code arg s).replaced = s.replaced ∧
    (raise code arg s).bad = s.bad ∧ (raise code arg s).bezel = s.bezel ∧ (raise code arg s).rows = s.rows ∧
    (raise code arg s).live = s.live ∧ (raise code arg s).rings = s.rings ∧ (raise code arg s).sends = s.sends ∧
    (raise code arg s).claspRate = s.claspRate ∧ (raise code arg s).clasps = s.clasps ∧
    (raise code arg s).signets = s.signets ∧ (raise code arg s).fabric = s.fabric ∧
    (raise code arg s).clock = s.clock ∧ (raise code arg s).power = s.power ∧
    (raise code arg s).thermal = s.thermal ∧ (raise code arg s).locket = s.locket ∧
    (raise code arg s).health = s.health ∧ (raise code arg s).startup = s.startup ∧
    (raise code arg s).ports = s.ports ∧ (raise code arg s).inbox = s.inbox ∧ (raise code arg s).free = s.free ∧
    (raise code arg s).pending = s.pending ∧ (raise code arg s).pair.regs = s.pair.regs ∧
    (raise code arg s).pair.takeover = s.pair.takeover ∧ (raise code arg s).pair.join = s.pair.join ∧
    (raise code arg s).pair.link.missRun = s.pair.link.missRun ∧
    (raise code arg s).pair.link.goodRun = s.pair.link.goodRun ∧
    (raise code arg s).pair.link.cellNow = s.pair.link.cellNow ∧
    (raise code arg s).pair.link.partnerRole = s.pair.link.partnerRole ∧
    (raise code arg s).pair.link.partnerHealth = s.pair.link.partnerHealth ∧
    (raise code arg s).pair.link.partnerEpoch = s.pair.link.partnerEpoch ∧
    (raise code arg s).pair.link.partnerId = s.pair.link.partnerId ∧
    (raise code arg s).pair.link.pairKey = s.pair.link.pairKey ∧
    (raise code arg s).pair.link.seenInputs = s.pair.link.seenInputs ∧
    (raise code arg s).pair.link.readyPeriod = s.pair.link.readyPeriod ∧
    (raise code arg s).pair.link.commits = s.pair.link.commits ∧
    (raise code arg s).pair.link.setFault = s.pair.link.setFault ∧
    (raise code arg s).pair.link.leaving = s.pair.link.leaving ∧
    (raise code arg s).pair.link.splitSeen = s.pair.link.splitSeen ∧
    (raise code arg s).pair.link.lastReport = s.pair.link.lastReport ∧
    (raise code arg s).pair.link.reportBead = s.pair.link.reportBead ∧
    (raise code arg s).pair.link.lost = s.pair.link.lost ∧ (raise code arg s).pair.link.heard = s.pair.link.heard ∧
    (raise code arg s).pair.link.keysSeen = s.pair.link.keysSeen ∧ (raise code arg s).pair.cmp.own = s.pair.cmp.own ∧
    (raise code arg s).pair.cmp.theirs = s.pair.cmp.theirs ∧
    (raise code arg s).pair.cmp.diverged = s.pair.cmp.diverged ∧
    (raise code arg s).pair.cmp.mismatches = s.pair.cmp.mismatches ∧
    (raise code arg s).pair.cmp.hunts = s.pair.cmp.hunts ∧
    (raise code arg s).pair.cmp.localFaults = s.pair.cmp.localFaults ∧
    (raise code arg s).pair.cmp.agreed = s.pair.cmp.agreed ∧
    (raise code arg s).pair.cmp.selftestRot = s.pair.cmp.selftestRot ∧
    (raise code arg s).pair.cmp.selftests = s.pair.cmp.selftests ∧
    (raise code arg s).pair.cmp.turn = s.pair.cmp.turn ∧ (raise code arg s).pair.cmp.covered = s.pair.cmp.covered ∧
    (raise code arg s).mgmt.up = s.mgmt.up ∧ (raise code arg s).mgmt.net = s.mgmt.net ∧
    (raise code arg s).mgmt.conns = s.mgmt.conns ∧ (raise code arg s).mgmt.nextConn = s.mgmt.nextConn ∧
    (raise code arg s).mgmt.operatorRoot = s.mgmt.operatorRoot ∧
    (raise code arg s).mgmt.observerRoot = s.mgmt.observerRoot ∧
    (raise code arg s).mgmt.replaceAt = s.mgmt.replaceAt ∧ (raise code arg s).mgmt.healthLog = s.mgmt.healthLog ∧
    (raise code arg s).mgmt.healthLogAt = s.mgmt.healthLogAt ∧ (raise code arg s).mgmt.image = s.mgmt.image ∧
    (raise code arg s).mgmt.imageBase = s.mgmt.imageBase ∧ (raise code arg s).mgmt.resetDue = s.mgmt.resetDue ∧
    (raise code arg s).mgmt.pairToken = s.mgmt.pairToken ∧ (raise code arg s).mgmt.seaToken = s.mgmt.seaToken ∧
    (raise code arg s).mgmt.hm = s.mgmt.hm ∧ (raise code arg s).cast.replay = s.cast.replay ∧
    (raise code arg s).cast.slots = s.cast.slots ∧ (raise code arg s).cast.stripe = s.cast.stripe ∧
    (raise code arg s).cast.chBase = s.cast.chBase ∧ (raise code arg s).cast.sizeGib = s.cast.sizeGib ∧
    (raise code arg s).cast.en = s.cast.en ∧ (raise code arg s).cast.fabFull = s.cast.fabFull ∧
    (raise code arg s).cast.freezeOnEvent = s.cast.freezeOnEvent ∧ (raise code arg s).cast.frozen = s.cast.frozen ∧
    (raise code arg s).cast.wrapped = s.cast.wrapped ∧ (raise code arg s).cast.ctxMask = s.cast.ctxMask ∧
    (raise code arg s).cast.post = s.cast.post ∧ (raise code arg s).cast.head = s.cast.head ∧
    (raise code arg s).cast.count = s.cast.count ∧ (raise code arg s).cast.lost = s.cast.lost ∧
    (raise code arg s).cast.staging = s.cast.staging ∧ (raise code arg s).cast.tails = s.cast.tails ∧
    (raise code arg s).cast.dropped = s.cast.dropped ∧ (raise code arg s).cast.lineAt = s.cast.lineAt ∧
    (raise code arg s).cast.ringBase = s.cast.ringBase ∧ (raise code arg s).cast.feed = s.cast.feed ∧
    (raise code arg s).cast.readAt = s.cast.readAt ∧ (raise code arg s).cast.readLeft = s.cast.readLeft ∧
    (raise code arg s).cast.readSkip = s.cast.readSkip ∧ (raise code arg s).cast.seen = s.cast.seen ∧
    (raise code arg s).cast.deltas = s.cast.deltas ∧ (raise code arg s).cast.replayStopped = s.cast.replayStopped ∧
    (raise code arg s).ctxs.length = s.ctxs.length :=
  (raise_evFrame ..).fields

/-- What `raiseCtx` leaves, for `simp`. -/
@[simp] theorem raiseCtx_fields (code : Nat) (c : CtxNo) (unit : Nat) (arg : Bytes) (s : State) :
    (raiseCtx code c unit arg s).grade = s.grade ∧ (raiseCtx code c unit arg s).steppings = s.steppings ∧
    (raiseCtx code c unit arg s).sealed = s.sealed ∧ (raiseCtx code c unit arg s).bead = s.bead ∧
    (raiseCtx code c unit arg s).beadInRot = s.beadInRot ∧ (raiseCtx code c unit arg s).rotLen = s.rotLen ∧
    (raiseCtx code c unit arg s).period = s.period ∧ (raiseCtx code c unit arg s).rotCount = s.rotCount ∧
    (raiseCtx code c unit arg s).rotDone = s.rotDone ∧ (raiseCtx code c unit arg s).beadShadow = s.beadShadow ∧
    (raiseCtx code c unit arg s).headShadow = s.headShadow ∧ (raiseCtx code c unit arg s).spares = s.spares ∧
    (raiseCtx code c unit arg s).cells = s.cells ∧ (raiseCtx code c unit arg s).seqs = s.seqs ∧
    (raiseCtx code c unit arg s).engines = s.engines ∧ (raiseCtx code c unit arg s).rowStats = s.rowStats ∧
    (raiseCtx code c unit arg s).effects = s.effects ∧ (raiseCtx code c unit arg s).drives = s.drives ∧
    (raiseCtx code c unit arg s).strands = s.strands ∧ (raiseCtx code c unit arg s).store = s.store ∧
    (raiseCtx code c unit arg s).lp4x = s.lp4x ∧ (raiseCtx code c unit arg s).lp4xCheck = s.lp4xCheck ∧
    (raiseCtx code c unit arg s).replaced = s.replaced ∧ (raiseCtx code c unit arg s).bad = s.bad ∧
    (raiseCtx code c unit arg s).bezel = s.bezel ∧ (raiseCtx code c unit arg s).rows = s.rows ∧
    (raiseCtx code c unit arg s).live = s.live ∧ (raiseCtx code c unit arg s).rings = s.rings ∧
    (raiseCtx code c unit arg s).sends = s.sends ∧ (raiseCtx code c unit arg s).claspRate = s.claspRate ∧
    (raiseCtx code c unit arg s).clasps = s.clasps ∧ (raiseCtx code c unit arg s).signets = s.signets ∧
    (raiseCtx code c unit arg s).fabric = s.fabric ∧ (raiseCtx code c unit arg s).clock = s.clock ∧
    (raiseCtx code c unit arg s).power = s.power ∧ (raiseCtx code c unit arg s).thermal = s.thermal ∧
    (raiseCtx code c unit arg s).locket = s.locket ∧ (raiseCtx code c unit arg s).health = s.health ∧
    (raiseCtx code c unit arg s).startup = s.startup ∧ (raiseCtx code c unit arg s).ports = s.ports ∧
    (raiseCtx code c unit arg s).inbox = s.inbox ∧ (raiseCtx code c unit arg s).free = s.free ∧
    (raiseCtx code c unit arg s).pending = s.pending ∧ (raiseCtx code c unit arg s).pair.regs = s.pair.regs ∧
    (raiseCtx code c unit arg s).pair.takeover = s.pair.takeover ∧
    (raiseCtx code c unit arg s).pair.join = s.pair.join ∧
    (raiseCtx code c unit arg s).pair.link.missRun = s.pair.link.missRun ∧
    (raiseCtx code c unit arg s).pair.link.goodRun = s.pair.link.goodRun ∧
    (raiseCtx code c unit arg s).pair.link.cellNow = s.pair.link.cellNow ∧
    (raiseCtx code c unit arg s).pair.link.partnerRole = s.pair.link.partnerRole ∧
    (raiseCtx code c unit arg s).pair.link.partnerHealth = s.pair.link.partnerHealth ∧
    (raiseCtx code c unit arg s).pair.link.partnerEpoch = s.pair.link.partnerEpoch ∧
    (raiseCtx code c unit arg s).pair.link.partnerId = s.pair.link.partnerId ∧
    (raiseCtx code c unit arg s).pair.link.pairKey = s.pair.link.pairKey ∧
    (raiseCtx code c unit arg s).pair.link.seenInputs = s.pair.link.seenInputs ∧
    (raiseCtx code c unit arg s).pair.link.readyPeriod = s.pair.link.readyPeriod ∧
    (raiseCtx code c unit arg s).pair.link.commits = s.pair.link.commits ∧
    (raiseCtx code c unit arg s).pair.link.setFault = s.pair.link.setFault ∧
    (raiseCtx code c unit arg s).pair.link.leaving = s.pair.link.leaving ∧
    (raiseCtx code c unit arg s).pair.link.splitSeen = s.pair.link.splitSeen ∧
    (raiseCtx code c unit arg s).pair.link.lastReport = s.pair.link.lastReport ∧
    (raiseCtx code c unit arg s).pair.link.reportBead = s.pair.link.reportBead ∧
    (raiseCtx code c unit arg s).pair.link.lost = s.pair.link.lost ∧
    (raiseCtx code c unit arg s).pair.link.heard = s.pair.link.heard ∧
    (raiseCtx code c unit arg s).pair.link.keysSeen = s.pair.link.keysSeen ∧
    (raiseCtx code c unit arg s).pair.cmp.own = s.pair.cmp.own ∧
    (raiseCtx code c unit arg s).pair.cmp.theirs = s.pair.cmp.theirs ∧
    (raiseCtx code c unit arg s).pair.cmp.diverged = s.pair.cmp.diverged ∧
    (raiseCtx code c unit arg s).pair.cmp.mismatches = s.pair.cmp.mismatches ∧
    (raiseCtx code c unit arg s).pair.cmp.hunts = s.pair.cmp.hunts ∧
    (raiseCtx code c unit arg s).pair.cmp.localFaults = s.pair.cmp.localFaults ∧
    (raiseCtx code c unit arg s).pair.cmp.agreed = s.pair.cmp.agreed ∧
    (raiseCtx code c unit arg s).pair.cmp.selftestRot = s.pair.cmp.selftestRot ∧
    (raiseCtx code c unit arg s).pair.cmp.selftests = s.pair.cmp.selftests ∧
    (raiseCtx code c unit arg s).pair.cmp.turn = s.pair.cmp.turn ∧
    (raiseCtx code c unit arg s).pair.cmp.covered = s.pair.cmp.covered ∧
    (raiseCtx code c unit arg s).mgmt.up = s.mgmt.up ∧ (raiseCtx code c unit arg s).mgmt.net = s.mgmt.net ∧
    (raiseCtx code c unit arg s).mgmt.conns = s.mgmt.conns ∧
    (raiseCtx code c unit arg s).mgmt.nextConn = s.mgmt.nextConn ∧
    (raiseCtx code c unit arg s).mgmt.operatorRoot = s.mgmt.operatorRoot ∧
    (raiseCtx code c unit arg s).mgmt.observerRoot = s.mgmt.observerRoot ∧
    (raiseCtx code c unit arg s).mgmt.replaceAt = s.mgmt.replaceAt ∧
    (raiseCtx code c unit arg s).mgmt.healthLog = s.mgmt.healthLog ∧
    (raiseCtx code c unit arg s).mgmt.healthLogAt = s.mgmt.healthLogAt ∧
    (raiseCtx code c unit arg s).mgmt.image = s.mgmt.image ∧
    (raiseCtx code c unit arg s).mgmt.imageBase = s.mgmt.imageBase ∧
    (raiseCtx code c unit arg s).mgmt.resetDue = s.mgmt.resetDue ∧
    (raiseCtx code c unit arg s).mgmt.pairToken = s.mgmt.pairToken ∧
    (raiseCtx code c unit arg s).mgmt.seaToken = s.mgmt.seaToken ∧ (raiseCtx code c unit arg s).mgmt.hm = s.mgmt.hm ∧
    (raiseCtx code c unit arg s).cast.replay = s.cast.replay ∧
    (raiseCtx code c unit arg s).cast.slots = s.cast.slots ∧
    (raiseCtx code c unit arg s).cast.stripe = s.cast.stripe ∧
    (raiseCtx code c unit arg s).cast.chBase = s.cast.chBase ∧
    (raiseCtx code c unit arg s).cast.sizeGib = s.cast.sizeGib ∧ (raiseCtx code c unit arg s).cast.en = s.cast.en ∧
    (raiseCtx code c unit arg s).cast.fabFull = s.cast.fabFull ∧
    (raiseCtx code c unit arg s).cast.freezeOnEvent = s.cast.freezeOnEvent ∧
    (raiseCtx code c unit arg s).cast.frozen = s.cast.frozen ∧
    (raiseCtx code c unit arg s).cast.wrapped = s.cast.wrapped ∧
    (raiseCtx code c unit arg s).cast.ctxMask = s.cast.ctxMask ∧
    (raiseCtx code c unit arg s).cast.post = s.cast.post ∧ (raiseCtx code c unit arg s).cast.head = s.cast.head ∧
    (raiseCtx code c unit arg s).cast.count = s.cast.count ∧ (raiseCtx code c unit arg s).cast.lost = s.cast.lost ∧
    (raiseCtx code c unit arg s).cast.staging = s.cast.staging ∧
    (raiseCtx code c unit arg s).cast.tails = s.cast.tails ∧
    (raiseCtx code c unit arg s).cast.dropped = s.cast.dropped ∧
    (raiseCtx code c unit arg s).cast.lineAt = s.cast.lineAt ∧
    (raiseCtx code c unit arg s).cast.ringBase = s.cast.ringBase ∧
    (raiseCtx code c unit arg s).cast.feed = s.cast.feed ∧ (raiseCtx code c unit arg s).cast.readAt = s.cast.readAt ∧
    (raiseCtx code c unit arg s).cast.readLeft = s.cast.readLeft ∧
    (raiseCtx code c unit arg s).cast.readSkip = s.cast.readSkip ∧
    (raiseCtx code c unit arg s).cast.seen = s.cast.seen ∧ (raiseCtx code c unit arg s).cast.deltas = s.cast.deltas ∧
    (raiseCtx code c unit arg s).cast.replayStopped = s.cast.replayStopped ∧
    (raiseCtx code c unit arg s).ctxs.length = s.ctxs.length :=
  (raiseCtx_evFrame ..).fields

end Sys2Proof.Machine
end

