-- ==== Sys2Proof/Laws/Steps.lean ====
section
/-! SUPPORT. The boundary and the commands that set time: what they do to the spine, and the canonical form across them. -/

namespace Sys2Proof.Machine

/-! ## The bead boundary keeps the canonical form -/

theorem inputFold_canon (m : List (Nat × Nat × Option Nat × (Nat → State → State)))
    (hm : ∀ x ∈ m, ∀ n t, memCanon t → memCanon (x.2.2.2 n t)) (y : Nat × Nat × State) (h : memCanon y.2.2) :
    memCanon (m.foldl (fun (x : Nat × Nat × State) i =>
      let n := if x.1 = i.1 then x.2.1 else 0
      (i.1, n + 1, i.2.2.2 (i.2.2.1.getD n) x.2.2)) y).2.2 := by
  induction m generalizing y with
  | nil => exact h
  | cons a q ih =>
    rw [List.foldl_cons]
    exact ih (fun b hb => hm b (List.mem_cons_of_mem _ hb)) _ (hm a List.mem_cons_self _ _ h)

theorem dueInputs_canon (s : State) (x : Nat × Nat × Option Nat × (Nat → State → State)) (hx : x ∈ dueInputs s) (n : Nat)
    (t : State) (h : memCanon t) : memCanon (x.2.2.2 n t) := by
  unfold dueInputs at hx
  rw [mem_sortBy, List.mem_append] at hx
  rcases hx with hx | hx
  · obtain ⟨i, -, rfl⟩ := List.mem_map.1 hx
    exact memCanon_of_mems (applyInput_mems _ _ _) h
  · obtain ⟨e, -, he⟩ := List.mem_filterMap.1 hx
    split at he
    · split at he
      · cases he
        exact applyHostWrite_canon _ _ _ _ _ _ _ (memCanon_of_mems (markDirty_mems _ _) h)
      · contradiction
    · contradiction

theorem takeInputs_canon (s : State) (h : memCanon s) : memCanon (takeInputs s) := by
  unfold takeInputs
  extract_lets l s1 r
  have h1 : memCanon s1 := memCanon_of_mems (by simp [s1]) h
  have hr : memCanon r.2.2 := inputFold_canon l (fun x hx n t => dueInputs_canon s x hx n t) _ h1
  exact memCanon_of_mems (requestChain_mems _) hr

theorem releases_mems (l : List CtxNo) (s : State) :
    (l.foldl (fun t c => if releaseIsDue t c then releaseNow c t else t) s).mems = s.mems := by
  refine foldl_mems _ (fun t c => ?_) _ _
  split
  · exact releaseNow_mems _ _
  · rfl

theorem swaps_mems (l : List Nat) (s : State) : (l.foldl (fun t d => spareSwap d t) s).mems = s.mems :=
  foldl_mems _ (fun t d => spareSwap_mems d t) _ _

theorem boundaryWork_canon (s : State) (h : memCanon s) : memCanon (boundaryWork s) := by
  unfold boundaryWork
  extract_lets s1 s2 s3 s4
  have h3 : memCanon s3 := memCanon_of_mems ((swaps_mems _ _).trans (releases_mems _ _)) (endBead_canon s h)
  have h4 : memCanon s4 :=
    foldl_canon (fun t (p : Pending) => admissionEffect p.ctx t) (fun t p ht => admissionEffect_canon _ _ ht) _ _ h3
  refine memCanon_of_mems ?_ h4
  simp only [boundaryDone_mems, sendReady_mems, powerStep_mems, roleExchange_mems, epochBeat_mems, epochRaise_mems]

theorem rotationBoundary_canon (s : State) (h : memCanon s) : memCanon (rotationBoundary s) := by
  unfold rotationBoundary when_
  split
  · exact boundaryWork_canon s h
  · exact h

/-! ## Time -/

/-- The spine at the start of the next rotation, of rate `rate`. -/
def Spine.turn (x : Spine) (rate : Nat) : Spine :=
  ⟨x.grade, x.steppings, x.bead, 0, lrot rate (x.period + 1).toNat, x.period + 1, x.rotCount + 1, x.pending, x.contexts,
    x.ringGroups, x.ports, x.channels⟩

/-- The rotation that begins: its number, its length, and every other part of the spine as it was. -/
theorem nextRotation_spine (s : State) : (nextRotation s).spine = s.spine.turn s.rate := by
  unfold nextRotation
  extract_lets p f x silent use y bz ck th su s1 s2 s3 s4 s5
  have h1 : s1.spine = s.spine.turn s.rate := by
    simp only [s1, State.spine, Spine.turn, List.length_map]
    rfl
  have h2 : s2.spine = s1.spine := foldl_spine _ (fun t c => ite_spine (withhold_spine _ _) rfl) _ _
  have h3 : s3.spine = s2.spine := foldl_spine _ (fun t c => scrubOther_spine _ _) _ _
  have h4 : s4.spine = s3.spine := (gateCheck_spine _).trans (foldl_spine _ (fun t d => retryCopy_spine _ _) _ _)
  clear_value s1 s2 s3 s4
  have h5 : s5.spine = s4.spine := ite_spine (setHealth_spine _ _ _) rfl
  clear_value s5
  rw [copyBoundary_spine, rejoinDue_spine, selfTests_spine, h5, h4, h3, h2, h1]

/-- A scrub whose lines are done clears the stores in the new rotation. -/
theorem nextRotation_canon (s : State) (h : memCanon s) : memCanon (nextRotation s) := by
  unfold nextRotation
  extract_lets p f x silent use y bz ck th su s1 s2 s3 s4 s5
  have h1 : memCanon s1 := h
  have h2 : memCanon s2 := memCanon_of_mems (foldl_mems _ (fun t c => ite_mems (withhold_mems _ _) rfl) _ _) h1
  have h3 : memCanon s3 := foldl_canon _ (fun t c ht => scrubOther_canon _ _ ht) _ _ h2
  have h4 : memCanon s4 := memCanon_of_mems ((gateCheck_mems _).trans (foldl_mems _ (fun t d => retryCopy_mems _ _) _ _)) h3
  clear_value s1 s2 s3 s4
  have h5 : memCanon s5 := memCanon_of_mems (ite_mems (setHealth_mems _ _ _) rfl) h4
  clear_value s5
  exact memCanon_of_mems ((copyBoundary_mems _).trans ((rejoinDue_mems _).trans (selfTests_mems _))) h5

/-- The spine of the bead after the present one. -/
def Spine.next (x : Spine) (rate : Nat) : Spine :=
  let y : Spine := ⟨x.grade, x.steppings, x.bead + 1, x.beadInRot, x.rotLen, x.period, x.rotCount, x.pending, x.contexts,
    x.ringGroups, x.ports, x.channels⟩
  if x.beadInRot + 1 < x.rotLen then
    ⟨x.grade, x.steppings, x.bead + 1, x.beadInRot + 1, x.rotLen, x.period, x.rotCount, x.pending, x.contexts, x.ringGroups,
      x.ports, x.channels⟩
  else y.turn rate

theorem nextBead_spine (s : State) : (nextBead s).spine = s.spine.next (copyStep (endSteps s)).rate := by
  unfold nextBead
  extract_lets y s1
  have e : (copyStep (endSteps s)).spine = s.spine := (copyStep_spine _).trans (endSteps_spine _)
  have h1 : s1.spine = ⟨s.grade, s.steppings, s.bead + 1, s.beadInRot, s.rotLen, s.period, s.rotCount, s.pending,
      s.ctxs.length, s.rings.length, s.clasps.length, s.bezel.channels.length⟩ := by
    have : s1.spine = { (copyStep (endSteps s)).spine with bead := s.bead + 1 } := rfl
    rw [this, e]; rfl
  have hr : s1.rate = (copyStep (endSteps s)).rate := rfl
  have hb : s1.beadInRot = s.beadInRot := congrArg Spine.beadInRot h1
  have hl : s1.rotLen = s.rotLen := congrArg Spine.rotLen h1
  rw [oppStep_spine]
  simp only [Spine.next]
  by_cases h : s.beadInRot + 1 < s.rotLen
  · rw [if_pos (show s1.beadInRot + 1 < s1.rotLen by rw [hb, hl]; exact h), if_pos (show s.spine.beadInRot + 1 < s.spine.rotLen from h)]
    have : ({ s1 with beadInRot := s1.beadInRot + 1 } : State).spine = { s1.spine with beadInRot := s1.beadInRot + 1 } := rfl
    rw [this, h1, hb]
    rfl
  · rw [if_neg (show ¬ s1.beadInRot + 1 < s1.rotLen by rw [hb, hl]; exact h),
      if_neg (show ¬ s.spine.beadInRot + 1 < s.spine.rotLen from h), nextRotation_spine, h1, hr]
    rfl

theorem nextBead_canon (s : State) (h : memCanon s) : memCanon (nextBead s) := by
  unfold nextBead
  extract_lets y s1
  have h1 : memCanon s1 := memCanon_of_mems (show s1.mems = s.mems from (copyStep_mems _).trans (endSteps_mems _)) h
  refine memCanon_of_mems (oppStep_mems _) ?_
  by_cases hb : s1.beadInRot + 1 < s1.rotLen
  · rw [if_pos hb]; exact h1
  · rw [if_neg hb]; exact nextRotation_canon _ h1

theorem boundary_canon (s : State) (h : memCanon s) : memCanon (boundary s) := by
  unfold boundary
  extract_lets s1 s2
  have h1 : memCanon s1 := nextBead_canon _ (endBead_canon _ (rotationBoundary_canon s h))
  have h2 : memCanon s2 :=
    memCanon_of_mems ((loupeBegin_mems _).trans ((beginCues_mems _).trans (andMasks_mems _))) (takeInputs_canon _ (showEffects_canon _ h1))
  clear_value s2
  refine memCanon_of_mems ?_ h2
  rw [fabUnclaimed_mems, sendProbes_mems, State.modLink_mems, sendCell_mems]

/-- The rate that the end of the present bead leaves. -/
def State.rateNext (s : State) : Nat := (copyStep (endSteps (endBead (rotationBoundary s)))).rate

/-- BEAD_BOUNDARY moves the spine on by a bead, at the rate that the end of the bead leaves. -/
theorem boundary_spine (s : State) : (boundary s).spine = s.spine.next s.rateNext := by
  unfold boundary
  extract_lets s1 s2
  have h1 : s1.spine = s.spine.next s.rateNext := by
    simp only [s1, nextBead_spine, endBead_spine, rotationBoundary_spine, State.rateNext]
  have h2 : s2.spine = s1.spine := by
    simp only [s2, loupeBegin_spine, beginCues_spine, andMasks_spine, takeInputs_spine, showEffects_spine]
  clear_value s2
  rw [fabUnclaimed_spine, sendProbes_spine, State.modLink_spine, sendCell_spine, h2, h1]

end Sys2Proof.Machine
end

