-- ==== Sys2Proof/Laws/Execs.lean ====
section
/-! SUPPORT. What every command does to the spine and to the canonical form. -/

namespace Sys2Proof.Machine

/-- The commands that may move the counters of time. -/
def movesTime (c : Instr) : Bool :=
  match c with
  | .beadBoundary | .claspAlignComplete .. | .counterAdopt .. | .moduleReset | .seaFormationComplete .. | .alignmentEdge
  | .powerLoss => true
  | _ => false

theorem vecCue_work (op : VOp) (u : UnitNo) (i : Issue) (g : State → State) (e : vecCue op u i = some g) :
    cueWork u i = some g := by
  unfold vecCue at e
  (repeat' split at e) <;> simp_all [cueWork]

theorem engCue_work (k : UnitKind) (n : Nat) (hn : n ≠ 63) (u : UnitNo) (i : Issue) (g : State → State)
    (e : engCue k n u i = some g) : cueWork u i = some g := by
  unfold engCue at e
  (repeat' split at e) <;> simp_all [cueWork]
  intro h; simp_all

theorem portCue_work (k : UnitKind) (n : Nat) (u : UnitNo) (i : Issue) (w : Issue → PortFields → State → State)
    (g : State → State) (hw : ∀ f : PortFields, unitKind u = some k → f.pop.toNat = n → portWork u i f = some (w i f))
    (e : portCue k n u w i = some g) : cueWork u i = some g := by
  unfold portCue at e
  (repeat' split at e) <;> simp_all [cueWork]

/-- A cue command carries out its unit's begun cue, or, where that cue is another's or there is none, does nothing. -/
theorem cue_exec (c : Instr) (u : UnitNo) (s : State) (h : cueUnit c = some u) :
    exec c s = .next s ∨ exec c s = .next (performCue u s) := by
  have key : ∀ f : Issue → Option (State → State), (∀ i g, f i = some g → cueWork u i = some g) →
      onIssue u f s = s ∨ onIssue u f s = performCue u s := by
    intro f hf
    unfold performCue onIssue
    cases (s.seq u).issue with
    | none => exact .inl rfl
    | some i =>
      cases hfi : f i with
      | none => exact .inl (by simp only [hfi])
      | some g => exact .inr (by simp only [hfi, hf i g hfi])
  have keyOk : ∀ f : Issue → Option (State → State), (∀ i g, f i = some g → cueWork u i = some g) →
      ok (onIssue u f s) = .next s ∨ ok (onIssue u f s) = .next (performCue u s) := by
    intro f hf
    rcases key f hf with e | e <;> rw [e]
    · exact .inl rfl
    · exact .inr rfl
  cases c
  all_goals first
    | exact nomatch (show none = some u from h)
    | (obtain rfl := Option.some.inj h
       refine keyOk _ fun i g e => ?_
       first
         | with_reducible exact vecCue_work _ _ i g e
         | with_reducible exact engCue_work _ _ (by decide) _ i g e
         | with_reducible exact portCue_work _ _ _ i _ g (fun f hk hp => by simp [portWork, hk, hp]) e
         | (beta_reduce at e
            (repeat' split at e) <;> first | contradiction | (cases e; simp only [cueWork, ↓reduceIte, *])))

theorem command_spine (id code : Nat) (f : State → State) (s : State) (h : ∀ t, (f t).spine = t.spine) :
    (command id code f s).spine = s.spine := by
  unfold command
  split
  · rfl
  · extract_lets s1
    have h1 : s1.spine = s.spine := rfl
    clear_value s1
    split
    · rw [h, h1]
    · rw [refuse_spine, h1]

theorem leadOnly_spine (id code : Nat) (f : State → State) (s : State) (h : ∀ t, (f t).spine = t.spine) :
    (leadOnly id code f s).spine = s.spine := by
  unfold leadOnly; split <;> simp [h]

theorem hmTake_spine (i : Nat) (p : Bytes) (s t : State) (e : hmTake i p s = some t) : t.spine = s.spine := by
  unfold hmTake at e
  extract_lets m at e
  split at e
  · contradiction
  · split at e
    · split at e
      · contradiction
      · split at e <;> (cases e; simp)
    · split at e
      · contradiction
      · cases e; simp

/-- Every command goes on, and one that moves no counter of time leaves the spine as it was. -/
theorem exec_spine (c : Instr) (s : State) (hc : movesTime c = false) : ∃ t, exec c s = .next t ∧ t.spine = s.spine := by
  cases hu : cueUnit c with
  | some u =>
    rcases cue_exec c u s hu with e | e
    · exact ⟨_, e, rfl⟩
    · exact ⟨_, e, performCue_spine u s⟩
  | none =>
    cases c
    all_goals first
      | exact nomatch (show some _ = none from hu)
      | exact Bool.noConfusion (show true = false from hc)
      | (refine ⟨_, rfl, command_spine _ _ _ _ fun t => ?_⟩
         first | (simp; done) | ((repeat' split) <;> (simp; done)))
      | (refine ⟨_, rfl, command_spine _ _ _ _ fun t => leadOnly_spine _ _ _ _ fun t => ?_⟩
         simp)
      | (refine ⟨_, rfl, ?_⟩
         first | (simp; done) | ((repeat' split) <;> (simp; done)))
      | (refine ⟨_, rfl, command_spine _ _ _ _ fun t => ?_⟩
         (repeat' split) <;> first | (simp; done) | (rename_i e; simp [hmTake_spine _ _ _ _ e]))

/-! ## The commands that may move the counters of time -/

/-- The queue and the numbers of the parts are those of another spine. -/
def Spine.sameParts (x y : Spine) : Prop :=
  x.grade = y.grade ∧ x.steppings = y.steppings ∧ x.pending = y.pending ∧ x.contexts = y.contexts
    ∧ x.ringGroups = y.ringGroups ∧ x.ports = y.ports ∧ x.channels = y.channels

theorem sameParts_of_spine {s t : State} (h : t.spine = s.spine) : t.spine.sameParts s.spine := by
  rw [h]; exact ⟨rfl, rfl, rfl, rfl, rfl, rfl, rfl⟩

theorem boundary_parts (s : State) : (boundary s).spine.sameParts s.spine := by
  rw [boundary_spine]
  unfold Spine.next Spine.turn
  split <;> exact ⟨rfl, rfl, rfl, rfl, rfl, rfl, rfl⟩

theorem claspAligned_parts (p : Nat) (m : AlignMeasure) (s : State) : (claspAligned p m s).spine.sameParts s.spine := by
  unfold claspAligned
  split
  · exact sameParts_of_spine rfl
  · split
    · exact sameParts_of_spine ((claspRaise_spine _ _ _).trans (State.modClasp_spine _ _ _))
    · split
      · rw [State.modClasp_spine]
        exact ⟨rfl, rfl, rfl, rfl, rfl, rfl, rfl⟩
      · exact sameParts_of_spine rfl

theorem counterAdopt_parts (b : DWord) (p : Word) (s : State) : (counterAdopt b p s).spine.sameParts s.spine := by
  unfold counterAdopt
  split
  · extract_lets s1
    have h1 : s1.spine.sameParts s.spine := ⟨rfl, rfl, rfl, rfl, rfl, rfl, rfl⟩
    clear_value s1
    rw [State.modJoin_spine]
    exact h1
  · split
    · exact sameParts_of_spine (by simp)
    · exact sameParts_of_spine rfl

theorem seaFormed_parts (a b : Bool) (l : List Nat) (s : State) : (seaFormed a b l s).spine.sameParts s.spine := by
  unfold seaFormed
  split
  · extract_lets p s1
    have h1 : s1.spine = s.spine := rfl
    clear_value s1
    split
    · exact sameParts_of_spine ((formationFails_spine _).trans ((foldl_spine _ (fun t p => claspRaise_spine _ _ _) _ _).trans h1))
    · split
      · exact sameParts_of_spine ((formationFails_spine _).trans h1)
      · rw [← h1]
        exact ⟨rfl, rfl, rfl, rfl, rfl, rfl, rfl⟩
  · exact sameParts_of_spine rfl

theorem alignmentEdge_parts (s : State) : (alignmentEdge s).spine.sameParts s.spine := by
  unfold alignmentEdge
  split
  · exact ⟨rfl, rfl, rfl, rfl, rfl, rfl, rfl⟩
  · exact sameParts_of_spine rfl

theorem restart_parts (s : State) :
    (restart s).grade = s.grade ∧ (restart s).steppings = s.steppings ∧ (restart s).pending = s.pending ∧ shapeOk (restart s) :=
  ⟨rfl, rfl, rfl, by unfold shapeOk; exact ⟨rfl, rfl, rfl, rfl⟩⟩

theorem shapeOk_of_parts {s t : State} (h : t.spine.sameParts s.spine) (hs : shapeOk s) : shapeOk t := by
  obtain ⟨-, -, -, h1, h2, h3, h4⟩ := h
  obtain ⟨g1, g2, g3, g4⟩ := hs
  exact ⟨h1.trans g1, h2.trans g2, h3.trans g3, h4.trans g4⟩

/-! ## The bead stands within its rotation -/

theorem lrot_pos (r p : Nat) : 0 < lrot r p := by
  unfold lrot
  (repeat' split) <;> decide

theorem next_placed (x : Spine) (r : Nat) : (x.next r).beadInRot < (x.next r).rotLen := by
  unfold Spine.next Spine.turn
  split
  · assumption
  · exact lrot_pos _ _

theorem placed_of_spine {s t : State} (h : t.spine = s.spine) (hs : placed s) : placed t := by
  have h1 : t.beadInRot = s.beadInRot := congrArg Spine.beadInRot h
  have h2 : t.rotLen = s.rotLen := congrArg Spine.rotLen h
  unfold placed
  rw [h1, h2]
  exact hs

theorem placed_of_lt (t : State) (h : t.spine.beadInRot < t.spine.rotLen) : placed t := h

theorem boundary_placed (s : State) : placed (boundary s) := by
  refine placed_of_lt _ ?_
  rw [boundary_spine]
  exact next_placed _ _

theorem claspAligned_placed (p : Nat) (m : AlignMeasure) (s : State) (h : placed s) : placed (claspAligned p m s) := by
  unfold claspAligned
  split
  · exact h
  · split
    · exact placed_of_spine ((claspRaise_spine _ _ _).trans (State.modClasp_spine _ _ _)) h
    · split
      · refine placed_of_spine (State.modClasp_spine _ _ _) ?_
        exact Nat.lt_of_lt_of_le h (Nat.le_add_right _ _)
      · exact h

theorem counterAdopt_placed (b : DWord) (p : Word) (s : State) (h : placed s) : placed (counterAdopt b p s) := by
  unfold counterAdopt
  split
  · extract_lets s1
    have h1 : placed s1 := lrot_pos _ _
    clear_value s1
    exact placed_of_spine (State.modJoin_spine _ _) h1
  · split
    · exact placed_of_spine (by simp) h
    · exact h

theorem seaFormed_placed (a b : Bool) (l : List Nat) (s : State) (h : placed s) : placed (seaFormed a b l s) := by
  unfold seaFormed
  split
  · extract_lets p s1
    have h1 : placed s1 := h
    clear_value s1
    split
    · exact placed_of_spine ((formationFails_spine _).trans (foldl_spine _ (fun t p => claspRaise_spine _ _ _) _ _)) h1
    · split
      · exact placed_of_spine (formationFails_spine _) h1
      · exact h1
  · exact h

theorem restart_placed (s : State) : placed (restart s) := by
  have h1 : (restart s).beadInRot = 0 := rfl
  have h2 : (restart s).rotLen = 625 := rfl
  unfold placed
  rw [h1, h2]
  decide

theorem alignmentEdge_placed (s : State) (h : placed s) : placed (alignmentEdge s) := by
  unfold alignmentEdge
  split
  · exact lrot_pos _ _
  · exact h

theorem nextBoundary_placed (s : State) (h : placed s) : placed (when_ s.startup.counting boundary s) := by
  unfold when_
  split
  · exact boundary_placed s
  · exact h

theorem moduleReset_placed (s : State) (h : placed s) : placed (moduleReset s) := by
  unfold moduleReset
  split
  · exact restart_placed s
  · exact h

/-- Every command leaves the bead within its rotation. -/
theorem exec_placed (c : Instr) (s : State) (h : placed s) : ∃ t, exec c s = .next t ∧ placed t := by
  by_cases hc : movesTime c = false
  · obtain ⟨t, e, ht⟩ := exec_spine c s hc
    exact ⟨t, e, placed_of_spine ht h⟩
  · cases c
    case beadBoundary => exact ⟨_, rfl, nextBoundary_placed s h⟩
    case claspAlignComplete p m => exact ⟨_, rfl, claspAligned_placed p m s h⟩
    case counterAdopt b p => exact ⟨_, rfl, counterAdopt_placed b p s h⟩
    case seaFormationComplete a b l => exact ⟨_, rfl, seaFormed_placed a b l s h⟩
    case alignmentEdge => exact ⟨_, rfl, alignmentEdge_placed s h⟩
    case powerLoss => exact ⟨_, rfl, restart_placed s⟩
    case moduleReset => exact ⟨_, rfl, moduleReset_placed s h⟩
    all_goals exact absurd rfl hc

/-- What every command keeps: the queue, the grade, the steppings and the numbers of the parts. -/
theorem exec_keeps (c : Instr) (s : State) :
    ∃ t, exec c s = .next t ∧ t.pending = s.pending ∧ t.grade = s.grade ∧ t.steppings = s.steppings ∧ (shapeOk s → shapeOk t) := by
  have key : ∀ {t : State}, t.spine.sameParts s.spine →
      t.pending = s.pending ∧ t.grade = s.grade ∧ t.steppings = s.steppings ∧ (shapeOk s → shapeOk t) :=
    fun h => ⟨h.2.2.1, h.1, h.2.1, shapeOk_of_parts h⟩
  have hr := restart_parts s
  by_cases hc : movesTime c = false
  · obtain ⟨t, e, h⟩ := exec_spine c s hc
    exact ⟨t, e, key (sameParts_of_spine h)⟩
  · cases c
    case beadBoundary =>
      refine ⟨_, rfl, key ?_⟩
      unfold when_
      split
      · exact boundary_parts s
      · exact sameParts_of_spine rfl
    case claspAlignComplete p m => exact ⟨_, rfl, key (claspAligned_parts p m s)⟩
    case counterAdopt b p => exact ⟨_, rfl, key (counterAdopt_parts b p s)⟩
    case seaFormationComplete a b l => exact ⟨_, rfl, key (seaFormed_parts a b l s)⟩
    case alignmentEdge => exact ⟨_, rfl, key (alignmentEdge_parts s)⟩
    case powerLoss => exact ⟨_, rfl, hr.2.2.1, hr.1, hr.2.1, fun _ => hr.2.2.2⟩
    case moduleReset =>
      refine ⟨_, rfl, ?_⟩
      unfold moduleReset
      split
      · exact ⟨hr.2.2.1, hr.1, hr.2.1, fun _ => hr.2.2.2⟩
      · exact ⟨rfl, rfl, rfl, id⟩
    all_goals exact absurd rfl hc

end Sys2Proof.Machine
end

