-- ==== Sys2Proof/Laws/ExecCanon.lean ====
section
/-! SUPPORT. Every command keeps the canonical form of the memories. -/

namespace Sys2Proof.Machine

theorem command_canon (id code : Nat) (f : State → State) (s : State) (h : ∀ t, memCanon t → memCanon (f t))
    (hs : memCanon s) : memCanon (command id code f s) := by
  unfold command
  split
  · exact hs
  · extract_lets s1
    have h1 : memCanon s1 := hs
    clear_value s1
    split
    · exact h _ h1
    · exact memCanon_of_mems (refuse_mems _ _ _) h1

theorem leadOnly_canon (id code : Nat) (f : State → State) (s : State) (h : ∀ t, memCanon t → memCanon (f t))
    (hs : memCanon s) : memCanon (leadOnly id code f s) := by
  unfold leadOnly
  split
  · exact memCanon_of_mems (by simp) hs
  · exact h _ hs

theorem hmTake_mems (i : Nat) (p : Bytes) (s t : State) (e : hmTake i p s = some t) : t.mems = s.mems := by
  unfold hmTake at e
  extract_lets m at e
  split at e
  · contradiction
  · split at e
    · split at e
      · contradiction
      · split at e <;> (cases e; simp)
    · split at e
      · contradiction
      · cases e; simp

theorem nextBoundary_canon (s : State) (h : memCanon s) : memCanon (when_ s.startup.counting boundary s) := by
  unfold when_
  split
  · exact boundary_canon s h
  · exact h

theorem claspAligned_canon (p : Nat) (m : AlignMeasure) (s : State) (h : memCanon s) : memCanon (claspAligned p m s) := by
  unfold claspAligned
  split
  · exact h
  · split
    · exact memCanon_of_mems ((claspRaise_mems _ _ _).trans (State.modClasp_mems _ _ _)) h
    · split
      · exact memCanon_of_mems (State.modClasp_mems _ _ _) h
      · exact h

theorem counterAdopt_canon (b : DWord) (p : Word) (s : State) (h : memCanon s) : memCanon (counterAdopt b p s) := by
  unfold counterAdopt
  split
  · extract_lets s1
    have h1 : memCanon s1 := h
    clear_value s1
    exact memCanon_of_mems (State.modJoin_mems _ _) h1
  · split
    · exact memCanon_of_mems (by simp) h
    · exact h

theorem seaFormed_canon (a b : Bool) (l : List Nat) (s : State) (h : memCanon s) : memCanon (seaFormed a b l s) := by
  unfold seaFormed
  split
  · extract_lets p s1
    have h1 : memCanon s1 := h
    clear_value s1
    split
    · exact memCanon_of_mems ((formationFails_mems _).trans (foldl_mems _ (fun t p => claspRaise_mems _ _ _) _ _)) h1
    · split
      · exact memCanon_of_mems (formationFails_mems _) h1
      · exact h1
  · exact h

theorem restart_canon (s : State) (h : memCanon s) : memCanon (restart s) := ⟨memWf_nil, h.2.1, h.2.2⟩

theorem syncWhen_canon (c : CtxNo) (g : Nat) (b : Bytes) (s : State) (h : memCanon s) :
    memCanon (when_ (s.follows && s.running c) (syncArrives c g b) s) := by
  unfold when_
  split
  · exact syncArrives_canon _ _ _ _ h
  · exact h

/-- Every command goes on and keeps the canonical form of the memories. -/
theorem exec_canon (c : Instr) (s : State) (hs : memCanon s) : ∃ t, exec c s = .next t ∧ memCanon t := by
  cases hu : cueUnit c with
  | some u =>
    rcases cue_exec c u s hu with e | e
    · exact ⟨_, e, hs⟩
    · exact ⟨_, e, memCanon_of_mems (performCue_mems u s) hs⟩
  | none =>
    cases c
    case beadBoundary => exact ⟨_, rfl, nextBoundary_canon s hs⟩
    case rotationBoundary => exact ⟨_, rfl, rotationBoundary_canon s hs⟩
    case admissionTakesEffect c => exact ⟨_, rfl, admissionEffect_canon c s hs⟩
    case contextKeyDestroy c => exact ⟨_, rfl, keyDestroy_canon c s hs⟩
    case scrubWrite ch => exact ⟨_, rfl, scrubWrite_canon ch s hs⟩
    case patrol ch => exact ⟨_, rfl, patrol_canon ch s hs⟩
    case ueLineRepair ch b => exact ⟨_, rfl, repairLine_canon ch b s hs⟩
    case claspAlignComplete p m => exact ⟨_, rfl, claspAligned_canon p m s hs⟩
    case castLineWrite => exact ⟨_, rfl, castLine_canon s hs⟩
    case twinSync c g b => exact ⟨_, rfl, syncWhen_canon c g b s hs⟩
    case counterAdopt b p => exact ⟨_, rfl, counterAdopt_canon b p s hs⟩
    case shadowAdmission gs => exact ⟨_, rfl, shadowAdmission_canon gs s hs⟩
    case moduleReset =>
      refine ⟨_, rfl, ?_⟩
      unfold moduleReset
      split
      · exact restart_canon s hs
      · exact hs
    case castImport i o b => exact ⟨_, rfl, command_canon _ _ _ _ (fun t ht => castImport_canon i o b t ht) hs⟩
    case seaFormationComplete a b l => exact ⟨_, rfl, seaFormed_canon a b l s hs⟩
    case alignmentEdge =>
      refine ⟨_, rfl, ?_⟩
      unfold alignmentEdge
      split
      · exact hs
      · exact hs
    case powerLoss => exact ⟨_, rfl, restart_canon s hs⟩
    all_goals first
      | exact nomatch (show some _ = none from hu)
      | (refine ⟨_, rfl, command_canon _ _ _ _ (fun t ht => memCanon_of_mems ?_ ht) hs⟩
         first | (simp; done) | ((repeat' split) <;> (simp; done)))
      | (refine ⟨_, rfl, command_canon _ _ _ _ (fun t ht => leadOnly_canon _ _ _ _ (fun t ht => memCanon_of_mems ?_ ht) ht) hs⟩
         simp)
      | (refine ⟨_, rfl, memCanon_of_mems ?_ hs⟩
         first | (simp; done) | ((repeat' split) <;> (simp; done)))
      | (refine ⟨_, rfl, command_canon _ _ _ _ (fun t ht => memCanon_of_mems ?_ ht) hs⟩
         (repeat' split) <;> first | (simp; done) | (rename_i e; simp [hmTake_mems _ _ _ _ e]))

end Sys2Proof.Machine
end

