-- ==== Sys2Proof/Laws/Operands.lean ====
section
/-! SUPPORT. What a begun cue's command runs, and what operand forms depend on: the contexts and the grade for an address,
the store for the bytes. -/

namespace Sys2Proof.Machine

/-- A command that knows the begun cue carries it out on the state in which the cue counts as carried out. -/
theorem onIssue_begun (u : UnitNo) (f : Issue → Option (State → State)) (s : State) (i : Issue) (g : State → State)
    (h : begun s u i) (hf : f i = some g) : onIssue u f s = g (done u s) := by
  unfold begun at h
  simp only [onIssue, h, hf]

/-- A command for which no cue is begun changes nothing. -/
theorem onIssue_none (u : UnitNo) (f : Issue → Option (State → State)) (s : State) (h : (s.seq u).issue = none) :
    onIssue u f s = s := by
  simp only [onIssue, h]

/-- The state after a cue counts as carried out differs in the unit's begun cue alone. -/
theorem done_seq (u v : UnitNo) (s : State) :
    (done u s).seq v = if v = u then { s.seq u with issue := none } else s.seq v := by
  unfold done State.setSeq State.seq
  by_cases h : v = u
  · subst h; simp only [assoc_assocSet_same, if_pos, Option.getD_some]
  · simp only [assoc_assocSet_other _ _ _ _ h, if_neg h]

/-- A Facet's cells after one Facet's cells were set. -/
theorem CellArrays.get_set (a : CellArrays) (f g : Nat) (l : List Cell) :
    (a.set f l).get g = if g = f then l else a.get g := by
  unfold CellArrays.set CellArrays.get
  by_cases h : g = f
  · subst h; simp only [assoc_assocSet_same, if_pos]
  · simp only [assoc_assocSet_other _ _ _ _ h, if_neg h]

/-! ## Addresses depend on the contexts and the grade -/

theorem ctx_congr {s t : State} (h : t.ctxs = s.ctxs) (c : CtxNo) : t.ctx c = s.ctx c := by
  unfold State.ctx; rw [h]

theorem windowOf_congr {s t : State} (h : t.ctxs = s.ctxs) (c : CtxNo) (w : Nat) : windowOf t c w = windowOf s c w := by
  unfold windowOf; rw [ctx_congr h]

theorem issueAddr_congr {s t : State} (h : t.ctxs = s.ctxs) (i : Issue) (b st : Nat) : issueAddr t i b st = issueAddr s i b st := by
  unfold issueAddr; rw [windowOf_congr h]

theorem partSize_congr {s t : State} (h : t.ctxs = s.ctxs) (c : CtxNo) : partSize t c = partSize s c := by
  unfold partSize; rw [ctx_congr h]

theorem ownKey_congr {s t : State} (h : t.ctxs = s.ctxs) (c : CtxNo) (f : Nat) (p : Int) (n : Nat) :
    ownKey t c f p n = ownKey s c f p n := by
  unfold ownKey; rw [partSize_congr h, ctx_congr h]

theorem translate_congr {s t : State} (h : t.ctxs = s.ctxs) (g : t.grade = s.grade) (c : CtxNo) (seg o : Nat) (w : Bool) :
    translate t c seg o w = translate s c seg o w := by
  unfold translate; rw [partSize_congr h, ctx_congr h, g]

theorem translateRemote_congr {s t : State} (h : t.ctxs = s.ctxs) (c : CtxNo) (seg o : Nat) :
    translateRemote t c seg o = translateRemote s c seg o := by
  unfold translateRemote; rw [ctx_congr h]

theorem locateByte_congr {s t : State} (h : t.ctxs = s.ctxs) (g : t.grade = s.grade) (c : CtxNo) (seg o : Nat) (w : Bool) :
    locateByte t c seg o w = locateByte s c seg o w := by
  unfold locateByte; rw [translate_congr h g]

theorem locatePiece_congr {s t : State} (h : t.ctxs = s.ctxs) (g : t.grade = s.grade) (c : CtxNo) (seg o n : Nat) (w : Bool) :
    locatePiece t c seg o n w = locatePiece s c seg o n w := by
  unfold locatePiece; simp only [locateByte_congr h g]

theorem locate_congr {s t : State} (h : t.ctxs = s.ctxs) (g : t.grade = s.grade) (c : CtxNo) (seg o n : Nat) (w : Bool) :
    locate t c seg o n w = locate s c seg o n w := by
  unfold locate; simp only [locatePiece_congr h g]

theorem segLine_congr {s t : State} (h : t.ctxs = s.ctxs) (g : t.grade = s.grade) (c : CtxNo) (seg : Nat) (o : Int) (w : Bool) :
    segLine t c seg o w = segLine s c seg o w := by
  unfold segLine; rw [translate_congr h g]

theorem moveEnd_congr {s t : State} (h : t.ctxs = s.ctxs) (g : t.grade = s.grade) (c : CtxNo) (seg : Nat) (o : Int) (w : Bool) :
    moveEnd t c seg o w = moveEnd s c seg o w := by
  unfold moveEnd; rw [translate_congr h g]

theorem cueLine_congr {s t : State} (h : t.ctxs = s.ctxs) (g : t.grade = s.grade) (u : UnitNo) (i : Issue) (f : MemFields)
    (w : Bool) : cueLine t u i f w = cueLine s u i f w := by
  unfold cueLine; rw [issueAddr_congr h, segLine_congr h g]

/-! ## Bytes depend on the store -/

theorem readPieces_congr {s t : State} (h : t.store = s.store) (l : List (Nat × Nat)) : readPieces t l = readPieces s l := by
  unfold readPieces; rw [h]

theorem pieceBad_none {s : State} (h : s.bad = []) (l : List (Nat × Nat)) : pieceBad s l = false := by
  simp [pieceBad, h]

/-- A store without bad words has no uncorrectable error to report. -/
theorem storeUe_none {s : State} (h : s.bad = []) (d : Nat) (u : UnitNo) (c : CtxNo) (seg o : Nat) (l : List (Nat × Nat)) :
    storeUe d u c seg o l s = s := by
  have e : l.find? (fun p => pieceBad s [p]) = none := List.find?_eq_none.2 fun p _ => by simp [pieceBad_none h]
  simp only [storeUe, e]

theorem unitUe_none {s : State} (h : s.bad = []) (d : Nat) (u : UnitNo) (rs : List (Nat × Nat)) : unitUe d u rs s = s := by
  have e : rs.find? (fun r => pieceBad s [(unitKey u r.1, r.2)]) = none :=
    List.find?_eq_none.2 fun p _ => by simp [pieceBad_none h]
  simp only [unitUe, e]

theorem readUnit_congr {s t : State} (h : t.store = s.store) (u : UnitNo) (o n : Nat) : readUnit t u o n = readUnit s u o n := by
  unfold readUnit; simp only [h]

theorem portRead_congr {s t : State} (h : t.store = s.store) (u : UnitNo) (o : Int) (n : Nat) :
    portRead t u o n = portRead s u o n := by
  unfold portRead; simp only [readUnit_congr h]

/-! ## One lemma per operand read or write -/

/-- Own scratch that the partition holds and that has no bad word is read as it stands. -/
theorem readOwn_some {s : State} (hb : s.bad = []) {d : Nat} {u : UnitNo} {c : CtxNo} {p : Int} {n k : Nat}
    (h : ownKey s c (unitIdx u) p n = some k) : readOwn d u c p n s = (memRead s.store k n, s) := by
  simp [readOwn, h, storeUe_none hb]

/-- Own scratch that the partition holds is written where it lies. -/
theorem writeOwn_some {s : State} {u : UnitNo} {c : CtxNo} {p : Int} {n k : Nat} (l : List (Nat × Bytes))
    (h : ownKey s c (unitIdx u) p n = some k) : writeOwn u c p n l s = (l.map fun w => (k + w.1, w.2), s) := by
  simp [writeOwn, h]

/-- Bytes that a segment locates and that have no bad word are read as they stand. -/
theorem readSeg_some {s : State} (hb : s.bad = []) {d : Nat} {u : UnitNo} {c : CtxNo} {seg o n : Nat} {l : List (Nat × Nat)}
    (h : locate s c seg o n false = some l) : readSeg d u c seg (o : Int) n s = (readPieces s l, s) := by
  have e : ¬ ((o : Int) < 0) := by omega
  simp [readSeg, h, e, storeUe_none hb]

/-- Bytes that a segment locates are written where they lie. -/
theorem writeSeg_some {s : State} {u : UnitNo} {c : CtxNo} {seg o : Nat} {bs : Bytes} {l : List (Nat × Nat)}
    (h : locate s c seg o bs.length true = some l) : writeSeg u c seg (o : Int) bs s = (cutPieces l bs, s) := by
  have e : ¬ ((o : Int) < 0) := by omega
  simp [writeSeg, h, e]

end Sys2Proof.Machine
end

