-- ==== Sys2Proof/Tests/Slice0.lean ====
section
/-! SUPPORT. Tests: ill-formed commands, the manual's worked examples, and witnesses: states and operands that meet the
hypotheses of the statements. -/

open Sys2Proof Sys2Proof.Machine

namespace Sys2Proof.Tests

/-! ## Small states -/

/-- A ready module with its link up, its beads counted. -/
def up : State :=
  ((State.reset.modPorts fun p => { p with linkUp := true, msixEn := true }).modStartup fun x =>
    { x with ready := true, step := 12, counting := true, powered := true }).modTwin fun t => { t with pairEn := true }

def lead (s : State) : State := s.modTwin fun t => { t with role := .lead }
def pendant (s : State) : State := s.modTwin fun t => { t with role := .pendant }
def joining (s : State) : State := s.modTwin fun t => { t with role := .joining }
def pairIs (p : PairState) (s : State) : State := s.modTwin fun t => { t with state := p }
def copyingOn (s : State) : State := s.modJoin fun j => { j with since := some 0 }

/-- An open operator connection with number 1. -/
def managed (s : State) : State := s.modMgmt fun m => { m with up := true, conns := [⟨1, true, false, [], 0⟩] }

/-- A Strand with nothing but scratch, and a configuration record of plain modes. -/
def bare : Strand :=
  { raw := [], ifaceLevel := 1, grade := 4, rateKhz := 40, realtime := false, movable := true, periodRot := 1, scratchBytes := 262144,
    dir := [], cues := [], strides := [], inits := [], segs := [], digest := zeros 32 }

def plain : Record :=
  { raw := zeros 160, ctx := 1, confidential := false, cast := false, apertureOpen := true, sea := false, claspPorts := 0,
    apertureSession := false, apertureSeg := 1, apertureWin := 0, rateKhz := 40, hostSlots := 1, castSlots := 0, owner := zeros 32,
    signer := zeros 32, weights := zeros 32, charms := zeros 32 }

/-- Segment 0: the scratch of Facet 0; segment 1: 16 KiB of LP4X on channel 0. -/
def twoSegs : List (Nat × SegEntry) :=
  [(0, { rd := true, wr := true, fab := false, space := 1, stripe := 0, chBase := 0, size := 256, base := 0, group := 0 }),
    (1, { rd := true, wr := true, fab := false, space := 0, stripe := 0, chBase := 0, size := 16, base := 0, group := 0 })]

/-- Context 1 admitted, with its partition on Facet 0. -/
def ctx1 (s : State) : State :=
  s.modCtx (fun x => { x with phase := .admitted, strand := some bare, record := some plain, segs := twoSegs, parts := [(0, 0)] }) 1

/-- Unit `u` has begun a cue of context 1. -/
def issued (c : Cue) : Issue := { ctx := 1, win := 0, pos := 2047, cue := c, masks := List.replicate 8 0xFFFFFFFF, idx := [] }
def cueOn (u : UnitNo) (c : Cue) (s : State) : State := s.setSeq u { Seq.reset with issue := some (issued c) }
def one (u : UnitNo) (c : Cue) : State := cueOn u c (ctx1 up)

def fRound : RoundFields :=
  { fmtOut := 0, w := 0, eOut := 0, sat := 1, rmen := 1, rmreg := 7, dBase := 0, dStr := 0, sten := 1, sBase := 0x3FFFC, sStr := 0 }
def fMac : MacFields := { fmtA := 0, fmtB := 0, w := 0, rmen := 0, rmreg := 0, aBase := 0, aStr := 0, bBase := 0, bStr := 0 }
def fMove : MoveFields := { src := 0, dst := 0x20000, srcStr := 0, dstStr := 0, len := 31, slot := 511 }
def fMem : MemFields := { laddr := 0x400003C00, saddr := 0, lStr := 0, sStr := 0, slot := 1023 }
def fVec : VecFields := { n := 15, lmen := 1, lmreg := 3, aOff := 0, aStr := 0, bOff := 0, bStr := 0, cOff := 0, cStr := 0, dOff := 0, dStr := 0 }
def fEng (e : BitVec 6) : EngFields := { eop := e, desc := 0, descStr := 0, opnd := 0, opndStr := 0, slot := 0, param := 0 }
def fPort (p : BitVec 6) (n : BitVec 5) (x : BitVec 15) : PortFields :=
  { pop := p, loff := 0, lstr := 0, len := n, rmod := 5, raddr := 0, rstr := 0, param := x }

/-- A Cast ring of 1 GiB on channel 0, with one Cast slot. -/
def ring1 (s : State) : State := s.modCast fun c => { c with slots := 1, sizeGib := 1 }
def at_ (b : Nat) (s : State) : State := { s with beadInRot := b }

/-- A TRAIN frame for port 3. -/
def trainFrame : Bytes :=
  let b : Bytes := [5, 3, 0, 0, 0, 0, 3, 0] ++ zeros 28
  b ++ leBytes 4 (crc32 b)

def claspOn (f : Clasp → Clasp) (s : State) : State :=
  s.modClasp (fun c => f { c with mode := 1, due := 45, blockLock := true, state := .training }) 3

/-- A locked member of a sea with its drive lock. -/
def inSea (s : State) : State := (s.modFabric fun f => { f with state := .locked }).modClock fun c => { c with ref := .clasp }

/-- A packet of module 5 for an offset of the buffer of fabric port 0. -/
def packet (o : Nat) : Bytes :=
  let b : Bytes := [5, 0, 0, 0, 1, 0] ++ zeros 10 ++ leBytes 8 (2 * 2 ^ 48 + 0xA000 * 2 ^ 24 + o) ++ zeros 40
  b ++ leBytes 4 (crc32 b)

def engStep (k : Nat) : EngStep :=
  { ctx := 1, began := 0, len := 1, eop := k, desc := zeros 256, seg := 0, off := 0, mask := 0xFFFFFFFF, plan := [], lines := [], ref := [],
    outLines := [], formed := false, seen := 0, cut := false }

def entry1 : Committed :=
  { bead := 0, step := 1, record := zeros 128, inputs := zeros 32, signet := some (zeros 32), delivered := false, lost := false, gap := 0 }

def signetItem (b : Byte) : SignetItem := { ctx := 1, kind := 2, port := 0, index := 9, signet := [b] }

/-! ## Ill-formed commands, at least one for each check -/

set_option maxRecDepth 20000 in
theorem test_wf_units_1 : ((
    [.idle 0xC000, .idleLoad 0xC000, .mac 0x400, .macClr 0x400, .round 0x400, .lsumOut 0x400, .lsumIn 0x400, .clear 0x400,
      .copy 0x4010, .fill 0x4010, .read 0x5030, .write 0x5030, .add 0x1400, .sub 0x1400, .mul 0x1400, .fma 0x1400, .min 0x1400,
      .max 0x1400, .abs 0x1400, .neg 0x1400, .cmpEq 0x1400, .cmpLt 0x1400, .cmpLe 0x1400, .rcp 0x1400, .rsqrt 0x1400,
      .sqrt 0x1400, .exp2 0x1400, .log2 0x1400, .sin2pi 0x1400, .cos2pi 0x1400] : List Instr).all fun i => !i.wf) = true := by decide

set_option maxRecDepth 20000 in
theorem test_wf_units_2 : ((
    [.cvtFromI32 0x1400, .cvtToI32 0x1400, .fromBf16 0x1400, .fromE4m3 0x1400, .fromE5m2 0x1400, .fromI8 0x1400,
      .fromI4 0x1400, .toBf16 0x1400, .toE4m3 0x1400, .toE5m2 0x1400, .toI8 0x1400, .toI4 0x1400, .vecCopy 0x1400,
      .pick 0x1400, .tadd 0x1400, .tmin 0x1400, .tmax 0x1400, .pack 0x1400, .loop 0xC000, .arms 0xC000, .mload 0xC000,
      .mlogic 0xC000, .mset 0xC000, .hold 0xC000, .attn 0x2020, .merge 0x2020, .bwd 0x2020, .init 0x600C, .select 0x600C,
      .writeKv 0x600C] : List Instr).all fun i => !i.wf) = true := by decide

set_option maxRecDepth 20000 in
theorem test_wf_units_3 : ((
    [.group 0x7006, .fetch 0x7006, .walk 0x8003, .insert 0x8003, .conv 0x3008, .reform 0x3008, .fsend 0xA004, .frecv 0xA004,
      .fxch 0xA004, .rqTake 0xB001, .srecPut 0xB001, .liveSet 0xB001, .liveClr 0xB001, .stateGet 0xB001, .crecv 0x9004,
      .csend 0x9004, .idle 0xB001, .mac 0x1000, .mset 0xFFFF] : List Instr).all fun i => !i.wf) = true := by decide

set_option maxRecDepth 20000 in
theorem test_wf_contexts_1 : ((
    [.admissionTakesEffect 0, .releaseTakesEffect 0, .contextKeyDestroy 0, .scrubCompletion 0, .getCert 0, .kxBegin 0,
      .kxFinish 0, .report 0, .package 0, .end_ 0, .verificationComplete 0, .stepRecordDelivery 16, .requestLatch 16,
      .signetMissing 16, .strRelease 16, .strForcedRelease 16, .rqTailWrite 16 0, .cancel 16 0, .srTailWrite 16 0,
      .requestFetch 16 .poisoned, .faultHuntDone 16 true, .twinCommit 16 0 0, .twinRelease 0 0, .twinForcedRelease 0 16,
      .twinKeys 0 (zeros 112), .twinWithheld 16 0 0, .twinSync 16 0 [1], .twinInput ⟨0, 0x41, 9, 0, 16, []⟩,
      .twinSignet ⟨16, 2, 0, 0, zeros 32⟩, .twinAdmit 0 ⟨0, [], zeros 160, [], []⟩] : List Instr).all fun i => !i.wf) = true := by decide

set_option maxRecDepth 20000 in
theorem test_wf_contexts_2 : ((
    [.release 1 16 false] : List Instr).all fun i => !i.wf) = true := by decide

set_option maxRecDepth 20000 in
theorem test_wf_places_1 : ((
    [.scrubWrite 48, .hostSlotAccess 48, .patrol 48, .patrolStarved 48, .ueLineRepair 48 (zeros 1024), .mr4Read 48 0,
      .fabricPacketReceive 4 [] 0, .claspFrameReceive 4 ⟨0, [], 0⟩, .blockLockGain 4 (List.replicate 64 1),
      .blockLockLoss 4 (List.replicate 64 0), .claspLatch 4, .claspFrameDecision 4, .claspFrameSend 4, .claspAlignment 4,
      .claspAlignComplete 4 ⟨List.replicate 64 0, 0, []⟩, .claspRelease 4, .signetComplete 8, .spareSwap 4, .spareStarved 4,
      .channelStop 12, .channelRestart 12, .apertureWrite (2 ^ 36) [1] false, .apertureRead (2 ^ 36) 1, .twinDirty [2 ^ 64],
      .twinSync 1 (2 ^ 64) [1], .twinAdmit 0 ⟨1, [], zeros 160, [(64, 0)], []⟩, .pairListenEnd (.startingPartner 8),
      .eventsRead 1 (2 ^ 64), .logRead 1 (2 ^ 64), .imgPiece 1 (2 ^ 32) [1]] : List Instr).all fun i => !i.wf) = true := by decide

set_option maxRecDepth 20000 in
theorem test_wf_places_2 : ((
    [.token 1 256 0 0 0, .token 1 0 256 0 0, .token 1 0 0 0 65536, .tokenLeaseExpiry 256, .hmPiece 1 65536 (zeros 4096),
      .castExport 1 (2 ^ 64), .castImport 1 (2 ^ 64) [1], .evtPendClear 16 0, .registerWrite (2 ^ 26) 4 0,
      .registerWrite 0 3 0, .facetTestComplete [2048], .startupReady [(2 ^ 26, 0)] 0, .lowHalfRead ⟨2 ^ 26, 4⟩,
      .lowHalfRead ⟨0x18, 3⟩] : List Instr).all fun i => !i.wf) = true := by decide

set_option maxRecDepth 20000 in
theorem test_wf_lengths_1 : ((
    [.requestFetch 1 (.entry (zeros 63) (zeros 16)), .requestFetch 1 (.entry (zeros 64) (zeros 15)), .apertureWrite 0 [] false,
      .apertureWrite 0 (zeros 4097) true, .apertureRead 0 0, .apertureRead 0 4097, .ueLineRepair 0 (zeros 1023),
      .blockLockGain 0 (List.replicate 63 1), .blockLockLoss 0 (List.replicate 63 0), .claspAlignComplete 0 ⟨[0], 0, []⟩,
      .twinCellReceive (zeros 767), .twinSignet ⟨1, 2, 0, 0, zeros 31⟩, .twinAdmit 0 ⟨1, [], zeros 159, [], []⟩,
      .twinKeys 1 (zeros 111), .twinSync 1 0 [], .twinSync 1 0 (zeros 717), .twinReport (zeros 127),
      .joinLinkTrained ⟨[], zeros 63, zeros 64⟩ ⟨zeros 64, zeros 32⟩ [],
      .joinLinkTrained ⟨[], zeros 64, zeros 63⟩ ⟨zeros 64, zeros 32⟩ [],
      .joinLinkTrained ⟨[], zeros 64, zeros 64⟩ ⟨zeros 63, zeros 32⟩ [],
      .joinLinkTrained ⟨[], zeros 64, zeros 64⟩ ⟨zeros 64, zeros 31⟩ [], .mgmtConnect ⟨[1], 4433, true, 0, 0, 0, []⟩,
      .loaderStart true ⟨[], ⟨0, 33, 0, zeros 16, zeros 16⟩⟩, .loaderStart true ⟨[], ⟨0, 0, 0, zeros 15, zeros 16⟩⟩,
      .loaderStart true ⟨[], ⟨0, 0, 0, zeros 16, zeros 15⟩⟩, .shadowAdmission [⟨1, [], zeros 159, [], []⟩],
      .clockMonitorWindow ⟨false, false, false, false, [], [true, true, true, true], false, false, 0⟩,
      .sensorSample ⟨List.replicate 83 0, 0, 0, 0⟩, .mgmtAdmit 1 (zeros 11) (zeros 160), .mgmtAdmit 1 (zeros 12) (zeros 159)] : List Instr).all fun i => !i.wf) = true := by decide

set_option maxRecDepth 20000 in
theorem test_wf_lengths_2 : ((
    [.imgPiece 1 0 [], .debugToken 1 [], .hmPiece 1 0 (zeros 4095), .castImport 1 0 [],
      .rootSet 1 (zeros 31) (zeros 32) (zeros 64), .rootSet 1 (zeros 32) (zeros 31) (zeros 64),
      .rootSet 1 (zeros 32) (zeros 32) (zeros 63), .strAdmit (some ([], zeros 159)), .jtagInstruction [], .crystalStable [0],
      .lp4xTrainingComplete (List.replicate 49 0)] : List Instr).all fun i => !i.wf) = true := by decide

-- The largest numbers that are well formed.
set_option maxRecDepth 20000 in
theorem test_wf_bounds : (([.mac 1023, .read 0x502F, .srecPut 0xB000, .csend 0x9003, .getCert 15, .rqTailWrite 15 0, .scrubWrite 47,
    .registerWrite (2 ^ 26 - 4) 4 0, .apertureRead (2 ^ 36 - 1) 4096, .twinSync 15 (2 ^ 64 - 1) (zeros 716)] : List Instr).all Instr.wf)
    = true := by decide

/-! ## The manual's worked examples -/

/-- The example of R18: 0x0003 is later than 0xFFFE; 0x7FFE is unordered against it. -/
theorem test_later : laterThan (0x0003 : Half) 0xFFFE = true ∧ unordered (0x7FFE : Half) 0xFFFE = true ∧ laterThan (0x7FFE : Half) 0xFFFE = false := by
  decide

/-- The example of R46: some codes. -/
theorem test_decode_codes : decodeVal .e4m3 0xB5 = .num true 13 (-4) ∧ decodeVal .e4m3 0x03 = .num false 3 (-9)
    ∧ decodeVal .e5m2 0x45 = .num false 5 0 ∧ decodeVal .e5m2 0xFC = .inf true ∧ decodeVal .bf16 0x8040 = .zero true := by decide

/-- The example of 2.6, placement A: ACC ends at 84 with TRUNC, and rounds to 0x3FA8. -/
def cellA : Cell :=
  Cell.zero.addProducts true 34 ([0x41C0, 0x4020, 0xC1C0, 0x3DD0].map (decodeVal .bf16)) ([0x4180, 0x3F00, 0x4180, 0x3F40].map (decodeVal .bf16))

theorem test_placement_a : cellA = { Cell.zero with acc := 84, trunc := true } := by decide
theorem test_placement_a_rounded : (cellA.convert .bf16 34 0 true).1 = 0x3FA8 := by decide

/-- The example of 2.7: rounding. -/
def cellOf (n : Int) (d : Nat) : Cell := { Cell.zero with acc := BitVec.ofInt 96 (n * 2 ^ 40 / d) }

theorem test_round_int8 : ((cellOf 75 2).convert .int8 0 0 true).1 = 0x26 ∧ ((cellOf (-5) 2).convert .int8 0 0 true).1 = 0xFE
    ∧ ((cellOf 801 4).convert .int8 0 0 true).1 = 0x7F := by decide
theorem test_round_fp8 : ((cellOf 19 1).convert .e4m3 0 0 true).1 = 0x5A ∧ ((cellOf 460 1).convert .e4m3 0 0 true).1 = 0x7E
    ∧ ((cellOf 470 1).convert .e4m3 0 0 false).1 = 0x7F := by decide

/-- The example of 2.9: the canonical tree of 2^24, 1, 1, −2^24 is 1. -/
theorem test_tree : fpAdd (fpAdd 0x4B800000 0x3F800000) (fpAdd 0x3F800000 0xCB800000) = 0x3F800000
    ∧ fpAdd (fpAdd (fpAdd 0x4B800000 0x3F800000) 0x3F800000) 0xCB800000 = 0 := by decide

/-- The example of 5.2: segment 5, offset 0x13_7840, is channel 30 at 0x4001_3440. -/
theorem test_translate : translate (up.modCtx (fun x => { x with segs :=
      [(5, { rd := true, wr := true, fab := false, space := 0, stripe := 4, chBase := 16, size := 16384, base := 0x40000000, group := 0 })] }) 3)
    3 5 0x137840 false = some (0, 30 * 2 ^ 34 + 0x40013440) := by decide

/-- The example of 9.2: bodies at full load. -/
theorem test_bodies : bodyLength 64 32 0 = 2088 ∧ bodyLength 64 16 32 = 1096 ∧ bodyLength 64 16 16 = 1080 ∧ bodyLength 0 0 32 = 72 := by decide

/-- Table 9-7. -/
theorem test_rotations : (List.range 4).map (lrot 32) = [782, 781, 781, 781] ∧ (List.range 2).map (lrot 16) = [1563, 1562] ∧ lrot 40 7 = 625
    ∧ lrotSum 32 0 4 = 3125 := by decide

/-- R148: a rotation of 625 beads has 196 slots; the last begins in bead 621. -/
theorem test_slots : slotCount 625 = 196 ∧ slotAt 625 621 = some 195 ∧ slotAt 625 622 = none ∧ slotAt 625 0 = some 0 := by decide

/-! ## Cue words, bit by bit (Tables 3-4 to 3-13) -/

/-- FILL on slot 512 of 32 bytes: class 2, op 1, DST in [69:30], LEN in [17:13], SLOT in [12:3]. -/
theorem test_word_fill : decodeCue (BitVec.ofNat 128 (2 * 2 ^ 124 + 1 * 2 ^ 120 + 0xAB * 2 ^ 70 + 0x40 * 2 ^ 30 + 512 * 2 ^ 3))
    = some ⟨⟨0, 0, 0, 0⟩, .fill { src := 0xAB, dst := 0x40, srcStr := 0, dstStr := 0, len := 0, slot := 512 }⟩ := by decide

/-- MSET of register 5: class 10. -/
theorem test_word_mset : (decodeCue (encodeCue ⟨⟨1, 0, 2, 3⟩, .mset 5 0xDEADBEEF⟩)) = some ⟨⟨1, 0, 2, 3⟩, .mset 5 0xDEADBEEF⟩ := by decide

/-- No row of the table gives bits. -/
theorem test_no_words : decodeTableWord 128 0 = none ∧ (State.reset.withFetchWord 128 0) = State.reset := ⟨rfl, rfl⟩

/-! ## Single commands -/

/-- The field of the next state. -/
def after {α : Type} (c : Instr) (s : State) (f : State → α) : Option α :=
  match exec c s with
  | .next t => some (f t)
  | _ => none

/-- CLEAR on Facet 0 leaves Facet 1 as it was. -/
theorem test_clear : after .beadBoundary State.reset (·.bead) = some 0 ∧ after (.clear 0) (one 0 .clear) (fun t => (t.seq 0).issue) = some none := by
  decide

/-- LOOP of three cues and ten trips at place 2047. -/
theorem test_loop : after (.loop 0) (one 0 (.loop 3 9)) (fun t => ((t.seq 0).pc, (t.seq 0).frames.map fun f => (f.last, f.ret, f.trips)))
    = some (2048, [(2051, 2052, 10)]) := by decide

/-- ARMS takes its second arm where the bit differs from SPOL. -/
theorem test_arms : after (.arms 0) (one 0 (.arms 1 2 0 0 0)) (fun t => (t.seq 0).pc) = some 2048
    ∧ after (.arms 0) (one 0 (.arms 1 2 1 0 0)) (fun t => (t.seq 0).pc) = some 2050 := by decide

/-- MLOGIC 0 to 3 on two masks. -/
theorem test_mset : after (.mset 0) (one 0 (.mset 7 9)) (fun t => (t.seq 0).masks.map (·.value)) = some (List.replicate 7 0xFFFFFFFF ++ [9]) := by
  decide

/-- A write to OPP with an allowed target waits for its boundary. -/
theorem test_opp : after (.oppRequest 0x80000001) (up.modTwin fun t => { t with pairEn := false }) (fun t => (t.clock.oppBusy, t.clock.opp))
    = some (true, 0) := by decide

/-- A narrow write is ignored; a 64-bit one writes two registers, the lower first. -/
theorem test_widths : after (.registerWrite 0x300014 2 5) up (readReg · 0x300014) = some 0
    ∧ after (.registerWrite 0x300014 8 0x700000005) up (fun t => (readReg t 0x300014, readReg t 0x300018)) = some (5, 7) := by decide

/-- The queue runs first in, first out. -/
theorem test_queue : step { up with pending := [.form, .leave] } = exec .form { up with pending := [.leave] } := rfl

/-! ## Witnesses -/

/-! ## The CRC of a heartbeat cell, in pieces -/

def crcFold (bs : Bytes) (c : Nat) : Nat := bs.foldl (fun c b => crcBits 8 (c ^^^ b.toNat)) c

theorem crcFold_append (a b : Bytes) (c : Nat) : crcFold (a ++ b) c = crcFold b (crcFold a c) := List.foldl_append

theorem crc32_fold (b : Bytes) : crc32 b = crcFold b 0xFFFFFFFF ^^^ 0xFFFFFFFF := rfl

theorem zeros_add (n m : Nat) : zeros (n + m) = zeros n ++ zeros m := (List.replicate_append_replicate ..).symm

set_option maxRecDepth 20000 in
theorem crc_lead : crcFold (([1, 1, 1, 0] : Bytes) ++ zeros 16 ++ [1] ++ zeros 743) 0xFFFFFFFF = 3976642544 := by
  rw [crcFold_append, show crcFold (([1, 1, 1, 0] : Bytes) ++ zeros 16 ++ [1]) 0xFFFFFFFF = 3835900514 from by decide,
    show 743 = 62 + 681 from rfl, zeros_add, crcFold_append, show crcFold (zeros 62) 3835900514 = 2143420238 from by decide,
    show 681 = 62 + 619 from rfl, zeros_add, crcFold_append, show crcFold (zeros 62) 2143420238 = 1155580473 from by decide,
    show 619 = 62 + 557 from rfl, zeros_add, crcFold_append, show crcFold (zeros 62) 1155580473 = 3180860350 from by decide,
    show 557 = 62 + 495 from rfl, zeros_add, crcFold_append, show crcFold (zeros 62) 3180860350 = 606519625 from by decide,
    show 495 = 62 + 433 from rfl, zeros_add, crcFold_append, show crcFold (zeros 62) 606519625 = 31348027 from by decide,
    show 433 = 62 + 371 from rfl, zeros_add, crcFold_append, show crcFold (zeros 62) 31348027 = 434347457 from by decide,
    show 371 = 62 + 309 from rfl, zeros_add, crcFold_append, show crcFold (zeros 62) 434347457 = 1643795047 from by decide,
    show 309 = 62 + 247 from rfl, zeros_add, crcFold_append, show crcFold (zeros 62) 1643795047 = 3995485055 from by decide,
    show 247 = 62 + 185 from rfl, zeros_add, crcFold_append, show crcFold (zeros 62) 3995485055 = 183076549 from by decide,
    show 185 = 62 + 123 from rfl, zeros_add, crcFold_append, show crcFold (zeros 62) 183076549 = 2358747023 from by decide,
    show 123 = 62 + 61 from rfl, zeros_add, crcFold_append, show crcFold (zeros 62) 2358747023 = 2376159956 from by decide]
  decide

def leadCell : Bytes := ([1, 1, 1, 0] : Bytes) ++ zeros 16 ++ [1] ++ zeros 743 ++ [15, 64, 249, 18]

set_option maxRecDepth 20000 in
theorem leadCell_whole : cellWhole leadCell = true := by
  have e : leadCell.take 764 = ([1, 1, 1, 0] : Bytes) ++ zeros 16 ++ [1] ++ zeros 743 := List.take_left' (by decide)
  have h : crc32 (leadCell.take 764) = 318324751 := by
    rw [e, crc32_fold, crc_lead]; decide
  unfold cellWhole; rw [h]; decide

set_option maxRecDepth 20000 in
theorem crc_pendant : crcFold (([1, 2, 1, 0] : Bytes) ++ zeros 16 ++ [0] ++ zeros 743) 0xFFFFFFFF = 1311900486 := by
  rw [crcFold_append, show crcFold (([1, 2, 1, 0] : Bytes) ++ zeros 16 ++ [0]) 0xFFFFFFFF = 1007505214 from by decide,
    show 743 = 62 + 681 from rfl, zeros_add, crcFold_append, show crcFold (zeros 62) 1007505214 = 2946609180 from by decide,
    show 681 = 62 + 619 from rfl, zeros_add, crcFold_append, show crcFold (zeros 62) 2946609180 = 2938681167 from by decide,
    show 619 = 62 + 557 from rfl, zeros_add, crcFold_append, show crcFold (zeros 62) 2938681167 = 3388254008 from by decide,
    show 557 = 62 + 495 from rfl, zeros_add, crcFold_append, show crcFold (zeros 62) 3388254008 = 4015123428 from by decide,
    show 495 = 62 + 433 from rfl, zeros_add, crcFold_append, show crcFold (zeros 62) 4015123428 = 2315556777 from by decide,
    show 433 = 62 + 371 from rfl, zeros_add, crcFold_append, show crcFold (zeros 62) 2315556777 = 2462183303 from by decide,
    show 371 = 62 + 309 from rfl, zeros_add, crcFold_append, show crcFold (zeros 62) 2462183303 = 1245839059 from by decide,
    show 309 = 62 + 247 from rfl, zeros_add, crcFold_append, show crcFold (zeros 62) 1245839059 = 1274126865 from by decide,
    show 247 = 62 + 185 from rfl, zeros_add, crcFold_append, show crcFold (zeros 62) 1274126865 = 1522833588 from by decide,
    show 185 = 62 + 123 from rfl, zeros_add, crcFold_append, show crcFold (zeros 62) 1522833588 = 3216946726 from by decide,
    show 123 = 62 + 61 from rfl, zeros_add, crcFold_append, show crcFold (zeros 62) 3216946726 = 2856123463 from by decide]
  decide

def pendantCell : Bytes := ([1, 2, 1, 0] : Bytes) ++ zeros 16 ++ [0] ++ zeros 743 ++ [185, 252, 205, 177]

set_option maxRecDepth 20000 in
theorem pendantCell_whole : cellWhole pendantCell = true := by
  have e : pendantCell.take 764 = ([1, 2, 1, 0] : Bytes) ++ zeros 16 ++ [0] ++ zeros 743 := List.take_left' (by decide)
  have h : crc32 (pendantCell.take 764) = 2983066809 := by
    rw [e, crc32_fold, crc_pendant]; decide
  unfold cellWhole; rw [h]; decide

/-! ## Admission, release and scrub -/

/-- An empty image of the lattice's grade, and its record for context 1. -/
def image1 : Bytes :=
  leBytes 4 0x44525453 ++ leBytes 2 1 ++ leBytes 2 1 ++ [4, 40, 0, 0] ++ leBytes 4 1 ++ leBytes 4 0 ++ leBytes 4 128 ++ zeros 40
    ++ [98, 122, 86, 105, 153, 193, 50, 56, 97, 174, 234, 157, 18, 18, 185, 141, 103, 212, 53, 113, 116, 159, 65, 124, 202, 147, 189,
        99, 137, 218, 87, 238] ++ zeros 32

def pend (image : Bytes) (v : Bool) : Pending := ⟨1, .strBlock, image, 1 :: zeros 159, v, none, none, none⟩
def waits (p : Pending) : State :=
  (up.modStr fun b => { b with pendings := [p] }).modCtx (fun x => { x with phase := .pending }) 1
def atEnd (p : Pending) : State := at_ 624 (waits p)

/-! ## Statements with clauses inside a clause -/

theorem wit_VectorLanes_three : ∃ (s : State) (u : UnitNo) (i : Issue) (f : VecFields) (kb kc : Nat), begun s u i ∧ i.cue = .vec .fma f
      ∧ ownKey s i.ctx (unitIdx u) (issueAddr s i (4 * f.bOff.toNat) f.bStr.toNat) (elemBytes .fp32 (32 * (f.n.toNat + 1))) = some kb
      ∧ ownKey s i.ctx (unitIdx u) (issueAddr s i (4 * f.cOff.toNat) f.cStr.toNat) (elemBytes .fp32 (32 * (f.n.toNat + 1))) = some kc :=
  ⟨one 0x1000 (.vec .fma { fVec with bOff := 0xFE00 }), 0x1000, issued (.vec .fma { fVec with bOff := 0xFE00 }), { fVec with bOff := 0xFE00 },
    2 ^ 48 + 0x3F800, 2 ^ 48, by unfold begun; decide, by decide, by decide, by decide⟩

set_option maxRecDepth 20000 in
theorem wit_EngineSteps_conv : ∃ (s : State) (u : UnitNo) (i : Issue) (f : EngFields) (st : EngStep), begun s u i ∧ i.cue = .eng f
      ∧ f.eop = 0x3F ∧ assoc u s.engines = some st ∧ unitKind u = some .cabochon ∧ st.eop = 1 ∧ st.cut = false ∧ s.bead + 1 = st.began + st.len ∧ st.plan = [] :=
  ⟨{ one 0x3000 (.eng (fEng 63)) with engines := [(0x3000, engStep 1)] }, 0x3000, issued (.eng (fEng 63)), fEng 63, engStep 1,
    by unfold begun; decide, by decide, by decide, by decide, by decide, by decide, by decide, by decide, by decide⟩

theorem wit_RegistersAct_sealed : ∃ s : State, s.ports.linkUp = true ∧ s.startup.ready = true ∧ s.sealed = true :=
  ⟨{ up with sealed := true }, by decide, by decide, by decide⟩

theorem wit_BoundariesMoveTime_inner : ∃ s : State, s.startup.counting = true ∧ s.beadInRot + 1 < s.rotLen :=
  ⟨at_ 623 up, by decide, by decide⟩

theorem wit_GranulesMove_1 : ∃ (s : State) (_gs : List Nat),
    s.pair.regs.role = .lead ∧ copying s = true :=
  ⟨copyingOn (lead up), [2 ^ 48],
    by decide, by decide⟩

theorem wit_GranulesMove_2 : ∃ (s : State) (c : CtxNo) (g : Nat) (_b : Bytes),
    s.follows = true ∧ s.running c = true ∧ 2 ^ 48 ≤ g ∧ g < 2 ^ 52 ∧ s.pair.join.waiting = [] ∧ moverFree s = true :=
  ⟨pendant (ctx1 up), 1, 2 ^ 52 - 1, [1],
    by decide, by decide, by decide, by decide, by decide, by decide⟩

theorem wit_GranulesMove_3 : ∃ (s : State) (c : CtxNo) (g : Nat) (_b : Bytes),
    s.follows = true ∧ s.running c = true ∧ 2 ^ 48 ≤ g ∧ g < 2 ^ 52 ∧ s.pair.join.waiting = [] ∧ moverFree s = false :=
  ⟨{ pendant (ctx1 up) with seqs := (List.range 16).map fun i => (0x4000 + i, { Seq.reset with win := some (1, 0) }) }, 1, 2 ^ 48, [1],
    by decide, by decide, by decide, by decide, by decide, by decide⟩

theorem wit_GranulesMove_4 : ∃ (s : State) (g n : Nat) (r : List Nat),
    s.pair.regs.role = .lead ∧ copying s = true ∧ s.pair.join.toCopy = g :: r ∧ s.pair.join.part = n ∧ 2 ^ 48 ≤ g ∧ g < 2 ^ 52 ∧ moverFree s = true :=
  ⟨(copyingOn (lead up)).modJoin fun j => { j with toCopy := [2 ^ 48], part := 3 }, 2 ^ 48, 3, [],
    by decide, by decide, by decide, by decide, by decide, by decide, by decide⟩

theorem wit_GranulesMove_5 : ∃ (s : State) (g ch u : Nat) (r : List Nat),
    s.pair.regs.role = .lead ∧ copying s = true ∧ s.pair.join.toCopy = g :: r ∧ g < 2 ^ 48 ∧ granuleLine s (g + pieceBytes * s.pair.join.part) = some (ch, u) ∧ copyStart s ch = true ∧ ch < s.bezel.channels.length :=
  ⟨at_ 621 ((copyingOn (lead (ctx1 up))).modJoin fun j => { j with toCopy := [2 ^ 40 + 2 ^ 34] }), 2 ^ 40 + 2 ^ 34, 0, 0, [],
    by decide, by decide, by decide, by decide, by decide, by decide, by decide⟩

theorem wit_JoinsRun_1 : ∃ (s : State) (_q : PairCert) (_x : PairShare) (ls : List Half),
    s.pair.join.step = 1 ∧ 1024 ≤ s.pair.link.goodRun ∧ s.locket.rngFailed = false ∧ (∀ l ∈ ls, s.strands.ifaceMin ≤ l.toNat ∧ l.toNat ≤ s.strands.ifaceMax) ∧ (drawNumber s).2.locket.rngFailed = false :=
  ⟨(up.modJoin fun j => { j with step := 1 }).modLink fun l => { l with goodRun := 1024 }, ⟨[], [], []⟩, ⟨[], []⟩, [1],
    by decide, by decide, by decide, by intro l h; rw [List.mem_singleton] at h; subst h; decide, rfl⟩

theorem wit_JoinsRun_2 : ∃ (s : State) (_bead : DWord) (_period : Word),
    s.pair.regs.role = .joining ∧ s.pair.join.step = 3 ∧ s.admitted = [] :=
  ⟨(joining up).modJoin fun j => { j with step := 3 }, 5, 6,
    by decide, by decide, by decide⟩

theorem wit_JoinsRun_3 : ∃ (s : State) (_bead : DWord) (_period : Word),
    s.pair.regs.role = .lead ∧ s.pair.join.step = 2 :=
  ⟨(lead up).modJoin fun j => { j with step := 2 }, 5, 6,
    by decide, by decide⟩

theorem wit_JoinsRun_4 : ∃ (s : State) (_gs : List GrantRecord),
    s.pair.join.step = 4 ∧ s.pair.regs.role = .lead ∧ (∀ c ∈ joinCtxs s, setAllows s c = true) :=
  ⟨(lead up).modJoin fun j => { j with step := 4 }, [],
    by decide, by decide, by decide⟩

theorem wit_JoinsRun_5 : ∃ (s : State) (_gs : List GrantRecord),
    s.pair.join.step = 4 ∧ s.follows = true ∧ atBoundary s = true ∧ anyReleaseDue s = false ∧ anySwapDue s = false :=
  ⟨at_ 624 ((pendant up).modJoin fun j => { j with step := 4 }), [],
    by decide, by decide, by decide, by decide, by decide⟩

theorem wit_JoinsRun_6 : ∃ (s : State),
    s.beadInRot = 8 ∧ copying s = true ∧ (s.pair.regs.role = .lead → s.pair.join.cleanAt = some s.rotCount ∧ s.pair.join.toCopy = [] ∧ s.pair.join.dirty = [] ∧ ∀ i ∈ s.pair.link.items, i.kind.toNat % 128 ≠ 8) ∧ (s.pair.regs.role ≠ .lead → s.pair.join.waiting = []) :=
  ⟨at_ 8 ((copyingOn (lead up)).modJoin fun j => { j with cleanAt := some 0 }),
    by decide, by decide, by decide, by decide⟩

theorem wit_JoinsRun_7 : ∃ (s : State),
    s.pair.regs.role = .lead ∧ s.pair.join.dirty ≠ [] :=
  ⟨(lead up).modJoin fun j => { j with dirty := [1] },
    by decide, by decide⟩

theorem wit_JoinsRun_8 : ∃ (s : State) (r : Nat),
    s.pair.join.since = some r ∧ r + 2 ^ 20 ≤ s.rotCount :=
  ⟨{ copyingOn up with rotCount := 2 ^ 20 }, 0,
    by decide, by decide⟩

theorem wit_SeaForms_1 : ∃ (s : State),
    s.fabric.state ≠ .forming ∧ s.fabric.state ≠ .locked ∧ isMember s.fabric s.fabric.modNo = true ∧ seaLock s = true :=
  ⟨(up.modFabric fun f => { f with members := [(0, 1)] }).modClock fun c => { c with ref := .clasp },
    by decide, by decide, by decide, by decide⟩

theorem wit_SeaForms_2 : ∃ (s : State),
    s.fabric.state ≠ .forming ∧ s.fabric.state ≠ .locked ∧ ((isMember s.fabric s.fabric.modNo = false ∨ seaLock s = false)) :=
  ⟨up,
    by decide, by decide, by decide⟩

theorem wit_SeaForms_3 : ∃ (s : State),
    (s.fabric.state = .forming ∨ s.fabric.state = .locked) :=
  ⟨up.modFabric fun f => { f with state := .forming },
    by decide⟩

theorem wit_SeaForms_4 : ∃ (s : State) (ts : List Nat),
    s.fabric.state = .forming ∧ s.fabric.formedRot + 1024 ≤ s.rotCount ∧ seaLock s = true ∧ seaMoves s (s.period + lowestAhead s.fabric) = false ∧ (∀ x ∈ s.fabric.transits ++ ts, x + 4 ≤ fabLatency s) :=
  ⟨{ (up.modFabric fun f => { f with state := .forming, latency := 32 }).modClock fun c => { c with ref := .clasp } with rotCount := 1024, period := 7 }, [28],
    by decide, by decide, by decide, by decide, by decide⟩

theorem wit_SeaForms_5 : ∃ (s : State) (l m : Bool) (ts : List Nat),
    s.fabric.state = .forming ∧ s.fabric.formedRot + 1024 ≤ s.rotCount ∧ ((l = false ∨ m = true ∨ ∃ x ∈ s.fabric.transits ++ ts, fabLatency s < x + 4)) :=
  ⟨{ (up.modFabric fun f => { f with state := .forming, latency := 32 }).modClock fun c => { c with ref := .clasp } with rotCount := 1024, period := 7 }, true, false, [29],
    by decide, by decide, by decide⟩

theorem wit_SeaForms_6 : ∃ (s : State),
    fabricCtxs s = [] :=
  ⟨up,
    by decide⟩

theorem wit_SeaForms_7 : ∃ (s : State),
    fabricCtxs s ≠ [] :=
  ⟨(ctx1 up).modCtx (fun x => { x with strand := some { bare with dir := [⟨0xA003, 0, 0, 1, 0, 1, 0, 0⟩], cues := [encodeCue ⟨⟨0, 0, 0, 0⟩, .port (fPort 1 0 0)⟩] } }) 1,
    by decide⟩

theorem wit_SeaForms_8 : ∃ (s : State) (m : Nat) (x : Silence),
    assoc m s.fabric.silent = some x ∧ 64 ≤ x.count ∧ s.fabric.split = false :=
  ⟨up.modFabric fun f => { f with silent := [(3, ⟨64, true, false⟩)] }, 3, ⟨64, true, false⟩,
    by decide, by decide, by decide⟩

theorem wit_ReferencesAct_1 : ∃ (s : State),
    8 ≤ s.startup.step ∧ wantedRef s ≠ s.clock.ref ∧ s.clock.toward ≠ some (wantedRef s) :=
  ⟨up.modStartup fun x => { x with step := 8 },
    by decide, by decide, by decide⟩

theorem wit_ReferencesAct_2 : ∃ (s : State) (r : Ref),
    s.clock.toward = some r ∧ 16 ≤ s.clock.nearWindows :=
  ⟨up.modClock fun c => { c with toward := some .crystal, nearWindows := 16 }, .crystal,
    by decide, by decide⟩

theorem wit_ReferencesAct_3 : ∃ (s : State) (w : MonitorWindow),
    s.clock.xtalFailed = false ∧ w.xtalNoEdge = true :=
  ⟨up, ⟨true, false, false, false, [false, false, false, false], [false, false, false, false], false, false, 0⟩,
    by decide, by decide⟩

theorem wit_OperatingPoints_1 : ∃ (s : State) (v : Word),
    bit v 31 = true ∧ s.clock.oppBusy = false ∧ oppTarget v ≠ s.clock.opp ∧ oppAllowed s (oppTarget v) = true :=
  ⟨up.modTwin fun t => { t with pairEn := false }, 0x80000001,
    by decide, by decide, by decide, by decide⟩

theorem wit_OperatingPoints_2 : ∃ (s : State) (v : Word),
    bit v 31 = true ∧ s.clock.oppBusy = false ∧ oppTarget v ≠ s.clock.opp ∧ oppAllowed s (oppTarget v) = false :=
  ⟨up, 0x80000002,
    by decide, by decide, by decide, by decide⟩

theorem wit_OperatingPoints_3 : ∃ (s : State) (v : Word),
    bit v 31 = true ∧ s.clock.oppBusy = true :=
  ⟨up.modClock fun c => { c with oppBusy := true }, 0x80000002,
    by decide, by decide⟩

theorem wit_OperatingPoints_4 : ∃ (s : State) (n : Nat),
    s.clock.oppNext = some n ∧ s.rotDone = true ∧ oppQuiet s = true ∧ oppAllowed s n = true ∧ s.clock.oppSince = none ∧ s.clock.oppWaiting = [] ∧ s.grade ≠ 4 :=
  ⟨{ up.modClock fun c => { c with oppNext := some 0 } with rotDone := true, grade := 2 }, 0,
    by decide, by decide, by decide, by decide, by decide, by decide, by decide⟩

theorem wit_OperatingPoints_5 : ∃ (s : State) (n : Nat),
    s.clock.oppNext = some n ∧ s.rotDone = true ∧ oppAllowed s n = true ∧ s.clock.oppSince = none ∧ s.grade = 4 :=
  ⟨{ up.modClock fun c => { c with oppNext := some 0 } with rotDone := true }, 0,
    by decide, by decide, by decide, by decide, by decide⟩

theorem wit_OperatingPoints_6 : ∃ (s : State),
    sscAllowed s = true ∧ 9 ≤ s.startup.step ∧ ((s.rotDone = true ∨ s.beadInRot = 0)) :=
  ⟨(up.modTwin fun t => { t with pairEn := false }).modClock fun c => { c with sscEn := true },
    by decide, by decide, by decide⟩

theorem wit_SensorsAndTrips_1 : ∃ (s : State) (x : SensorSamples) (n : Nat) (v a b c : Int),
    x.temps = List.replicate n 0 ++ [v] ∧ ((n < 64 ∨ (76 ≤ n ∧ n < 80))) ∧ sensorPresent s.grade n = true ∧ ((assoc n s.thermal.sensors).map (·.samples)) = some [a, b, c] :=
  ⟨up.modThermal fun t => { t with sensors := [(63, ⟨[1, 2, 3], 0, 2, none⟩)] }, ⟨List.replicate 63 0 ++ [4], 0, 0, 0⟩, 63, 4, 1, 2, 3,
    by decide, by decide, by decide, by decide⟩

theorem wit_SensorsAndTrips_2 : ∃ (s : State) (x : SensorSamples) (n : Nat) (v a : Int) (r : List Int),
    x.temps = List.replicate n 0 ++ [v] ∧ ((n < 64 ∨ (76 ≤ n ∧ n < 80))) ∧ sensorPresent s.grade n = true ∧ ((assoc n s.thermal.sensors).map (·.samples)) = some (a :: r) ∧ 1840 ≤ v ∧ 1840 ≤ a :=
  ⟨up.modThermal fun t => { t with sensors := [(0, ⟨[1840], 0, 1840, none⟩)] }, ⟨[1840], 0, 0, 0⟩, 0, 1840, 1840, [],
    by decide, by decide, by decide, by decide, by decide, by decide⟩

theorem wit_SensorsAndTrips_3 : ∃ (s : State),
    s.thermal.tripped = true ∧ (∀ q ∈ s.thermal.sensors, q.2.level = 0) :=
  ⟨up.modThermal fun t => { t with tripped := true, sensors := [(0, ⟨[1], 0, 1, none⟩)] },
    by decide, by decide⟩

theorem wit_SensorsAndTrips_4 : ∃ (s : State) (k : Nat) (x : Option Nat),
    k < 12 ∧ assoc (64 + k) s.thermal.stoppedPkgs = some x ∧ ((s.rotDone = true ∨ s.beadInRot = 0)) ∧ s.bezel.channels.length = 48 ∧ (∀ ch ∈ packageChannels k, (s.chan ch).state = 1) :=
  ⟨{ (up.modThermal fun t => { t with stoppedPkgs := [(75, none)] }).modBezel fun b => { b with channels := List.replicate 48 { Channel.reset with state := 1 } } with rotDone := true }, 11, none,
    by decide, by decide, by decide, by decide, by decide⟩

theorem wit_SensorsAndTrips_5 : ∃ (s : State) (k n : Nat),
    k < 12 ∧ assoc (64 + k) s.thermal.stoppedPkgs = some (some n) ∧ ((s.rotDone = true ∨ s.beadInRot = 0)) ∧ n + 10000 ≤ s.thermal.samplesTaken ∧ s.bezel.channels.length = 48 ∧ (∀ ch ∈ packageChannels k, (s.chan ch).state = 2) :=
  ⟨{ (up.modThermal fun t => { t with stoppedPkgs := [(64, some 0)], samplesTaken := 10000 }).modBezel fun b => { b with channels := List.replicate 48 { Channel.reset with state := 2 } } with rotDone := true }, 0, 0,
    by decide, by decide, by decide, by decide, by decide, by decide⟩

set_option maxRecDepth 20000 in
theorem wit_SensorsAndTrips_6 : ∃ (s : State) (d : Nat) (k : SpareCopy),
    d < settingDies s.grade ∧ d < s.spares.length ∧ s.beadInRot + 1 = s.rotLen ∧ s.rotDone = false ∧ (s.spare d).copying = some k ∧ k.left = 0 ∧ k.logical < (s.spare d).map.length ∧ (∀ w, (s.spare d).swapped = some w → w.1 ≠ s.rotCount) ∧ anyReleaseDue s = false ∧ admitMade s = false :=
  ⟨{ at_ 624 up with spares := List.replicate 4 { SpareDie.reset with copying := some ⟨255, 256, 0, 0⟩ } }, 3, ⟨255, 256, 0, 0⟩,
    by decide, by decide, by decide, by decide, by decide, by decide, by decide, by decide, by decide, by decide⟩

theorem wit_SensorsAndTrips_7 : ∃ (s : State) (d : Nat) (k : SpareCopy),
    (s.spare d).copying = some k ∧ 0 < k.left :=
  ⟨{ at_ 624 up with spares := List.replicate 4 { SpareDie.reset with copying := some ⟨255, 256, 0, 1⟩ } }, 3, ⟨255, 256, 0, 1⟩,
    by decide, by decide⟩

theorem wit_SensorsAndTrips_8 : ∃ (s : State) (d : Nat) (k : SpareCopy),
    d < settingDies s.grade ∧ d < s.spares.length ∧ (s.spare d).copying = some k ∧ 0 < k.left ∧ k.began + 65536 ≤ s.rotCount :=
  ⟨{ up with spares := List.replicate 4 { SpareDie.reset with copying := some ⟨0, 256, 0, 1⟩ }, rotCount := 65536 }, 3, ⟨0, 256, 0, 1⟩,
    by decide, by decide, by decide, by decide, by decide⟩

theorem wit_CastRecords_1 : ∃ (s : State) (v : Word),
    castAble s = true ∧ s.cast.en = false ∧ bit v 31 = true ∧ bit v 28 = false :=
  ⟨ring1 up, 0x80000000,
    by decide, by decide, by decide, by decide⟩

theorem wit_CastRecords_2 : ∃ (s : State) (v : Word),
    castAble s = true ∧ s.cast.en = true ∧ bit v 31 = false ∧ bit v 28 = false :=
  ⟨(ring1 up).modCast fun c => { c with en := true }, 0,
    by decide, by decide, by decide, by decide⟩

theorem wit_CastRecords_3 : ∃ (s : State),
    s.cast.en = true ∧ castAble s = true ∧ s.cast.frozen = false ∧ s.cast.freezeAt = none :=
  ⟨(ring1 up).modCast fun c => { c with en := true },
    by decide, by decide, by decide, by decide⟩

theorem wit_CastRecords_4 : ∃ (s : State) (b : Nat),
    s.cast.freezeAt = some b ∧ b ≤ s.bead :=
  ⟨up.modCast fun c => { c with freezeAt := some 0 }, 0,
    by decide, by decide⟩

set_option maxRecDepth 20000 in
theorem wit_CastRecords_5 : ∃ (s : State),
    castAble s = true ∧ s.cast.replay = false ∧ s.cast.tails = [] ∧ 1024 ≤ s.cast.staging.length ∧ castStart s (castPlace s s.cast.lineAt).1 = true :=
  ⟨at_ 618 ((ring1 up).modCast fun c => { c with staging := zeros 1024 }),
    by decide, by decide, by decide, by decide, by decide⟩

set_option maxRecDepth 20000 in
theorem wit_CastRecords_6 : ∃ (s : State) (a : Nat) (b : Bytes) (r : List (Nat × Bytes)),
    castAble s = true ∧ s.cast.replay = false ∧ s.cast.tails = (a, b) :: r ∧ 1024 < b.length ∧ castStart s (castPlace s a).1 = true :=
  ⟨at_ 618 ((ring1 up).modCast fun c => { c with tails := [(0, zeros 1025)] }), 0, zeros 1025, [],
    by decide, by decide, by decide, by decide, by decide⟩

theorem wit_CastRecords_7 : ∃ (s : State),
    castAble s = true ∧ s.cast.replay = true ∧ s.cast.replayStopped = false ∧ s.cast.readLeft ≠ 0 ∧ castStart s (castPlace s s.cast.readAt).1 = true :=
  ⟨at_ 618 ((ring1 up).modCast fun c => { c with replay := true, readLeft := 1, readAt := 2 ^ 30 - 1024 }),
    by decide, by decide, by decide, by decide, by decide⟩

theorem wit_ReplayFeeds_1 : ∃ (s : State) (d : Int) (a : Nat) (r : Nat × Bytes),
    assoc (leAt r.2 2 1) s.cast.deltas = some (d, a) ∧ a ≤ r.1 ∧ s.cast.replay = true ∧ s.cast.replayStopped = false ∧ r ∈ s.cast.feed ∧ feedable s r = true ∧ (r.1 : Int) + d ≤ s.bead :=
  ⟨{ (ctx1 up).modCast fun c => { c with replay := true, deltas := [(1, 0, 0)], feed := [(0, [0x10, 3, 1, 0])] } with bead := 0 }, 0, 0, (0, [0x10, 3, 1, 0]),
    by decide, by decide, by decide, by decide, by decide, by decide, by decide⟩

theorem wit_ReplayFeeds_2 : ∃ (s : State) (d : Int) (a : Nat) (r : Nat × Bytes),
    assoc (leAt r.2 2 1) s.cast.deltas = some (d, a) ∧ a ≤ r.1 ∧ s.cast.replay = true ∧ s.cast.replayStopped = false ∧ s.cast.feed = [r] ∧ feedable s r = true ∧ (r.1 : Int) + d = s.bead + 1 ∧ leAt r.2 0 1 = 0x10 ∧ leAt r.2 1 1 < s.clasps.length :=
  ⟨{ (ctx1 up).modCast fun c => { c with replay := true, deltas := [(1, 1, 0)], feed := [(0, [0x10, 3, 1, 0])] } with bead := 0 }, 1, 0, (0, [0x10, 3, 1, 0]),
    by decide, by decide, by decide, by decide, by decide, by decide, by decide, by decide, by decide⟩

theorem wit_SignetsComplete_1 : ∃ (s : State) (v : Word),
    bit v 31 = true ∧ s.signets.busy = false ∧ s.follows = false ∧ s.startup.ready = true ∧ s.ports.linkUp = true ∧ s.cast.replay = false :=
  ⟨up, 0x80000000,
    by decide, by decide, by decide, by decide, by decide, by decide⟩

theorem wit_SignetsComplete_2 : ∃ (s : State) (e : Nat) (r : SigRequest),
    4 ≤ e ∧ e < 8 ∧ s.signets.req = some r ∧ r.left = 0 ∧ r.inputs ≠ [] ∧ (∀ x, nextUnsigned s = some x → requestFirst r x = true) :=
  ⟨up.modSig fun g => { g with busy := true, req := some ⟨1, 0, 0, [], 0, [1], 0⟩ }, 7, ⟨1, 0, 0, [], 0, [1], 0⟩,
    by decide, by decide, by decide, by decide, by decide, by decide⟩

theorem wit_SignetsComplete_3 : ∃ (s : State) (e : Nat) (c : CtxNo) (x : Committed),
    4 ≤ e ∧ e < 8 ∧ nextUnsigned s = some (c, x) ∧ c < s.rings.length ∧ (∀ r, requestWhole s = some r → requestFirst r (c, x) = false) :=
  ⟨{ up.modRing (fun r => { r with committed := [{ entry1 with signet := none }] }) 1 with bead := 1 }, 7, 1, { entry1 with signet := none },
    by decide, by decide, by decide, by decide, by decide⟩

theorem wit_SignetsComplete_4 : ∃ (s : State) (p k : Nat) (g : Bytes) (c : CtxNo),
    p < 4 ∧ s.clasps.length = 4 ∧ (s.clasp p).signetDue = some (g, k, c) :=
  ⟨up.modClasp (fun c => { c with signetDue := some ([7], 0, 1) }) 3, 3, 0, [7], 1,
    by decide, by decide, by decide⟩

theorem wit_ApertureAccesses_1 : ∃ (s : State) (_x : Nat) (_b : Bytes),
    s.ports.linkUp = true :=
  ⟨up, 0, [1],
    by decide⟩

theorem wit_ApertureAccesses_2 : ∃ (s : State) (x : Nat) (b : Bytes),
    s.ports.linkUp = true ∧ s.startup.ready = true ∧ b ≠ [] ∧ windowOpen s (x / 2 ^ 32) = false :=
  ⟨up, 2 ^ 36 - 1, [1],
    by decide, by decide, by decide, by decide⟩

theorem wit_ApertureAccesses_3 : ∃ (s : State) (x _n : Nat),
    s.ports.linkUp = true ∧ s.startup.ready = true ∧ windowOpen s (x / 2 ^ 32) = false :=
  ⟨up, 2 ^ 36 - 1, 1,
    by decide, by decide, by decide⟩

theorem wit_ApertureAccesses_4 : ∃ (s : State) (x ch u : Nat) (b : Bytes),
    s.ports.linkUp = true ∧ s.startup.ready = true ∧ b ≠ [] ∧ s.follows = false ∧ s.cast.replay = false ∧ x < 2 ^ 36 ∧ x % 2 ^ 32 / 1024 = (x % 2 ^ 32 + b.length - 1) / 1024 ∧ windowOpen s (x / 2 ^ 32) = true ∧ windowLine s (x / 2 ^ 32) (x % 2 ^ 32) true = some (ch, u) ∧ sealedHit s (x / 2 ^ 32) (x % 2 ^ 32) b.length = none ∧ windowSession s (x / 2 ^ 32) = none :=
  ⟨(ctx1 up).modBezel fun b => { b with apertures := modifyAt (fun _ => ⟨true, 1, 0⟩) 1 b.apertures }, 2 ^ 32 + 0x3FFF, 0, 15, [1],
    by decide, by decide, by decide, by decide, by decide, by decide, by decide, by decide, by decide, by decide, by decide⟩

set_option maxRecDepth 20000 in
theorem wit_ApertureAccesses_5 : ∃ (s : State) (x ch u : Nat) (b : Bytes) (k : Session),
    s.ports.linkUp = true ∧ s.startup.ready = true ∧ b.length = 1024 ∧ s.follows = false ∧ s.cast.replay = false ∧ x < 2 ^ 36 ∧ x % 1024 = 0 ∧ windowOpen s (x / 2 ^ 32) = true ∧ windowLine s (x / 2 ^ 32) (x % 2 ^ 32) true = some (ch, u) ∧ sealedHit s (x / 2 ^ 32) (x % 2 ^ 32) b.length = none ∧ windowSession s (x / 2 ^ 32) = some k :=
  ⟨((ctx1 up).modBezel fun b => { b with apertures := modifyAt (fun _ => ⟨true, 1, 0⟩) 1 b.apertures }).modCtx (fun x => { x with record := some { plain with apertureSession := true }, sec := { x.sec with session := some ⟨0, 0, 0, 0, 0, 0, 0, 0⟩ } }) 1, 2 ^ 32 + 0x3C00, 0, 15, zeros 1024, ⟨0, 0, 0, 0, 0, 0, 0, 0⟩,
    by decide, by decide, by decide, by decide, by decide, by decide, by decide, by decide, by decide, by decide, by decide⟩

theorem wit_ApertureAccesses_6 : ∃ (s : State) (x n ch u : Nat),
    s.ports.linkUp = true ∧ s.startup.ready = true ∧ 0 < n ∧ s.follows = false ∧ x < 2 ^ 36 ∧ x % 2 ^ 32 / 1024 = (x % 2 ^ 32 + n - 1) / 1024 ∧ windowOpen s (x / 2 ^ 32) = true ∧ windowLine s (x / 2 ^ 32) (x % 2 ^ 32) false = some (ch, u) ∧ ((windowSession s (x / 2 ^ 32) = none ∨ (x % 1024 = 0 ∧ n = 1024))) :=
  ⟨(ctx1 up).modBezel fun b => { b with apertures := modifyAt (fun _ => ⟨true, 1, 0⟩) 1 b.apertures }, 2 ^ 32 + 0x3FFF, 1, 0, 15,
    by decide, by decide, by decide, by decide, by decide, by decide, by decide, by decide, by decide⟩

set_option maxRecDepth 20000 in
theorem wit_HostSlotPerforms_1 : ∃ (s : State) (ch n x seq nb u : Nat) (b : Bytes),
    hostStart s ch = true ∧ ch < s.bezel.channels.length ∧ nextAccess s ch = some (ch, .write n x b seq none nb) ∧ windowOpen s n = true ∧ windowLine s n x true = some (ch, u) ∧ b.length = 1024 ∧ (s.ctx n).sec.load = none ∧ stopped s ch = false :=
  ⟨at_ 621 (((ctx1 up).modBezel fun b => { b with apertures := modifyAt (fun _ => ⟨true, 1, 0⟩) 1 b.apertures }).modBezel fun b => { b with queue := [(0, .write 1 0x3C00 (zeros 1024) 5 none 0)] }), 0, 1, 0x3C00, 5, 0, 15, zeros 1024,
    by decide, by decide, by decide, by decide, by decide, by decide, by decide, by decide⟩

theorem wit_HostSlotPerforms_2 : ∃ (s : State) (ch n x seq nb u : Nat) (b : Bytes),
    hostStart s ch = true ∧ ch < s.bezel.channels.length ∧ nextAccess s ch = some (ch, .write n x b seq none nb) ∧ windowOpen s n = true ∧ windowLine s n x true = some (ch, u) ∧ b.length ≠ 1024 :=
  ⟨at_ 621 (((ctx1 up).modBezel fun b => { b with apertures := modifyAt (fun _ => ⟨true, 1, 0⟩) 1 b.apertures }).modBezel fun b => { b with queue := [(0, .write 1 0x3FFF [1] 5 none 0)] }), 0, 1, 0x3FFF, 5, 0, 15, [1],
    by decide, by decide, by decide, by decide, by decide, by decide⟩

theorem wit_HostSlotPerforms_3 : ∃ (s : State) (ch n x k p u : Nat),
    hostStart s ch = true ∧ ch < s.bezel.channels.length ∧ nextAccess s ch = some (ch, .read n x k p) ∧ windowOpen s n = true ∧ windowLine s n x false = some (ch, u) ∧ windowSession s n = none :=
  ⟨at_ 621 (((ctx1 up).modBezel fun b => { b with apertures := modifyAt (fun _ => ⟨true, 1, 0⟩) 1 b.apertures }).modBezel fun b => { b with queue := [(0, .read 1 0x3FFF 1 5)] }), 0, 1, 0x3FFF, 1, 5, 15,
    by decide, by decide, by decide, by decide, by decide, by decide⟩

theorem wit_PatrolAndRepair_1 : ∃ (s : State) (ch : Nat),
    s.bezel.patrolEn = true ∧ patrolStart s ch = true ∧ ch < s.bezel.channels.length ∧ (s.chan ch).patrolFix = none :=
  ⟨at_ 621 up, 47,
    by decide, by decide, by decide, by decide⟩

theorem wit_PatrolAndRepair_2 : ∃ (s : State) (ch u : Nat),
    s.bezel.patrolEn = true ∧ patrolStart s ch = true ∧ ch < s.bezel.channels.length ∧ (s.chan ch).patrolFix = some u ∧ stopped s ch = false :=
  ⟨at_ 621 (up.modChan (fun c => { c with patrolFix := some 9 }) 47), 47, 9,
    by decide, by decide, by decide, by decide, by decide⟩

theorem wit_PatrolAndRepair_3 : ∃ (s : State) (ch : Nat),
    s.bezel.patrolEn = true ∧ ch < channelCount s.grade ∧ ch < s.bezel.channels.length ∧ 2 ^ 20 ≤ (s.chan ch).noPatrol :=
  ⟨up.modChan (fun c => { c with noPatrol := 2 ^ 20 }) 47, 47,
    by decide, by decide, by decide, by decide⟩

theorem wit_PatrolAndRepair_4 : ∃ (s : State) (ch u : Nat) (r : List Nat) (_b : Bytes),
    (s.chan ch).repair = u :: r ∧ ch < s.bezel.channels.length ∧ patrolStart s ch = true ∧ s.pair.regs.state ≠ .lockstep :=
  ⟨at_ 621 (up.modChan (fun c => { c with repair := [0] }) 0), 0, 0, [], zeros 1024,
    by decide, by decide, by decide, by decide⟩

theorem wit_PatrolAndRepair_5 : ∃ (s : State) (ch u c : Nat) (x : Nat × Nat) (r : List Nat) (_b : Bytes),
    (s.chan ch).repair = u :: r ∧ ch < s.bezel.channels.length ∧ patrolStart s ch = true ∧ s.pair.regs.state = .lockstep ∧ holderOf s ch u = some (c, x) ∧ stopped s ch = false :=
  ⟨at_ 621 (pairIs .lockstep ((ctx1 up).modChan (fun c => { c with repair := [15] }) 0)), 0, 15, 1, (1, 0x3C00), [], zeros 1024,
    by decide, by decide, by decide, by decide, by decide, by decide⟩

theorem wit_PatrolAndRepair_6 : ∃ (s : State) (ch : Nat) (_code : BitVec 3),
    ch < channelCount s.grade ∧ ch < s.bezel.channels.length ∧ 51 * slotCount s.rotLen + 2 ≤ 16 * s.rotLen ∧ 51 * (slotCount s.rotLen - 1) / 16 ≤ s.beadInRot ∧ (s.chan ch).mr4Rot ≠ some s.rotCount :=
  ⟨at_ 621 up, 47, 7,
    by decide, by decide, by decide, by decide, by decide⟩

theorem wit_RingWritesLatch_1 : ∃ (s : State) (c : CtxNo) (_v : Word),
    s.running c = true ∧ c < 16 ∧ s.ports.linkUp = true ∧ s.startup.ready = true ∧ s.follows = false ∧ s.cast.replay = false :=
  ⟨up.modCtx (fun x => { x with phase := .admitted }) 15, 15, 9,
    by decide, by decide, by decide, by decide, by decide, by decide⟩

theorem wit_RingWritesLatch_2 : ∃ (s : State) (c : CtxNo) (_v : Word),
    s.running c = true ∧ c < 16 ∧ c < s.rings.length ∧ s.ports.linkUp = true ∧ s.startup.ready = true ∧ s.follows = true :=
  ⟨pendant (up.modCtx (fun x => { x with phase := .admitted }) 15), 15, 9,
    by decide, by decide, by decide, by decide, by decide, by decide⟩

theorem wit_RequestsFetch_1 : ∃ (s : State) (c : CtxNo) (_d _g : Bytes),
    mayFetch s c = true ∧ c < s.rings.length ∧ (s.ctx c).sec.session = none :=
  ⟨(ctx1 up).modRing (fun r => { r with rqCtl := 0x80000000, rqTail := 1, fails := 0 }) 1, 1, zeros 64, zeros 16,
    by decide, by decide, by decide⟩

set_option maxRecDepth 20000 in
theorem wit_RequestsFetch_2 : ∃ (s : State) (c : CtxNo) (d g : Bytes) (k : Session),
    mayFetch s c = true ∧ c < s.rings.length ∧ (s.ctx c).sec.session = some k ∧ sessTag k.hmMac 1 2 c k.rqIdx (slice d 0 64) = slice g 0 16 :=
  ⟨((ctx1 up).modRing (fun r => { r with rqCtl := 0x80000000, rqTail := 1, fails := 0 }) 1).modCtx (fun x => { x with sec := { x.sec with session := some ⟨0, 0, 0, 0, 0, 0, 0, 0⟩ } }) 1, 1, zeros 64, sessTag 0 1 2 1 0 (zeros 64), ⟨0, 0, 0, 0, 0, 0, 0, 0⟩,
    by decide, by decide, by decide, by decide⟩

theorem wit_RequestsFetch_3 : ∃ (s : State) (c : CtxNo),
    mayFetch s c = true ∧ c < s.rings.length ∧ (s.ring c).fails < 3 :=
  ⟨(ctx1 up).modRing (fun r => { r with rqCtl := 0x80000000, rqTail := 1, fails := 2 }) 1, 1,
    by decide, by decide, by decide⟩

theorem wit_RequestsFetch_4 : ∃ (s : State) (c : CtxNo),
    mayFetch s c = true ∧ c < s.rings.length ∧ (s.ring c).fails = 3 :=
  ⟨(ctx1 up).modRing (fun r => { r with rqCtl := 0x80000000, rqTail := 1, fails := 3 }) 1, 1,
    by decide, by decide, by decide⟩

theorem wit_RequestsFetch_5 : ∃ (s : State) (c : CtxNo) (e : Bytes) (d : Nat) (r : List (Bytes × Nat)),
    (s.ring c).fetched = (e, d) :: r ∧ c < s.rings.length ∧ doorbellMet s d = true ∧ placesTaken s c < 512 :=
  ⟨up.modRing (fun r => { r with fetched := [([1], 0)] }) 15, 15, [1], 0, [],
    by decide, by decide, by decide, by decide⟩

theorem wit_RecordDelivered_1 : ∃ (s : State) (c : CtxNo) (x : Committed) (g : Bytes),
    nextRecord (s.ring c) = some x ∧ x.signet = some g ∧ c < s.rings.length ∧ s.follows = false ∧ s.ports.linkUp = true ∧ bit (s.ring c).srCtl 31 = true ∧ (s.ctx c).sec.session = none ∧ lacksSession s c = false :=
  ⟨(ctx1 up).modRing (fun r => { r with srCtl := 0x80000000, committed := [entry1] }) 1, 1, entry1, zeros 32,
    by decide, by decide, by decide, by decide, by decide, by decide, by decide, by decide⟩

set_option maxRecDepth 20000 in
theorem wit_RecordDelivered_2 : ∃ (s : State) (c : CtxNo) (x : Committed) (g ct : Bytes) (k : Session) (a : Nat),
    nextRecord (s.ring c) = some x ∧ x.signet = some g ∧ c < s.rings.length ∧ s.follows = false ∧ s.ports.linkUp = true ∧ bit (s.ring c).srCtl 31 = true ∧ (s.ctx c).sec.session = some k ∧ x.record.length + 16 ≤ srSlot (s.ring c).srCtl ∧ ct = sessCrypt k.mhEnc 2 3 c k.srIdx (finishRecord (s.ring c) x g) ∧ a = hostAddr (s.ring c).srBaseLo (s.ring c).srBaseHi + srSlot (s.ring c).srCtl * ((s.ring c).srHead.toNat % 2 ^ srLog (s.ring c).srCtl) :=
  ⟨((ctx1 up).modRing (fun r => { r with srCtl := 0x80000000, committed := [entry1] }) 1).modCtx (fun x => { x with sec := { x.sec with session := some ⟨0, 0, 0, 0, 0, 0, 0, 0⟩ } }) 1, 1, entry1, zeros 32, _, ⟨0, 0, 0, 0, 0, 0, 0, 0⟩, 0,
    by decide, by decide, by decide, by decide, by decide, by decide, by decide, by decide, rfl, by decide⟩

theorem wit_RecordDelivered_3 : ∃ (s : State) (c : CtxNo) (x : Committed) (g : Bytes),
    nextRecord (s.ring c) = some x ∧ x.signet = some g ∧ c < s.rings.length ∧ s.follows = false ∧ s.ports.linkUp = false :=
  ⟨((ctx1 up).modRing (fun r => { r with srCtl := 0x80000000, committed := [entry1] }) 1).modPorts fun p => { p with linkUp := false }, 1, entry1, zeros 32,
    by decide, by decide, by decide, by decide, by decide⟩

theorem wit_StrandCommandsLatch_1 : ∃ (s : State),
    s.strands.hostEn = true ∧ s.strands.busy = false ∧ s.strands.fetching = false ∧ s.ports.linkUp = true ∧ s.startup.ready = true ∧ s.cast.replay = false :=
  ⟨up.modStr fun b => { b with hostEn := true },
    by decide, by decide, by decide, by decide, by decide, by decide⟩

theorem wit_StrandCommandsLatch_2 : ∃ (s : State),
    s.strands.hostEn = true ∧ s.strands.busy = false ∧ s.ports.linkUp = true ∧ s.startup.ready = true :=
  ⟨up.modStr fun b => { b with hostEn := true },
    by decide, by decide, by decide, by decide⟩

theorem wit_StrandCommandsLatch_3 : ∃ (s : State) (_a _b : Bytes),
    s.strands.fetching = true :=
  ⟨up.modStr fun b => { b with fetching := true }, [], zeros 160,
    by decide⟩

set_option maxRecDepth 20000 in
theorem wit_VerificationDecides_1 : ∃ (s : State) (c : CtxNo) (p : Pending),
    s.strands.pendings.find? (fun q => decide (q.ctx = c)) = some p ∧ p.verified = false ∧ heldByScrub s c = false ∧ admitVerdict s p = 0 :=
  ⟨waits (pend image1 false), 1, pend image1 false,
    by decide, by decide, by decide, by decide⟩

theorem wit_VerificationDecides_2 : ∃ (s : State) (c : CtxNo) (p : Pending),
    s.strands.pendings.find? (fun q => decide (q.ctx = c)) = some p ∧ p.verified = false ∧ heldByScrub s c = false ∧ admitVerdict s p ≠ 0 ∧ p.via = .strBlock ∧ c < s.ctxs.length ∧ (s.ctx c).phase = .pending :=
  ⟨waits (pend [] false), 1, pend [] false,
    by decide, by decide, by decide, by decide, by decide, by decide, by decide⟩

set_option maxRecDepth 20000 in
theorem wit_AdmissionsAndReleases_1 : ∃ (s : State) (c : CtxNo) (p : Pending),
    s.strands.pendings.find? (fun q => decide (q.ctx = c)) = some p ∧ atBoundary s = true ∧ anyReleaseDue s = false ∧ anySwapDue s = false ∧ (((p.boundary = some (s.period + 1) ∧ p.verified = true) ∨ (p.boundary = none ∧ admitReady (withNamed s c) p = true ∧ relays s = false ∧ ∀ a, p.replay = some a → (s.period + 1).toNat % 4 = a.1))) ∧ admitVerdict s p = 0 ∧ c < s.ctxs.length ∧ c < s.rings.length :=
  ⟨atEnd (pend image1 true), 1, pend image1 true,
    by decide, by decide, by decide, by decide, by decide, by decide, by decide, by decide⟩

theorem wit_AdmissionsAndReleases_2 : ∃ (s : State) (c : CtxNo) (p : Pending),
    s.strands.pendings.find? (fun q => decide (q.ctx = c)) = some p ∧ atBoundary s = true ∧ anyReleaseDue s = false ∧ anySwapDue s = false ∧ p.boundary = none ∧ admitReady (withNamed s c) p = true ∧ relays s = true ∧ readyBy s (s.period + 3) = true :=
  ⟨pairIs .lockstep (lead ((atEnd (pend image1 true)).modLink fun l => { l with readyPeriod := some 0 })), 1, pend image1 true,
    by decide, by decide, by decide, by decide, by decide, by decide, by decide, by decide⟩

theorem wit_AdmissionsAndReleases_3 : ∃ (s : State) (c : CtxNo),
    atBoundary s = true ∧ releaseIsDue s c = true ∧ shapeOk s ∧ c < 16 :=
  ⟨at_ 624 (up.modCtx (fun x => { x with phase := .releasing, forceDue := true }) 15), 15,
    by decide, by decide, ⟨rfl, rfl, rfl, rfl⟩, by decide⟩

theorem wit_ScrubRuns_1 : ∃ (s : State) (c : CtxNo) (r : Scrub),
    (s.ctx c).scrub = some r ∧ r.keyLoaded = false ∧ r.began ≤ s.bead ∧ lp4xInFlight s c = false ∧ s.locket.rngFailed = false ∧ c < s.ctxs.length :=
  ⟨up.modCtx (fun x => { x with scrub := some ⟨0, false, [], false⟩ }) 15, 15, ⟨0, false, [], false⟩,
    by decide, by decide, by decide, by decide, by decide, by decide⟩

theorem wit_ScrubRuns_2 : ∃ (s : State) (ch u : Nat) (c : CtxNo),
    scrubStart s ch = true ∧ scrubOn s ch = some (c, u) ∧ ch < s.bezel.channels.length :=
  ⟨(ctx1 up).modCtx (fun x => { x with phase := .scrubbing, scrub := some ⟨0, true, [(0, 1)], true⟩ }) 1, 0, 15, 1,
    by decide, by decide, by decide⟩

theorem wit_ScrubRuns_3 : ∃ (s : State) (c : CtxNo) (r : Scrub),
    (s.ctx c).scrub = some r ∧ r.keyLoaded = true ∧ r.otherDone = true ∧ r.lines = [] ∧ (s.ctx c).phase = .scrubbing ∧ c < s.ctxs.length :=
  ⟨up.modCtx (fun x => { x with phase := .scrubbing, scrub := some ⟨0, true, [], true⟩ }) 15, 15, ⟨0, true, [], true⟩,
    by decide, by decide, by decide, by decide, by decide, by decide⟩

theorem wit_CellsAndHeartbeats_1 : ∃ (s : State) (c : Bytes),
    s.paired = true ∧ cellWhole c = true ∧ leAt c 2 1 = partnerOf s.startup.slot ∧ s.pair.regs.role = .lead ∧ s.pair.regs.state = .lockstep ∧ leAt c 1 1 = 2 ∧ (leAt c 0x14 2).testBit 1 = false ∧ leAt c 3 1 ≠ 3 :=
  ⟨pairIs .lockstep (lead up), pendantCell,
    by decide, pendantCell_whole, by decide, by decide, by decide, by decide, by decide, by decide⟩

theorem wit_CellsAndHeartbeats_2 : ∃ (s : State) (c : Bytes),
    s.paired = true ∧ cellWhole c = true ∧ leAt c 2 1 = partnerOf s.startup.slot ∧ s.pair.regs.role = .pendant ∧ s.pair.regs.state = .lockstep ∧ leAt c 1 1 = 1 ∧ (leAt c 0x14 2).testBit 0 = true ∧ s.pair.cmp.withheld = [] :=
  ⟨pairIs .lockstep (pendant up), leadCell,
    by decide, leadCell_whole, by decide, by decide, by decide, by decide, by decide, by decide⟩

theorem wit_CellsAndHeartbeats_3 : ∃ (_s : State) (c : Bytes),
    cellWhole c = false :=
  ⟨up, [],
    by decide⟩

theorem wit_CellsAndHeartbeats_4 : ∃ (s : State),
    countsCells s = true ∧ s.pair.link.cellNow = false ∧ s.pair.link.lost = none ∧ tokenWaits s = false ∧ s.pair.link.missRun < 7 :=
  ⟨(pairIs .lockstep (lead up)).modLink fun l => { l with missRun := 6 },
    by decide, by decide, by decide, by decide, by decide⟩

theorem wit_CellsAndHeartbeats_5 : ∃ (s : State),
    countsCells s = true ∧ s.pair.link.cellNow = false ∧ s.pair.link.lost = none ∧ s.pair.link.missRun = 7 ∧ s.pair.regs.role = .lead ∧ partnered s = true :=
  ⟨(pairIs .lockstep (lead up)).modLink fun l => { l with missRun := 7 },
    by decide, by decide, by decide, by decide, by decide, by decide⟩

theorem wit_CellsAndHeartbeats_6 : ∃ (s : State),
    countsCells s = true ∧ s.pair.regs.role = .pendant ∧ s.pair.regs.state = .lockstep ∧ s.pair.link.cellNow = false ∧ s.pair.link.lost = none ∧ s.pair.link.missRun = 7 ∧ s.pair.regs.evidence ≠ 0 ∧ s.pair.regs.silentEn = true :=
  ⟨((pairIs .lockstep (pendant up)).modLink fun l => { l with missRun := 7 }).modTwin fun t => { t with evidence := 8 },
    by decide, by decide, by decide, by decide, by decide, by decide, by decide, by decide⟩

theorem wit_CellsAndHeartbeats_7 : ∃ (s : State) (b : Nat),
    s.pair.link.lost = some b :=
  ⟨up.modLink fun l => { l with lost := some 5 }, 5,
    by decide⟩

theorem wit_TwinItemsKept_1 : ∃ (s : State) (i : RelayedInput) (k : InputKind),
    s.follows = true ∧ i ∉ s.pair.link.seenInputs ∧ s.bead < i.latchBead ∧ i.castType ≠ 0x42 ∧ castKind i.castType.toNat i.ctx i.payload = some k :=
  ⟨pendant up, ⟨1, 0x41, 9, 0, 1, zeros 8⟩, .cancel 1 0,
    by decide, by decide, by decide, by decide, by decide⟩

theorem wit_TwinItemsKept_2 : ∃ (s : State) (i : RelayedInput) (n x ch u : Nat),
    s.follows = true ∧ i ∉ s.pair.link.seenInputs ∧ s.bead < i.latchBead ∧ i.castType = 0x42 ∧ n = leAt i.payload 0 8 / 2 ^ 32 ∧ x = leAt i.payload 0 8 % 2 ^ 32 ∧ windowLine s n x true = some (ch, u) :=
  ⟨pendant ((ctx1 up).modBezel fun b => { b with apertures := modifyAt (fun _ => ⟨true, 1, 0⟩) 1 b.apertures }), ⟨1, 0x42, 9, 0, 1, leBytes 8 (2 ^ 32 + 0x3FFF) ++ [1]⟩, 1, 0x3FFF, 0, 15,
    by decide, by decide, by decide, by decide, by decide, by decide, by decide⟩

theorem wit_TwinItemsKept_3 : ∃ (s : State) (i : RelayedInput),
    s.follows = true ∧ i ∈ s.pair.link.seenInputs :=
  ⟨(pendant up).modLink fun l => { l with seenInputs := [⟨1, 0x41, 9, 0, 1, zeros 8⟩] }, ⟨1, 0x41, 9, 0, 1, zeros 8⟩,
    by decide, by decide⟩

theorem wit_TwinItemsKept_4 : ∃ (s : State) (i : RelayedInput),
    s.follows = true ∧ i ∉ s.pair.link.seenInputs ∧ i.latchBead ≤ s.bead ∧ i.ctx < 16 :=
  ⟨{ pendant up with bead := 1 }, ⟨1, 0x41, 9, 0, 1, zeros 8⟩,
    by decide, by decide, by decide, by decide⟩

theorem wit_TwinItemsKept_5 : ∃ (s : State) (c : CtxNo) (_n : DWord) (_h : Word),
    s.follows = true ∧ c < s.rings.length :=
  ⟨pendant up, 15, 1, 2,
    by decide, by decide⟩

theorem wit_TwinItemsKept_6 : ∃ (s : State) (c : CtxNo) (b : Bytes),
    s.follows = true ∧ c < s.ctxs.length ∧ b.length = 112 ∧ keysAgain s c b = false ∧ b.take 64 = zeros 64 :=
  ⟨pendant up, 15, zeros 112,
    by decide, by decide, by decide, by decide, by decide⟩

theorem wit_TwinItemsKept_7 : ∃ (s : State) (c : CtxNo) (b : Bytes),
    s.follows = true ∧ c < s.ctxs.length ∧ b.length = 112 ∧ keysAgain s c b = false ∧ b.take 64 ≠ zeros 64 :=
  ⟨pendant up, 15, [1] ++ zeros 111,
    by decide, by decide, by decide, by decide, by decide⟩

theorem wit_TwinItemsKept_8 : ∃ (s : State) (_p : Word),
    s.pair.regs.role = .lead :=
  ⟨lead up, 3,
    by decide⟩

theorem wit_TwinOrders_1 : ∃ (s : State) (b : Word) (g : GrantRecord),
    s.follows = true ∧ s.running g.ctx = false ∧ (∀ p ∈ s.strands.pendings, p.ctx ≠ g.ctx) ∧ g.ctx < s.ctxs.length ∧ laterThan b s.period = true :=
  ⟨pendant up, 3, ⟨15, [], zeros 160, [], []⟩,
    by decide, by decide, by decide, by decide, by decide⟩

theorem wit_TwinOrders_2 : ∃ (s : State) (b : Word) (c : CtxNo),
    s.follows = true ∧ s.running c = true ∧ c ≠ 0 ∧ (b, c, false) ∉ s.strands.twinReleases ∧ laterThan b s.period = true :=
  ⟨pendant (ctx1 up), 3, 1,
    by decide, by decide, by decide, by decide, by decide⟩

theorem wit_TwinOrders_3 : ∃ (s : State) (b : Word) (c : CtxNo),
    s.follows = true ∧ s.running c = true ∧ c ≠ 0 ∧ (b, c, true) ∉ s.strands.twinReleases ∧ laterThan b s.period = true :=
  ⟨pendant (ctx1 up), 3, 1,
    by decide, by decide, by decide, by decide, by decide⟩

theorem wit_TwinOrders_4 : ∃ (s : State) (b : Word) (c : CtxNo),
    s.follows = true ∧ s.running c = true ∧ c ≠ 0 ∧ c < 16 ∧ (b, c, false) ∉ s.strands.twinReleases ∧ laterThan b s.period = false :=
  ⟨{ pendant (ctx1 up) with period := 3 }, 3, 1,
    by decide, by decide, by decide, by decide, by decide, by decide⟩

theorem wit_TwinOrders_5 : ∃ (s : State) (_b : Word),
    s.follows = true :=
  ⟨pendant up, 3,
    by decide⟩

theorem wit_DivergenceJudged_1 : ∃ (s : State) (x y : SignetItem) (b : Nat),
    lockstepCtx s x.ctx = true ∧ s.pair.regs.role = .pendant ∧ s.pair.cmp.own = [(y, b)] ∧ sameSignet x y = true ∧ y.signet = x.signet :=
  ⟨(pairIs .lockstep (pendant up)).modCmp fun c => { c with own := [(signetItem 4, 0)] }, signetItem 4, signetItem 4, 0,
    by decide, by decide, by decide, by decide, by decide⟩

theorem wit_DivergenceJudged_2 : ∃ (s : State) (x y : SignetItem) (b : Nat),
    lockstepCtx s x.ctx = true ∧ s.pair.regs.role = .pendant ∧ s.pair.cmp.own = [(y, b)] ∧ sameSignet x y = true ∧ y.signet ≠ x.signet :=
  ⟨(pairIs .lockstep (pendant up)).modCmp fun c => { c with own := [(signetItem 4, 0)] }, signetItem 5, signetItem 4, 0,
    by decide, by decide, by decide, by decide, by decide⟩

theorem wit_DivergenceJudged_3 : ∃ (s : State) (c : CtxNo) (y : SignetItem) (b : Nat),
    lockstepCtx s c = true ∧ s.pair.regs.role = .pendant ∧ s.pair.cmp.own = [(y, b)] ∧ y.ctx = c ∧ b + s.rotLen ≤ s.bead :=
  ⟨{ (pairIs .lockstep (pendant up)).modCmp fun c => { c with own := [(signetItem 4, 0)] } with bead := 625 }, 1, signetItem 4, 0,
    by decide, by decide, by decide, by decide, by decide⟩

theorem wit_DivergenceJudged_4 : ∃ (s : State) (c : CtxNo) (p : Word) (code : Half) (b : Nat),
    lockstepCtx s c = true ∧ laterThan p s.period = false ∧ unordered p s.period = false ∧ code.toNat ≠ evTwinDivergence ∧ s.pair.cmp.withheld = [⟨b, c, code.toNat, false⟩] :=
  ⟨(pairIs .lockstep (pendant up)).modCmp fun c => { c with withheld := [⟨0, 1, 0x101, false⟩] }, 1, 0, 0x101, 0,
    by decide, by decide, by decide, by decide, by decide⟩

theorem wit_DivergenceJudged_5 : ∃ (s : State) (c : CtxNo) (p : Word) (code : Half),
    lockstepCtx s c = true ∧ laterThan p s.period = false ∧ unordered p s.period = false ∧ code.toNat ≠ evTwinDivergence ∧ s.pair.cmp.withheld = [] :=
  ⟨pairIs .lockstep (pendant up), 1, 0, 0x101,
    by decide, by decide, by decide, by decide, by decide⟩

theorem wit_DivergenceJudged_6 : ∃ (s : State) (h : Hunt) (_b : Bool),
    s.pair.cmp.hunts = [h] ∧ h.rotation + 16 ≤ s.rotCount ∧ h.localFault = true ∧ s.pair.regs.role = .lead :=
  ⟨{ (lead up).modCmp fun c => { c with hunts := [⟨1, 0, true⟩] } with rotCount := 16 }, ⟨1, 0, true⟩, false,
    by decide, by decide, by decide, by decide⟩

theorem wit_DivergenceJudged_7 : ∃ (s : State) (h : Hunt),
    s.pair.cmp.hunts = [h] ∧ h.rotation + 16 ≤ s.rotCount ∧ h.localFault = false :=
  ⟨{ (lead up).modCmp fun c => { c with hunts := [⟨1, 0, false⟩] } with rotCount := 16 }, ⟨1, 0, false⟩,
    by decide, by decide, by decide⟩

theorem wit_TwinReports_1 : ∃ (s : State) (_r : Bytes),
    s.pair.regs.role = .lead :=
  ⟨managed (lead up), zeros 128,
    by decide⟩

theorem wit_TwinReports_2 : ∃ (s : State),
    s.pair.regs.role = .pendant ∧ s.pair.link.reportBead + 2 ^ 20 ≤ s.bead :=
  ⟨{ pendant up with bead := 2 ^ 20 },
    by decide, by decide⟩

theorem wit_TwinReports_3 : ∃ (s : State),
    s.pair.regs.role = .pendant ∧ s.pair.cmp.selftestRot + 65536 ≤ s.rotCount :=
  ⟨{ pendant up with rotCount := 65536 },
    by decide, by decide⟩

theorem wit_PromotionsEnd_1 : ∃ (s : State),
    s.pair.regs.role = .lead ∧ s.pair.takeover.lossBead.isSome :=
  ⟨(pairIs .acting (lead up)).modOver fun o => { o with lossBead := some 0 },
    by decide, by decide⟩

theorem wit_PromotionsEnd_2 : ∃ (s : State),
    s.pair.regs.role = .lead ∧ s.pair.regs.state = .acting ∧ confirmOver s = true ∧ ehBehind s = true :=
  ⟨{ (pairIs .acting (lead up)).modOver fun o => { o with confirmSince := some (0, none) } with rotCount := 8192 },
    by decide, by decide, by decide, by decide⟩

theorem wit_PromotionsEnd_3 : ∃ (s : State),
    s.pair.regs.state = .detached ∧ confirmOver s = true :=
  ⟨{ ((pairIs .detached up).modOver fun o => { o with confirmSince := some (0, none) }).modTwin fun t => { t with eh := some 6 } with rotCount := 8192 },
    by decide, by decide⟩

theorem wit_PromotionsEnd_4 : ∃ (s : State),
    s.pair.takeover.swapAt = some (s.period + 1) ∧ atBoundary s = true ∧ s.pair.regs.state = .lockstep ∧ s.pair.regs.role = .pendant :=
  ⟨at_ 624 ((pairIs .lockstep (pendant up)).modOver fun o => { o with swapAt := some 1 }),
    by decide, by decide, by decide, by decide⟩

theorem wit_PromotionsEnd_5 : ∃ (s : State),
    s.pair.takeover.swapAt = some (s.period + 1) ∧ atBoundary s = true ∧ s.pair.regs.state = .lockstep ∧ s.pair.regs.role = .lead :=
  ⟨at_ 624 ((pairIs .lockstep (lead up)).modOver fun o => { o with swapAt := some 1 }),
    by decide, by decide, by decide, by decide⟩

theorem wit_EpochsAndStart_1 : ∃ (s : State) (r : Nat),
    s.pair.takeover.beatSince = some r ∧ s.pair.regs.role = .lead ∧ s.pair.regs.state = .alone ∧ r + 2 ^ beatLog s.pair.regs ≤ s.rotCount :=
  ⟨{ (pairIs .alone (lead up)).modOver fun o => { o with beatSince := some 0 } with rotCount := 4096 }, 0,
    by decide, by decide, by decide, by decide⟩

theorem wit_EpochsAndStart_2 : ∃ (s : State),
    atBoundary s = true ∧ s.paired = true ∧ s.pair.regs.role = .lead ∧ s.pair.takeover.raiseDue = 2 :=
  ⟨at_ 624 ((lead up).modOver fun o => { o with raiseDue := 2 }),
    by decide, by decide, by decide, by decide⟩

theorem wit_EpochsAndStart_3 : ∃ (s : State),
    atBoundary s = true ∧ ((s.paired = false ∨ (s.pair.regs.role = .unpaired ∧ s.pair.takeover.listening = false))) :=
  ⟨at_ 624 (up.modTwin fun t => { t with pairEn := false }),
    by decide, by decide⟩

theorem wit_EpochsAndStart_4 : ∃ (s : State),
    s.paired = true ∧ s.startup.ready = true ∧ s.pair.takeover.listening = true :=
  ⟨up.modOver fun o => { o with listening := true },
    by decide, by decide, by decide⟩

theorem wit_ManagementReads_1 : ∃ (s : State) (id _i : Nat),
    operates s id :=
  ⟨managed up, 1, 0,
    ⟨rfl, rfl, ⟨1, true, false, [], 0⟩, rfl, rfl, rfl⟩⟩

theorem wit_ManagementLatches_1 : ∃ (s : State) (id : Nat),
    operates s id ∧ s.follows = false :=
  ⟨managed up, 1,
    ⟨rfl, rfl, ⟨1, true, false, [], 0⟩, rfl, rfl, rfl⟩, by decide⟩

theorem wit_ManagementLatches_2 : ∃ (s : State) (id _k _a _l : Nat) (_n : Word),
    operates s id :=
  ⟨managed up, 1, 1, 2, 3, 4,
    ⟨rfl, rfl, ⟨1, true, false, [], 0⟩, rfl, rfl, rfl⟩⟩

theorem wit_ManagementLatches_3 : ∃ (s : State) (id : Nat),
    operates s id ∧ s.follows = true :=
  ⟨managed (pendant up), 1,
    ⟨rfl, rfl, ⟨1, true, false, [], 0⟩, rfl, rfl, rfl⟩, by decide⟩

theorem wit_ConnectionsOpen_1 : ∃ (s : State) (q : ConnectReq) (o b : Bool),
    s.mgmt.up = true ∧ q.port = 4433 ∧ q.dest ∈ netAddresses s.mgmt.net ∧ s.mgmt.conns.length < 4 ∧ q.tls13 = true ∧ q.suite = 0x00C6 ∧ q.scheme = 0x0708 ∧ (((s.mgmt.operatorRoot ≠ [] ∧ q.chain = 1 ∧ o = true ∧ b = false) ∨ (s.mgmt.operatorRoot ≠ [] ∧ q.chain = 2 ∧ s.mgmt.observerRoot ≠ [] ∧ o = false ∧ b = false) ∨ (s.mgmt.operatorRoot = [] ∧ q.selfSignedKey ≠ [] ∧ o = false ∧ b = true))) :=
  ⟨(managed up).modMgmt fun m => { m with operatorRoot := [1], conns := List.replicate 3 ⟨1, true, false, [], 0⟩ }, ⟨[0, 0, 0, 0], 4433, true, 0x00C6, 0x0708, 1, []⟩, true, false,
    by decide, by decide, by decide, by decide, by decide, by decide, by decide, by decide⟩

theorem wit_ConnectionsOpen_2 : ∃ (s : State) (q : ConnectReq),
    (4 ≤ s.mgmt.conns.length ∨ q.port ≠ 4433) :=
  ⟨up.modMgmt fun m => { m with conns := List.replicate 4 ⟨1, true, false, [], 0⟩ }, ⟨[0, 0, 0, 0], 4433, true, 0x00C6, 0x0708, 1, []⟩,
    by decide⟩

theorem wit_ConnectionsOpen_3 : ∃ (s : State) (id : Nat),
    (∀ c ∈ s.mgmt.conns, c.id = id → c.last + 300 * 25000000 ≤ s.bead) :=
  ⟨{ managed up with bead := 7500000000 }, 1,
    by decide⟩

theorem wit_ManagementActs_1 : ∃ (s : State) (id off b : Nat) (d : Bytes),
    operates s id ∧ s.mgmt.imageBase = some b ∧ d.length ≤ 65536 ∧ off + d.length ≤ 2 ^ 32 :=
  ⟨(managed up).modMgmt fun m => { m with imageBase := some 0 }, 1, 2 ^ 32 - 1, 0, [1],
    ⟨rfl, rfl, ⟨1, true, false, [], 0⟩, rfl, rfl, rfl⟩, by decide, by decide, by decide⟩

theorem wit_ManagementActs_2 : ∃ (s : State) (id : Nat) (c : Conn) (_op _ob _g : Bytes),
    s.startup.ready = true ∧ s.mgmt.operatorRoot = [] ∧ s.mgmt.conns.find? (fun c => decide (c.id = id)) = some c ∧ c.bootstrap = true :=
  ⟨up.modMgmt fun m => { m with conns := [⟨1, true, true, [9], 0⟩] }, 1, ⟨1, true, true, [9], 0⟩, [], [], [],
    by decide, by decide, by decide, by decide⟩

theorem wit_ManagementActs_3 : ∃ (s : State) (id : Nat) (op _ob _g : Bytes),
    operates s id ∧ op ≠ [] :=
  ⟨(managed up).modMgmt fun m => { m with operatorRoot := [1] }, 1, [1], [], [],
    ⟨rfl, rfl, ⟨1, true, false, [], 0⟩, rfl, rfl, rfl⟩, by decide⟩

theorem wit_ManagementActs_4 : ∃ (s : State) (id : Nat),
    operates s id :=
  ⟨managed up, 1,
    ⟨rfl, rfl, ⟨1, true, false, [], 0⟩, rfl, rfl, rfl⟩⟩

theorem wit_ManagementActs_5 : ∃ (s : State) (id : Nat),
    operates s id :=
  ⟨managed up, 1,
    ⟨rfl, rfl, ⟨1, true, false, [], 0⟩, rfl, rfl, rfl⟩⟩

theorem wit_TokensAndTimes_1 : ∃ (s : State) (id : Nat) (_d : Bytes),
    operates s id :=
  ⟨managed up, 1, [1],
    ⟨rfl, rfl, ⟨1, true, false, [], 0⟩, rfl, rfl, rfl⟩⟩

theorem wit_TokensAndTimes_2 : ∃ (s : State),
    s.mgmt.pairToken.held = true ∧ s.mgmt.pairToken.lease ≤ s.bead :=
  ⟨{ up.modMgmt fun m => { m with pairToken := ⟨true, some 1, 7⟩ } with bead := 7 },
    by decide, by decide⟩

theorem wit_TokensAndTimes_3 : ∃ (s : State),
    s.mgmt.seaToken.held = true ∧ s.mgmt.seaToken.lease ≤ s.bead :=
  ⟨{ up.modMgmt fun m => { m with seaToken := ⟨true, some 1, 7⟩ } with bead := 7 },
    by decide, by decide⟩

theorem wit_TokensAndTimes_4 : ∃ (s : State) (b : Nat),
    s.mgmt.replaceAt = some b ∧ s.health.now = .replace ∧ b + 24 * 3600 * 25000000 ≤ s.bead :=
  ⟨{ up.modMgmt fun m => { m with replaceAt := some 0 } with bead := 2160000000000, health := { up.health with now := .replace } }, 0,
    by decide, by decide, by decide⟩

theorem wit_TokensAndTimes_5 : ∃ (s : State),
    s.startup.ready = true ∧ s.mgmt.healthLogAt + 600 * 25000000 ≤ s.bead :=
  ⟨{ up with bead := 15000000000 },
    by decide, by decide⟩

set_option maxRecDepth 20000 in
theorem wit_HallmarkSteps_1 : ∃ (s : State) (id i : Nat) (p : Bytes),
    operates s id ∧ hmBusy s = false ∧ p.length = 4096 ∧ s.mgmt.hm.armed = false ∧ s.mgmt.hm.installing = false ∧ i ≠ 0 ∧ s.mgmt.hm.staged ≠ [] ∧ i < hmCount (hmHeader s.mgmt.hm.staged) :=
  ⟨(managed up).modHm fun m => { m with staged := [(0, zeros 20 ++ leBytes 4 9)] }, 1, 8, zeros 4096,
    ⟨rfl, rfl, ⟨1, true, false, [], 0⟩, rfl, rfl, rfl⟩, by decide, by decide, by decide, by decide, by decide, by decide, by decide⟩

theorem wit_HallmarkSteps_2 : ∃ (s : State) (id _i : Nat) (_p : Bytes),
    operates s id ∧ hmBusy s = true :=
  ⟨(managed up).modHm fun m => { m with hmPieces := 100 }, 1, 1, [],
    ⟨rfl, rfl, ⟨1, true, false, [], 0⟩, rfl, rfl, rfl⟩, by decide⟩

theorem wit_HallmarkSteps_3 : ∃ (s : State) (id : Nat),
    operates s id ∧ hmState s.mgmt.hm = .ready ∧ fusedFloor s ≤ hmGeneration (hmHeader s.mgmt.hm.staged) ∧ ((partnered s = false ∨ hmLevels s = true)) :=
  ⟨(managed up).modHm fun m => { m with staged := [(0, zeros 4096)] }, 1,
    ⟨rfl, rfl, ⟨1, true, false, [], 0⟩, rfl, rfl, rfl⟩, by decide, by decide, by decide⟩

theorem wit_HallmarkSteps_4 : ∃ (s : State) (id : Nat),
    operates s id :=
  ⟨managed up, 1,
    ⟨rfl, rfl, ⟨1, true, false, [], 0⟩, rfl, rfl, rfl⟩⟩

theorem wit_HallmarkSteps_5 : ∃ (s : State) (id : Nat),
    operates s id ∧ s.mgmt.hm.confirmed = false :=
  ⟨(managed up).modHm fun m => { m with confirmed := false }, 1,
    ⟨rfl, rfl, ⟨1, true, false, [], 0⟩, rfl, rfl, rfl⟩, by decide⟩

theorem wit_HallmarkSteps_6 : ∃ (s : State) (b : Nat),
    s.mgmt.hm.readySince = some b ∧ b + 1800 * 25000000 ≤ s.bead ∧ s.mgmt.hm.confirmed = false :=
  ⟨{ up.modHm fun m => { m with readySince := some 0, confirmed := false } with bead := 45000000000 }, 0,
    by decide, by decide, by decide⟩

theorem wit_CastRingsTravel_1 : ∃ (s : State) (id off : Nat),
    operates s id ∧ s.cast.frozen = true ∧ castAble s = true ∧ off < castRingBytes s.cast :=
  ⟨managed ((ring1 up).modCast fun c => { c with frozen := true }), 1, 2 ^ 30 - 1,
    ⟨rfl, rfl, ⟨1, true, false, [], 0⟩, rfl, rfl, rfl⟩, by decide, by decide, by decide⟩

theorem wit_CastRingsTravel_2 : ∃ (s : State) (id _off : Nat),
    operates s id ∧ s.cast.frozen = false :=
  ⟨managed up, 1, 0,
    ⟨rfl, rfl, ⟨1, true, false, [], 0⟩, rfl, rfl, rfl⟩, by decide⟩

set_option maxRecDepth 20000 in
theorem wit_CastRingsTravel_3 : ∃ (s : State) (id l : Nat) (d : Bytes),
    operates s id ∧ s.cast.replay = true ∧ s.admitted = [] ∧ castAble s = true ∧ d.length = 1024 ∧ 1024 * l + 1024 ≤ castRingBytes s.cast :=
  ⟨managed ((ring1 up).modCast fun c => { c with replay := true }), 1, 2 ^ 20 - 1, zeros 1024,
    ⟨rfl, rfl, ⟨1, true, false, [], 0⟩, rfl, rfl, rfl⟩, by decide, by decide, by decide, by decide, by decide⟩

theorem wit_StartUpSteps_1 : ∃ (s : State) (_w : Word),
    s.startup.powered = false :=
  ⟨State.reset, 0xFFFFFFFF,
    by decide⟩

theorem wit_StartUpSteps_2 : ∃ (s : State) (_ws : List Nat),
    atStep 2 s = true ∧ bootMode s.clock.clockWord = false ∧ s.clock.judged = false :=
  ⟨(State.reset.modStartup fun x => { x with powered := true, step := 2 }).modClock fun c => { c with clockWord := 0 }, [25000, 25000, 25050, 25050, 24950, 24950, 25000, 25000],
    by decide, by decide, by decide⟩

theorem wit_StartUpSteps_3 : ∃ (s : State) (_n : Nat),
    atStep 2 s = true ∧ ((bootMode s.clock.clockWord = true ∨ s.clock.judged = true)) :=
  ⟨(State.reset.modStartup fun x => { x with powered := true, step := 2 }).modClock fun c => { c with judged := true }, 25625,
    by decide, by decide⟩

theorem wit_StartUpSteps_4 : ∃ (s : State) (_v : BitVec 3) (_a _b _c : Bool),
    atStep 3 s = true :=
  ⟨State.reset.modStartup fun x => { x with powered := true, step := 3 }, 7, true, false, true,
    by decide⟩

theorem wit_StartUpSteps_5 : ∃ (s : State) (_r : LoadedRegions),
    atStep 5 s = true ∧ s.mgmt.hm.installing = false ∧ s.mgmt.hm.armed = false ∧ s.mgmt.hm.failedStarts < 3 :=
  ⟨(State.reset.modStartup fun x => { x with powered := true, step := 5 }).modHm fun m => { m with failedStarts := 2 }, ⟨[], NetSettings.reset⟩,
    by decide, by decide, by decide, by decide⟩

theorem wit_StartUpSteps_6 : ∃ (s : State) (_r : LoadedRegions),
    atStep 5 s = true ∧ s.mgmt.hm.installing = false ∧ s.mgmt.hm.armed = false ∧ 3 ≤ s.mgmt.hm.failedStarts :=
  ⟨(State.reset.modStartup fun x => { x with powered := true, step := 5 }).modHm fun m => { m with failedStarts := 3 }, ⟨[], NetSettings.reset⟩,
    by decide, by decide, by decide, by decide⟩

theorem wit_StartUpSteps_7 : ∃ (s : State),
    atStep 7 s = true ∧ s.startup.seat.used = true :=
  ⟨State.reset.modStartup fun x => { x with powered := true, step := 7, seat := { Pin.open_ with used := true } },
    by decide, by decide⟩

theorem wit_StartUpSteps_8 : ∃ (s : State) (l : List Nat),
    atStep 7 s = true ∧ s.startup.holdDone = true ∧ s.bezel.channels.length = 48 ∧ s.grade ≤ 4 ∧ (∀ ch, ch < channelCount s.grade → l.getD ch 5 ≤ 4) :=
  ⟨State.reset.modStartup fun x => { x with powered := true, step := 7, holdDone := true }, List.replicate 48 4,
    by decide, by decide, by decide, by decide, by decide⟩

theorem wit_StartUpSteps_9 : ∃ (s : State),
    atStep 8 s = true ∧ s.startup.counting = false :=
  ⟨State.reset.modStartup fun x => { x with powered := true, step := 8 },
    by decide, by decide⟩

theorem wit_StartUpSteps_10 : ∃ (s : State),
    atStep 8 s = true ∧ s.startup.counting = true ∧ 1024 ≤ s.bead :=
  ⟨{ State.reset.modStartup fun x => { x with powered := true, step := 8, counting := true } with bead := 1024 },
    by decide, by decide, by decide⟩

theorem wit_ModuleReady_1 : ∃ (s : State),
    atStep 9 s = true ∧ s.startup.facetsReleased = true ∧ enoughFacets s = true :=
  ⟨{ State.reset.modStartup fun x => { x with powered := true, step := 9, facetsReleased := true } with spares := List.replicate 4 { SpareDie.reset with retired := List.range 16 } },
    by decide, by decide, by decide⟩

theorem wit_ModuleReady_2 : ∃ (s : State) (p : Nat),
    atStep 9 s = true ∧ s.startup.facetsReleased = true ∧ p / 272 < settingDies s.grade ∧ p / 272 < s.spares.length :=
  ⟨State.reset.modStartup fun x => { x with powered := true, step := 9, facetsReleased := true }, 1087,
    by decide, by decide, by decide, by decide⟩

theorem wit_ModuleReady_3 : ∃ (s : State) (_ws : Settings) (_e : Nat),
    atStep 11 s = true :=
  ⟨State.reset.modStartup fun x => { x with powered := true, step := 11 }, [], 20000000,
    by decide⟩

theorem wit_PinsAndLinks_1 : ∃ (s : State) (b : Bool),
    5 ≤ s.startup.step ∧ s.startup.counting = true ∧ s.startup.seat.filtered ≠ b ∧ s.startup.seat.chatter = false ∧ s.startup.seat.changes.length < 16 :=
  ⟨up.modStartup fun x => { x with step := 5, seat := { Pin.open_ with changes := List.replicate 15 0 } }, true,
    by decide, by decide, by decide, by decide, by decide⟩

theorem wit_PinsAndLinks_2 : ∃ (s : State) (b : Bool),
    5 ≤ s.startup.step ∧ s.startup.counting = true ∧ s.startup.cool.filtered ≠ b ∧ s.startup.cool.chatter = false ∧ s.startup.cool.changes.length < 16 :=
  ⟨up.modStartup fun x => { x with step := 5, cool := { Pin.open_ with changes := List.replicate 15 0 } }, true,
    by decide, by decide, by decide, by decide, by decide⟩

theorem wit_PinsAndLinks_3 : ∃ (s : State) (b : Bool),
    5 ≤ s.startup.step ∧ s.startup.counting = true ∧ s.startup.quiesce.filtered ≠ b ∧ s.startup.quiesce.chatter = false ∧ s.startup.quiesce.changes.length < 16 :=
  ⟨up.modStartup fun x => { x with step := 5, quiesce := { Pin.open_ with changes := List.replicate 15 0 } }, true,
    by decide, by decide, by decide, by decide, by decide⟩

theorem wit_PinsAndLinks_4 : ∃ (s : State) (b : Bool) (x : Nat) (r : List Nat),
    5 ≤ s.startup.step ∧ s.startup.quiesce.filtered ≠ b ∧ s.startup.quiesce.chatter = false ∧ s.startup.quiesce.changes = x :: r ∧ r.length = 15 ∧ (∀ y ∈ x :: r, s.bead < y + 25000000) :=
  ⟨{ up.modStartup fun x => { x with step := 5, quiesce := { Pin.open_ with changes := List.replicate 16 0 } } with bead := 24999999 }, true, 0, List.replicate 15 0,
    by decide, by decide, by decide, by decide, by decide, by decide⟩

theorem wit_PinsAndLinks_5 : ∃ (s : State) (n : PinName),
    (pinOf s.startup n).chatter = true ∧ (pinOf s.startup n).changes.headD 0 + 250000000 ≤ s.bead ∧ s.startup.counting = true :=
  ⟨{ up.modStartup fun x => { x with quiesce := { Pin.open_ with chatter := true } } with bead := 250000000 }, .quiesce,
    by decide, by decide, by decide⟩

theorem wit_PinsAndLinks_6 : ∃ (s : State) (v : BitVec 3),
    s.startup.straps ≠ v ∧ 5 ≤ s.startup.step :=
  ⟨up.modStartup fun x => { x with step := 5 }, 0,
    by decide, by decide⟩

theorem wit_PinsAndLinks_7 : ∃ (s : State),
    7 ≤ s.startup.step :=
  ⟨up.modStartup fun x => { x with step := 7 },
    by decide⟩

theorem wit_PinsAndLinks_8 : ∃ (s : State),
    s.ports.linkUp = true :=
  ⟨up,
    by decide⟩

theorem wit_ResetsKeep_1 : ∃ (s : State) (b : Nat),
    s.mgmt.resetDue = some b ∧ b ≤ s.bead :=
  ⟨up.modMgmt fun m => { m with resetDue := some 0 }, 0,
    by decide, by decide⟩

theorem wit_ResetsKeep_2 : ∃ (s : State) (b : Nat),
    s.mgmt.resetDue = some b ∧ s.bead < b ∧ s.startup.counting = true :=
  ⟨up.modMgmt fun m => { m with resetDue := some (2 ^ 40) }, 2 ^ 40,
    by decide, by decide, by decide⟩

set_option maxRecDepth 20000 in
theorem wit_IdleAndCells_1 : ∃ (s : State) (u : UnitNo) (i : Issue),
    begun s u i ∧ i.cue = .idle :=
  ⟨one 0 .idle, 0, issued .idle,
    by unfold begun; decide, by decide⟩

set_option maxRecDepth 20000 in
theorem wit_IdleAndCells_2 : ∃ (s : State) (u : UnitNo) (i : Issue) (l : BitVec 4),
    begun s u i ∧ i.cue = .idleLoad l :=
  ⟨one 0xB000 (.idleLoad 15), 0xB000, issued (.idleLoad 15), 15,
    by unfold begun; decide, by decide⟩

set_option maxRecDepth 20000 in
theorem wit_IdleAndCells_3 : ∃ (s : State) (u : UnitNo) (i : Issue),
    begun s u i ∧ i.cue = .clear :=
  ⟨one 0 .clear, 0, issued .clear,
    by unfold begun; decide, by decide⟩

set_option maxRecDepth 20000 in
theorem wit_IdleAndCells_4 : ∃ (s : State) (u : UnitNo) (i : Issue) (f : RoundFields) (fmt : Fmt) (kd ks : Nat),
    begun s u i ∧ i.cue = .round f ∧ roundFmt f.fmtOut.toNat = some fmt ∧ ownKey s i.ctx (unitIdx u) (issueAddr s i f.dBase.toNat f.dStr.toNat) (32 * elemBytes fmt 32) = some kd ∧ ownKey s i.ctx (unitIdx u) (issueAddr s i f.sBase.toNat f.sStr.toNat) 4 = some ks :=
  ⟨one 0 (.round fRound), 0, issued (.round fRound), fRound, .int4, 2 ^ 48, 2 ^ 48 + 0x3FFFC,
    by unfold begun; decide, by decide, by decide, by decide, by decide⟩

set_option maxRecDepth 20000 in
theorem wit_IdleAndCells_5 : ∃ (s : State) (u : UnitNo) (i : Issue) (f : LsumOutFields) (kd : Nat),
    begun s u i ∧ i.cue = .lsumOut f ∧ ownKey s i.ctx (unitIdx u) (issueAddr s i f.dBase.toNat f.dStr.toNat) 16384 = some kd :=
  ⟨one 0 (.lsumOut ⟨0x3C000, 0, 1, 0⟩), 0, issued (.lsumOut ⟨0x3C000, 0, 1, 0⟩), ⟨0x3C000, 0, 1, 0⟩, 2 ^ 48 + 0x3C000,
    by unfold begun; decide, by decide, by decide⟩

set_option maxRecDepth 20000 in
theorem wit_IdleAndCells_6 : ∃ (s : State) (u : UnitNo) (i : Issue) (f : LsumInFields) (ks : Nat),
    begun s u i ∧ i.cue = .lsumIn f ∧ s.bad = [] ∧ (s.cells.get (unitIdx u)).length = 1024 ∧ ownKey s i.ctx (unitIdx u) (issueAddr s i f.sBase.toNat f.sStr.toNat) 16384 = some ks :=
  ⟨one 0 (.lsumIn ⟨0, 0x3C000, 0, 1, 0⟩), 0, issued (.lsumIn ⟨0, 0x3C000, 0, 1, 0⟩), ⟨0, 0x3C000, 0, 1, 0⟩, 2 ^ 48 + 0x3C000,
    by unfold begun; decide, by decide, by decide, by decide, by decide⟩

set_option maxRecDepth 20000 in
theorem wit_MacAccumulates_1 : ∃ (s : State) (u : UnitNo) (i : Issue) (f : MacFields) (fa fb : Fmt) (k ka kb : Nat),
    begun s u i ∧ i.cue = .mac f ∧ macFmt f.fmtA.toNat = some fa ∧ macFmt f.fmtB.toNat = some fb ∧ macDepth fa fb = some k ∧ s.bad = [] ∧ (s.cells.get (unitIdx u)).length = 1024 ∧ ownKey s i.ctx (unitIdx u) (issueAddr s i f.aBase.toNat f.aStr.toNat) (elemBytes fa (32 * k)) = some ka ∧ ownKey s i.ctx (unitIdx u) (issueAddr s i f.bBase.toNat f.bStr.toNat) (elemBytes fb (32 * k)) = some kb :=
  ⟨one 0 (.mac fMac), 0, issued (.mac fMac), fMac, .int8, .int8, 16, 2 ^ 48, 2 ^ 48,
    by unfold begun; decide, by decide, by decide, by decide, by decide, by decide, by decide, by decide, by decide⟩

set_option maxRecDepth 20000 in
theorem wit_MacAccumulates_2 : ∃ (s : State) (u : UnitNo) (i : Issue) (f : MacFields) (fa fb : Fmt) (k ka kb : Nat),
    begun s u i ∧ i.cue = .macClr f ∧ macFmt f.fmtA.toNat = some fa ∧ macFmt f.fmtB.toNat = some fb ∧ macDepth fa fb = some k ∧ s.bad = [] ∧ ownKey s i.ctx (unitIdx u) (issueAddr s i f.aBase.toNat f.aStr.toNat) (elemBytes fa (32 * k)) = some ka ∧ ownKey s i.ctx (unitIdx u) (issueAddr s i f.bBase.toNat f.bStr.toNat) (elemBytes fb (32 * k)) = some kb :=
  ⟨one 0 (.macClr fMac), 0, issued (.macClr fMac), fMac, .int8, .int8, 16, 2 ^ 48, 2 ^ 48,
    by unfold begun; decide, by decide, by decide, by decide, by decide, by decide, by decide, by decide⟩

set_option maxRecDepth 20000 in
theorem wit_MoversAndSlots_1 : ∃ (s : State) (u : UnitNo) (i : Issue) (f : MoveFields) (so dO d : Nat) (ls ld : List (Nat × Nat)),
    begun s u i ∧ i.cue = .copy f ∧ s.bad = [] ∧ issueAddr s i (f.src.toNat % 2 ^ 34) f.srcStr.toNat = so ∧ issueAddr s i (f.dst.toNat % 2 ^ 34) f.dstStr.toNat = dO ∧ (∀ o, moveEnd s i.ctx (f.src.toNat / 2 ^ 34) so false ≠ some (3, o)) ∧ (∀ o, moveEnd s i.ctx (f.dst.toNat / 2 ^ 34) dO true ≠ some (3, o)) ∧ locate s i.ctx (f.src.toNat / 2 ^ 34) so (moveBytes f) false = some ls ∧ locate s i.ctx (f.dst.toNat / 2 ^ 34) dO (readPieces s ls).length true = some ld ∧ (d = (if sameDie u [moveEnd s i.ctx (f.dst.toNat / 2 ^ 34) dO true, moveEnd s i.ctx (f.src.toNat / 2 ^ 34) so false] then 2 else 4)) :=
  ⟨one 0x4000 (.copy fMove), 0x4000, issued (.copy fMove), fMove, 0, 0x20000, 2, (List.range 32).map fun k => (2 ^ 48 + 32 * k, 32), (List.range 32).map fun k => (2 ^ 48 + 0x20000 + 32 * k, 32),
    by unfold begun; decide, by decide, by decide, by decide, by decide, fun o => by rw [show moveEnd (one 0x4000 (.copy fMove)) (issued (.copy fMove)).ctx (fMove.src.toNat / 2 ^ 34) ((0 : Nat) : Int) false = some (1, 0) from by decide]; simp, fun o => by rw [show moveEnd (one 0x4000 (.copy fMove)) (issued (.copy fMove)).ctx (fMove.dst.toNat / 2 ^ 34) ((0x20000 : Nat) : Int) true = some (1, 0x20000) from by decide]; simp, by decide, by decide, by decide⟩

set_option maxRecDepth 20000 in
theorem wit_MoversAndSlots_2 : ∃ (s : State) (u : UnitNo) (i : Issue) (f : MoveFields) (so dO off : Nat) (e : Nat × Nat) (ls : List (Nat × Nat)),
    begun s u i ∧ i.cue = .copy f ∧ s.bad = [] ∧ issueAddr s i (f.src.toNat % 2 ^ 34) f.srcStr.toNat = so ∧ issueAddr s i (f.dst.toNat % 2 ^ 34) f.dstStr.toNat = dO ∧ (∀ o, moveEnd s i.ctx (f.src.toNat / 2 ^ 34) so false ≠ some (3, o)) ∧ locate s i.ctx (f.src.toNat / 2 ^ 34) so (moveBytes f) false = some ls ∧ moveEnd s i.ctx (f.dst.toNat / 2 ^ 34) dO true = some (3, off) ∧ moveEnd s i.ctx (f.dst.toNat / 2 ^ 34) ((dO : Int) + (readPieces s ls).length - 1) true = some e :=
  ⟨(one 0x4000 (.copy { fMove with dst := 0x801000000, len := 0 })).modCtx (fun x => { x with segs := twoSegs ++ [(2, { rd := true, wr := true, fab := false, space := 3, stripe := 0, chBase := 0, size := 65536, base := 0, group := 0 })] }) 1, 0x4000, issued (.copy { fMove with dst := 0x801000000, len := 0 }), { fMove with dst := 0x801000000, len := 0 }, 0, 0x1000000, 0x1000000, (3, 0x100001F), [(2 ^ 48, 32)],
    by unfold begun; decide, by decide, by decide, by decide, by decide, fun o => by rw [show moveEnd ((one 0x4000 (.copy { fMove with dst := 0x801000000, len := 0 })).modCtx (fun x => { x with segs := twoSegs ++ [(2, { rd := true, wr := true, fab := false, space := 3, stripe := 0, chBase := 0, size := 65536, base := 0, group := 0 })] }) 1) (issued (.copy { fMove with dst := 0x801000000, len := 0 })).ctx (({ fMove with dst := 0x801000000, len := 0 } : MoveFields).src.toNat / 2 ^ 34) ((0 : Nat) : Int) false = some (1, 0) from by decide]; simp, by decide, by decide, by decide⟩

set_option maxRecDepth 20000 in
theorem wit_MoversAndSlots_3 : ∃ (s : State) (u : UnitNo) (i : Issue) (f : MoveFields) (dO d : Nat) (ld : List (Nat × Nat)),
    begun s u i ∧ i.cue = .fill f ∧ issueAddr s i (f.dst.toNat % 2 ^ 34) f.dstStr.toNat = dO ∧ (∀ o, moveEnd s i.ctx (f.dst.toNat / 2 ^ 34) dO true ≠ some (3, o)) ∧ locate s i.ctx (f.dst.toNat / 2 ^ 34) dO (fillBytes (BitVec.ofNat 32 f.src.toNat) (moveBytes f)).length true = some ld ∧ (d = (if sameDie u [moveEnd s i.ctx (f.dst.toNat / 2 ^ 34) dO true] then 2 else 4)) :=
  ⟨one 0x4000 (.fill fMove), 0x4000, issued (.fill fMove), fMove, 0x20000, 2, (List.range 32).map fun k => (2 ^ 48 + 0x20000 + 32 * k, 32),
    by unfold begun; decide, by decide, by decide, fun o => by rw [show moveEnd (one 0x4000 (.fill fMove)) (issued (.fill fMove)).ctx (fMove.dst.toNat / 2 ^ 34) ((0x20000 : Nat) : Int) true = some (1, 0x20000) from by decide]; simp, by decide, by decide⟩

set_option maxRecDepth 20000 in
theorem wit_MoversAndSlots_4 : ∃ (s : State) (u : UnitNo) (i : Issue) (f : MoveFields) (dO off : Nat) (e : Nat × Nat),
    begun s u i ∧ i.cue = .fill f ∧ issueAddr s i (f.dst.toNat % 2 ^ 34) f.dstStr.toNat = dO ∧ moveEnd s i.ctx (f.dst.toNat / 2 ^ 34) dO true = some (3, off) ∧ moveEnd s i.ctx (f.dst.toNat / 2 ^ 34) ((dO : Int) + (fillBytes (BitVec.ofNat 32 f.src.toNat) (moveBytes f)).length - 1) true = some e :=
  ⟨(one 0x4000 (.fill { fMove with dst := 0x801000000, len := 0 })).modCtx (fun x => { x with segs := twoSegs ++ [(2, { rd := true, wr := true, fab := false, space := 3, stripe := 0, chBase := 0, size := 65536, base := 0, group := 0 })] }) 1, 0x4000, issued (.fill { fMove with dst := 0x801000000, len := 0 }), { fMove with dst := 0x801000000, len := 0 }, 0x1000000, 0x1000000, (3, 0x100001F),
    by unfold begun; decide, by decide, by decide, by decide, by decide⟩

set_option maxRecDepth 20000 in
theorem wit_MoversAndSlots_5 : ∃ (s : State) (u : UnitNo) (i : Issue) (f : MemFields) (so ch l : Nat) (ld : List (Nat × Nat)),
    begun s u i ∧ i.cue = .read f ∧ cueLine s u i f false = some (ch, l) ∧ stopped s ch = false ∧ (checkLine s ch l).2.2 = false ∧ claspSeg s i.ctx (f.saddr.toNat / 2 ^ 34) = false ∧ issueAddr s i (f.saddr.toNat % 2 ^ 34) f.sStr.toNat = so ∧ locate s i.ctx (f.saddr.toNat / 2 ^ 34) so (xts false (keyPair s i.ctx).1 (keyPair s i.ctx).2 (lineKey ch l) (checkLine s ch l).1).length true = some ld :=
  ⟨one 0x5000 (.read fMem), 0x5000, issued (.read fMem), fMem, 0, 0, 15, (List.range 32).map fun k => (2 ^ 48 + 32 * k, 32),
    by unfold begun; decide, by decide, by decide, by decide, by decide, by decide, by decide, by decide⟩

set_option maxRecDepth 20000 in
theorem wit_MoversAndSlots_6 : ∃ (s : State) (u : UnitNo) (i : Issue) (f : MemFields) (ch l : Nat),
    begun s u i ∧ i.cue = .read f ∧ cueLine s u i f false = some (ch, l) ∧ stopped s ch = false ∧ (checkLine s ch l).2.2 = true :=
  ⟨{ one 0x5000 (.read fMem) with lp4x := [(15360, 1), (15361, 2), (15362, 4)] }, 0x5000, issued (.read fMem), fMem, 0, 15,
    by unfold begun; decide, by decide, by decide, by decide, by decide⟩

set_option maxRecDepth 20000 in
theorem wit_MoversAndSlots_7 : ∃ (s : State) (u : UnitNo) (i : Issue) (f : MemFields) (so ch l : Nat) (ls : List (Nat × Nat)),
    begun s u i ∧ i.cue = .write f ∧ s.bad = [] ∧ cueLine s u i f true = some (ch, l) ∧ stopped s ch = false ∧ claspSeg s i.ctx (f.saddr.toNat / 2 ^ 34) = false ∧ issueAddr s i (f.saddr.toNat % 2 ^ 34) f.sStr.toNat = so ∧ locate s i.ctx (f.saddr.toNat / 2 ^ 34) so 1024 false = some ls :=
  ⟨one 0x5000 (.write fMem), 0x5000, issued (.write fMem), fMem, 0, 0, 15, (List.range 32).map fun k => (2 ^ 48 + 32 * k, 32),
    by unfold begun; decide, by decide, by decide, by decide, by decide, by decide, by decide, by decide⟩

set_option maxRecDepth 20000 in
theorem wit_VectorLanes_1 : ∃ (op : VOp) (s : State) (u : UnitNo) (i : Issue) (f : VecFields) (ka kd : Nat),
    begun s u i ∧ i.cue = .vec op f ∧ s.bad = [] ∧ ownKey s i.ctx (unitIdx u) (issueAddr s i (4 * f.aOff.toNat) f.aStr.toNat) (elemBytes (vopIn op) (32 * (f.n.toNat + 1))) = some ka ∧ ownKey s i.ctx (unitIdx u) (issueAddr s i (4 * f.dOff.toNat) f.dStr.toNat) (vopBytes op f.n.toNat) = some kd :=
  ⟨.fma, one 0x1000 (.vec .fma fVec), 0x1000, issued (.vec .fma fVec), fVec, 2 ^ 48, 2 ^ 48,
    by unfold begun; decide, by decide, by decide, by decide, by decide⟩

set_option maxRecDepth 20000 in
theorem wit_ControlCues_1 : ∃ (s : State) (u : UnitNo) (i : Issue) (b : BitVec 11) (n : BitVec 16),
    begun s u i ∧ i.cue = .loop b n ∧ assoc u s.engines = none :=
  ⟨one 0x9000 (.loop 2047 65535), 0x9000, issued (.loop 2047 65535), 2047, 65535,
    by unfold begun; decide, by decide, by decide⟩

set_option maxRecDepth 20000 in
theorem wit_ControlCues_2 : ∃ (s : State) (u : UnitNo) (i : Issue) (a b : BitVec 8) (p : BitVec 1) (r : BitVec 3) (n : BitVec 5),
    begun s u i ∧ i.cue = .arms a b p r n :=
  ⟨one 0x9000 (.arms 255 255 1 7 31), 0x9000, issued (.arms 255 255 1 7 31), 255, 255, 1, 7, 31,
    by unfold begun; decide, by decide⟩

set_option maxRecDepth 20000 in
theorem wit_ControlCues_3 : ∃ (s : State) (u : UnitNo) (i : Issue) (r : BitVec 3) (o : BitVec 20) (x : BitVec 6) (b : BitVec 1) (l : BitVec 8) (k : Nat),
    begun s u i ∧ i.cue = .mload r o x b l ∧ (unitKind u = some .facet ∨ unitKind u = some .edge) ∧ (s.seq u).masks.length = 8 ∧ ownKey s i.ctx (unitIdx u) (issueAddr s i o.toNat x.toNat) 4 = some k :=
  ⟨one 0 (.mload 7 0x3FFFC 0 1 255), 0, issued (.mload 7 0x3FFFC 0 1 255), 7, 0x3FFFC, 0, 1, 255, 2 ^ 48 + 0x3FFFC,
    by unfold begun; decide, by decide, by decide, by decide, by decide⟩

set_option maxRecDepth 20000 in
theorem wit_ControlCues_4 : ∃ (s : State) (u : UnitNo) (i : Issue) (r : BitVec 3) (o : BitVec 20) (x : BitVec 6) (b : BitVec 1) (l : BitVec 8) (k : UnitKind) (a : Nat),
    begun s u i ∧ i.cue = .mload r o x b l ∧ unitKind u = some k ∧ k ≠ .facet ∧ k ≠ .edge ∧ (s.seq u).masks.length = 8 ∧ issueAddr s i o.toNat x.toNat = a ∧ (a + 4 ≤ (if hasMailbox k then 256 else storeBytes k)) :=
  ⟨one 0x7000 (.mload 7 0x100 0 1 255), 0x7000, issued (.mload 7 0x100 0 1 255), 7, 0x100, 0, 1, 255, .charm, 0x100,
    by unfold begun; decide, by decide, by decide, by decide, by decide, by decide, by decide, by decide⟩

set_option maxRecDepth 20000 in
theorem wit_ControlCues_5 : ∃ (s : State) (u : UnitNo) (i : Issue) (d a b : BitVec 3) (f : BitVec 2),
    begun s u i ∧ i.cue = .mlogic d a b f ∧ (s.seq u).masks.length = 8 :=
  ⟨one 0 (.mlogic 7 6 5 3), 0, issued (.mlogic 7 6 5 3), 7, 6, 5, 3,
    by unfold begun; decide, by decide, by decide⟩

set_option maxRecDepth 20000 in
theorem wit_ControlCues_6 : ∃ (s : State) (u : UnitNo) (i : Issue) (r : BitVec 3) (x : Word),
    begun s u i ∧ i.cue = .mset r x ∧ (s.seq u).masks.length = 8 :=
  ⟨one 0 (.mset 7 9), 0, issued (.mset 7 9), 7, 9,
    by unfold begun; decide, by decide, by decide⟩

set_option maxRecDepth 20000 in
theorem wit_EngineSteps_1 : ∃ (s : State) (u : UnitNo) (i : Issue) (f : EngFields) (o : Nat) (x : UnitKind × Nat × Instr),
    x ∈ engCommands u ∧ begun s u i ∧ i.cue = .eng f ∧ unitKind u = some x.1 ∧ f.eop.toNat = x.2.1 ∧ issueAddr s i f.desc.toNat f.descStr.toNat = o ∧ o + descBytes x.1 ≤ storeBytes x.1 :=
  ⟨one 0x3000 (.eng (fEng 2)), 0x3000, issued (.eng (fEng 2)), fEng 2, 0, (.cabochon, 2, .reform 0x3000),
    by decide, by unfold begun; decide, by decide, by decide, by decide, by decide, by decide⟩

set_option maxRecDepth 20000 in
theorem wit_EngineSteps_2 : ∃ (s : State) (u : UnitNo) (i : Issue) (f : EngFields) (st : EngStep),
    begun s u i ∧ i.cue = .eng f ∧ f.eop = 0x3F ∧ s.bad = [] ∧ assoc u s.engines = some st ∧ st.cut = false ∧ 1 ≤ st.len ∧ s.bead + 1 = st.began + st.len ∧ st.plan = [] :=
  ⟨{ one 0x7000 (.eng (fEng 63)) with engines := [(0x7000, engStep 1)] }, 0x7000, issued (.eng (fEng 63)), fEng 63, engStep 1,
    by unfold begun; decide, by decide, by decide, by decide, by decide, by decide, by decide, by decide, by decide⟩

set_option maxRecDepth 20000 in
theorem wit_EngineSteps_3 : ∃ (s : State) (u : UnitNo) (i : Issue) (f : EngFields),
    begun s u i ∧ i.cue = .eng f ∧ f.eop = 0x3F ∧ assoc u s.engines = none :=
  ⟨one 0x3000 (.eng (fEng 63)), 0x3000, issued (.eng (fEng 63)), fEng 63,
    by unfold begun; decide, by decide, by decide, by decide⟩

set_option maxRecDepth 20000 in
theorem wit_PacketsSent_1 : ∃ (s : State) (u : UnitNo) (i : Issue) (f : PortFields) (body : Bytes) (sp off : Nat) (x : Nat × Instr),
    x ∈ [(1, Instr.fsend u), (3, .fxch u)] ∧ begun s u i ∧ i.cue = .port f ∧ unitKind u = some .fabric ∧ f.pop.toNat = x.1 ∧ portRead s u (portOff s i f) (portBytes f) = some body ∧ 0 ≤ issueAddr s i (f.raddr.toNat % 2 ^ 34) f.rstr.toNat ∧ s.bad = [] ∧ takesPart s = true ∧ translateRemote s i.ctx (f.raddr.toNat / 2 ^ 34) (issueAddr s i (f.raddr.toNat % 2 ^ 34) f.rstr.toNat).toNat = some (sp, off) ∧ s.held i.ctx = false ∧ s.pair.regs.role ≠ .joining :=
  ⟨inSea (one 0xA003 (.port (fPort 3 0 5))), 0xA003, issued (.port (fPort 3 0 5)), (fPort 3 0 5), zeros 32, 1, 0, (3, .fxch 0xA003),
    by decide, by unfold begun; decide, by decide, by decide, by decide, by decide, by decide, by decide, by decide, by decide, by decide, by decide⟩

set_option maxRecDepth 20000 in
theorem wit_PacketsSent_2 : ∃ (s : State) (u : UnitNo) (i : Issue) (f : PortFields) (body : Bytes) (x : Nat × Nat),
    begun s u i ∧ i.cue = .port f ∧ unitKind u = some .fabric ∧ f.pop.toNat = 1 ∧ portRead s u (portOff s i f) (portBytes f) = some body ∧ 0 ≤ issueAddr s i (f.raddr.toNat % 2 ^ 34) f.rstr.toNat ∧ s.bad = [] ∧ translateRemote s i.ctx (f.raddr.toNat / 2 ^ 34) (issueAddr s i (f.raddr.toNat % 2 ^ 34) f.rstr.toNat).toNat = some x ∧ (s.held i.ctx = true ∨ s.pair.regs.role = .joining ∨ takesPart s = false) :=
  ⟨one 0xA003 (.port (fPort 1 0 0)), 0xA003, issued (.port (fPort 1 0 0)), (fPort 1 0 0), zeros 32, (1, 0),
    by unfold begun; decide, by decide, by decide, by decide, by decide, by decide, by decide, by decide, by decide⟩

set_option maxRecDepth 20000 in
theorem wit_PacketsReceived_1 : ∃ (s : State) (u : UnitNo) (i : Issue) (f : PortFields) (h : Nat × HeldPacket),
    begun s u i ∧ i.cue = .port f ∧ unitKind u = some .fabric ∧ f.pop.toNat = 2 ∧ pktChoose (pktCands s u (portOff s i f) (portBytes f) (f.param.toNat % 4096)) = some h ∧ 0 ≤ portOff s i f ∧ portOff s i f + portBytes f ≤ 262144 :=
  ⟨(one 0xA000 (.port (fPort 2 0 0xFFF))).modFabric fun x => { x with held := [(0, ⟨0, packet 0, 0⟩)] }, 0xA000, issued (.port (fPort 2 0 0xFFF)), (fPort 2 0 0xFFF), (0, ⟨0, packet 0, 0⟩),
    by unfold begun; decide, by decide, by decide, by decide, by decide, by decide, by decide⟩

set_option maxRecDepth 20000 in
theorem wit_PacketsReceived_2 : ∃ (s : State) (u : UnitNo) (i : Issue) (f : PortFields) (o : Int) (h : Nat × HeldPacket),
    begun s u i ∧ i.cue = .port f ∧ unitKind u = some .fabric ∧ f.pop.toNat = 3 ∧ o = portOff s i f + 0x20000 ∧ s.bad = [] ∧ pktChoose (pktCands s u o (portBytes f) (f.param.toNat % 4096)) = some h ∧ 0 ≤ o ∧ o + portBytes f ≤ 262144 :=
  ⟨(one 0xA000 (.port (fPort 3 0 0xFFF))).modFabric fun x => { x with held := [(0, ⟨0, packet 0x20000, 0⟩)] }, 0xA000, issued (.port (fPort 3 0 0xFFF)), (fPort 3 0 0xFFF), 0x20000, (0, ⟨0, packet 0x20000, 0⟩),
    by unfold begun; decide, by decide, by decide, by decide, by decide, by decide, by decide, by decide, by decide⟩

set_option maxRecDepth 20000 in
theorem wit_PacketsReceived_3 : ∃ (s : State) (u : UnitNo) (i : Issue) (f : PortFields) (o : Int) (x : Nat × Int × Instr),
    x ∈ [(2, (0 : Int), Instr.frecv u), (3, 0x20000, .fxch u)] ∧ begun s u i ∧ i.cue = .port f ∧ unitKind u = some .fabric ∧ f.pop.toNat = x.1 ∧ o = portOff s i f + x.2.1 ∧ s.bad = [] ∧ (∀ g ∈ s.fabric.held, pktCandidate s u o (portBytes f) (f.param.toNat % 4096) g = false) :=
  ⟨one 0xA000 (.port (fPort 3 0 0xFFF)), 0xA000, issued (.port (fPort 3 0 0xFFF)), (fPort 3 0 0xFFF), 0x20000, (3, 0x20000, .fxch 0xA000),
    by decide, by unfold begun; decide, by decide, by decide, by decide, by decide, by decide, by decide⟩

theorem wit_PacketsReceived_4 : ∃ (s : State) (port _tr due : Nat) (p : Bytes),
    port < 4 ∧ takesPart s = true ∧ s.beadOf (pktPeriod p) (pktBead p) + (fabLatency s : Int) = due ∧ s.bead < due ∧ packetsWaiting s port < 64 :=
  ⟨inSea up, 3, 0, 32, packet 0,
    by decide, by decide, by decide, by decide, by decide⟩

theorem wit_PacketsReceived_5 : ∃ (s : State) (port _tr : Nat) (p : Bytes),
    port < 4 ∧ takesPart s = true ∧ s.beadOf (pktPeriod p) (pktBead p) + (fabLatency s : Int) ≤ s.bead :=
  ⟨{ inSea up with bead := 32, beadInRot := 32 }, 3, 0, packet 0,
    by decide, by decide, by decide⟩

theorem wit_PacketsReceived_6 : ∃ (s : State) (port _tr : Nat) (p : Bytes),
    port < 4 ∧ takesPart s = true ∧ (s.bead : Int) < s.beadOf (pktPeriod p) (pktBead p) + (fabLatency s : Int) ∧ 64 ≤ packetsWaiting s port :=
  ⟨(inSea up).modFabric fun f => { f with held := List.replicate 64 (3, ⟨1, [], 0⟩) }, 3, 0, packet 0,
    by decide, by decide, by decide, by decide⟩

theorem wit_PacketsReceived_7 : ∃ (s : State) (port tr : Nat) (_p : Bytes),
    port < 4 ∧ takesPart s = true ∧ fabLatency s ≤ tr + 4 ∧ tr ≤ fabLatency s + 4 :=
  ⟨inSea up, 3, 36, packet 0,
    by decide, by decide, by decide, by decide⟩

set_option maxRecDepth 20000 in
theorem wit_HostPortActs_1 : ∃ (s : State) (u : UnitNo) (i : Issue) (f : PortFields) (n : Nat),
    begun s u i ∧ i.cue = .port f ∧ unitKind u = some .host ∧ f.pop.toNat = 1 ∧ i.ctx < s.rings.length ∧ 0 ≤ portOff s i f ∧ portOff s i f + portBytes f ≤ 262144 ∧ n = min (s.ring i.ctx).queue.length ((portBytes f - 32) / 64) :=
  ⟨(one 0xB000 (.port (fPort 1 31 0))).modRing (fun r => { r with queue := List.replicate 16 [1] }) 1, 0xB000, issued (.port (fPort 1 31 0)), (fPort 1 31 0), 15,
    by unfold begun; decide, by decide, by decide, by decide, by decide, by decide, by decide, by decide⟩

set_option maxRecDepth 20000 in
theorem wit_HostPortActs_2 : ∃ (s : State) (u : UnitNo) (i : Issue) (f : PortFields) (b : Bytes),
    begun s u i ∧ i.cue = .port f ∧ unitKind u = some .host ∧ f.pop.toNat = 3 ∧ s.bad = [] ∧ portRead s u (portOff s i f) 256 = some b :=
  ⟨one 0xB000 (.port (fPort 3 7 255)), 0xB000, issued (.port (fPort 3 7 255)), (fPort 3 7 255), zeros 256,
    by unfold begun; decide, by decide, by decide, by decide, by decide, by decide⟩

set_option maxRecDepth 20000 in
theorem wit_HostPortActs_3 : ∃ (s : State) (u : UnitNo) (i : Issue) (f : PortFields) (b : Bytes),
    begun s u i ∧ i.cue = .port f ∧ unitKind u = some .host ∧ f.pop.toNat = 4 ∧ s.bad = [] ∧ portRead s u (portOff s i f) 4 = some b :=
  ⟨one 0xB000 (.port (fPort 4 0 255)), 0xB000, issued (.port (fPort 4 0 255)), (fPort 4 0 255), zeros 4,
    by unfold begun; decide, by decide, by decide, by decide, by decide, by decide⟩

set_option maxRecDepth 20000 in
theorem wit_HostPortActs_4 : ∃ (s : State) (u : UnitNo) (i : Issue) (f : PortFields) (l : LiveWord),
    begun s u i ∧ i.cue = .port f ∧ unitKind u = some .host ∧ f.pop.toNat = 5 ∧ s.liveWord (f.param.toNat % 256) = l ∧ 0 ≤ portOff s i f ∧ portOff s i f + 32 ≤ 262144 :=
  ⟨one 0xB000 (.port (fPort 5 0 255)), 0xB000, issued (.port (fPort 5 0 255)), (fPort 5 0 255), ⟨0, 0, 0⟩,
    by unfold begun; decide, by decide, by decide, by decide, by decide, by decide, by decide⟩

set_option maxRecDepth 20000 in
theorem wit_HostPortActs_5 : ∃ (s : State) (u : UnitNo) (i : Issue) (f : PortFields) (b : Bytes) (lost : Bool),
    begun s u i ∧ i.cue = .port f ∧ unitKind u = some .host ∧ f.pop.toNat = 2 ∧ f.param.getLsbD 0 = true ∧ f.param.getLsbD 1 = true ∧ s.bad = [] ∧ portRead s u (portOff s i f) (portBytes f) = some b ∧ i.ctx < s.rings.length ∧ (s.ring i.ctx).gather = none ∧ leAt b 0x24 4 = b.length ∧ (b.length + (if (s.ctx i.ctx).sec.session.isSome then 16 else 0) ≤ srSlot (s.ring i.ctx).srCtl) ∧ (∀ x ∈ recordRows b, entryCancelled s i.ctx x.2 = false) ∧ recordLost s i.ctx = lost :=
  ⟨{ (one 0xB000 (.port (fPort 2 31 3))).modRing (fun r => { r with srCtl := 0x80000000 }) 1 with store := [(unitKey 0xB000 0x25, 4)] }, 0xB000, issued (.port (fPort 2 31 3)), (fPort 2 31 3), zeros 0x25 ++ [4] ++ zeros 986, false,
    by unfold begun; decide, by decide, by decide, by decide, by decide, by decide, by decide, by decide, by decide, by decide, by decide, by decide, by decide, by decide⟩

set_option maxRecDepth 20000 in
theorem wit_HostPortActs_6 : ∃ (s : State) (u : UnitNo) (i : Issue) (f : PortFields) (b : Bytes),
    begun s u i ∧ i.cue = .port f ∧ unitKind u = some .host ∧ f.pop.toNat = 2 ∧ f.param.getLsbD 0 = true ∧ f.param.getLsbD 1 = false ∧ s.bad = [] ∧ portRead s u (portOff s i f) (portBytes f) = some b ∧ i.ctx < s.rings.length ∧ (s.ring i.ctx).gather = none :=
  ⟨one 0xB000 (.port (fPort 2 31 1)), 0xB000, issued (.port (fPort 2 31 1)), (fPort 2 31 1), zeros 1024,
    by unfold begun; decide, by decide, by decide, by decide, by decide, by decide, by decide, by decide, by decide, by decide⟩

set_option maxRecDepth 20000 in
theorem wit_ClaspReceives_1 : ∃ (s : State) (p : Nat) (a : ClaspArrival),
    p < 4 ∧ s.clasps.length = 4 ∧ claspEnabled s p = true ∧ (s.clasp p).blockLock = true ∧ s.cast.replay = false ∧ frameWhole a = true ∧ frameKind a.body = true ∧ framePort a.body p = true ∧ frameNewer (s.clasp p) a.body = true ∧ framePeriod s (s.clasp p) a.body = true ∧ frameInTime a.arrTenths = true ∧ (((s.clasp p).mode = 2 ∧ (s.clasp p).state ≠ .up ∨ slipOf (s.clasp p).grid (receivePhase s (s.clasp p) a.arrTenths) = 0)) ∧ (s.clasp p).frame = none :=
  ⟨claspOn (fun c => { c with grid := 368 }) up, 3, ⟨0, lineBlocks 0 (frameBlocks trainFrame), -4096⟩,
    by decide, by decide, by decide, by decide, by decide, by decide, by decide, by decide, by decide, by decide, by decide, by decide, by decide⟩

set_option maxRecDepth 20000 in
theorem wit_ClaspReceives_2 : ∃ (s : State) (p : Nat) (a : ClaspArrival),
    p < 4 ∧ s.clasps.length = 4 ∧ claspEnabled s p = true ∧ (s.clasp p).blockLock = true ∧ s.cast.replay = false ∧ (frameWhole a = false ∨ frameKind a.body = false ∨ framePort a.body p = false ∨ frameNewer (s.clasp p) a.body = false ∨ framePeriod s (s.clasp p) a.body = false ∨ frameInTime a.arrTenths = false ∨ (¬((s.clasp p).mode = 2 ∧ (s.clasp p).state ≠ .up) ∧ slipOf (s.clasp p).grid (receivePhase s (s.clasp p) a.arrTenths) ≠ 0) ∨ (s.clasp p).frame.isSome = true) :=
  ⟨claspOn (fun c => { c with grid := 368 }) up, 3, ⟨0, lineBlocks 0 (frameBlocks trainFrame), 4097⟩,
    by decide, by decide, by decide, by decide, by decide, by decide⟩

theorem wit_ClaspReceives_3 : ∃ (s : State) (p : Nat) (h : List (BitVec 2)),
    p < 4 ∧ s.clasps.length = 4 ∧ claspEnabled s p = true ∧ 64 ≤ h.length ∧ ((∀ x ∈ h.take 64, x = 1 ∨ x = 2)) :=
  ⟨claspOn id up, 3, List.replicate 64 2,
    by decide, by decide, by decide, by decide, by decide⟩

theorem wit_ClaspReceives_4 : ∃ (s : State) (p : Nat) (h : List (BitVec 2)),
    p < 4 ∧ s.clasps.length = 4 ∧ 16 ≤ ((h.take 64).filter fun x => decide (x ≠ 1 ∧ x ≠ 2)).length :=
  ⟨claspOn id up, 3, List.replicate 64 0,
    by decide, by decide, by decide⟩

theorem wit_ClaspLatches_1 : ∃ (s : State) (p : Nat) (good : Bool) (g b : Nat) (flap : Bool) (st : ClaspState),
    p < 4 ∧ s.clasps.length = 4 ∧ claspEnabled s p = true ∧ (s.clasp p).latched = false ∧ s.beadInRot = (s.clasp p).due + 1 ∧ s.cast.replay = false ∧ good = ((s.clasp p).frame.isSome && (s.clasp p).blockLock && !(decide ((s.clasp p).mode = 2 ∧ 2 ≤ (s.clasp p).offWindows) && !(s.clasp p).lockSrc)) ∧ (g = (if good then min 64 ((s.clasp p).goodRun + 1) else 0)) ∧ (b = (if good then 0 else min 4 ((s.clasp p).badRun + 1))) ∧ flap = decide (8 ≤ ((s.clasp p).transitions.filter fun t => decide ((s.clasp p).periods + 1 < t + 60000 * s.rate)).length) ∧ (st = (match (s.clasp p).state with | .disabled => .training | .training => if 64 ≤ g ∧ (s.clasp p).alignFailed = false then if flap then .held else .up else .training | .up => if 4 ≤ b then if flap then .held else .training else .up | .held => if (s.clasp p).releaseDue then .training else .held)) :=
  ⟨at_ 46 (claspOn (fun c => { c with frame := some (trainFrame, 0), goodRun := 63 }) up), 3, true, 64, 0, false, .up,
    by decide, by decide, by decide, by decide, by decide, by decide, by decide, by decide, by decide, by decide, by decide⟩

set_option maxRecDepth 20000 in
theorem wit_ClaspLatches_2 : ∃ (s : State) (u : UnitNo) (i : Issue) (f : PortFields),
    begun s u i ∧ i.cue = .port f ∧ unitKind u = some .clasp ∧ f.pop.toNat = 1 ∧ unitIdx u < s.clasps.length ∧ (s.clasp (unitIdx u)).latched = true ∧ 0 ≤ portOff s i f ∧ portOff s i f + 2080 ≤ 262144 :=
  ⟨(one 0x9003 (.port (fPort 1 0 0))).modClasp (fun c => { c with latched := true }) 3, 0x9003, issued (.port (fPort 1 0 0)), (fPort 1 0 0),
    by unfold begun; decide, by decide, by decide, by decide, by decide, by decide, by decide, by decide⟩

set_option maxRecDepth 20000 in
theorem wit_ClaspLatches_3 : ∃ (s : State) (u : UnitNo) (i : Issue) (f : PortFields) (n : Nat),
    begun s u i ∧ i.cue = .port f ∧ unitKind u = some .clasp ∧ f.pop.toNat = 2 ∧ s.bad = [] ∧ unitIdx u < s.clasps.length ∧ n = min 64 (f.param.toNat % 128) ∧ 0 ≤ portOff s i f ∧ portOff s i f + 16 * n ≤ 262144 :=
  ⟨one 0x9003 (.port (fPort 2 31 64)), 0x9003, issued (.port (fPort 2 31 64)), (fPort 2 31 64), 64,
    by unfold begun; decide, by decide, by decide, by decide, by decide, by decide, by decide, by decide, by decide⟩

theorem wit_ClaspSends_1 : ∃ (s r : State) (p : Nat) (w : Bool),
    decisionDue p s = true ∧ settle s = r ∧ decisionDue p r = true ∧ (r.seq (unitNo .clasp p)).issue = none ∧ r.clasps.length = 4 ∧ (r.clasp p).signetDue = none ∧ w = ((r.clasp p).crecvDone && (r.clasp p).csend.isSome && r.owner (unitNo .clasp p) != 0 && !r.held (r.owner (unitNo .clasp p))) :=
  ⟨at_ 322 (claspOn id up), settle (at_ 322 (claspOn id up)), 3, false,
    by decide, rfl, by decide, by decide, by decide, by decide, by decide⟩

theorem wit_ClaspSends_2 : ∃ (s : State) (p : Nat) (d : ClaspDecision),
    p < 4 ∧ s.clasps.length = 4 ∧ (s.clasp p).state ≠ .disabled ∧ s.cast.replay = false ∧ (s.clasp p).leaving = false ∧ (s.clasp p).decision = some d ∧ (s.clasp p).sent = false ∧ (s.clasp p).due + 278 ≤ s.beadInRot :=
  ⟨at_ 323 (claspOn (fun c => { c with decision := some .train }) up), 3, .train,
    by decide, by decide, by decide, by decide, by decide, by decide, by decide, by decide⟩

theorem wit_ClaspSends_3 : ∃ (s : State) (p : Nat),
    p < 4 ∧ s.clasps.length = 4 ∧ (s.clasp p).state ≠ .disabled ∧ s.cast.replay = false ∧ (s.clasp p).leaving = true :=
  ⟨claspOn (fun c => { c with leaving := true }) up, 3,
    by decide, by decide, by decide, by decide, by decide⟩

theorem wit_ClaspSends_4 : ∃ (s : State) (p : Nat),
    p < 4 ∧ (s.clasp p).state ≠ .disabled ∧ s.cast.replay = true :=
  ⟨(claspOn id up).modCast fun c => { c with replay := true }, 3,
    by decide, by decide, by decide⟩

theorem wit_ClaspSends_5 : ∃ (s : State) (p : Nat),
    p < 4 ∧ s.clasps.length = 4 ∧ (s.clasp p).mode = 2 ∧ claspEnabled s p = true ∧ s.clock.ref = .clasp ∧ (s.clasp p).lockSrc = true ∧ (s.clasp p).blockLock = true ∧ (s.clasp p).aligned = false ∧ (s.clasp p).alignFailed = false ∧ s.admitted = [] :=
  ⟨(claspOn (fun c => { c with mode := 2, lockSrc := true }) up).modClock fun c => { c with ref := .clasp }, 3,
    by decide, by decide, by decide, by decide, by decide, by decide, by decide, by decide, by decide, by decide⟩

theorem wit_ClaspSends_6 : ∃ (s : State) (p : Nat) (m : AlignMeasure),
    p < 4 ∧ s.clasps.length = 4 ∧ (s.clasp p).aligning = true ∧ s.admitted = [] ∧ m.es.length = 64 ∧ (∀ a ∈ m.es, ∀ b ∈ m.es, a - b ≤ 66) ∧ slewOver s m = true :=
  ⟨claspOn (fun c => { c with aligning := true }) up, 3, ⟨66 :: List.replicate 63 0, 9, [26]⟩,
    by decide, by decide, by decide, by decide, by decide, by decide, by decide⟩

theorem wit_ClaspSends_7 : ∃ (s : State) (p : Nat) (m : AlignMeasure) (a b : Int),
    p < 4 ∧ s.clasps.length = 4 ∧ (s.clasp p).aligning = true ∧ s.admitted = [] ∧ m.es.length = 64 ∧ a ∈ m.es ∧ b ∈ m.es ∧ 66 < a - b :=
  ⟨claspOn (fun c => { c with aligning := true }) up, 3, ⟨67 :: List.replicate 63 0, 9, [26]⟩, 67, 0,
    by decide, by decide, by decide, by decide, by decide, by decide, by decide, by decide⟩

theorem wit_ClaspSends_8 : ∃ (s : State) (p : Nat),
    p < 4 ∧ s.clasps.length = 4 ∧ (s.clasp p).state = .held :=
  ⟨claspOn (fun c => { c with state := .held }) up, 3,
    by decide, by decide, by decide⟩

theorem wit_MailboxCommands_1 : ∃ (s : State) (c : CtxNo) (off : Nat),
    s.ports.linkUp = true ∧ s.startup.ready = true ∧ c < 16 ∧ s.ctxs.length = 16 ∧ (s.ctx c).mailbox.busy = false ∧ (s.ctx c).mailbox.len = 4 ∧ off = leNat (boxRequest s c) :=
  ⟨(ctx1 up).modBox (fun b => { b with len := 4 }) 1, 1, 0,
    by decide, by decide, by decide, by decide, by decide, by decide, by decide⟩

theorem wit_MailboxCommands_2 : ∃ (s : State) (c : CtxNo) (o : Bytes),
    s.ports.linkUp = true ∧ s.startup.ready = true ∧ c < 16 ∧ s.ctxs.length = 16 ∧ (s.ctx c).mailbox.busy = false ∧ (s.ctx c).mailbox.len = 160 ∧ s.running c = true ∧ s.locket.rngFailed = false ∧ (drawNumber s).2.locket.rngFailed = false ∧ o = (match (s.ctx c).record with | some r => r.owner | none => zeros 32) :=
  ⟨(ctx1 up).modBox (fun b => { b with len := 160 }) 1, 1, zeros 32,
    by decide, by decide, by decide, by decide, by decide, by decide, by decide, by decide, by decide, by decide⟩

theorem wit_MailboxCommands_3 : ∃ (s : State) (c : CtxNo),
    s.ports.linkUp = true ∧ s.startup.ready = true ∧ c < 16 ∧ s.ctxs.length = 16 ∧ (s.ctx c).mailbox.busy = false ∧ s.locket.rngFailed = true :=
  ⟨up.modLocket fun l => { l with rngFailed := true }, 1,
    by decide, by decide, by decide, by decide, by decide, by decide⟩

theorem wit_MailboxCommands_4 : ∃ (s : State) (c : CtxNo),
    s.ports.linkUp = true ∧ s.startup.ready = true ∧ c < 16 ∧ s.ctxs.length = 16 ∧ (s.ctx c).mailbox.busy = false ∧ (s.ctx c).mailbox.len = 32 ∧ s.running c = true ∧ s.locket.rngFailed = false :=
  ⟨(ctx1 up).modBox (fun b => { b with len := 32 }) 1, 1,
    by decide, by decide, by decide, by decide, by decide, by decide, by decide, by decide⟩

theorem wit_MailboxCommands_5 : ∃ (s : State) (c : CtxNo),
    s.ports.linkUp = true ∧ s.startup.ready = true ∧ c < 16 ∧ s.ctxs.length = 16 ∧ (s.ctx c).mailbox.busy = false ∧ (s.ctx c).mailbox.len = 32 ∧ s.running c = true ∧ lacksSession s c = false :=
  ⟨(ctx1 up).modBox (fun b => { b with len := 32 }) 1, 1,
    by decide, by decide, by decide, by decide, by decide, by decide, by decide, by decide⟩

theorem wit_MailboxCommands_6 : ∃ (s : State) (c : CtxNo) (q : Bytes),
    s.ports.linkUp = true ∧ s.startup.ready = true ∧ c < 16 ∧ s.ctxs.length = 16 ∧ (s.ctx c).mailbox.busy = false ∧ (s.ctx c).mailbox.len ≤ 4032 ∧ s.running c = true ∧ q = boxRequest s c :=
  ⟨(ctx1 up).modBox (fun b => { b with len := 4032 }) 1, 1, boxRequest ((ctx1 up).modBox (fun b => { b with len := 4032 }) 1) 1,
    by decide, by decide, by decide, by decide, by decide, by decide, by decide, rfl⟩

theorem wit_MailboxCommands_7 : ∃ (s : State) (c : CtxNo),
    s.ports.linkUp = true ∧ s.startup.ready = true ∧ c < 16 ∧ s.ctxs.length = 16 ∧ (s.ctx c).mailbox.busy = false ∧ (s.ctx c).mailbox.len = 0 ∧ s.running c = true ∧ lacksSession s c = false :=
  ⟨(ctx1 up).modBox (fun b => { b with len := 0 }) 1, 1,
    by decide, by decide, by decide, by decide, by decide, by decide, by decide, by decide⟩

theorem wit_MailboxCommands_8 : ∃ (s : State) (c : CtxNo),
    (s.ctx c).mailbox.busy = true :=
  ⟨up.modBox (fun b => { b with busy := true }) 1, 1,
    by decide⟩

theorem wit_RegistersAct_1 : ∃ (s : State) (_v : DWord) (off : Nat) (fs : List (Nat × Nat)),
    s.ports.linkUp = true ∧ s.startup.ready = true ∧ (off, fs) ∈ [(0x200000, [(16, 10), (8, 5), (0, 7)]), (0x300010, [(6, 26)]), (0x300014, [(0, 32)]), (0x300018, [(0, 32)]), (0x300020, [(6, 26)]), (0x300024, [(0, 32)]), (0xC00008, [(0, 32)]), (0xD00000, [(10, 22)]), (0xD00004, [(0, 8)]), (0xD00008, [(0, 20)]), (0x1000000, [(31, 1), (16, 11)])] :=
  ⟨up, 0xFFFFFFFF, 0x1000000, [(31, 1), (16, 11)],
    by decide, by decide, by decide⟩

theorem wit_RegistersAct_2 : ∃ (s : State) (_v : DWord) (off : Nat) (fs : List (Nat × Nat)),
    s.ports.linkUp = true ∧ s.startup.ready = true ∧ (off, fs) ∈ [(0x100000, [(31, 1), (24, 4), (20, 3), (8, 2), (0, 2)]), (0x300000, [(31, 1)]), (0x500000, [(7, 1), (0, 4)]), (0x900000, [(0, 8)]), (0xA00000, [(31, 1), (20, 4), (16, 4), (0, 1)]), (0xC00000, [(31, 1), (24, 3), (18, 3), (12, 6), (0, 6)])] :=
  ⟨up, 0xFFFFFFFF, 0xC00000, [(31, 1), (24, 3), (18, 3), (12, 6), (0, 6)],
    by decide, by decide, by decide⟩

theorem wit_RegistersAct_3 : ∃ (_s : State) (_v : DWord) (off w : Nat),
    ((w ≠ 4 ∧ w ≠ 8) ∨ off % 4 ≠ 0) :=
  ⟨up, 0, 0x1000002, 4,
    by decide⟩

theorem wit_RegistersAct_4 : ∃ (s : State) (g : Nat) (_v : Word),
    s.ports.linkUp = true ∧ g < 10 :=
  ⟨up, 9, 1,
    by decide, by decide⟩

theorem wit_RegistersAct_5 : ∃ (s : State),
    s.ports.linkUp = true ∧ s.ports.msixEn = true ∧ bit s.events.ctl 31 = true ∧ s.events.unmaskedNew = true ∧ (∀ b, s.events.lastMsi = some b → b + 256 ≤ s.bead) :=
  ⟨{ up.modEvents fun e => { e with ctl := 0x80000000, unmaskedNew := true, lastMsi := some 0 } with bead := 256 },
    by decide, by decide, by decide, by decide, by decide⟩

theorem wit_RegistersAct_6 : ∃ (s : State) (b : Nat),
    s.events.lastMsi = some b ∧ s.bead < b + 256 :=
  ⟨{ up.modEvents fun e => { e with lastMsi := some 0 } with bead := 255 }, 0,
    by decide, by decide⟩

theorem wit_RegistersAct_7 : ∃ (s : State) (_v : Word),
    s.ports.linkUp = true ∧ s.startup.ready = true ∧ s.locket.debugOn = true :=
  ⟨up.modLocket fun l => { l with debugOn := true }, 0xFFFFFFFF,
    by decide, by decide, by decide⟩

theorem wit_RegistersAct_8 : ∃ (s : State) (_v : Word),
    s.locket.debugOn = false :=
  ⟨up, 0x80000000,
    by decide⟩

theorem wit_LowHalvesLatch_1 : ∃ (s : State) (_off : Nat),
    s.ports.linkUp = true :=
  ⟨up, 0x10,
    by decide⟩

theorem wit_LowHalvesLatch_2 : ∃ (s : State) (reg byte w : Nat),
    s.ports.linkUp = true ∧ reg % 4 = 0 ∧ 1 ≤ w ∧ byte + w ≤ 4 :=
  ⟨up, 0x18, 1, 2,
    by decide, by decide, by decide, by decide⟩

theorem wit_LowHalvesLatch_3 : ∃ (s : State),
    s.ports.linkUp = true :=
  ⟨up,
    by decide⟩

theorem wit_LowHalvesLatch_4 : ∃ (s : State) (off w : Nat),
    s.ports.linkUp = true ∧ 4 < off % 4 + w ∧ off % 4 ≠ 0 :=
  ⟨up, 0x19, 4,
    by decide, by decide, by decide⟩

theorem wit_BoundariesMoveTime_1 : ∃ (s : State),
    s.startup.counting = true :=
  ⟨up,
    by decide⟩

theorem wit_BoundariesMoveTime_2 : ∃ (s : State),
    s.startup.counting = true ∧ s.beadInRot + 1 = s.rotLen ∧ s.rotDone = false :=
  ⟨at_ 624 up,
    by decide, by decide, by decide⟩

theorem wit_BoundariesMoveTime_3 : ∃ (s : State),
    (s.startup.counting = false ∨ s.beadInRot + 1 ≠ s.rotLen ∨ s.rotDone = true) :=
  ⟨at_ 623 up,
    by decide⟩

theorem wit_BoundariesMoveTime_4 : ∃ (s : State),
    s.startup.counting = false :=
  ⟨State.reset,
    by decide⟩

theorem wit_StepRunsFront_1 : ∃ (c : Instr) (rest : List Instr) (s : State),
    s.pending = c :: rest :=
  ⟨.form, [], { State.reset with pending := [.form] },
    by decide⟩

theorem wit_StepRunsFront_3 : ∃ (s : State),
    s.pending = [] :=
  ⟨State.reset,
    by decide⟩

theorem wit_CommandsKeep_2 : ∃ (c : Instr) (u : UnitNo) (_s : State),
    cueUnit c = some u :=
  ⟨.csend 0x9003, 0x9003, State.reset,
    by decide⟩

theorem wit_SoundKept_1 : ∃ (s : State),
    sound s :=
  ⟨at_ 624 up,
    ⟨⟨rfl, rfl, rfl⟩, ⟨rfl, rfl, rfl, rfl⟩, by unfold placed; decide⟩⟩

theorem wit_CueWordsRoundTrip_1 : ∃ (c : CueWord),
    c.cue.spelled = true :=
  ⟨⟨⟨0, 0, 0, 0⟩, .idle⟩,
    by decide⟩

theorem wit_CueWordsRoundTrip_2 : ∃ (w : BitVec 128) (c : CueWord),
    decodeCue w = some c :=
  ⟨0, ⟨⟨0, 0, 0, 0⟩, .idle⟩,
    by decide⟩

theorem wit_CueWordsSpelled_1 : ∃ (w : BitVec 128) (c : CueWord),
    decodeCue w = some c :=
  ⟨0, ⟨⟨0, 0, 0, 0⟩, .idle⟩,
    by decide⟩

end Sys2Proof.Tests
end

section
/-! Cue words: where the fields of the header stand in a word, and what the class fields of chapter 3 refuse (O60). -/

namespace Sys2Proof

/-- The predicate fields of a word's header, bits [119:110] (Table 3-4). -/
def wordPred (w : BitVec 128) : Pred :=
  ⟨w.extractLsb' 119 1, w.extractLsb' 118 1, w.extractLsb' 115 3, w.extractLsb' 110 5⟩

/-- The cue that bits [109:0] of a word hold, read by its CLASS [127:124] and OP [123:120] (Tables 3-4 and 3-5). -/
def wordBody (w : BitVec 128) : Option Cue :=
  decodeBody (w.extractLsb' 124 4).toNat (w.extractLsb' 120 4).toNat (w.extractLsb' 0 110).toNat

/-- The fields that `unpack` takes from a word by the header's widths stand in the bits of Table 3-4. -/
theorem unpack_widthsHeader (w : BitVec 128) :
    unpack widthsHeader w.toNat =
      [(w.extractLsb' 0 110).toNat, (w.extractLsb' 110 5).toNat, (w.extractLsb' 115 3).toNat, (w.extractLsb' 118 1).toNat,
        (w.extractLsb' 119 1).toNat, (w.extractLsb' 120 4).toNat, (w.extractLsb' 124 4).toNat] := by
  simp only [unpack, widthsHeader, BitVec.extractLsb'_toNat, Nat.shiftRight_eq_div_pow, Nat.div_div_eq_div_mul, ← pow_add,
    pow_zero, Nat.div_one]

/-- Reading a word is reading its body; the predicate fields stand beside it as they are. -/
theorem decodeCue_eq_map (w : BitVec 128) : decodeCue w = (wordBody w).map fun c => ⟨wordPred w, c⟩ := by
  simp only [decodeCue, unpack_widthsHeader, fld, BitVec.ofNat_toNat, BitVec.setWidth_eq, wordPred, wordBody]

theorem decodeCue_eq_some_iff {w : BitVec 128} {c : CueWord} :
    decodeCue w = some c ↔ c.pred = wordPred w ∧ wordBody w = some c.cue := by
  rw [decodeCue_eq_map, Option.map_eq_some_iff]
  constructor
  · rintro ⟨cue, hbody, rfl⟩
    exact ⟨rfl, hbody⟩
  · rintro ⟨hpred, hbody⟩
    exact ⟨c.cue, hbody, by rw [← hpred]⟩

theorem decodeCue_eq_none_iff {w : BitVec 128} : decodeCue w = none ↔ wordBody w = none := by
  rw [decodeCue_eq_map, Option.map_eq_none_iff]

/-- Classes 9 and above are reserved (Table 3-5), whatever the other bits are. -/
theorem decodeBody_reserved_class {cls : Nat} (h : 9 ≤ cls) (op b : Nat) : decodeBody cls op b = none := by
  obtain ⟨k, rfl⟩ := Nat.exists_eq_add_of_le' h
  rfl

/-- The plain IDLE cue has no fields: all its bits [109:0] are reserved (R75). -/
theorem decodeBody_idle_reserved_bit {b : Nat} (h : b ≠ 0) : decodeBody 0 0 b = none := if_neg h

/-- EOP 0x00 is reserved (Table 3-12), whatever the other fields are. -/
theorem decodeBody_eng_reserved_eop {b : Nat} (h : b / 2 ^ 104 % 2 ^ 6 = 0) : decodeBody 5 0 b = none := by
  simp only [decodeBody, decodeEng, unpack, widthsEng, Nat.div_div_eq_div_mul, ← pow_add]
  exact if_pos h

/-- Settles O60: header and fields by `decodeCue_eq_some_iff`, each word that spells no cue by the rule it breaks, and the
written-out cues by reading them. -/
theorem cueWordsSpelled : Obligations.CueWordsSpelled := by
  unfold Obligations.CueWordsSpelled
  refine ⟨fun w c h => decodeCue_eq_some_iff.mp h, ?idle, ?mac, ?write, ?fma, ?eng, ?loop, ?class9, ?idleBit, ?eop0⟩
  case idle | mac | write | fma | eng | loop => decide
  case class9 => exact decodeCue_eq_none_iff.mpr (decodeBody_reserved_class (by decide) _ _)
  case idleBit => exact decodeCue_eq_none_iff.mpr (decodeBody_idle_reserved_bit (by decide))
  case eop0 => exact decodeCue_eq_none_iff.mpr (decodeBody_eng_reserved_eop (by decide))

end Sys2Proof
end

section
/-! Register reads: what a read by its width does (R460), and the shadows of the two 64-bit counters (R461; O52). -/

namespace Sys2Proof.Machine

/-! ## The shadows that a read leaves -/

/-- A read's effect reaches the two shadows alone: not what has left the module, the counters, the log or the memory. -/
@[simp] theorem readEffect_fields (off : Nat) (s : State) :
    (readEffect off s).out = s.out ∧ (readEffect off s).bead = s.bead ∧ (readEffect off s).events = s.events ∧
    (readEffect off s).ctxs = s.ctxs ∧ (readEffect off s).store = s.store := by
  unfold readEffect
  split_ifs <;> exact ⟨rfl, rfl, rfl, rfl, rfl⟩

/-- The low halves of the bead counter and of EVT_HEAD latch the high ones. -/
@[simp] theorem readEffect_beadLo (s : State) :
    (readEffect 0x18 s).beadShadow = some (BitVec.ofNat 32 (s.bead / 2 ^ 32)) := rfl

@[simp] theorem readEffect_headLo (s : State) :
    (readEffect 0x1000008 s).headShadow = some (BitVec.ofNat 32 (s.events.head / 2 ^ 32)) := rfl

/-- A read of a high half ends its shadow. -/
@[simp] theorem readEffect_beadHi (s : State) : (readEffect 0x1C s).beadShadow = none := rfl

@[simp] theorem readEffect_headHi (s : State) : (readEffect 0x100000C s).headShadow = none := rfl

/-- The four registers with an effect are aligned. -/
theorem readEffect_unaligned {off : Nat} (h : off % 4 ≠ 0) (s : State) : readEffect off s = s := by
  have h18 : off ≠ 0x18 := by omega
  have h1C : off ≠ 0x1C := by omega
  have h8 : off ≠ 0x1000008 := by omega
  have hC : off ≠ 0x100000C := by omega
  simp only [readEffect, h18, h1C, h8, hC, if_false]

/-! ## What the halves of the counters read, before READY too (R452) -/

theorem hostRead_beadLo (s : State) : hostRead s 0x18 = BitVec.ofNat 32 s.bead := by
  simp [hostRead, aligned, earlyBlock, readReg, readGlobal]

theorem hostRead_beadHi (s : State) : hostRead s 0x1C = s.beadShadow.getD (BitVec.ofNat 32 (s.bead / 2 ^ 32)) := by
  simp [hostRead, aligned, earlyBlock, readReg, readGlobal]

theorem hostRead_headHi (s : State) :
    hostRead s 0x100000C = s.headShadow.getD (BitVec.ofNat 32 (s.events.head / 2 ^ 32)) := by
  simp [hostRead, aligned, earlyBlock, readReg, readEvent]

theorem hostRead_unaligned {off : Nat} (h : off % 4 ≠ 0) (s : State) : hostRead s off = 0 := by
  simp [hostRead, aligned, h]

/-! ## A read by its width (R460) -/

/-- The addressed bytes of a register, counted from its lowest. -/
theorem narrow_eq (v : Word) (byte w : Nat) : narrow v byte w = BitVec.ofNat 32 (v.toNat / 256 ^ byte % 256 ^ w) := by
  simp only [narrow, bits, pow_mul, Nat.reducePow]

theorem narrow_whole (v : Word) : narrow v 0 4 = v := by
  have hlt : v.toNat < 256 ^ 4 := v.isLt
  rw [narrow_eq, pow_zero, Nat.div_one, Nat.mod_eq_of_lt hlt, BitVec.ofNat_toNat, BitVec.setWidth_eq]

/-- A read whose bytes lie in one register takes them from it, with the effects of a whole read. -/
theorem registerRead_contained {s : State} {reg byte w : Nat} (hlink : s.ports.linkUp = true) (hreg : reg % 4 = 0)
    (hw : 1 ≤ w) (hfit : byte + w ≤ 4) :
    registerRead ⟨reg + byte, w⟩ s =
      readEffect reg (s.emit (.regRead (reg + byte) (narrow (hostRead s reg) byte w))) := by
  have hbyte : (reg + byte) % 4 = byte := by omega
  have hnot8 : w ≠ 8 := by omega
  simp [registerRead, hlink, hbyte, hnot8, hfit]

/-- A 64-bit read is two reads, the lower address first. -/
theorem registerRead_double {s : State} {off : Nat} (hlink : s.ports.linkUp = true) (hoff : off % 4 = 0) :
    registerRead ⟨off, 8⟩ s = readWord (off + 4) (readWord off s) := by
  simp [registerRead, hlink, hoff]

/-- A read that no aligned registers contain reads 0 and has no effect. -/
theorem registerRead_uncontained {s : State} {off w : Nat} (hlink : s.ports.linkUp = true) (hoff : off % 4 ≠ 0)
    (hout : 4 < off % 4 + w) : registerRead ⟨off, w⟩ s = s.emit (.regRead off 0) := by
  simp [registerRead, hlink, hoff, Nat.not_le.mpr hout]

/-- A 32-bit read is the whole read of its register; at an offset that is not aligned both read 0 and do nothing. -/
theorem registerRead_word {s : State} (off : Nat) (hlink : s.ports.linkUp = true) :
    registerRead ⟨off, 4⟩ s = readWord off s := by
  by_cases hoff : off % 4 = 0
  · have h := registerRead_contained (byte := 0) (w := 4) hlink hoff (by decide) (by decide)
    rwa [Nat.add_zero, narrow_whole] at h
  · rw [registerRead_uncontained hlink hoff (by omega), readWord, hostRead_unaligned hoff, readEffect_unaligned hoff]

/-- A 64-bit read of the bead counter gets both halves of one value and leaves no shadow behind. -/
theorem readWord_beadHi_beadLo (s : State) :
    (readWord 0x1C (readWord 0x18 s)).out =
        .regRead 0x1C (BitVec.ofNat 32 (s.bead / 2 ^ 32)) :: .regRead 0x18 (BitVec.ofNat 32 s.bead) :: s.out ∧
      (readWord 0x1C (readWord 0x18 s)).beadShadow = none ∧ (readWord 0x1C (readWord 0x18 s)).events = s.events := by
  simp [readWord, hostRead_beadLo, hostRead_beadHi]

end Sys2Proof.Machine

namespace Sys2Proof

open Machine

/-- A register read goes on to the state that `registerRead` gives. -/
theorem answers_lowHalfRead {a : RegAccess} {s : State} {P : State → Prop} (h : P (registerRead a s)) :
    answers (.lowHalfRead a) s P := ⟨registerRead a s, rfl, h⟩

/-- Settles O52: one clause for each width of R460, by what `registerRead` does there; the shadows of R461 by `readEffect`. -/
theorem lowHalvesLatch : Obligations.LowHalvesLatch := by
  unfold Obligations.LowHalvesLatch
  refine ⟨fun s off hlink => answers_lowHalfRead ?word, fun s reg byte w hlink hreg hw hfit => answers_lowHalfRead ?narrower,
    fun s hlink => answers_lowHalfRead ?double, fun s off w hlink hout hoff => answers_lowHalfRead ?uncontained⟩
  case word =>
    rw [registerRead_word off hlink, readWord]
    refine ⟨by simp, ?beadLo, ?headLo, ?beadHi, ?headHi, by simp, by simp, by simp⟩
    case beadLo | headLo => rintro rfl; simp
    case beadHi =>
      rintro rfl
      rw [hostRead_beadHi]
      cases s.beadShadow <;> exact ⟨rfl, rfl⟩
    case headHi =>
      rintro rfl
      rw [hostRead_headHi]
      cases s.headShadow <;> exact ⟨rfl, rfl⟩
  case narrower =>
    rw [registerRead_contained hlink hreg hw hfit, narrow_eq]
    refine ⟨by simp, ?_, ?_, ?_, ?_⟩ <;> rintro rfl <;> simp
  case double =>
    rw [registerRead_double hlink rfl]
    exact readWord_beadHi_beadLo s
  case uncontained =>
    rw [registerRead_uncontained hlink hoff hout]
    exact ⟨rfl, rfl⟩

end Sys2Proof
end

section
/-! Cue words and cues: encoding and decoding are inverse, body by body (Tables 3-6 to 3-14) and then with the header (O59). -/

namespace Sys2Proof

/-! ## A cue's body is read back from its word -/

/-- A field of one bit, cut to its width. -/
@[simp] theorem ofNat_toNat_mod_two (x : BitVec 1) : BitVec.ofNat 1 (x.toNat % 2) = x := by
  rw [Nat.mod_eq_of_lt x.isLt, BitVec.ofNat_toNat, BitVec.setWidth_eq]

theorem decodeMac_encodeMac {f : MacFields} (ha : f.fmtA.toNat ≤ 4) (hb : f.fmtB.toNat ≤ 4) :
    decodeMac (encodeMac f) = some f := by
  simp [decodeMac, encodeMac, unpack_fields, widthsMac, ha, hb, -Nat.reducePow]

theorem decodeMove_encodeMove (f : MoveFields) : decodeMove (encodeMove f) = some f := by
  simp [decodeMove, encodeMove, unpack_fields, widthsMove, -Nat.reducePow]

theorem decodeMem_encodeMem (f : MemFields) : decodeMem (encodeMem f) = some f := by
  simp [decodeMem, encodeMem, unpack_fields, widthsMem, -Nat.reducePow]

/-- A body that no field map leaves with a reserved code is read back from its word. -/
theorem decodeBody_encodeBody {c : Cue} (h : c.spelled = true) :
    decodeBody (encodeBody c).1 (encodeBody c).2.1 (encodeBody c).2.2 = some c := by
  cases c
  case idle | clear => rfl
  case mac f | macClr f =>
    obtain ⟨ha, hb⟩ := of_decide_eq_true h
    simp [encodeBody, decodeBody, decodeMac_encodeMac ha hb]
  case round f =>
    have hf := of_decide_eq_true h
    simp [encodeBody, decodeBody, decodeRound, unpack_fields, widthsRound, hf, -Nat.reducePow]
  case copy | fill => simp [encodeBody, decodeBody, decodeMove_encodeMove]
  case read | write => simp [encodeBody, decodeBody, decodeMem_encodeMem]
  case vec op f =>
    have hcode : op.code % 2 ^ 6 = op.code := by cases op <;> rfl
    have hop : vopList[op.code]? = some op := by cases op <;> rfl
    simp [encodeBody, decodeBody, decodeVec, unpack_fields, widthsVec, hcode, hop, -Nat.reducePow]
  case eng f =>
    have hf : f.eop.toNat ≠ 0 := fun h0 => of_decide_eq_true h (BitVec.eq_of_toNat_eq h0)
    simp [encodeBody, decodeBody, decodeEng, unpack_fields, widthsEng, hf, -Nat.reducePow]
  case port f =>
    have hf : f.pop.toNat ≠ 0 := fun h0 => of_decide_eq_true h (BitVec.eq_of_toNat_eq h0)
    simp [encodeBody, decodeBody, decodePort, unpack_fields, widthsPort, hf, -Nat.reducePow]
  case idleLoad => simp [encodeBody, decodeBody, unpack_fields, widthsLevel, -Nat.reducePow]
  case lsumOut => simp [encodeBody, decodeBody, unpack_fields, widthsLsumOut, -Nat.reducePow]
  case lsumIn => simp [encodeBody, decodeBody, unpack_fields, widthsLsumIn, -Nat.reducePow]
  case loop => simp [encodeBody, decodeBody, unpack_fields, widthsLoop, -Nat.reducePow]
  case arms => simp [encodeBody, decodeBody, unpack_fields, widthsArms, -Nat.reducePow]
  case mload => simp [encodeBody, decodeBody, unpack_fields, widthsMload, -Nat.reducePow]
  case mlogic => simp [encodeBody, decodeBody, unpack_fields, widthsMlogic, -Nat.reducePow]
  case mset => simp [encodeBody, decodeBody, unpack_fields, widthsMset, -Nat.reducePow]

/-! ## A body from which a cue is read is that cue's body -/

/-- Fields that are put together count as far as their widths. -/
theorem fields_mod (ws vs : List Nat) : fields ws (List.zipWith (fun w x => x % 2 ^ w) ws vs) = fields ws vs := by
  induction ws generalizing vs with
  | nil => rfl
  | cons w ws ih =>
    cases vs with
    | nil => rfl
    | cons x vs =>
      have htail := ih vs
      simp only [fields] at htail
      simp only [fields, List.zipWith_cons_cons, List.zip_cons_cons, pack, Nat.mod_mod, htail]

/-- A body of 110 bits, put together again from its fields, each cut to its width. -/
theorem fields_of_unpack {ws l : List Nat} {b : Nat} (h : unpack ws b = l) (hws : ws.sum = 110) (hb : b < 2 ^ 110) :
    fields ws (List.zipWith (fun w x => x % 2 ^ w) ws l) = b := by
  rw [fields_mod, ← h, fields_unpack, hws, Nat.mod_eq_of_lt hb]

/-- A cue is read only where a body's check holds. -/
theorem check_of_eq_some {α : Type} {p : Prop} [Decidable p] {x y : α} (h : (if p then some x else none) = some y) :
    p ∧ x = y := by
  obtain ⟨hp, hxy⟩ := Option.ite_none_right_eq_some.mp h
  exact ⟨hp, Option.some.inj hxy⟩

theorem decodeMac_eq_some {b : Nat} {f : MacFields} (hb : b < 2 ^ 110) (h : decodeMac b = some f) :
    (f.fmtA.toNat ≤ 4 ∧ f.fmtB.toNat ≤ 4) ∧ encodeMac f = b := by
  simp only [decodeMac] at h
  split at h
  case h_1 hl =>
    have hfields := fields_of_unpack hl rfl hb
    obtain ⟨⟨rfl, hfb, hfa⟩, rfl⟩ := check_of_eq_some h
    simp only [BitVec.toNat_ofNat]
    exact ⟨⟨(Nat.mod_le _ _).trans hfa, (Nat.mod_le _ _).trans hfb⟩, hfields⟩
  case h_2 => contradiction

theorem decodeMove_eq_some {b : Nat} {f : MoveFields} (hb : b < 2 ^ 110) (h : decodeMove b = some f) : encodeMove f = b := by
  simp only [decodeMove] at h
  split at h
  case h_1 hl =>
    have hfields := fields_of_unpack hl rfl hb
    obtain ⟨rfl, rfl⟩ := check_of_eq_some h
    exact hfields
  case h_2 => contradiction

theorem code_of_vopList {n : Nat} {v : VOp} (h : vopList[n]? = some v) : v.code = n := by
  obtain ⟨hn, rfl⟩ := List.getElem?_eq_some_iff.mp h
  exact List.Nodup.idxOf_getElem (by decide) n hn

theorem decodeVec_eq_some {b : Nat} {c : Cue} (hb : b < 2 ^ 110) (h : decodeVec b = some c) :
    c.spelled = true ∧ encodeBody c = (4, 0, b) := by
  simp only [decodeVec] at h
  split at h
  case h_1 hl =>
    have hfields := fields_of_unpack hl rfl hb
    split at h
    case h_1 op v hop =>
      obtain ⟨rfl, rfl⟩ := check_of_eq_some h
      rw [← code_of_vopList hop] at hfields
      refine ⟨rfl, congrArg (fun x => (4, 0, x)) (Eq.trans ?_ hfields)⟩
      rw [← fields_mod]
      simp [widthsVec]
    case h_2 => cases h
  case h_2 => contradiction

theorem decodeRound_eq_some {b : Nat} {f : RoundFields} (hb : b < 2 ^ 110) (h : decodeRound b = some f) :
    (Cue.round f).spelled = true ∧ encodeBody (.round f) = (1, 2, b) := by
  simp only [decodeRound] at h
  split at h
  case h_1 hl =>
    have hfields := fields_of_unpack hl rfl hb
    obtain ⟨⟨rfl, hf⟩, rfl⟩ := check_of_eq_some h
    refine ⟨decide_eq_true ?_, congrArg (fun x => (1, 2, x)) hfields⟩
    exact (BitVec.toNat_ofNat _ _).trans_le ((Nat.mod_le _ _).trans hf)
  case h_2 => contradiction

theorem decodeMem_eq_some {b : Nat} {f : MemFields} (hb : b < 2 ^ 110) (h : decodeMem b = some f) : encodeMem f = b := by
  simp only [decodeMem] at h
  split at h
  case h_1 hl =>
    have hfields := fields_of_unpack hl rfl hb
    obtain ⟨rfl, rfl⟩ := check_of_eq_some h
    exact hfields
  case h_2 => contradiction

/-- The code taken from a field of its width is 0 only where the field is. -/
theorem ofNat_ne_zero {n x : Nat} (hx : x < 2 ^ n) (h : x ≠ 0) : BitVec.ofNat n x ≠ 0 := by
  intro h0
  have := congrArg BitVec.toNat h0
  simp only [BitVec.toNat_ofNat, Nat.mod_eq_of_lt hx] at this
  exact h this

theorem decodeEng_eq_some {b : Nat} {c : Cue} (hb : b < 2 ^ 110) (h : decodeEng b = some c) :
    c.spelled = true ∧ encodeBody c = (5, 0, b) := by
  simp only [decodeEng] at h
  split at h
  case h_1 e hl =>
    have hfields := fields_of_unpack hl rfl hb
    split at h
    case isTrue => cases h
    case isFalse he =>
      obtain rfl := Option.some.inj h
      have hlt : e < 2 ^ 6 := by
        simp [unpack, widthsEng] at hl
        omega
      exact ⟨decide_eq_true (ofNat_ne_zero hlt he), congrArg (fun x => (5, 0, x)) hfields⟩
  case h_2 => contradiction

theorem decodePort_eq_some {b : Nat} {c : Cue} (hb : b < 2 ^ 110) (h : decodePort b = some c) :
    c.spelled = true ∧ encodeBody c = (6, 0, b) := by
  simp only [decodePort] at h
  split at h
  case h_1 o hl =>
    have hfields := fields_of_unpack hl rfl hb
    split at h
    case isTrue => cases h
    case isFalse ho =>
      obtain rfl := Option.some.inj h
      have hlt : o < 2 ^ 6 := by
        simp [unpack, widthsPort] at hl
        omega
      exact ⟨decide_eq_true (ofNat_ne_zero hlt ho), congrArg (fun x => (6, 0, x)) hfields⟩
  case h_2 => contradiction

/-- A cue that a body of 110 bits holds uses no reserved code, and that body is its own. -/
theorem decodeBody_eq_some {cls op b : Nat} {c : Cue} (hb : b < 2 ^ 110) (h : decodeBody cls op b = some c) :
    c.spelled = true ∧ encodeBody c = (cls, op, b) := by
  unfold decodeBody at h
  split at h
  case h_1 | h_8 => -- IDLE and CLEAR have no fields
    obtain ⟨rfl, rfl⟩ := check_of_eq_some h
    exact ⟨rfl, rfl⟩
  case h_3 | h_4 => -- MAC and MAC_CLR
    obtain ⟨f, hf, rfl⟩ := Option.map_eq_some_iff.mp h
    obtain ⟨hcodes, rfl⟩ := decodeMac_eq_some hb hf
    exact ⟨decide_eq_true hcodes, rfl⟩
  case h_5 => -- ROUND
    obtain ⟨f, hf, rfl⟩ := Option.map_eq_some_iff.mp h
    exact decodeRound_eq_some hb hf
  case h_9 | h_10 => -- COPY and FILL
    obtain ⟨f, hf, rfl⟩ := Option.map_eq_some_iff.mp h
    exact ⟨rfl, congrArg (fun x => (2, _, x)) (decodeMove_eq_some hb hf)⟩
  case h_11 | h_12 => -- READ and WRITE
    obtain ⟨f, hf, rfl⟩ := Option.map_eq_some_iff.mp h
    exact ⟨rfl, congrArg (fun x => (3, _, x)) (decodeMem_eq_some hb hf)⟩
  case h_13 => exact decodeVec_eq_some hb h
  case h_14 => exact decodeEng_eq_some hb h
  case h_15 => exact decodePort_eq_some hb h
  case h_2 | h_6 | h_7 | h_16 | h_17 | h_18 | h_19 | h_20 => -- one field map each, whose bits below the fields are reserved
    split at h
    case h_1 hl =>
      have hfields := fields_of_unpack hl rfl hb
      obtain ⟨rfl, rfl⟩ := check_of_eq_some h
      exact ⟨rfl, congrArg (fun x => (_, _, x)) hfields⟩
    case h_2 => cases h
  case h_21 => cases h

/-! ## Words -/

/-- CLASS, OP and the body of a cue fit their places in the word (Table 3-4). -/
theorem encodeBody_lt (c : Cue) :
    (encodeBody c).1 < 2 ^ 4 ∧ (encodeBody c).2.1 < 2 ^ 4 ∧ (encodeBody c).2.2 < 2 ^ 110 := by
  cases c
  case idle | clear => decide
  all_goals exact ⟨by simp [encodeBody], by simp [encodeBody], fields_lt _ _⟩

/-- The fields of a cue's own word. -/
theorem unpack_encodeCue (c : CueWord) :
    unpack widthsHeader (encodeCue c).toNat =
      [(encodeBody c.cue).2.2, c.pred.pbit.toNat, c.pred.preg.toNat, c.pred.ppol.toNat, c.pred.pen.toNat,
        (encodeBody c.cue).2.1, (encodeBody c.cue).1] := by
  obtain ⟨hcls, hop, hbody⟩ := encodeBody_lt c.cue
  have hlt : ∀ vs, fields widthsHeader vs < 2 ^ 128 := fields_lt widthsHeader
  rw [encodeCue, BitVec.toNat_ofNat, Nat.mod_eq_of_lt (hlt _)]
  simp [unpack_fields, widthsHeader, Nat.mod_eq_of_lt hcls, Nat.mod_eq_of_lt hop, Nat.mod_eq_of_lt hbody,
    Nat.le_of_lt_succ c.pred.ppol.isLt, Nat.le_of_lt_succ c.pred.pen.isLt, -Nat.reducePow]

/-- A word is the one that its header and body spell. -/
theorem encodeCue_of_word {w : BitVec 128} {c : CueWord} (hpred : c.pred = wordPred w)
    (hbody : encodeBody c.cue =
      ((w.extractLsb' 124 4).toNat, (w.extractLsb' 120 4).toNat, (w.extractLsb' 0 110).toNat)) : encodeCue c = w := by
  have hfields := fields_unpack widthsHeader w.toNat
  rw [unpack_widthsHeader] at hfields
  rw [encodeCue, hbody, hpred]
  refine (congrArg (BitVec.ofNat 128) hfields).trans ?_
  rw [show widthsHeader.sum = 128 from rfl, Nat.mod_eq_of_lt w.isLt, BitVec.ofNat_toNat, BitVec.setWidth_eq]

/-- Settles O59: a cue without reserved codes is read back from its body and header; a word from which a cue is read holds that
cue's body (`decodeBody_eq_some`) and predicate. -/
theorem cueWordsRoundTrip : Obligations.CueWordsRoundTrip := by
  refine ⟨fun c hspelled => ?_, fun w c h => ?_⟩
  · simp [decodeCue, unpack_encodeCue, decodeBody_encodeBody hspelled]
  · obtain ⟨hpred, hbody⟩ := decodeCue_eq_some_iff.mp h
    obtain ⟨hspelled, henc⟩ := decodeBody_eq_some (BitVec.isLt _) hbody
    exact ⟨hspelled, encodeCue_of_word hpred henc⟩

end Sys2Proof
end

section
/-! The whole machine: what every step keeps, and what a cue command leaves alone (O58, O55 to O57). -/

namespace Sys2Proof

open Machine

/-- A command that goes on goes on to one state. -/
theorem exec_next_inj {c : Instr} {s t u : State} (ht : exec c s = .next t) (hu : exec c s = .next u) : t = u :=
  Host.Outcome.next.inj (ht.symm.trans hu)

/-- Every command takes a sound state to a sound state. -/
theorem exec_sound (c : Instr) (s : State) (h : sound s) : ∃ t, exec c s = .next t ∧ sound t := by
  obtain ⟨hmem, hshape, hplaced⟩ := h
  obtain ⟨t, ht, htmem⟩ := exec_canon c s hmem
  obtain ⟨t₂, ht₂, -, -, -, htshape⟩ := exec_keeps c s
  obtain ⟨t₃, ht₃, htplaced⟩ := exec_placed c s hplaced
  obtain rfl := exec_next_inj ht₂ ht
  obtain rfl := exec_next_inj ht₃ ht₂
  exact ⟨t₃, ht, htmem, htshape hshape, htplaced⟩

/-- Settles O58: the front command keeps the form of the memories, the numbers of the parts and the bead's place; an empty
queue idles. -/
theorem soundKept : Obligations.SoundKept := by
  unfold Obligations.SoundKept
  intro s h
  unfold step
  split
  case h_1 => exact ⟨s, rfl, h⟩
  case h_2 c rest hq => exact exec_sound c { s with pending := rest } h

/-- Settles O55: the memories of reset are empty, its lists have the manual's lengths, and it stands at bead 0 of 625. -/
theorem resetSound : Obligations.ResetSound := by
  have hplaced : placed State.reset := by unfold placed; decide
  exact ⟨⟨memWf_nil, memWf_nil, memWf_nil⟩, ⟨rfl, rfl, rfl, rfl⟩, hplaced⟩

/-- Settles O56: the three clauses are the two cases of `step`. -/
theorem stepRunsFront : Obligations.StepRunsFront := by
  refine ⟨fun c rest s hq => ?front, fun c s => rfl, fun s hq => ?idle⟩
  case front | idle => simp only [step, hq]

/-- The begun cue of a unit moves no counter of time. -/
theorem performCue_time (u : UnitNo) (s : State) :
    (performCue u s).bead = s.bead ∧ (performCue u s).beadInRot = s.beadInRot ∧ (performCue u s).rotLen = s.rotLen ∧
    (performCue u s).period = s.period := by
  have h := performCue_spine u s
  exact ⟨congrArg Spine.bead h, congrArg Spine.beadInRot h, congrArg Spine.rotLen h, congrArg Spine.period h⟩

/-- The begun cue of a unit writes none of the three memories at once. -/
theorem performCue_memories (u : UnitNo) (s : State) :
    (performCue u s).store = s.store ∧ (performCue u s).lp4x = s.lp4x ∧ (performCue u s).lp4xCheck = s.lp4xCheck := by
  have h := performCue_mems u s
  simpa only [State.mems, Prod.mk.injEq] using h

/-- Settles O57: `exec_keeps` for every command; a cue command carries out its unit's cue or does nothing (`cue_exec`). -/
theorem commandsKeep : Obligations.CommandsKeep := by
  refine ⟨fun c s => ?all, fun c u s hu => ?cue⟩
  case all =>
    obtain ⟨t, ht, hpending, hgrade, hsteppings, -⟩ := exec_keeps c s
    exact ⟨t, ht, hpending, hgrade, hsteppings⟩
  case cue =>
    obtain ⟨hbead, hin, hlen, hperiod⟩ := performCue_time u s
    obtain ⟨hstore, hlp4x, hcheck⟩ := performCue_memories u s
    rcases cue_exec c u s hu with hidle | hcue
    · exact ⟨s, hidle, .inl rfl, rfl, rfl, rfl, rfl, rfl, rfl, rfl⟩
    · exact ⟨_, hcue, .inr rfl, hstore, hlp4x, hcheck, hbead, hin, hlen, hperiod⟩

end Sys2Proof
end

section
/-! What raising an event logs, what an item adds to those that wait, and the lengths of what is cut, ciphered and decoded. -/

namespace Sys2Proof.Machine

/-! ## What a command answers -/

/-- A command whose next state is known answers what holds of that state. -/
theorem answers_iff {c : Instr} {s u : State} {P : State → Prop} (h : exec c s = .next u) : answers c s P ↔ P u :=
  ⟨fun ⟨_, ht, hp⟩ => by cases ht.symm.trans h; exact hp, fun hp => ⟨u, h, hp⟩⟩

/-! ## The event log -/

@[simp] theorem when_true (f : State → State) (s : State) : when_ true f s = f s := rfl
@[simp] theorem when_false (f : State → State) (s : State) : when_ false f s = s := rfl

/-- What no step of a fold changes, the fold leaves. -/
theorem foldl_keeps {α β : Type} {f : State → α → State} {g : State → β} (h : ∀ t a, g (f t a) = g t) (l : List α) (s : State) :
    g (l.foldl f s) = g s := by
  induction l generalizing s with
  | nil => rfl
  | cons a r ih => exact (ih _).trans (h s a)

@[simp] theorem pushNotice_events (bs : Bytes) (s : State) : (pushNotice bs s).events = s.events := by
  unfold pushNotice
  split
  · simp
  · exact foldl_keeps (g := State.events) (fun t c => by simp) _ s

@[simp] theorem startFreeze_events (s : State) : (startFreeze s).events = s.events := by
  unfold startFreeze when_
  split <;> rfl

@[simp] theorem sendItem_events (kind ctx : Nat) (p : Bytes) (s : State) : (sendItem kind ctx p s).events = s.events := rfl

@[simp] theorem withhold_events (c : CtxNo) (s : State) : (withhold c s).events = s.events := rfl

/-- An event goes to the log, with its code and the present bead. -/
theorem raiseAt_events (code : Nat) (ctx : Option CtxNo) (unit unit2 : Nat) (hold located : Bool) (arg : Bytes) (s : State) :
    (raiseAt code ctx unit unit2 hold located arg s).events =
      logRecord { code := code, nonmaskable := evNonMaskable code, withhold := hold, located := located, ctx := ctx.getD 0xFF,
                  unit := unit, unit2 := unit2, bead := s.bead, period := s.period, arg := slice arg 0 12 } s.events := by
  unfold raiseAt
  extract_lets nm r masked s1 s2 s3 s4
  have h2 : s2.events = logRecord r s.events := by cases ctx <;> rfl
  have h3 : s3.events = s2.events := by
    cases ctx with
    | none => rfl
    | some c =>
      simp only [s3]
      split
      · split <;> simp
      · rfl
  have h4 : s4.events = s3.events := by
    simp only [s4]
    split
    · exact pushNotice_events _ _
    · rfl
  split
  · rw [startFreeze_events, h4, h3, h2]
  · rw [h4, h3, h2]

/-- The log of a state goes on from another's. -/
def LogFrom (s t : State) : Prop := ∃ new, t.events.log = new ++ s.events.log

theorem LogFrom.refl (s : State) : LogFrom s s := ⟨[], rfl⟩

theorem LogFrom.trans {s t u : State} (h : LogFrom s t) (k : LogFrom t u) : LogFrom s u := by
  obtain ⟨a, ha⟩ := h
  obtain ⟨b, hb⟩ := k
  exact ⟨b ++ a, by rw [hb, ha, List.append_assoc]⟩

theorem LogFrom.of_events {s t : State} (h : t.events = s.events) : LogFrom s t := ⟨[], by rw [h]; rfl⟩

theorem raiseAt_logFrom (code : Nat) (ctx : Option CtxNo) (unit unit2 : Nat) (hold located : Bool) (arg : Bytes) (s : State) :
    LogFrom s (raiseAt code ctx unit unit2 hold located arg s) := by
  rw [LogFrom, raiseAt_events]
  exact ⟨[_], rfl⟩

/-- An event raised in a state whose log and bead are those of `s`, or go on from them. -/
theorem raised_raiseAt {s t : State} (hlog : LogFrom s t) (hbead : t.bead = s.bead) (code : Nat) (ctx : Option CtxNo)
    (unit unit2 : Nat) (hold located : Bool) (arg : Bytes) :
    raised code s (raiseAt code ctx unit unit2 hold located arg t) := by
  obtain ⟨new, hnew⟩ := hlog
  rw [raised, raiseAt_events]
  exact ⟨_ :: new, by rw [List.cons_append, ← hnew]; rfl, _, List.mem_cons_self, rfl, hbead⟩

theorem raised_raise {s t : State} (hlog : LogFrom s t) (hbead : t.bead = s.bead) (code : Nat) (arg : Bytes) :
    raised code s (raise code arg t) := raised_raiseAt hlog hbead ..

theorem raised_raise_of {s t : State} {code : Nat} {arg : Bytes} (hev : t.events = s.events) (hbead : t.bead = s.bead) :
    raised code s (raise code arg t) := raised_raise (.of_events hev) hbead code arg

theorem raised_raiseAt_of {s t : State} {code : Nat} {ctx : Option CtxNo} {unit unit2 : Nat} {hold located : Bool} {arg : Bytes}
    (hev : t.events = s.events) (hbead : t.bead = s.bead) : raised code s (raiseAt code ctx unit unit2 hold located arg t) :=
  raised_raiseAt (.of_events hev) hbead ..

/-- A record that is in the log stays there. -/
theorem raised.later {code : Nat} {s t u : State} (h : raised code s t) (k : LogFrom t u) : raised code s u := by
  obtain ⟨new, hnew, r, hr, hcode⟩ := h
  obtain ⟨more, hmore⟩ := k
  exact ⟨more ++ new, by rw [hmore, hnew, List.append_assoc], r, List.mem_append_right _ hr, hcode⟩

theorem foldl_logFrom {α : Type} (f : State → α → State) (h : ∀ t a, LogFrom t (f t a)) (l : List α) (s : State) :
    LogFrom s (l.foldl f s) := by
  induction l generalizing s with
  | nil => exact .refl s
  | cons a r ih => exact (h s a).trans (ih _)

/-! ## The contexts under an event -/

@[simp] theorem pushNotice_ctxs (bs : Bytes) (s : State) : (pushNotice bs s).ctxs = s.ctxs := by
  unfold pushNotice
  split
  · simp
  · exact foldl_keeps (g := State.ctxs) (fun t c => by simp) _ s

@[simp] theorem startFreeze_ctxs (s : State) : (startFreeze s).ctxs = s.ctxs := by
  unfold startFreeze when_
  split <;> rfl

/-- An event that withholds nothing marks its context's LAST_EVT alone. -/
theorem raiseAt_ctxs (code : Nat) (ctx : Option CtxNo) (unit unit2 : Nat) (located : Bool) (arg : Bytes) (s : State) :
    (raiseAt code ctx unit unit2 false located arg s).ctxs =
      match ctx with
      | some c => modifyAt (fun x => { x with lastEvt := BitVec.ofNat 16 code }) c s.ctxs
      | none => s.ctxs := by
  unfold raiseAt
  extract_lets nm r masked s1 s2 s3 s4
  have h3 : s3.ctxs = match ctx with
      | some c => modifyAt (fun x => { x with lastEvt := BitVec.ofNat 16 code }) c s.ctxs
      | none => s.ctxs := by
    cases ctx <;> rfl
  have h4 : s4.ctxs = s3.ctxs := by
    simp only [s4]
    split
    · exact pushNotice_ctxs _ _
    · rfl
  split
  · rw [startFreeze_ctxs, h4, h3]
  · rw [h4, h3]

@[simp] theorem raise_ctxs (code : Nat) (arg : Bytes) (s : State) : (raise code arg s).ctxs = s.ctxs := raiseAt_ctxs ..

@[simp] theorem raiseAt_held (code : Nat) (ctx : Option CtxNo) (unit unit2 : Nat) (located : Bool) (arg : Bytes) (s : State)
    (d : CtxNo) : (raiseAt code ctx unit unit2 false located arg s).held d = s.held d := by
  rw [State.held, State.ctx, raiseAt_ctxs]
  cases ctx with
  | none => rfl
  | some c =>
    have := State.modCtx_ctx (fun x => { x with lastEvt := BitVec.ofNat 16 code }) c d s
    simp only [State.ctx, State.modCtx] at this ⊢
    rw [this]
    split <;> rfl

@[simp] theorem startFreeze_out (s : State) : (startFreeze s).out = s.out := by
  unfold startFreeze when_
  split <;> rfl

/-- An event that causes no notice sends nothing. -/
theorem raiseAt_out {code : Nat} (hquiet : evNotice code = false) (ctx : Option CtxNo) (unit unit2 : Nat) (located : Bool)
    (arg : Bytes) (s : State) : (raiseAt code ctx unit unit2 false located arg s).out = s.out := by
  unfold raiseAt
  extract_lets nm r masked s1 s2 s3 s4
  have h3 : s3.out = s.out := by
    cases ctx <;> rfl
  have h4 : s4 = s3 := if_neg (by simp [hquiet])
  split
  · rw [startFreeze_out, h4, h3]
  · rw [h4, h3]

/-! ## Items -/

/-- The waiting items of a kind. -/
def itemsOfKind (kind : Nat) (l : List TwinItem) : List TwinItem := l.filter fun i => decide (i.kind.toNat % 128 = kind)

theorem itemsOf_kind (kind ctx copies : Nat) (ps : List Bytes) (hkind : kind < 128) :
    ∀ i ∈ itemsOf kind ctx copies ps, i.kind.toNat % 128 = kind := by
  induction ps with
  | nil => exact fun i hi => nomatch hi
  | cons p ps ih =>
    cases ps with
    | nil =>
      intro i hi
      obtain rfl := List.mem_singleton.mp hi
      simp; omega
    | cons q r =>
      intro i hi
      rcases List.mem_cons.mp hi with rfl | hi
      · simp; omega
      · exact ih i hi

theorem itemsOf_length (kind ctx copies : Nat) (ps : List Bytes) : (itemsOf kind ctx copies ps).length = ps.length := by
  induction ps with
  | nil => rfl
  | cons p ps ih =>
    cases ps with
    | nil => rfl
    | cons q r => exact congrArg Nat.succ ih

/-- New items are those that waited and the new ones, in another order. -/
theorem queueItems_perm (new l : List TwinItem) : (queueItems new l).Perm (new ++ l) := by
  cases new with
  | nil => exact .refl l
  | cons i r =>
    simp only [queueItems]
    refine (List.perm_append_comm.append_right _).trans ?_
    rw [List.append_assoc, List.takeWhile_append_dropWhile]

/-- A payload goes out in as many items as it has pieces; no other kind gains one. -/
theorem itemsOfKind_sendItem (k kind ctx : Nat) (p : Bytes) (s : State) (hkind : kind < 128) :
    (itemsOfKind k (sendItem kind ctx p s).pair.link.items).length =
      (itemsOfKind k s.pair.link.items).length + if k = kind then (if p = [] then 1 else (chunks itemBytes p).length) else 0 := by
  have hnew : (itemsOfKind k (itemsOf kind ctx (if itemRank kind = 0 then 2 else 1)
      (if p = [] then [[]] else chunks itemBytes p))).length = if k = kind then (if p = [] then 1 else (chunks itemBytes p).length) else 0 := by
    generalize (if itemRank kind = 0 then 2 else 1) = copies
    have hkinds := itemsOf_kind kind ctx copies (if p = [] then [[]] else chunks itemBytes p) hkind
    unfold itemsOfKind
    by_cases h : k = kind
    · rw [if_pos h, List.filter_eq_self.mpr fun i hi => decide_eq_true ((hkinds i hi).trans h.symm), itemsOf_length]
      split <;> rfl
    · rw [if_neg h, List.filter_eq_nil_iff.mpr fun i hi => by rw [hkinds i hi]; simpa using Ne.symm h]
      rfl
  have hperm := queueItems_perm (itemsOf kind ctx (if itemRank kind = 0 then 2 else 1) (if p = [] then [[]] else chunks itemBytes p))
    s.pair.link.items
  have hlen := (hperm.filter fun i => decide (i.kind.toNat % 128 = k)).length_eq
  rw [List.filter_append, List.length_append] at hlen
  exact hlen.trans ((Nat.add_comm _ _).trans (congrArg _ hnew))

/-! ## Lists cut into pieces -/

theorem cuts_length {α : Type} (n k : Nat) (l : List α) : (cuts n k l).length = k := by
  induction k generalizing l with
  | zero => rfl
  | succ k ih => simp [cuts, ih]

@[simp] theorem chunks_length {α : Type} (n : Nat) (l : List α) : (chunks n l).length = cdiv l.length n := cuts_length _ _ _

theorem cdiv_pos {a n : Nat} (ha : 0 < a) (hn : 0 < n) : 0 < cdiv a n := by
  unfold cdiv
  exact Nat.div_pos (by omega) hn

/-- An item waits more than before. -/
theorem itemSent_sendItem {kind : Nat} (hkind : kind < 128) (ctx : Nat) (p : Bytes) (s : State) :
    itemSent kind s (sendItem kind ctx p s) := by
  have h := itemsOfKind_sendItem kind kind ctx p s hkind
  unfold itemSent
  unfold itemsOfKind at h
  rw [h, if_pos rfl]
  split
  · exact Nat.lt_succ_self _
  · next hp =>
    have : 0 < (chunks itemBytes p).length := by
      rw [chunks_length]
      exact cdiv_pos (List.length_pos_iff.mpr hp) (by decide)
    omega

end Sys2Proof.Machine
end

section
/-! What a judgement of health leaves (R413 to R415). -/

namespace Sys2Proof.Machine

theorem forceAll_eq (s : State) : ∃ l, forceAll s = { s with ctxs := l } := by
  unfold forceAll
  generalize s.admitted = cs
  induction cs generalizing s with
  | nil => exact ⟨_, rfl⟩
  | cons c r ih =>
    obtain ⟨l, hl⟩ := ih (forceRelease c s)
    exact ⟨l, hl⟩

@[simp] theorem forceAll_fields (s : State) :
    (forceAll s).grade = s.grade ∧ (forceAll s).bead = s.bead ∧ (forceAll s).beadInRot = s.beadInRot ∧
    (forceAll s).rotLen = s.rotLen ∧ (forceAll s).period = s.period ∧ (forceAll s).rotCount = s.rotCount ∧
    (forceAll s).spares = s.spares ∧ (forceAll s).clock = s.clock ∧ (forceAll s).power = s.power ∧
    (forceAll s).thermal = s.thermal ∧ (forceAll s).locket = s.locket ∧ (forceAll s).startup = s.startup ∧
    (forceAll s).ports = s.ports ∧ (forceAll s).inbox = s.inbox ∧ (forceAll s).bezel = s.bezel ∧
    (forceAll s).store = s.store ∧ (forceAll s).clasps = s.clasps ∧ (forceAll s).cast = s.cast ∧
    (forceAll s).signets = s.signets ∧ (forceAll s).strands = s.strands ∧ (forceAll s).effects = s.effects ∧
    (forceAll s).events = s.events ∧ (forceAll s).pair = s.pair ∧ (forceAll s).mgmt = s.mgmt ∧ (forceAll s).health = s.health := by
  obtain ⟨l, hl⟩ := forceAll_eq s
  simp [hl]

@[simp] theorem judgeHealth_fields (code : Nat) (s : State) :
    (judgeHealth code s).grade = s.grade ∧ (judgeHealth code s).bead = s.bead ∧ (judgeHealth code s).beadInRot = s.beadInRot ∧
    (judgeHealth code s).rotLen = s.rotLen ∧ (judgeHealth code s).period = s.period ∧ (judgeHealth code s).rotCount = s.rotCount ∧
    (judgeHealth code s).spares = s.spares ∧ (judgeHealth code s).clock = s.clock ∧ (judgeHealth code s).power = s.power ∧
    (judgeHealth code s).thermal = s.thermal ∧ (judgeHealth code s).locket = s.locket ∧ (judgeHealth code s).startup = s.startup ∧
    (judgeHealth code s).ports = s.ports ∧ (judgeHealth code s).inbox = s.inbox ∧ (judgeHealth code s).bezel = s.bezel ∧
    (judgeHealth code s).store = s.store ∧ (judgeHealth code s).clasps = s.clasps ∧
    (judgeHealth code s).signets = s.signets ∧ (judgeHealth code s).strands = s.strands ∧
    (judgeHealth code s).effects = s.effects ∧ (judgeHealth code s).pair.regs = s.pair.regs ∧
    (judgeHealth code s).pair.join = s.pair.join ∧ (judgeHealth code s).pair.takeover = s.pair.takeover := by
  unfold judgeHealth
  dsimp only
  split
  case isTrue => simp only [and_self]
  case isFalse =>
    split
    case isTrue => simp
    case isFalse =>
      split
      case isTrue => split <;> simp
      case isFalse => simp

theorem judgeHealth_logFrom (code : Nat) (s : State) : LogFrom s (judgeHealth code s) := by
  unfold judgeHealth
  extract_lets h sources changed due released
  have hchanged : LogFrom s due := by
    refine (LogFrom.of_events (t := { s with health := { s.health with now := h } }) rfl).trans ?_
    exact LogFrom.trans (t := changed) (raiseAt_logFrom ..) (.of_events rfl)
  split
  case isTrue => exact .refl s
  case isFalse =>
    split
    case isTrue => exact hchanged.trans (raiseAt_logFrom ..)
    case isFalse =>
      refine hchanged.trans (.of_events ?_)
      split
      case isTrue =>
        have hreleased : released.events = due.events := by simp only [released, forceAll_fields]; rfl
        split
        · exact hreleased
        · exact hreleased
      case isFalse => rfl

theorem setHealth_logFrom (f : HealthSources → HealthSources) (code : Nat) (s : State) : LogFrom s (setHealth f code s) :=
  (LogFrom.of_events (s := s) (t := { s with health := f s.health }) rfl).trans (judgeHealth_logFrom ..)

@[simp] theorem setHealth_fields (f : HealthSources → HealthSources) (code : Nat) (s : State) :
    (setHealth f code s).grade = s.grade ∧ (setHealth f code s).bead = s.bead ∧ (setHealth f code s).beadInRot = s.beadInRot ∧
    (setHealth f code s).rotLen = s.rotLen ∧ (setHealth f code s).period = s.period ∧ (setHealth f code s).rotCount = s.rotCount ∧
    (setHealth f code s).spares = s.spares ∧ (setHealth f code s).clock = s.clock ∧ (setHealth f code s).power = s.power ∧
    (setHealth f code s).thermal = s.thermal ∧ (setHealth f code s).locket = s.locket ∧ (setHealth f code s).startup = s.startup ∧
    (setHealth f code s).ports = s.ports ∧ (setHealth f code s).inbox = s.inbox ∧ (setHealth f code s).bezel = s.bezel ∧
    (setHealth f code s).store = s.store ∧ (setHealth f code s).clasps = s.clasps ∧
    (setHealth f code s).signets = s.signets ∧ (setHealth f code s).strands = s.strands ∧
    (setHealth f code s).effects = s.effects ∧ (setHealth f code s).pair.regs = s.pair.regs ∧
    (setHealth f code s).pair.join = s.pair.join ∧ (setHealth f code s).pair.takeover = s.pair.takeover := by
  simp [setHealth]

theorem leadFault_fields (s : State) :
    (leadFault s).grade = s.grade ∧ (leadFault s).bead = s.bead ∧ (leadFault s).clock = s.clock ∧
    (leadFault s).power = s.power ∧ (leadFault s).thermal = s.thermal ∧ (leadFault s).events = s.events := by
  unfold leadFault
  split <;> exact ⟨rfl, rfl, rfl, rfl, rfl, rfl⟩

/-! ## Draws of the random generator (R379) -/

@[simp] theorem rngFails_locket (s : State) : (rngFails s).locket = { s.locket with rngFailed := true } := by
  simp [rngFails, setHealth]

/-- A state with more draws made. -/
def State.drawn (s : State) (n : Nat) : State := s.modLocket fun l => { l with draws := n }

@[simp] theorem State.drawn_drawn (s : State) (m n : Nat) : (s.drawn m).drawn n = s.drawn n := rfl

/-- A draw after which the generator has not failed has counted, and changed nothing else. -/
theorem drawKey_sound {s : State} (h : (drawKey s).2.locket.rngFailed = false) :
    s.locket.rngFailed = false ∧ ∃ n, (drawKey s).2 = s.drawn n := by
  unfold drawKey at h ⊢
  dsimp only at h ⊢
  split at h
  · simp at h
  · rename_i hlife
    rw [if_neg hlife]
    exact ⟨h, _, rfl⟩

theorem drawNumber_sound {s : State} (h : (drawNumber s).2.locket.rngFailed = false) : ∃ n, (drawNumber s).2 = s.drawn n := by
  obtain ⟨hfirst, m, hm⟩ := drawKey_sound (s := (drawKey s).2) h
  obtain ⟨-, n, hn⟩ := drawKey_sound hfirst
  exact ⟨m, hm.trans (by rw [hn, State.drawn_drawn])⟩

theorem drawOther_sound (f : Nat) (k : BitVec 128) {s : State} (h : (drawOther f k s).2.locket.rngFailed = false) :
    s.locket.rngFailed = false ∧ ∃ n, (drawOther f k s).2 = s.drawn n := by
  induction f generalizing s with
  | zero =>
    rw [drawOther] at h ⊢
    split at h
    · simp at h
    · next hother =>
      rw [if_neg hother]
      exact drawKey_sound h
  | succ f ih =>
    rw [drawOther] at h ⊢
    split at h
    · next hsame =>
      rw [if_pos hsame]
      obtain ⟨hfirst, n, hn⟩ := ih h
      obtain ⟨hs, m, hm⟩ := drawKey_sound hfirst
      exact ⟨hs, n, by rw [hn, hm, State.drawn_drawn]⟩
    · next hother =>
      rw [if_neg hother]
      exact drawKey_sound h

/-- A key pair from a generator that has not failed. -/
theorem drawPair_sound {s : State} (h : (drawPair s).2.locket.rngFailed = false) : ∃ n, (drawPair s).2 = s.drawn n := by
  obtain ⟨hfirst, n, hn⟩ := drawOther_sound 63 (drawKey s).1 (s := (drawKey s).2) h
  obtain ⟨-, m, hm⟩ := drawKey_sound hfirst
  exact ⟨n, hn.trans (by rw [hm, State.drawn_drawn])⟩

theorem loadPair_sound {c : CtxNo} {s : State} (h : (drawPair s).2.locket.rngFailed = false) :
    loadPair c s = (drawPair s).2.modBezel fun b => { b with keys := assocSet c (drawPair s).1 b.keys } := by
  simp [loadPair, h]

theorem loadPair_failed {c : CtxNo} {s : State} (h : (drawPair s).2.locket.rngFailed = true) : loadPair c s = (drawPair s).2 := by
  simp [loadPair, h]

/-! ## What failing draws leave of a context -/

/-- A context keeps its Strand, its scrub, its security state and its mailbox. -/
structure CtxLeft (x y : Ctx) : Prop where
  strand : y.strand = x.strand
  scrub : y.scrub = x.scrub
  sec : y.sec = x.sec
  mailbox : y.mailbox = x.mailbox

/-- Between two states each context keeps these parts. -/
def CtxStays (s t : State) : Prop := ∀ c, CtxLeft (s.ctx c) (t.ctx c)

theorem CtxStays.refl (s : State) : CtxStays s s := fun _ => ⟨rfl, rfl, rfl, rfl⟩

theorem CtxStays.trans {s t u : State} (h : CtxStays s t) (k : CtxStays t u) : CtxStays s u := fun c =>
  ⟨(k c).strand.trans (h c).strand, (k c).scrub.trans (h c).scrub, (k c).sec.trans (h c).sec, (k c).mailbox.trans (h c).mailbox⟩

theorem CtxStays.of_ctxs {s t : State} (h : t.ctxs = s.ctxs) : CtxStays s t := fun c => by
  have hc : t.ctx c = s.ctx c := by rw [State.ctx, State.ctx, h]
  rw [hc]
  exact CtxStays.refl s c

theorem forceRelease_stays (c : CtxNo) (s : State) : CtxStays s (forceRelease c s) := fun d => by
  rw [forceRelease, State.modCtx_ctx]
  split <;> exact ⟨rfl, rfl, rfl, rfl⟩

theorem forceAll_stays (s : State) : CtxStays s (forceAll s) := by
  unfold forceAll
  generalize s.admitted = cs
  induction cs generalizing s with
  | nil => exact .refl s
  | cons c r ih => exact (forceRelease_stays c s).trans (ih _)

theorem judgeHealth_stays (code : Nat) (s : State) : CtxStays s (judgeHealth code s) := by
  unfold judgeHealth
  extract_lets h sources changed due released
  have hdue : CtxStays s due := .of_ctxs (raise_ctxs ..)
  split
  case isTrue => exact .refl s
  case isFalse =>
    split
    case isTrue => exact hdue.trans (.of_ctxs (raise_ctxs ..))
    case isFalse =>
      split
      case isTrue =>
        have hreleased : CtxStays due released := forceAll_stays (due.modHm fun m => { m with readySince := none })
        split
        · exact hdue.trans hreleased
        · exact hdue.trans hreleased
      case isFalse => exact hdue

theorem rngFails_stays (s : State) : CtxStays s (rngFails s) := by
  have hraise : CtxStays s (raise evLocketRng [] (s.modLocket fun l => { l with rngFailed := true })) := .of_ctxs (raise_ctxs ..)
  have hjudge := judgeHealth_stays evLocketRng { raise evLocketRng [] (s.modLocket fun l => { l with rngFailed := true }) with
    health := { (raise evLocketRng [] (s.modLocket fun l => { l with rngFailed := true })).health with fatal := true } }
  exact hraise.trans hjudge

theorem drawKey_stays (s : State) : CtxStays s (drawKey s).2 := by
  unfold drawKey
  dsimp only
  split
  · exact CtxStays.trans (t := s.drawn (s.locket.draws + 1)) (.of_ctxs rfl) (rngFails_stays (s.drawn _))
  · exact .refl s

theorem drawOther_stays (f : Nat) (k : BitVec 128) (s : State) : CtxStays s (drawOther f k s).2 := by
  induction f generalizing s with
  | zero =>
    rw [drawOther]
    split
    · exact (drawKey_stays s).trans (rngFails_stays _)
    · exact drawKey_stays s
  | succ f ih =>
    rw [drawOther]
    split
    · exact (drawKey_stays s).trans (ih _)
    · exact drawKey_stays s

theorem drawPair_stays (s : State) : CtxStays s (drawPair s).2 := (drawKey_stays s).trans (drawOther_stays 63 (drawKey s).1 (drawKey s).2)

end Sys2Proof.Machine
end

section
/-! O1 is refuted: a piece number that no run reaches leads past the LP4X addresses. -/

namespace Sys2Proof.Machine

/-- A context whose segment 0 is 1 KiB of channel 0. -/
def oneLineCtx : Ctx := { Ctx.reset with segs := [(0, ⟨true, true, false, 0, 0, 0, 1, 0, 0⟩)] }

/-- A lead that copies LP4X granule 0, at piece 2^38, whose address is the first of the stores; every mover is taken. -/
def pieceBeyondLp4x : State :=
  { (State.reset.modTwin fun p => { p with role := .lead }).modJoin fun j =>
      { j with since := some 0, toCopy := [0], part := 2 ^ 38, moved := (0, 16) } with
    ctxs := List.replicate 257 oneLineCtx }

theorem pieceBeyondLp4x_line : granuleLine pieceBeyondLp4x (0 + pieceBytes * pieceBeyondLp4x.pair.join.part) = some (0, 0) := by
  decide +kernel

theorem pieceBeyondLp4x_start : copyStart pieceBeyondLp4x 0 = true := by decide +kernel

/-- The piece is not read, and no slot start is taken. -/
theorem granuleCopy_pieceBeyondLp4x : slotTaken (granuleCopy pieceBeyondLp4x) 0 = false := by decide +kernel

/-- Refutes O1: `join.part` is not bounded in the LP4X clause of GRANULE_COPY; from piece 2^38 on, the piece's address lies among
the stores', where the lead needs a mover and takes no slot start. -/
theorem not_granulesMove : ¬ Obligations.GranulesMove := by
  rintro ⟨_, _, _, _, lineCopies⟩
  have hanswers := lineCopies pieceBeyondLp4x 0 0 0 [] rfl rfl rfl (by decide) pieceBeyondLp4x_line pieceBeyondLp4x_start
    (by decide +kernel)
  obtain ⟨-, htaken, -⟩ := (answers_iff (rfl : exec .granuleCopy pieceBeyondLp4x = .next (granuleCopy pieceBeyondLp4x))).mp hanswers
  exact Bool.false_ne_true (granuleCopy_pieceBeyondLp4x.symm.trans htaken)

end Sys2Proof.Machine
end

section
/-! The join, step by step (R344 to R346). -/

namespace Sys2Proof.Machine

/-! ## The pair key (R344, R392) -/

/-- A joiner with a level outside its interface range refuses (R344). -/
theorem linkTrained_exchange {q : PairCert} {x : PairShare} {ls : List Half} {s : State} (hstep : s.pair.join.step = 1)
    (hgood : 1024 ≤ s.pair.link.goodRun) (hrng : s.locket.rngFailed = false)
    (hls : ∀ l ∈ ls, s.strands.ifaceMin ≤ l.toNat ∧ l.toNat ≤ s.strands.ifaceMax)
    (hdraw : (drawNumber s).2.locket.rngFailed = false) :
    linkTrained q x ls s =
      match pairKeyOf (drawNumber s).2 (drawNumber s).1 q x with
      | some k => pairFormed k q (drawNumber s).2
      | none => raise evPairWiring [] (joinFrom 0 (drawNumber s).2) := by
  have hlevels : (ls.any fun l => decide (l.toNat < s.strands.ifaceMin ∨ s.strands.ifaceMax < l.toNat)) = false := by
    rw [List.any_eq_false]
    intro l hl
    have := hls l hl
    simp only [decide_eq_true_eq]
    omega
  have hgo : ¬ (s.pair.join.step ≠ 1 ∨ s.pair.link.goodRun < 1024 ∨ s.locket.rngFailed) := by
    simp [hstep, hrng, hgood]
  simp only [linkTrained, if_neg hgo, hlevels, hdraw, Bool.false_eq_true, and_false, if_false] <;> rfl

/-! ## Convergence (R346) -/

theorem convergedNow_true {s : State} (hbead : s.beadInRot = 8) (hcopy : copying s = true)
    (hlead : s.pair.regs.role = .lead → s.pair.join.cleanAt = some s.rotCount ∧ s.pair.join.toCopy = [] ∧ s.pair.join.dirty = []
        ∧ ∀ i ∈ s.pair.link.items, i.kind.toNat % 128 ≠ 8)
    (hjoiner : s.pair.regs.role ≠ .lead → s.pair.join.waiting = []) : convergedNow s = true := by
  simp only [convergedNow, hbead, hcopy, decide_true, Bool.true_and]
  by_cases h : s.pair.regs.role = .lead
  · obtain ⟨hclean, hcopied, hdirty, hsync⟩ := hlead h
    simpa [h, hclean, hcopied, hdirty] using hsync
  · simp [h, hjoiner h]

theorem relayGrants_evFrame (s : State) : EvFrame s (relayGrants s) := by
  refine foldl_evFrame _ (fun t c => ?_) _ s
  dsimp only
  split
  · exact sendItem_evFrame ..
  · exact .refl t

/-- Settles O2, clause by clause from the model's steps. -/
theorem joinsRun : Obligations.JoinsRun := by
  refine ⟨?trained, ?joiner, ?lead, ?leadShadow, ?joinerShadow, ?converge, ?dirty, ?stalled⟩
  case trained =>
    intro s q x ls hstep hgood hrng hls hdraw
    obtain ⟨n, hn⟩ := drawNumber_sound hdraw
    have hexchange := linkTrained_exchange (q := q) (x := x) hstep hgood hrng hls hdraw
    refine ⟨fun k hk => (answers_iff rfl).mpr ?_, fun hnone => (answers_iff rfl).mpr ?_⟩
    · rw [hexchange, hk, hn]
      exact ⟨rfl, rfl, rfl⟩
    · have hend : linkTrained q x ls s = raise evPairWiring [] (joinFrom 0 (s.drawn n)) := by rw [hexchange, hnone, hn]
      rw [hend]
      exact ⟨by simp [joinFrom], by simp [joinFrom, State.drawn],
        raised_raise_of (by simp [joinFrom, State.drawn]) (by simp [joinFrom, State.drawn])⟩
  case joiner =>
    intro s bead period hrole hstep hnone
    refine (answers_iff rfl).mpr ?_
    rw [counterAdopt, if_pos ⟨hrole, hstep, hnone⟩]
    exact ⟨rfl, rfl, rfl, rfl, rfl⟩
  case lead =>
    intro s bead period hrole hstep
    refine (answers_iff rfl).mpr ?_
    have hframe := relayGrants_evFrame (s.modJoin fun j => { j with step := 4 })
    rw [counterAdopt, if_neg (by simp [hrole]), if_pos ⟨hrole, hstep⟩]
    exact ⟨by rw [hframe.join]; rfl, hframe.bead, hframe.period⟩
  case leadShadow =>
    intro s gs hstep hrole hall
    refine (answers_iff rfl).mpr ?_
    have hkept : (joinCtxs s).filter (setAllows s) = joinCtxs s := List.filter_eq_self.mpr hall
    have hrefused : (joinCtxs s).filter (fun c => !setAllows s c) = [] :=
      List.filter_eq_nil_iff.mpr fun c hc => by simp [hall c hc]
    have hfollows : s.follows = false := by simp [State.follows, hrole]
    simp only [shadowAdmission, hstep, hfollows, hrole, hkept, hrefused, List.foldl_nil]
    exact ⟨rfl, rfl, rfl, rfl, rfl⟩
  case joinerShadow =>
    intro s gs hstep hfollows hboundary hrelease hswap
    refine (answers_iff rfl).mpr ?_
    simp only [shadowAdmission, hstep, hfollows, hboundary, hrelease, hswap]
    exact ⟨rfl, rfl, rfl⟩
  case converge =>
    intro s hbead hcopy hlead hjoiner
    refine (answers_iff rfl).mpr ?_
    rw [joinConverge, if_neg (by rw [convergedNow_true hbead hcopy hlead hjoiner]; exact Bool.noConfusion)]
    exact ⟨by simp, by simp, by simp [Join.reset], by simp, raised_raise_of (by simp) (by simp), by simp⟩
  case dirty =>
    intro s hrole hdirty
    refine (answers_iff rfl).mpr ?_
    have hnot : convergedNow s = false := by simp [convergedNow, hrole, hdirty]
    rw [joinConverge, if_pos hnot]
  case stalled =>
    intro s r hsince hlong
    refine (answers_iff rfl).mpr ?_
    simp only [resyncStalled, hsince, if_pos hlong]
    exact ⟨raised_raise_of (by simp) (by simp), by simp [copying], by simp, by simp⟩

end Sys2Proof.Machine
end

section
/-! The sea: forming, leaving and splitting (R119, R342, R466). -/

namespace Sys2Proof.Machine

@[simp] theorem foldl_max_le {l : List Nat} {a b : Nat} : l.foldl max a ≤ b ↔ a ≤ b ∧ ∀ x ∈ l, x ≤ b := by
  induction l generalizing a with
  | nil => simp
  | cons x r ih => simp [ih, and_assoc]

/-- With every transit within the latency less 4 beads, the longest is. -/
theorem longestTransit_le {l : List Nat} {s : State} : fabLatency s < l.foldl max 0 + 4 ↔ ∃ x ∈ l, fabLatency s < x + 4 := by
  have hmin : 32 ≤ fabLatency s := Nat.le_max_left ..
  have hmax : l.foldl max 0 ≤ fabLatency s - 4 ↔ ∀ x ∈ l, x ≤ fabLatency s - 4 := by simp
  constructor
  · intro h
    by_contra hno
    have := hmax.mpr fun x hx => by
      by_contra hlong
      exact hno ⟨x, hx, by omega⟩
    omega
  · rintro ⟨x, hx, hlong⟩
    by_contra hno
    have := hmax.mp (by omega) x hx
    omega

/-- A member that forms takes the number of the lowest-numbered one. -/
def withFirst (s : State) : State := s.modFabric fun f => { f with firstMod := lowestMember f % 4096 }

theorem seaFormed_due {locked moved : Bool} {ts : List Nat} {s : State} (hforming : s.fabric.state = .forming)
    (hdue : s.fabric.formedRot + 1024 ≤ s.rotCount) :
    seaFormed locked moved ts s =
      if seaMoves s (s.period + lowestAhead s.fabric) then
        formationFails (((List.range 4).filter fun p => decide ((s.clasp p).state = .up ∧ (s.clasp p).mode = 2)).foldl
          (fun t p => claspRaise evClaspAlign p t) (withFirst s))
      else if moved ∨ locked = false ∨ seaLock s = false ∨ fabLatency s < (s.fabric.transits ++ ts).foldl max 0 + 4 then
        formationFails (withFirst s)
      else
        { withFirst s with period := s.period + lowestAhead s.fabric,
                           fabric := { (withFirst s).fabric with state := .locked, silent := [], split := false, wraps := 0 } } := by
  rw [seaFormed, if_pos ⟨hforming, hdue⟩]
  rfl

theorem claspRaise_period (code p : Nat) (s : State) : (claspRaise code p s).period = s.period := by simp [claspRaise]

/-- A context whose fabric outputs a sea without its token withholds. -/
theorem withhold_held (c d : CtxNo) (s : State) :
    (withhold c s).held d = if d = c ∧ c < s.ctxs.length then true else s.held d := by
  simp only [State.held, withhold, State.modCtx_ctx]
  split
  · by_cases h : (s.ctx d).withheld = true <;> simp [h]
  · rfl

/-- One fabric context at a split of the sea. -/
def splitCtx (t : State) (c : CtxNo) : State :=
  if (raiseAt evSeaSplit (some c) 0xFFFF 0xFFFF false false [] t).mgmt.seaToken.held then
    raiseAt evSeaSplit (some c) 0xFFFF 0xFFFF false false [] t
  else withhold c (raiseAt evSeaSplit (some c) 0xFFFF 0xFFFF false false [] t)

theorem splitCtx_evFrame (t : State) (c : CtxNo) : EvFrame t (splitCtx t c) := by
  unfold splitCtx
  split
  · exact raiseAt_evFrame ..
  · exact (raiseAt_evFrame ..).trans (withhold_evFrame _ _)

theorem splitCtx_logFrom (t : State) (c : CtxNo) : LogFrom t (splitCtx t c) := by
  unfold splitCtx
  split
  · exact raiseAt_logFrom ..
  · exact (raiseAt_logFrom ..).trans (.of_events (withhold_events _ _))

theorem splitCtx_token (t : State) (c : CtxNo) : (splitCtx t c).mgmt.seaToken = t.mgmt.seaToken := by
  rw [(splitCtx_evFrame t c).mgmt]

theorem splitCtx_held (t : State) (c d : CtxNo) :
    (splitCtx t c).held d = if t.mgmt.seaToken.held = false ∧ d = c ∧ c < t.ctxs.length then true else t.held d := by
  unfold splitCtx
  cases h : t.mgmt.seaToken.held <;> simp [h, withhold_held]

/-- Without the token the fabric contexts' outputs are withheld; with it no context's are. -/
theorem foldl_splitCtx_held (l : List CtxNo) (t : State) (d : CtxNo) :
    (l.foldl splitCtx t).held d = if t.mgmt.seaToken.held = false ∧ d ∈ l ∧ d < t.ctxs.length then true else t.held d := by
  induction l generalizing t with
  | nil => simp
  | cons c r ih =>
    rw [List.foldl_cons, ih, splitCtx_token, splitCtx_held, (splitCtx_evFrame t c).ctxs]
    by_cases hd : d = c <;> by_cases hr : d ∈ r <;> simp [hd, hr] <;> grind

theorem seaSplit_due {m : Nat} {x : Silence} {s : State} (hx : assoc m s.fabric.silent = some x) (hlong : 64 ≤ x.count)
    (hwhole : s.fabric.split = false) :
    seaSplit m s = (fabricCtxs (raise evSeaSplit [] (s.modFabric fun f => { f with split := true }))).foldl splitCtx
      (raise evSeaSplit [] (s.modFabric fun f => { f with split := true })) := by
  simp only [seaSplit, hx, if_pos (And.intro hlong hwhole)]
  rfl

theorem fabricCtxs_congr {s t : State} (h : t.ctxs = s.ctxs) : fabricCtxs t = fabricCtxs s := by
  have hctx (c : CtxNo) : t.ctx c = s.ctx c := by rw [State.ctx, State.ctx, h]
  simp only [fabricCtxs, State.admitted, hctx]

/-- Settles O3: FORM, LEAVE, the end of a formation and a split, case by case. -/
theorem seaForms : Obligations.SeaForms := by
  refine ⟨?form, ?formFails, ?formIgnored, ?locked, ?failed, ?leave, ?stay, ?split⟩
  case form =>
    intro s hforming hlocked hmember hlock
    refine (answers_iff rfl).mpr ?_
    rw [form, if_neg (by simp [hforming, hlocked]), if_pos (by simp [hmember, hlock])]
    exact ⟨rfl, rfl, rfl⟩
  case formFails =>
    intro s hforming hlocked hno
    refine (answers_iff rfl).mpr ?_
    rw [form, if_neg (by simp [hforming, hlocked]), if_neg (by rcases hno with h | h <;> simp [h])]
    exact ⟨rfl, rfl⟩
  case formIgnored =>
    intro s hbusy
    refine (answers_iff rfl).mpr ?_
    rw [form, if_pos hbusy]
  case locked =>
    intro s ts hforming hdue hlock hstays htransits
    refine (answers_iff rfl).mpr ?_
    have hwithin : ¬ fabLatency s < (s.fabric.transits ++ ts).foldl max 0 + 4 := by
      rw [longestTransit_le]
      rintro ⟨x, hx, hlong⟩
      have := htransits x hx
      omega
    rw [seaFormed_due hforming hdue, hstays, if_neg Bool.false_ne_true, if_neg (by rw [hlock]; tauto)]
    exact ⟨rfl, rfl, rfl, rfl, rfl⟩
  case failed =>
    intro s l m ts hforming hdue hno
    refine (answers_iff rfl).mpr ?_
    have hbad : m = true ∨ l = false ∨ seaLock s = false ∨ fabLatency s < (s.fabric.transits ++ ts).foldl max 0 + 4 := by
      rw [longestTransit_le]
      tauto
    rw [seaFormed_due hforming hdue, if_pos hbad]
    split
    · exact ⟨rfl, foldl_keeps (g := State.period) (fun t p => claspRaise_period _ p t) _ _⟩
    · exact ⟨rfl, rfl⟩
  case leave =>
    intro s hnone
    refine (answers_iff rfl).mpr ?_
    rw [leaveSea, if_pos hnone]
    exact ⟨rfl, rfl, rfl, rfl⟩
  case stay =>
    intro s hsome
    refine (answers_iff rfl).mpr ?_
    rw [leaveSea, if_neg hsome]
  case split =>
    intro s m x hx hlong hwhole
    refine (answers_iff rfl).mpr ?_
    rw [seaSplit_due hx hlong hwhole, fabricCtxs_congr (raise_ctxs _ _ _)]
    have hheld := foldl_splitCtx_held (fabricCtxs s) (raise evSeaSplit [] (s.modFabric fun f => { f with split := true }))
    refine ⟨?_, ?_, fun c hc htoken hlt => ?_, fun htoken c => ?_⟩
    · rw [(foldl_evFrame _ splitCtx_evFrame _ _).fabric]
      simp
    · exact raised.later (raised_raise_of (by simp) (by simp)) (foldl_logFrom _ splitCtx_logFrom _ _)
    · refine (hheld c).trans (if_pos ?_)
      simp [htoken, hlt]
      exact hc
    · refine ((hheld c).trans (if_neg ?_)).trans (raiseAt_held ..)
      simp [htoken]

end Sys2Proof.Machine
end

section
/-! The root's references and the clock monitor (R352 to R355). -/

namespace Sys2Proof.Machine

/-- A lost source is logged; the clocks' states stay. -/
theorem sourceLost_spec (s : State) : (sourceLost s).bead = s.bead ∧ (sourceLost s).clock = s.clock ∧
    raised evClockSourceLost s (sourceLost s) := by
  obtain ⟨-, hbead, hclock, -, -, hevents⟩ :=
    leadFault_fields (s.admitted.foldl (fun t c => noteLocalFault c t) (raise evClockSourceLost [] s))
  refine ⟨hbead.trans ?_, hclock.trans ?_, .later (t := raise evClockSourceLost [] s) (raised_raise_of rfl rfl) (.of_events (hevents.trans ?_))⟩
  · exact (foldl_keeps (g := State.bead) (fun t c => by rfl) _ _).trans (by simp)
  · exact (foldl_keeps (g := State.clock) (fun t c => by rfl) _ _).trans (by simp)
  · exact foldl_keeps (g := State.events) (fun t c => by rfl) _ _

theorem slewTo_fields (r : Ref) (s : State) :
    (slewTo r s).bead = s.bead ∧ (slewTo r s).events = s.events ∧
    (slewTo r s).clock = { s.clock with ref := .holdover, toward := some r, nearWindows := 0 } := by
  unfold slewTo
  dsimp only
  split <;> exact ⟨rfl, rfl, rfl⟩

/-- A crystal without an edge: from then on the root neither follows it nor slews to it. -/
theorem crystalFails_spec (s : State) :
    (crystalFails s).bead = s.bead ∧ (crystalFails s).clock.xtalFailed = true ∧
    raised evClockSourceLost s (crystalFails s) ∧
    (s.clock.ref = .crystal → (crystalFails s).clock.ref = .holdover ∧ (crystalFails s).clock.toward = some .oscillator) := by
  unfold crystalFails
  extract_lets t
  obtain ⟨hbead, hevents, hclock⟩ := slewTo_fields .oscillator t
  have hkeep {u : State} (hu : u.bead = s.bead) (hev : u.events = s.events) : raised evClockSourceLost s (sourceLost u) := by
    obtain ⟨-, -, new, hnew, r, hr, hcode, hat⟩ := sourceLost_spec u
    exact ⟨new, hev ▸ hnew, r, hr, hcode, hat.trans hu⟩
  split
  · obtain ⟨hlostBead, hlostClock, -⟩ := sourceLost_spec (slewTo .oscillator t)
    refine ⟨hlostBead.trans hbead, ?_, hkeep hbead hevents, fun _ => ?_⟩
    · rw [hlostClock, hclock]; rfl
    · rw [hlostClock, hclock]; exact ⟨rfl, rfl⟩
  · next hother =>
    obtain ⟨hlostBead, hlostClock, -⟩ := sourceLost_spec t
    refine ⟨hlostBead, by rw [hlostClock]; rfl, hkeep rfl rfl, fun h => absurd (.inl h) hother⟩

/-! ## The stages of a monitor window (R354) -/

/-- The sources' windows, counted. -/
def countWindows (w : MonitorWindow) (s : State) : State :=
  (List.range 4).foldl (fun t p => claspWindow p (w.claspOff.getD p false) (w.claspNear.getD p false) t) (s.modClock fun c =>
    { c with xtalOff := if w.xtalOff then c.xtalOff + 1 else 0, oscOff := if w.oscOff then c.oscOff + 1 else 0,
             twinOff := if w.twinOff then c.twinOff + 1 else 0, nearWindows := if w.rootNear then c.nearWindows + 1 else 0,
             offset := if c.xtalFailed then 0x8000 else w.offset })

/-- The internal oscillator, judged against the crystal. -/
def judgeOscillator (s : State) : State :=
  if s.clock.oscFault = false ∧ 16 ≤ s.clock.oscOff then
    raise evClockMonitorFault [] (s.modClock fun c => { c with oscFault := true })
  else s

/-- The root PLL's lock, judged. -/
def judgeRootLock (dropped : Bool) (s : State) : State :=
  if dropped ∧ s.clock.rootLock then
    setHealth (fun h => { h with fatal := true }) evClockSourceLost (sourceLost (s.modClock fun c => { c with rootLock := false }))
  else s

/-- The drive-lock source, judged. -/
def judgeLockSource (s : State) : State :=
  if lockSourceFails s then
    raise evLockSourceLost [] (slewTo (ownRef s) (s.modClasp (fun c => { c with lockSrc := false, aligned := false, alignFailed := false })
      s.clock.lockPort))
  else s

/-- The twin clock, judged. -/
def judgeTwinClock (s : State) : State := if s.clock.ref = .twin ∧ 2 ≤ s.clock.twinOff then slewTo (ownRef s) s else s

theorem countWindows_fields (w : MonitorWindow) (s : State) :
    (countWindows w s).bead = s.bead ∧ (countWindows w s).events = s.events ∧
    (countWindows w s).clock.ref = s.clock.ref ∧ (countWindows w s).clock.xtalFailed = s.clock.xtalFailed := by
  unfold countWindows
  refine ⟨?_, ?_, ?_, ?_⟩
  · exact foldl_keeps (g := State.bead) (fun t p => by simp [claspWindow]) _ _
  · exact foldl_keeps (g := State.events) (fun t p => by simp [claspWindow]) _ _
  · exact foldl_keeps (g := fun t => t.clock.ref) (fun t p => by simp [claspWindow]) _ _
  · exact foldl_keeps (g := fun t => t.clock.xtalFailed) (fun t p => by simp [claspWindow]) _ _

theorem monitorWindow_noEdge {w : MonitorWindow} {s : State} (hno : w.xtalNoEdge = true) (hok : s.clock.xtalFailed = false) :
    monitorWindow w s =
      judgeTwinClock (judgeLockSource (judgeRootLock w.rootLockDropped (judgeOscillator (crystalFails (countWindows w s))))) := by
  obtain ⟨-, -, -, hclock⟩ := countWindows_fields w s
  have hfails : crystalFails (countWindows w s) =
      if (countWindows w s).clock.xtalFailed = false ∧
          (w.xtalNoEdge ∨ ((countWindows w s).clock.oscFault = false ∧ 2 ≤ (countWindows w s).clock.xtalOff)) then
        crystalFails (countWindows w s)
      else countWindows w s := (if_pos ⟨hclock.trans hok, .inl hno⟩).symm
  rw [hfails]
  rfl

/-- Between two states of a monitor window: the bead and the log go on, a failed crystal stays failed, and a root in holdover that
slews to the internal oscillator stays so. -/
structure MonitorKeeps (s t : State) : Prop where
  bead : t.bead = s.bead
  log : LogFrom s t
  failed : s.clock.xtalFailed = true → t.clock.xtalFailed = true
  slews : s.clock.ref = .holdover → s.clock.toward = some .oscillator →
    t.clock.ref = .holdover ∧ t.clock.toward = some .oscillator

theorem MonitorKeeps.trans {s t u : State} (h : MonitorKeeps s t) (k : MonitorKeeps t u) : MonitorKeeps s u where
  bead := k.bead.trans h.bead
  log := h.log.trans k.log
  failed hf := k.failed (h.failed hf)
  slews hr ht := let ⟨hr', ht'⟩ := h.slews hr ht; k.slews hr' ht'

theorem MonitorKeeps.refl (s : State) : MonitorKeeps s s := ⟨rfl, .refl s, id, fun hr ht => ⟨hr, ht⟩⟩

theorem judgeOscillator_keeps (s : State) : MonitorKeeps s (judgeOscillator s) := by
  unfold judgeOscillator
  split
  · exact ⟨by simp, (LogFrom.of_events rfl).trans (raiseAt_logFrom ..), by simp, fun hr ht => by simp [hr, ht]⟩
  · exact .refl s

theorem judgeRootLock_keeps (dropped : Bool) (s : State) : MonitorKeeps s (judgeRootLock dropped s) := by
  unfold judgeRootLock
  split
  · obtain ⟨hbead, hclock, new, hnew, -⟩ := sourceLost_spec (s.modClock fun c => { c with rootLock := false })
    exact ⟨by simp [hbead], .trans ⟨new, hnew⟩ (setHealth_logFrom ..), by simp [hclock], fun hr ht => by simp [hclock, hr, ht]⟩
  · exact .refl s

theorem judgeLockSource_keeps (s : State) : MonitorKeeps s (judgeLockSource s) := by
  unfold judgeLockSource
  split
  case isFalse => exact .refl s
  case isTrue hfails =>
    obtain ⟨hbead, hevents, hclock⟩ := slewTo_fields (ownRef s)
      (s.modClasp (fun c => { c with lockSrc := false, aligned := false, alignFailed := false }) s.clock.lockPort)
    refine ⟨by simp [hbead], (LogFrom.of_events hevents).trans (raiseAt_logFrom ..), by simp [hclock], fun hr ht => ?_⟩
    simp [lockSourceFails, hr, ht] at hfails

theorem judgeTwinClock_keeps (s : State) : MonitorKeeps s (judgeTwinClock s) := by
  unfold judgeTwinClock
  split
  case isFalse => exact .refl s
  case isTrue htwin =>
    obtain ⟨hbead, hevents, hclock⟩ := slewTo_fields (ownRef s) s
    refine ⟨hbead, .of_events hevents, by simp [hclock], fun hr ht => ?_⟩
    simp [hr] at htwin

/-- Settles O4: the change and the lock of a reference by the model's steps, the monitor window stage by stage. -/
theorem referencesAct : Obligations.ReferencesAct := by
  refine ⟨?change, ?lock, ?window⟩
  case change =>
    intro s hstep href htoward
    refine (answers_iff rfl).mpr ?_
    obtain ⟨hbead, -, hclock⟩ := slewTo_fields (wantedRef s) s
    rw [referenceChange, if_pos ⟨hstep, href, htoward⟩, hclock]
    exact ⟨rfl, rfl, rfl, hbead⟩
  case lock =>
    intro s r htoward hnear
    refine (answers_iff rfl).mpr ?_
    simp only [referenceLock, htoward, if_pos hnear]
    split <;> split <;> exact ⟨rfl, rfl, rfl⟩
  case window =>
    intro s w hok hno
    refine (answers_iff rfl).mpr ?_
    rw [monitorWindow_noEdge hno hok]
    obtain ⟨hbead, hfailed, ⟨new, hnew, r, hr, hcode, hat⟩, hslews⟩ := crystalFails_spec (countWindows w s)
    obtain ⟨hbead0, hevents0, href0, -⟩ := countWindows_fields w s
    have hkeeps := (((judgeOscillator_keeps (crystalFails (countWindows w s))).trans
      (judgeRootLock_keeps w.rootLockDropped _)).trans (judgeLockSource_keeps _)).trans (judgeTwinClock_keeps _)
    have hraised : raised evClockSourceLost s (crystalFails (countWindows w s)) :=
      ⟨new, by rw [hnew, hevents0], r, hr, hcode, hat.trans hbead0⟩
    refine ⟨hkeeps.failed hfailed, hraised.later hkeeps.log, hkeeps.bead.trans (hbead.trans hbead0), fun href => ?_⟩
    obtain ⟨hr', ht'⟩ := hslews (href0.trans href)
    exact hkeeps.slews hr' ht'

end Sys2Proof.Machine
end

section
/-! Operating points and spread spectrum (R356 to R360). -/

namespace Sys2Proof.Machine

theorem oppRequest_judged {v : Word} {s : State} (hgo : bit v 31 = true) (hidle : s.clock.oppBusy = false) :
    oppRequest v s = oppJudge (oppTarget v) (s.modClock fun c => { c with oppTarget := v.toNat % 4 }) := by
  simp [oppRequest, hgo, hidle]

/-- Settles O5: each request and change, by the model's step. -/
theorem operatingPoints : Obligations.OperatingPoints := by
  refine ⟨?allowed, ?refused, ?waits, ?change, ?divider, ?spread⟩
  case allowed =>
    intro s v hgo hidle hother hallowed
    refine (answers_iff rfl).mpr ?_
    have hok : oppAllowed (s.modClock fun c => { c with oppTarget := v.toNat % 4 }) (oppTarget v) = true := hallowed
    simp [oppRequest_judged hgo hidle, oppJudge, hother, hok]
  case refused =>
    intro s v hgo hidle hother hrefused
    refine (answers_iff rfl).mpr ?_
    have hno : oppAllowed (s.modClock fun c => { c with oppTarget := v.toNat % 4 }) (oppTarget v) = false := hrefused
    have hend : oppRequest v s = raise evOppRefused [BitVec.ofNat 8 (oppTarget v)]
        (s.modClock fun c => { c with oppTarget := v.toNat % 4 }) := by
      simp [oppRequest_judged hgo hidle, oppJudge, hother, hno]
    rw [hend]
    exact ⟨raised_raise_of (by simp) (by simp), by simp, by simp [hidle]⟩
  case waits =>
    intro s v hgo hbusy
    refine (answers_iff rfl).mpr ?_
    simp [oppRequest, hgo, hbusy]
  case change =>
    intro s n hnext hboundary hquiet hallowed hsince hwaiting hgrade
    refine (answers_iff rfl).mpr ?_
    simp [oppChange, hnext, hboundary, hquiet, hallowed, hsince, hgrade, oppOver, hwaiting, oppTake]
  case divider =>
    intro s n hnext hboundary hallowed hsince hgrade
    refine (answers_iff rfl).mpr ?_
    simp [oppChange, hnext, hboundary, hallowed, hsince, hgrade, oppQuiet]
  case spread =>
    intro s hallowed hstep hboundary
    refine (answers_iff rfl).mpr ?_
    rw [sscStart, if_pos ⟨hallowed, hstep, hboundary⟩]
    exact ⟨rfl, rfl⟩

end Sys2Proof.Machine
end

section
/-! Sensors, trips, channel stops and the substitution of Facets (R367 to R373). -/

namespace Sys2Proof.Machine

/-! ## What a sensor's actions leave -/

/-- Between two states the sensors, the grade and the measured power stay, and a trip stays. -/
structure ThermKeeps (s t : State) : Prop where
  grade : t.grade = s.grade
  power : t.power = s.power
  sensors : t.thermal.sensors = s.thermal.sensors
  tripped : s.thermal.tripped = true → t.thermal.tripped = true

theorem ThermKeeps.refl (s : State) : ThermKeeps s s := ⟨rfl, rfl, rfl, id⟩

theorem ThermKeeps.trans {s t u : State} (h : ThermKeeps s t) (k : ThermKeeps t u) : ThermKeeps s u :=
  ⟨k.grade.trans h.grade, k.power.trans h.power, k.sensors.trans h.sensors, fun ht => k.tripped (h.tripped ht)⟩

theorem ThermKeeps.of_thermal {s t : State} (hg : t.grade = s.grade) (hp : t.power = s.power) (ht : t.thermal = s.thermal) :
    ThermKeeps s t := ⟨hg, hp, by rw [ht], fun h => by rw [ht, h]⟩

/-- A step under a condition keeps what it keeps. -/
theorem ThermKeeps.ite {s t u : State} {p : Prop} [Decidable p] (h : ThermKeeps s t) (k : ThermKeeps s u) :
    ThermKeeps s (if p then t else u) := by
  split
  · exact h
  · exact k

theorem raiseAt_thermKeeps (code : Nat) (ctx : Option CtxNo) (unit unit2 : Nat) (hold located : Bool) (arg : Bytes) (s : State) :
    ThermKeeps s (raiseAt code ctx unit unit2 hold located arg s) := .of_thermal (by simp) (by simp) (by simp)

theorem setHealth_thermKeeps (f : HealthSources → HealthSources) (code : Nat) (s : State) : ThermKeeps s (setHealth f code s) :=
  .of_thermal (by simp) (by simp) (by simp)

theorem foldl_thermKeeps {α : Type} {f : State → α → State} (h : ∀ t a, ThermKeeps t (f t a)) (l : List α) (s : State) :
    ThermKeeps s (l.foldl f s) := by
  induction l generalizing s with
  | nil => exact .refl s
  | cons a r ih => exact (h s a).trans (ih _)

theorem leadFault_thermKeeps (s : State) : ThermKeeps s (leadFault s) := by
  obtain ⟨hgrade, -, -, hpower, hthermal, -⟩ := leadFault_fields s
  exact .of_thermal hgrade hpower hthermal

theorem startCopy_thermKeeps (die logical : Nat) (s : State) : ThermKeeps s (startCopy die logical s) := by
  unfold startCopy
  split <;> exact .of_thermal rfl rfl rfl

/-- A trip trips the module, and keeps its sensors. -/
theorem trip_spec (n : Nat) (v : Int) (s : State) : ThermKeeps s (trip n v s) ∧ (trip n v s).thermal.tripped = true := by
  unfold trip
  split
  case isTrue htripped => exact ⟨.refl s, htripped⟩
  case isFalse =>
    extract_lets t cs u
    have ht : ThermKeeps s t := ⟨rfl, rfl, rfl, fun _ => rfl⟩
    have hu : ThermKeeps t u := by
      refine .ite (raiseAt_thermKeeps ..) (foldl_thermKeeps (fun w c => ?_) _ _)
      exact (raiseAt_thermKeeps ..).trans (.of_thermal rfl rfl rfl)
    have hend : ThermKeeps t (setHealth (fun h => { h with tripped := true }) evThermalTrip (leadFault (forceAll u))) :=
      ((hu.trans (.of_thermal (by simp) (by simp) (by simp))).trans (leadFault_thermKeeps (forceAll u))).trans (setHealth_thermKeeps ..)
    exact ⟨ht.trans hend, hend.tripped rfl⟩

/-- Raised where the filtered value comes to a limit. -/
theorem riseRaise_thermKeeps {o q : Sensor} {l : Int} (code : Nat) (arg : Bytes) (s : State) :
    ThermKeeps s (if rises o q l then raise code arg s else s) := .ite (raiseAt_thermKeeps ..) (.refl s)

/-- What a zone or a die does at the level of Stop. -/
theorem stopTrip_spec (n : Nat) (q : Sensor) (s : State) :
    ThermKeeps s (if q.level = 3 then trip n q.filtered s else s) ∧
    (q.level = 3 → (if q.level = 3 then trip n q.filtered s else s).thermal.tripped = true) := by
  obtain ⟨hkeeps, htrips⟩ := trip_spec n q.filtered s
  exact ⟨.ite hkeeps (.refl s), fun h => by rw [if_pos h]; exact htrips⟩

theorem zoneActs_spec (n : Nat) (o q : Sensor) (s : State) :
    ThermKeeps s (zoneActs n o q s) ∧ (q.level = 3 → (zoneActs n o q s).thermal.tripped = true) := by
  unfold zoneActs
  extract_lets s1 s2 s3 s4
  have h1 : ThermKeeps s s1 := riseRaise_thermKeeps ..
  have h2 : ThermKeeps s1 s2 := ⟨rfl, rfl, rfl, id⟩
  have h3 : ThermKeeps s2 s3 := .ite (.of_thermal rfl rfl rfl) (.refl s2)
  have h4 : ThermKeeps s3 s4 := by
    refine .ite ?_ (.refl s3)
    split
    · exact startCopy_thermKeeps ..
    · exact .refl s3
  obtain ⟨hstop, htrips⟩ := stopTrip_spec n q s4
  exact ⟨(((h1.trans h2).trans h3).trans h4).trans hstop, htrips⟩

theorem dieActs_spec (n : Nat) (o q : Sensor) (s : State) :
    ThermKeeps s (dieActs n o q s) ∧ (q.level = 3 → (dieActs n o q s).thermal.tripped = true) := by
  unfold dieActs
  extract_lets s1
  have h1 : ThermKeeps s s1 := riseRaise_thermKeeps ..
  obtain ⟨hstop, htrips⟩ := stopTrip_spec n q s1
  exact ⟨h1.trans hstop, htrips⟩

theorem packageActs_thermKeeps (n : Nat) (o q : Sensor) (s : State) : ThermKeeps s (packageActs n o q s) := by
  unfold packageActs
  extract_lets k s1 hotNow cleared s2
  have h1 : ThermKeeps s s1 := riseRaise_thermKeeps ..
  have h2 : ThermKeeps s1 s2 := by
    simp only [s2]
    split
    case isTrue =>
      have hhot : ThermKeeps s1 (s1.modThermal fun t => { t with hot := assocSet n none t.hot }) := ⟨rfl, rfl, rfl, id⟩
      exact .ite ((hhot.trans (raiseAt_thermKeeps ..)).trans (setHealth_thermKeeps ..)) hhot
    case isFalse =>
      split
      · refine .ite ⟨rfl, rfl, rfl, id⟩ (.ite ?_ ⟨rfl, rfl, rfl, id⟩)
        exact ThermKeeps.trans (t := s1.modThermal fun t => { t with hot := assocDel n t.hot }) ⟨rfl, rfl, rfl, id⟩
          (setHealth_thermKeeps ..)
      · exact .refl s1
  refine (h1.trans h2).trans (.ite ⟨rfl, rfl, rfl, id⟩ ?_)
  split
  · exact ⟨rfl, rfl, rfl, id⟩
  · exact .refl s2

/-! ## Samples (R367) -/

/-- Sensors other than a package's take the raw value. -/
theorem sensorReading_raw {n : Nat} (hn : n < 64 ∨ 76 ≤ n ∧ n < 80) (v : Int) (s : State) : sensorReading s n v = v :=
  if_neg (by omega)

/-- What a sensor's sample leaves of the others, and what it leaves of its own. -/
theorem sensorTake_spec (n : Nat) (raw : Int) (s : State) :
    (sensorTake n raw s).grade = s.grade ∧ (sensorTake n raw s).power = s.power ∧
    (s.thermal.tripped = true → (sensorTake n raw s).thermal.tripped = true) ∧
    (∀ m, m ≠ n → assoc m (sensorTake n raw s).thermal.sensors = assoc m s.thermal.sensors) := by
  unfold sensorTake
  split
  case isTrue => exact ⟨rfl, rfl, id, fun _ _ => rfl⟩
  case isFalse =>
    extract_lets q q' t
    have hacts {u : State} (h : ThermKeeps t u) : u.grade = s.grade ∧ u.power = s.power ∧
        (s.thermal.tripped = true → u.thermal.tripped = true) ∧
        (∀ m, m ≠ n → assoc m u.thermal.sensors = assoc m s.thermal.sensors) :=
      ⟨h.grade, h.power, h.tripped, fun m hm => by rw [h.sensors]; exact assoc_assocSet_other _ _ _ _ hm⟩
    split
    · exact hacts (zoneActs_spec n q q' t).1
    · split
      · exact hacts (packageActs_thermKeeps n q q' t)
      · split
        · exact hacts (dieActs_spec n q q' t).1
        · exact hacts (.refl t)

/-- A present zone or die, or the Crown, takes its sample; at Stop the module trips. -/
theorem sensorTake_present {n : Nat} {s : State} {q : Sensor} (hn : n < 64 ∨ 76 ≤ n ∧ n < 80) (v : Int)
    (hpresent : sensorPresent s.grade n = true) (hq : assoc n s.thermal.sensors = some q) :
    assoc n (sensorTake n v s).thermal.sensors = some (q.take n v) ∧
    ((q.take n v).level = 3 → (sensorTake n v s).thermal.tripped = true) := by
  unfold sensorTake
  rw [if_neg (by simp [hpresent]), hq, sensorReading_raw hn]
  extract_lets q0 q' t
  have hsame : assoc n t.thermal.sensors = some q' := assoc_assocSet_same ..
  rcases hn with hzone | ⟨hdie, hlast⟩
  · obtain ⟨hkeeps, htrips⟩ := zoneActs_spec n q0 q' t
    rw [if_pos hzone, hkeeps.sensors]
    exact ⟨hsame, htrips⟩
  · obtain ⟨hkeeps, htrips⟩ := dieActs_spec n q0 q' t
    rw [if_neg (by omega), if_neg (by omega), if_pos hlast, hkeeps.sensors]
    exact ⟨hsame, htrips⟩

/-- The samples of a list, taken in turn. -/
def takeSamples (l : List (Int × Nat)) (s : State) : State := l.foldl (fun t y => sensorTake y.2 y.1 t) s

theorem takeSamples_spec (l : List (Int × Nat)) (s : State) :
    (takeSamples l s).grade = s.grade ∧ (takeSamples l s).power = s.power ∧
    (∀ m, (∀ y ∈ l, m ≠ y.2) → assoc m (takeSamples l s).thermal.sensors = assoc m s.thermal.sensors) := by
  induction l generalizing s with
  | nil => exact ⟨rfl, rfl, fun _ _ => rfl⟩
  | cons y r ih =>
    obtain ⟨hgrade, hpower, hother⟩ := ih (sensorTake y.2 y.1 s)
    obtain ⟨hgrade', hpower', -, hother'⟩ := sensorTake_spec y.2 y.1 s
    refine ⟨hgrade.trans hgrade', hpower.trans hpower', fun m hm => ?_⟩
    exact (hother m fun z hz => hm z (List.mem_cons_of_mem _ hz)).trans (hother' m (hm y List.mem_cons_self))

theorem coolWatch_thermKeeps (s : State) : ThermKeeps s (coolWatch s) := by
  unfold coolWatch
  extract_lets temp k inlet outlet rise bad t badSince goodSince s1 long
  have h1 : ThermKeeps s s1 := ⟨rfl, rfl, rfl, id⟩
  have hdegraded (n : Nat) (v : Int) :
      ThermKeeps s1 (raise evCoolDegraded (thermArg n v) (s1.modThermal fun x => { x with coolDegraded := true })) :=
    ThermKeeps.trans (t := s1.modThermal fun x => { x with coolDegraded := true }) ⟨rfl, rfl, rfl, id⟩ (raiseAt_thermKeeps ..)
  refine h1.trans (.ite ?_ (.ite (hdegraded ..) (.ite (hdegraded ..) (.refl s1))))
  clear_value goodSince
  split
  · exact .ite ⟨rfl, rfl, rfl, id⟩ (.refl s1)
  · exact .refl s1

/-- The module with the power that came with the samples. -/
def samplesBegun (x : SensorSamples) (s : State) : State :=
  (s.modPower fun p => { p with pMeas := x.pMeas, vin := x.vin, iin := x.iin }).modThermal fun t =>
    { t with samplesTaken := t.samplesTaken + 1 }

/-- Where the last sensor of the samples is a zone, a die or the Crown, it takes the last sample, and trips at Stop. -/
theorem sampleAll_last {x : SensorSamples} {s : State} {n : Nat} {v : Int} {q : Sensor}
    (htemps : x.temps = List.replicate n 0 ++ [v]) (hn : n < 64 ∨ 76 ≤ n ∧ n < 80) (hpresent : sensorPresent s.grade n = true)
    (hq : assoc n s.thermal.sensors = some q) :
    assoc n (sampleAll x s).thermal.sensors = some (q.take n v) ∧ (sampleAll x s).power.pMeas = x.pMeas ∧
    ((q.take n v).level = 3 → (sampleAll x s).thermal.tripped = true) := by
  have hzip : x.temps.zipIdx = (List.replicate n (0 : Int)).zipIdx ++ [(v, n)] := by
    rw [htemps, List.zipIdx_append, List.length_replicate, Nat.zero_add]
    rfl
  have hall : sampleAll x s =
      coolWatch (sensorTake n v (takeSamples (List.replicate n (0 : Int)).zipIdx (samplesBegun x s))) := by
    rw [takeSamples, sampleAll, hzip, List.foldl_append]
    rfl
  obtain ⟨hgrade, hpower, hothers⟩ := takeSamples_spec (List.replicate n (0 : Int)).zipIdx (samplesBegun x s)
  have hq' := (hothers n fun y hy => by have := List.snd_lt_of_mem_zipIdx hy; simp at this; omega).trans hq
  obtain ⟨hsame, htrips⟩ := sensorTake_present hn v (by rw [hgrade]; exact hpresent) hq'
  obtain ⟨-, hpower', -⟩ := sensorTake_spec n v (takeSamples (List.replicate n (0 : Int)).zipIdx (samplesBegun x s))
  have hcool := coolWatch_thermKeeps (sensorTake n v (takeSamples (List.replicate n (0 : Int)).zipIdx (samplesBegun x s)))
  rw [hall, hcool.sensors, hcool.power, hpower', hpower]
  exact ⟨hsame, rfl, fun h => hcool.tripped (htrips h)⟩

/-- Two raw samples at Stop. -/
theorem Sensor.take_stop {n : Nat} {q : Sensor} {v a : Int} {r : List Int} (hn : n < 64 ∨ 76 ≤ n ∧ n < 80)
    (hq : q.samples = a :: r) (hv : 1840 ≤ v) (ha : 1840 ≤ a) : (q.take n v).level = 3 := by
  have hlimits : (sensorLimits n).2.2 = some 1840 := by
    rcases hn with h | ⟨h, h'⟩
    · simp [sensorLimits, h]
    · simp [sensorLimits, show ¬ n < 64 by omega, show ¬ n < 76 by omega, h']
  simp [Sensor.take, hq, hlimits, reaches, hv, ha]

/-! ## Channel stops (R373) -/

theorem mem_packageChannels {k ch : Nat} : ch ∈ packageChannels k ↔ 4 * k ≤ ch ∧ ch < 4 * k + 4 := by
  simp only [packageChannels, span, List.mem_map, List.mem_range]
  constructor
  · rintro ⟨i, hi, rfl⟩
    omega
  · rintro ⟨hlo, hhi⟩
    exact ⟨ch - 4 * k, by omega, by omega⟩

theorem foldl_modChan_chan (f : Channel → Channel) {l : List Nat} (hl : l.Nodup) (s : State) (ch : Nat) :
    (l.foldl (fun t c => t.modChan f c) s).chan ch = if ch ∈ l ∧ ch < s.bezel.channels.length then f (s.chan ch) else s.chan ch := by
  induction l generalizing s with
  | nil => simp
  | cons c r ih =>
    obtain ⟨hc, hr⟩ := List.nodup_cons.mp hl
    rw [List.foldl_cons, ih hr, State.modChan_chan]
    have hlen : (s.modChan f c).bezel.channels.length = s.bezel.channels.length := by simp [State.modChan]
    rw [hlen]
    by_cases h : ch = c
    · subst h; simp [hc]
    · simp [h]

theorem packageChannels_nodup (k : Nat) : (packageChannels k).Nodup := by
  simp only [packageChannels, span]
  exact List.nodup_range.map fun a b h => Nat.add_right_cancel h

/-! ## Substitutions (R370) -/

theorem State.modSpare_spare (f : SpareDie → SpareDie) (d : Nat) (s : State) (h : d < s.spares.length) :
    (s.modSpare f d).spare d = f (s.spare d) := by
  simp only [State.spare, State.modSpare, modifyAt_getD]
  simp [h]

/-- Settles O6: samples through `sampleAll_last`, the stops and restarts through `foldl_modChan_chan`, the substitutions through the
record of their die. -/
theorem sensorsAndTrips : Obligations.SensorsAndTrips := by
  refine ⟨?filters, ?trips, ?clears, ?stops, ?restarts, ?swaps, ?incomplete, ?starves⟩
  case filters =>
    intro s x n v a b c htemps hn hpresent hsamples
    refine (answers_iff rfl).mpr ?_
    obtain ⟨q, hq, hqs⟩ := Option.map_eq_some_iff.mp hsamples
    obtain ⟨hsame, hpower, -⟩ := sampleAll_last htemps hn hpresent hq
    refine ⟨?_, hpower⟩
    rw [hsame]
    simp [Sensor.take, hqs]
  case trips =>
    intro s x n v a r htemps hn hpresent hsamples hv ha
    refine (answers_iff rfl).mpr ?_
    obtain ⟨q, hq, hqs⟩ := Option.map_eq_some_iff.mp hsamples
    obtain ⟨-, -, htrips⟩ := sampleAll_last htemps hn hpresent hq
    exact htrips (Sensor.take_stop hn hqs hv ha)
  case clears =>
    intro s htripped hcool
    refine (answers_iff rfl).mpr ?_
    have hall : s.thermal.sensors.all (fun q => decide (q.2.level = 0)) = true := by simpa using hcool
    simp [tripClear, htripped, hall]
  case stops =>
    intro s k x hk hstopped hboundary hlen hrun
    refine (answers_iff rfl).mpr ?_
    have hfirst : 4 * k ∈ packageChannels k := mem_packageChannels.mpr (by omega)
    have hany : (packageChannels k).any (fun ch => decide ((s.chan ch).state = 1)) = true :=
      List.any_eq_true.mpr ⟨4 * k, hfirst, by simp [hrun _ hfirst]⟩
    simp only [channelStop, packageSensor, hstopped, hboundary, hany]
    refine ⟨raised_raise_of ?_ ?_, fun ch hch => ?_⟩
    · exact foldl_keeps (g := State.events) (fun t ch => by simp) _ _
    · exact foldl_keeps (g := State.bead) (fun t ch => by simp) _ _
    · have hch' := mem_packageChannels.mp hch
      have hraise (code : Nat) (arg : Bytes) (t : State) : (raise code arg t).chan ch = t.chan ch := by simp [State.chan]
      refine (congrArg Channel.state ((hraise ..).trans (foldl_modChan_chan _ (packageChannels_nodup k) s ch))).trans ?_
      rw [if_pos ⟨hch, by omega⟩]
      simp [hrun ch hch]
  case restarts =>
    intro s k n hk hstopped hboundary hlong hlen hstop
    refine (answers_iff rfl).mpr ?_
    intro ch hch
    have hch' := mem_packageChannels.mp hch
    have hsecond : secondSamples ≤ s.thermal.samplesTaken - n := by unfold secondSamples; omega
    simp only [channelRestart, packageSensor, hstopped, hboundary, hsecond]
    refine (congrArg Channel.state (foldl_modChan_chan _ (packageChannels_nodup k) s ch)).trans ?_
    rw [if_pos ⟨hch, by omega⟩]
    simp [hstop ch hch]
  case swaps =>
    intro s d k hd hlen hlast hdone hcopy hleft hlogical honce hrelease hadmit
    refine (answers_iff rfl).mpr ?_
    have hdue : swapDue s d = true := by
      cases hw : (s.spare d).swapped with
      | none => simp [swapDue, hd, hcopy, hleft, hw]
      | some w => simp [swapDue, hd, hcopy, hleft, hw, honce w hw]
    have hgo : (atBoundary s && swapDue s d && !anyReleaseDue s && !admitMade s) = true := by
      simp [atBoundary, hlast, hdone, hdue, hrelease, hadmit]
    have hspare (t : State) (ctxs : List Ctx) : ({ t with ctxs := ctxs } : State).spare d = t.spare d := rfl
    simp only [spareSwap, hgo, when_true, swapNow, hcopy, hspare, State.modSpare_spare _ _ _ hlen, modifyAt_getD]
    refine ⟨by simp [hlogical], trivial, fun j hj => by simp [hj], rfl⟩
  case incomplete =>
    intro s d k hcopy hleft
    refine (answers_iff rfl).mpr ?_
    have hnot : swapDue s d = false := by simp [swapDue, hcopy, Nat.ne_of_gt hleft]
    simp [spareSwap, hnot]
  case starves =>
    intro s d k hd hlen hcopy hleft hlong
    refine (answers_iff rfl).mpr ?_
    simp only [spareStarves, hcopy, if_pos (And.intro hd (And.intro hleft hlong))]
    have hdrop : (dropCopy d s).spare d = { s.spare d with copying := none } := State.modSpare_spare _ d s hlen
    refine ⟨raised_raiseAt_of rfl rfl, ?_, ?_⟩
    · simpa only [State.spare, raiseAt_fields] using congrArg SpareDie.copying hdrop
    · simpa only [State.spare, raiseAt_fields] using congrArg SpareDie.map hdrop

end Sys2Proof.Machine
end

section
/-! What a line's read and write leave. -/

namespace Sys2Proof.Machine

/-- A channel's slot, patrol and repair do not stop it. -/
theorem stopped_modChan {f : Channel → Channel} (hf : ∀ x, (f x).state = x.state) (ch ch' : Nat) (s : State) :
    stopped (s.modChan f ch') ch = stopped s ch := by
  simp only [stopped, State.modChan_chan]
  split
  · rw [hf]
  · rfl

theorem stopped_takeSlot (ch ch' : Nat) (s : State) : stopped (takeSlot ch' s) ch = stopped s ch :=
  stopped_modChan (f := fun x => { x with taken := some s.bead }) (fun _ => rfl) ..

theorem slotTaken_takeSlot {ch : Nat} {s : State} (hch : ch < s.bezel.channels.length) : slotTaken (takeSlot ch s) ch = true := by
  rw [slotTaken, takeSlot, State.modChan_chan, if_pos ⟨rfl, hch⟩]
  exact decide_eq_true rfl

theorem channelUe_eq (ch u : Nat) (s : State) : ∃ e, channelUe ch u s = { s with effects := e } := by
  unfold channelUe
  split <;> exact ⟨_, rfl⟩

/-- A line written at once changes the LP4X memory and the effects in flight alone. -/
theorem storeLine_eq (c : CtxNo) (ch u : Nat) (b : Bytes) (s : State) :
    ∃ l k e, storeLine c ch u b s = { s with lp4x := l, lp4xCheck := k, effects := e } := by
  unfold storeLine
  split
  · obtain ⟨e, he⟩ := channelUe_eq ch u s
    exact ⟨_, _, e, he⟩
  · exact ⟨_, _, _, rfl⟩

/-- What a channel notes of its slots, patrol and repairs changes nothing of the line written in it. -/
theorem storeLine_modChan {f : Channel → Channel} (hf : ∀ x, (f x).state = x.state) (c : CtxNo) (ch ch' u : Nat) (b : Bytes)
    (s : State) : (storeLine c ch u b (s.modChan f ch')).lp4x = (storeLine c ch u b s).lp4x ∧
      (storeLine c ch u b (s.modChan f ch')).lp4xCheck = (storeLine c ch u b s).lp4xCheck := by
  unfold storeLine
  rw [stopped_modChan hf]
  split
  · obtain ⟨e, he⟩ := channelUe_eq ch u s
    obtain ⟨e', he'⟩ := channelUe_eq ch u (s.modChan f ch')
    rw [he, he']
    exact ⟨rfl, rfl⟩
  · exact ⟨rfl, rfl⟩

theorem storeLine_takeSlot (c : CtxNo) (ch ch' u : Nat) (b : Bytes) (s : State) :
    (storeLine c ch u b (takeSlot ch' s)).lp4x = (storeLine c ch u b s).lp4x :=
  (storeLine_modChan (f := fun x => { x with taken := some s.bead }) (fun _ => rfl) ..).1

/-- A read notes a corrected error, and changes nothing else. -/
theorem readLine_state (c : CtxNo) (ch u : Nat) (s : State) :
    (readLine c ch u s).2.2 = s ∨ (readLine c ch u s).2.2 = s.modChan (fun x => { x with ce := noteBead s.bead x.ce }) ch := by
  unfold readLine
  split
  · exact .inl rfl
  · dsimp only
    split
    · exact .inr rfl
    · exact .inl rfl

end Sys2Proof.Machine
end

section
/-! Cast records and replay (R301 to R304). -/

namespace Sys2Proof.Machine

/-! ## The ring's lines -/

theorem castLine_go {s : State} (hable : castAble s = true) (hlive : s.cast.replay = false)
    (hwhole : 1024 ≤ (nextLine s.cast).2.length) (hstart : castStart s (castPlace s (nextLine s.cast).1).1 = true) :
    castLine s = (storeLine 0 (castPlace s (nextLine s.cast).1).1 (castPlace s (nextLine s.cast).1).2
      (slice (nextLine s.cast).2 0 1024) (takeSlot (castPlace s (nextLine s.cast).1).1 s)).modCast dropLine :=
  if_pos ⟨hable, hlive, hwhole, hstart⟩

/-- The line leaves staging for its place in the ring. -/
theorem castLine_spec {s : State} (hable : castAble s = true) (hlive : s.cast.replay = false)
    (hwhole : 1024 ≤ (nextLine s.cast).2.length) (hstart : castStart s (castPlace s (nextLine s.cast).1).1 = true) :
    (castLine s).cast = dropLine s.cast ∧
    (castLine s).lp4x = (storeLine 0 (castPlace s (nextLine s.cast).1).1 (castPlace s (nextLine s.cast).1).2
      (slice (nextLine s.cast).2 0 1024) s).lp4x := by
  rw [castLine_go hable hlive hwhole hstart]
  refine ⟨?_, storeLine_takeSlot ..⟩
  obtain ⟨l, k, e, hstore⟩ := storeLine_eq 0 (castPlace s (nextLine s.cast).1).1 (castPlace s (nextLine s.cast).1).2
    (slice (nextLine s.cast).2 0 1024) (takeSlot (castPlace s (nextLine s.cast).1).1 s)
  rw [hstore]
  rfl

/-- A replay's read goes on by one ring line; the memory stays. -/
theorem ringRead_spec {s : State} (hable : castAble s = true) (hreplay : s.cast.replay = true) (hruns : s.cast.replayStopped = false)
    (hleft : s.cast.readLeft ≠ 0) (hstart : castStart s (castPlace s s.cast.readAt).1 = true) :
    (ringRead s).cast.readAt = ringNext s.cast s.cast.readAt ∧ (ringRead s).cast.readLeft = s.cast.readLeft - 1 ∧
    (ringRead s).lp4x = s.lp4x := by
  have hread := readLine_state 0 (castPlace s s.cast.readAt).1 (castPlace s s.cast.readAt).2 (takeSlot (castPlace s s.cast.readAt).1 s)
  unfold ringRead
  rw [if_pos ⟨hable, hreplay, hruns, hleft, hstart⟩]
  generalize readLine 0 (castPlace s s.cast.readAt).1 (castPlace s s.cast.readAt).2 (takeSlot (castPlace s s.cast.readAt).1 s) = r
    at hread ⊢
  obtain ⟨bs, ue, t⟩ := r
  dsimp only
  have ht : t.cast = s.cast ∧ t.lp4x = s.lp4x := by
    rcases hread with h | h <;> (obtain rfl : t = _ := h; exact ⟨rfl, rfl⟩)
  obtain ⟨e, he⟩ := channelUe_eq (castPlace s s.cast.readAt).1 (castPlace s s.cast.readAt).2 t
  have ht' : (if ue then channelUe (castPlace s s.cast.readAt).1 (castPlace s s.cast.readAt).2 t else t).cast = s.cast ∧
      (if ue then channelUe (castPlace s s.cast.readAt).1 (castPlace s s.cast.readAt).2 t else t).lp4x = s.lp4x := by
    rw [he]
    split <;> exact ht
  obtain ⟨hcast, hlp4x⟩ := ht'
  exact ⟨congrArg (fun c => ringNext c c.readAt) hcast, congrArg (fun c => c.readLeft - 1) hcast, hlp4x⟩

/-- The fields of CAST_CTL that a write sets at once. -/
def ctlSet (v : Word) (c : Cast) : Cast :=
  { c with fabFull := bit v 30, freezeOnEvent := bit v 29, ctxMask := BitVec.ofNat 16 v.toNat }

theorem castCtl_able {v : Word} {s : State} (hable : castAble s = true) (hnofreeze : bit v 28 = false) :
    castCtl v s = if bit v 31 then (if s.cast.en then s.modCast (ctlSet v) else (s.modCast (ctlSet v)).modCast castBegin)
      else if s.cast.en then (s.modCast (ctlSet v)).modCast castEnd else s.modCast (ctlSet v) := by
  have hable' : castAble (s.modCast (ctlSet v)) = true := hable
  rw [castCtl, hnofreeze, if_neg Bool.false_ne_true]
  exact if_neg fun h => Bool.false_ne_true (h.symm.trans hable')

/-- Settles O7: control and freeze by the model's steps, the ring's lines by `castLine_spec` and `ringRead_spec`. -/
theorem castRecords : Obligations.CastRecords := by
  refine ⟨?begins, ?ends, ?freeze, ?frozen, ?line, ?tail, ?ring⟩
  case begins =>
    intro s v hable hoff hon hnofreeze
    refine (answers_iff rfl).mpr ?_
    simp [castCtl_able hable hnofreeze, hoff, hon, ctlSet, castBegin, State.modCast]
  case ends =>
    intro s v hable hon hoff hnofreeze
    refine (answers_iff rfl).mpr ?_
    simp [castCtl_able hable hnofreeze, hoff, hon, ctlSet, castEnd, State.modCast]
  case freeze =>
    intro s hon hable hthawed hnone
    refine (answers_iff rfl).mpr ?_
    simp [startFreeze, hon, hable, hthawed, hnone, State.modCast]
  case frozen =>
    intro s b hfreeze hpassed
    refine (answers_iff rfl).mpr ?_
    simp only [freezeDone, hfreeze, if_pos hpassed]
    exact ⟨by simp, rfl, raised_raise_of rfl rfl⟩
  case line =>
    intro s hable hlive hnone hwhole hstart
    refine (answers_iff rfl).mpr ?_
    have hnext : nextLine s.cast = (s.cast.lineAt, s.cast.staging) := by simp [nextLine, hnone]
    obtain ⟨hcast, hlp4x⟩ := castLine_spec hable hlive (by rw [hnext]; exact hwhole) (by rw [hnext]; exact hstart)
    rw [hnext] at hlp4x
    rw [hcast]
    exact ⟨by simp [dropLine, hnone], by simp [dropLine, hnone], hlp4x⟩
  case tail =>
    intro s a b r hable hlive htails hlong hstart
    refine (answers_iff rfl).mpr ?_
    have hnext : nextLine s.cast = (a, b) := by simp [nextLine, htails]
    obtain ⟨hcast, hlp4x⟩ := castLine_spec hable hlive (by rw [hnext]; exact Nat.le_of_lt hlong) (by rw [hnext]; exact hstart)
    rw [hnext] at hlp4x
    rw [hcast]
    exact ⟨by simp [dropLine, htails, Nat.not_le.mpr hlong], by simp [dropLine, htails], hlp4x⟩
  case ring =>
    intro s hable hreplay hruns hleft hstart
    refine (answers_iff rfl).mpr ?_
    obtain ⟨hat, hread, hlp4x⟩ := ringRead_spec hable hreplay hruns hleft hstart
    exact ⟨hat, by rw [hread]; omega, hlp4x⟩

/-! ## Replay -/

theorem replayDelta_of {s : State} {r : Nat × Bytes} {d : Int} {a : Nat} (hdelta : assoc (leAt r.2 2 1) s.cast.deltas = some (d, a))
    (hlater : a ≤ r.1) : replayDelta s r = some d := by
  simp [replayDelta, hdelta, hlater]

/-- Settles O8: a late record stops the replay, the one due record is fed. -/
theorem replayFeeds : Obligations.ReplayFeeds := by
  refine ⟨?late, ?due⟩
  case late =>
    intro s d a r hdelta hlater hreplay hruns hr hfeed hpassed
    refine (answers_iff rfl).mpr ?_
    have hlate : feedLate s r = true := by simp [feedLate, replayDelta_of hdelta hlater, hpassed]
    have hany : (s.cast.feed.filter (feedable s)).any (feedLate s) = true :=
      List.any_eq_true.mpr ⟨r, List.mem_filter.mpr ⟨hr, hfeed⟩, hlate⟩
    have hend : replayFeed s = raise evReplayLate [] (s.modCast fun c => { c with replayStopped := true }) := by
      simp [replayFeed, hreplay, hruns, hany]
    rw [hend]
    exact ⟨by simp, raised_raise_of (by simp) (by simp)⟩
  case due =>
    intro s d a r hdelta hlater hreplay hruns hone hfeed hdue htype hport
    refine (answers_iff rfl).mpr ?_
    have hdelta' := replayDelta_of hdelta hlater
    have hlate : feedLate s r = false := by simp [feedLate, hdelta', hdue]
    have hnow : feedNow s r = true := by simp [feedNow, hdelta', htype, hdue]
    have hend : replayFeed s = feedRecord r s := by
      simp [replayFeed, hreplay, hruns, hone, hfeed, hlate, hnow]
    rw [hend, feedRecord, if_pos htype]
    refine ⟨by simp [hone], ?_⟩
    rw [State.modClasp_clasp, if_pos ⟨rfl, hport⟩]

end Sys2Proof.Machine
end

section
/-! Signets: requests, records and Clasp ports (R307 to R315). -/

namespace Sys2Proof.Machine

/-! ## An input that waits for its boundary (R294, R325) -/

theorem pushInput_latched (src : Nat) (k : InputKind) (s : State) : latched src k s (pushInput src k s) := by
  refine ⟨if relays s then some (s.inbox.filter fun i => decide (i.latch = latchBead s ∧ i.source = src)).length else none, ?_⟩
  unfold pushInput
  dsimp only
  split
  · split <;> rfl
  · rfl

/-- A new input changes the inbox, and of the rest what a relayed item changes. -/
theorem pushInput_evFrame (src : Nat) (k : InputKind) (s : State) :
    EvFrame { s.modBezel (fun b => { b with posted := b.posted + 1 }) with inbox := (pushInput src k s).inbox } (pushInput src k s) := by
  unfold pushInput
  dsimp only
  split
  · split
    · exact sendItem_evFrame ..
    · exact .refl _
  · exact .refl _

/-! ## What the completion of a Signet leaves -/

/-- Between two states the Signet requests, the rings and the Clasp ports stay. -/
structure SigKeeps (s t : State) : Prop where
  signets : t.signets = s.signets
  rings : t.rings = s.rings
  clasps : t.clasps = s.clasps

theorem SigKeeps.refl (s : State) : SigKeeps s s := ⟨rfl, rfl, rfl⟩

theorem SigKeeps.trans {s t u : State} (h : SigKeeps s t) (k : SigKeeps t u) : SigKeeps s u :=
  ⟨k.signets.trans h.signets, k.rings.trans h.rings, k.clasps.trans h.clasps⟩

theorem SigKeeps.ite {s t u : State} {p : Prop} [Decidable p] (h : SigKeeps s t) (k : SigKeeps s u) :
    SigKeeps s (if p then t else u) := by
  split
  · exact h
  · exact k

theorem EvFrame.sigKeeps {s t : State} (h : EvFrame s t) : SigKeeps s t := ⟨h.signets, h.rings, h.clasps⟩

theorem SigKeeps.modCast {s t : State} (h : SigKeeps s t) (f : Cast → Cast) : SigKeeps s (t.modCast f) :=
  ⟨h.signets, h.rings, h.clasps⟩

theorem SigKeeps.modCmp {s t : State} (h : SigKeeps s t) (f : TwinCompare → TwinCompare) : SigKeeps s (t.modCmp f) :=
  ⟨h.signets, h.rings, h.clasps⟩

theorem castPut_sigKeeps (type source ctx flags bead sub : Nat) (period : Word) (payload : Bytes) (s : State) :
    SigKeeps s (castPut type source ctx flags bead sub period payload s) := by
  unfold castPut
  split
  case isTrue => exact .refl s
  case isFalse =>
    extract_lets gapped r fresh t
    have hgapped : SigKeeps s gapped := by
      simp only [gapped]
      split
      · exact .ite ((SigKeeps.refl s).modCast _) (.refl s)
      · exact .refl s
    have ht : SigKeeps s t := hgapped.modCast _
    split
    · exact hgapped.modCast _
    · exact .ite (ht.trans (raise_evFrame ..).sigKeeps) ht

theorem mismatch_sigKeeps (c : CtxNo) (kind port : Nat) (index : DWord) (s : State) : SigKeeps s (mismatch c kind port index s) := by
  unfold mismatch
  extract_lets s1 s2 s3 s4 s5
  have h1 : SigKeeps s s1 := ⟨rfl, rfl, rfl⟩
  have h2 : SigKeeps s s2 := h1.trans (raiseAt_evFrame ..).sigKeeps
  have h4 : SigKeeps s s4 := (h2.trans (sendItem_evFrame ..).sigKeeps).modCmp _
  have h5 : SigKeeps s s5 := h4.modCmp _
  clear_value s5
  have hjoin : SigKeeps s5 (joinFrom 4 s5) := ⟨rfl, rfl, rfl⟩
  split
  · exact .ite ((h5.trans hjoin).trans (raise_evFrame ..).sigKeeps) h5
  · exact h5

theorem compareSignets_sigKeeps (own other : SignetItem) (s : State) : SigKeeps s (compareSignets own other s) := by
  unfold compareSignets
  exact .ite (mismatch_sigKeeps ..) (.ite ⟨rfl, rfl, rfl⟩ (.refl s))

theorem ownSignet_sigKeeps (x : SignetItem) (s : State) : SigKeeps s (ownSignet x s) := by
  unfold ownSignet
  refine .ite ?_ (.refl s)
  extract_lets t
  have ht : SigKeeps s t := (sendItem_evFrame ..).sigKeeps
  clear_value t
  refine .ite ?_ ht
  split
  · exact (ht.modCmp _).trans (compareSignets_sigKeeps ..)
  · exact ht.modCmp _

theorem signetDone_sigKeeps (x : SignetItem) (s : State) : SigKeeps s (signetDone x s) := by
  unfold signetDone
  extract_lets p c s1 s2
  have h1 : SigKeeps s s1 := .ite (castPut_sigKeeps ..) (.refl s)
  have h2 : SigKeeps s1 s2 := by
    refine .ite ?_ (.refl s1)
    split
    · exact .ite (.refl s1) (raise_evFrame ..).sigKeeps
    · exact .refl s1
  exact (h1.trans h2).trans (ownSignet_sigKeeps ..)

/-! ## The next work of an engine (R312) -/

/-- A fold that keeps the one so far or takes a new element ends with one of the list. -/
theorem foldl_choice {α : Type} {p : α → Prop} {f : Option α → α → Option α}
    (hf : ∀ b x y, p x → (∀ z, b = some z → p z) → f b x = some y → p y) {l : List α} (hl : ∀ x ∈ l, p x) {b : Option α}
    (hb : ∀ z, b = some z → p z) {y : α} (h : l.foldl f b = some y) : p y := by
  induction l generalizing b with
  | nil => exact hb y h
  | cons x r ih =>
    exact ih (fun z hz => hl z (List.mem_cons_of_mem _ hz)) (fun z hz => hf b x z (hl x List.mem_cons_self) hb hz) h

/-- The oldest unsigned record has no Signet. -/
theorem nextUnsigned_signet {s : State} {c : CtxNo} {x : Committed} (h : nextUnsigned s = some (c, x)) : x.signet = none := by
  refine foldl_choice (p := fun y : CtxNo × Committed => y.2.signet = none) ?_ (fun y hy => ?_) (fun z hz => by simp at hz) h
  · intro b y z hy hb hz
    split at hz
    · exact Option.some.inj hz ▸ hy
    · split at hz
      · exact Option.some.inj hz ▸ hy
      · exact hb _ hz
  · obtain ⟨c', -, hc'⟩ := List.mem_filterMap.mp hy
    obtain ⟨w, hw, rfl⟩ := Option.map_eq_some_iff.mp hc'
    have := List.find?_some hw
    simp at this
    exact this.1

theorem requestWhole_of {s : State} {r : SigRequest} (hreq : s.signets.req = some r) (hleft : r.left = 0) (hin : r.inputs ≠ []) :
    requestWhole s = some r := by
  simp [requestWhole, hreq, hleft, hin]

theorem signetEngine_request {s : State} {e : Nat} {r : SigRequest} (he : 4 ≤ e) (he' : e < 8) (hwhole : requestWhole s = some r)
    (hfirst : ∀ x, nextUnsigned s = some x → requestFirst r x = true) : signetEngine e s = requestComplete r s := by
  rw [signetEngine, if_neg (Nat.not_lt.mpr he), if_pos he', hwhole]
  cases hnext : nextUnsigned s with
  | none => rfl
  | some x => exact if_pos (hfirst x hnext)

theorem signetEngine_record {s : State} {e : Nat} {c : CtxNo} {x : Committed} (he : 4 ≤ e) (he' : e < 8)
    (hnext : nextUnsigned s = some (c, x)) (hfirst : ∀ r, requestWhole s = some r → requestFirst r (c, x) = false) :
    signetEngine e s = signRecord c x s := by
  rw [signetEngine, if_neg (Nat.not_lt.mpr he), if_pos he', hnext]
  cases hwhole : requestWhole s with
  | none => rfl
  | some r => exact if_neg (by rw [hfirst r hwhole]; exact Bool.false_ne_true)

/-- Settles O9: the request goes to the inbox, and each engine's work is that of `signetEngine_request`, `signetEngine_record` or
its port. -/
theorem signetsComplete : Obligations.SignetsComplete := by
  refine ⟨?request, ?completes, ?record, ?port⟩
  case request =>
    intro s v hgo hidle hleads hready hlink hlive
    refine (answers_iff rfl).mpr ?_
    rw [signetGo, if_pos ⟨hgo, hidle, hleads, hready, hlink, hlive⟩]
    refine ⟨?_, pushInput_latched 9 _ (s.modSig fun x => { x with busy := true })⟩
    rw [(pushInput_evFrame ..).signets]
    rfl
  case completes =>
    intro s e r he he' hreq hleft hin hfirst
    refine (answers_iff rfl).mpr ?_
    rw [signetEngine_request he he' (requestWhole_of hreq hleft hin) hfirst, requestComplete]
    rw [(signetDone_sigKeeps ..).signets]
    exact ⟨rfl, rfl, rfl, rfl, rfl⟩
  case record =>
    intro s e c x he he' hnext hc hfirst
    refine (answers_iff rfl).mpr ?_
    rw [signetEngine_record he he' hnext hfirst, signRecord, nextUnsigned_signet hnext]
    rw [State.ring, (signetDone_sigKeeps ..).rings]
    refine (congrArg Ring.committed (State.modRing_ring _ c c s)).trans ?_
    rw [if_pos ⟨rfl, hc⟩]
    rfl
  case port =>
    intro s p k g c hp hlen hdue
    refine (answers_iff rfl).mpr ?_
    rw [signetEngine, if_pos hp, claspSignetDone, hdue]
    dsimp only
    rw [State.clasp, (signetDone_sigKeeps ..).clasps]
    have hport := State.modClasp_clasp (fun x => { x with signet := g, signetDue := none }) p p s
    rw [if_pos ⟨rfl, by omega⟩] at hport
    exact ⟨congrArg Clasp.signet hport, congrArg Clasp.signetDue hport⟩

end Sys2Proof.Machine
end

section
/-! Accesses through the aperture (R162, R163, R438). -/

namespace Sys2Proof.Machine

/-! ## Accesses that go nowhere -/

theorem apertureEvent_spec (n x : Nat) (s : State) :
    raised evHostAperture s (apertureEvent n x s) ∧ (apertureEvent n x s).bezel = s.bezel ∧ (apertureEvent n x s).lp4x = s.lp4x ∧
    (apertureEvent n x s).out = s.out := by
  refine ⟨raised_raise_of rfl rfl, ?_, ?_, raiseAt_out (by decide) ..⟩
  · simp [apertureEvent]
  · simp [apertureEvent]

theorem windowOk_closed {s : State} {n : Nat} (hclosed : windowOpen s n = false) (x len : Nat) (wr : Bool) :
    windowOk s n x len wr = false := by simp [windowOk, hclosed]

/-! ## An access within one line -/

/-- An access within one line is one piece. -/
theorem linePieces_one {x n : Nat} (hn : 0 < n) (hline : x / 1024 = (x + n - 1) / 1024) : linePieces (n / 1024 + 2) x n = [(x, n)] := by
  have hmin : min n (1024 - x % 1024) = n := by omega
  simp [linePieces, Nat.ne_of_gt hn, hmin]

theorem windowOk_one {s : State} {n x len : Nat} {wr : Bool} {l : Nat × Nat} (hopen : windowOpen s n = true)
    (hlen : 0 < len) (hline : x / 1024 = (x + len - 1) / 1024) (hl : windowLine s n x wr = some l) :
    windowOk s n x len wr = true := by
  simp [windowOk, hopen, linePieces_one hlen hline, hl]

theorem windowLine_congr {s t : State} (hctxs : t.ctxs = s.ctxs) (hgrade : t.grade = s.grade) (hbezel : t.bezel = s.bezel)
    (n x : Nat) (wr : Bool) : windowLine t n x wr = windowLine s n x wr := by
  simp only [windowLine, windowSeg, hbezel, translate_congr hctxs hgrade]

/-- A write that its window takes waits in the queue of its channel. -/
theorem acceptWrite_spec {s : State} {n x ch u : Nat} (hline : windowLine s n x true = some (ch, u)) (b : Bytes) :
    (acceptWrite n x b s).bezel.queue = s.bezel.queue ++ [(ch, .write n x b s.bezel.posted none (latchBead s))] ∧
    (acceptWrite n x b s).bezel.posted = s.bezel.posted + 1 ∧ (acceptWrite n x b s).lp4x = s.lp4x ∧
    (acceptWrite n x b s).events = s.events := by
  unfold acceptWrite
  extract_lets t
  have ht : windowLine t n x true = some (ch, u) ∧ latchBead t = latchBead s ∧ t.bezel = s.bezel ∧ t.lp4x = s.lp4x ∧
      t.events = s.events := by
    simp only [t]
    split
    · exact ⟨(windowLine_congr rfl rfl rfl n x true).trans hline, rfl, rfl, rfl, rfl⟩
    · exact ⟨hline, rfl, rfl, rfl, rfl⟩
  clear_value t
  obtain ⟨hline', hlatch, hbezel, hlp4x, hevents⟩ := ht
  simp only [queueWrite, hline', State.modBezel, hbezel, hlp4x, hevents, hlatch, and_self]

theorem slice_zero (b : Bytes) : slice b 0 b.length = b := by simp [slice, zeros]

theorem chunks_one {α : Type} {n : Nat} {l : List α} (hn : 0 < n) (hl : l.length = n) : chunks n l = [l] := by
  have hone : cdiv n n = 1 := by
    rw [cdiv, Nat.add_sub_assoc (Nat.succ_le_of_lt hn), Nat.add_div_left _ hn, Nat.div_eq_of_lt (by omega)]
  rw [chunks, hl, hone, cuts, cuts, List.take_of_length_le (Nat.le_of_eq hl)]

/-- A write that arrives with the module ready, within one line of an open window. -/
theorem hostWriteArrives_one {s : State} {x : Nat} {b : Bytes} {l : Nat × Nat} (hlink : s.ports.linkUp = true)
    (hready : s.startup.ready = true) (hb : b ≠ []) (hleads : s.follows = false) (hlive : s.cast.replay = false) (hx : x < 2 ^ 36)
    (hone : x % 2 ^ 32 / 1024 = (x % 2 ^ 32 + b.length - 1) / 1024) (hopen : windowOpen s (x / 2 ^ 32) = true)
    (hline : windowLine s (x / 2 ^ 32) (x % 2 ^ 32) true = some l)
    (hplain : sealedHit s (x / 2 ^ 32) (x % 2 ^ 32) b.length = none) :
    hostWriteArrives x b false s =
      match windowSession s (x / 2 ^ 32) with
      | some k =>
        if x % 2 ^ 32 % 1024 = 0 ∧ b.length % 1024 = 0 then
          (chunks 1024 b).zipIdx.foldl (fun t p => acceptWrite (x / 2 ^ 32) (x % 2 ^ 32 + 1024 * p.2)
            (xts false k.hmEnc k.mhEnc (x % 2 ^ 32 + 1024 * p.2) p.1) t) s
        else apertureEvent (x / 2 ^ 32) (x % 2 ^ 32) s
      | none => acceptWrite (x / 2 ^ 32) (x % 2 ^ 32) b s := by
  have hlen : 0 < b.length := List.length_pos_iff.mpr hb
  have hok := windowOk_one hopen hlen hone hline
  have hfits : ¬ (s.follows = true ∨ 2 ^ 32 < x % 2 ^ 32 + b.length ∨ 16 ≤ x / 2 ^ 32 ∨
      windowOk s (x / 2 ^ 32) (x % 2 ^ 32) b.length true = false) := by
    rw [hleads, hok]
    simp only [Bool.false_eq_true, Bool.true_eq_false, false_or, or_false, not_or, Nat.not_lt, Nat.not_le]
    omega
  simp only [hostWriteArrives, hlink, hready, hb, hlive, hplain, if_neg hfits, linePieces_one hlen hone, Bool.false_eq_true,
    Bool.true_eq_false, or_self, if_false, List.foldl_cons, List.foldl_nil, Nat.sub_self, slice_zero] <;> rfl

/-- A session window is read in whole lines (R162). -/
def readFits (s : State) (n x len : Nat) : Bool :=
  match windowSession s n with
  | some _ => decide (x % 1024 = 0 ∧ len % 1024 = 0)
  | none => true

theorem readFits_of {s : State} {n x len : Nat} (h : windowSession s n = none ∨ (x % 1024 = 0 ∧ len % 1024 = 0)) :
    readFits s n x len = true := by
  unfold readFits
  rcases h with h | h
  · rw [h]
  · split
    · exact decide_eq_true h
    · rfl

/-- A read that its window takes is cut at the lines. -/
theorem hostReadArrives_fits {s : State} {off len : Nat} (hlink : s.ports.linkUp = true) (hready : s.startup.ready = true)
    (hfits : ¬ (s.follows = true ∨ 2 ^ 32 < off % 2 ^ 32 + len ∨ 16 ≤ off / 2 ^ 32 ∨
        windowOk s (off / 2 ^ 32) (off % 2 ^ 32) len false = false ∨ readFits s (off / 2 ^ 32) (off % 2 ^ 32) len = false)) :
    hostReadArrives off len s = (linePieces (len / 1024 + 2) (off % 2 ^ 32) len).foldl (fun t p =>
      match windowLine t (off / 2 ^ 32) p.1 false with
      | some (ch, _) =>
        t.modBezel fun b => { b with queue := b.queue ++ [(ch, .read (off / 2 ^ 32) p.1 p.2 b.posted)], posted := b.posted + 1 }
      | none => t) s := by
  rw [hostReadArrives, if_neg (by simp [hlink]), if_neg (by simp [hready])]
  exact if_neg hfits

/-- Settles O10: what goes nowhere is reported, what a window takes waits in its channel's queue. -/
theorem apertureAccesses : Obligations.ApertureAccesses := by
  refine ⟨?poisoned, ?writeClosed, ?readClosed, ?write, ?session, ?read⟩
  case poisoned =>
    intro s x b hlink
    refine (answers_iff rfl).mpr ?_
    simp [hostWriteArrives, hlink, State.emit]
  case writeClosed =>
    intro s x b hlink hready hb hclosed
    refine (answers_iff rfl).mpr ?_
    have hend : hostWriteArrives x b false s = apertureEvent (x / 2 ^ 32) (x % 2 ^ 32) s := by
      simp only [hostWriteArrives, hlink, hready, hb, windowOk_closed hclosed, Bool.false_eq_true, Bool.true_eq_false, or_self,
        or_true, if_false, if_true]
    obtain ⟨hraised, hbezel, hlp4x, -⟩ := apertureEvent_spec (x / 2 ^ 32) (x % 2 ^ 32) s
    rw [hend]
    exact ⟨hraised, hbezel, hlp4x⟩
  case readClosed =>
    intro s x n hlink hready hclosed
    refine (answers_iff rfl).mpr ?_
    have hend : hostReadArrives x n s = apertureEvent (x / 2 ^ 32) (x % 2 ^ 32) (onesRead x n s) := by
      simp only [hostReadArrives, hlink, hready, windowOk_closed hclosed, Bool.true_eq_false, true_or, or_true, if_false, if_true]
    obtain ⟨hraised, hbezel, -, hout⟩ := apertureEvent_spec (x / 2 ^ 32) (x % 2 ^ 32) (onesRead x n s)
    rw [hend]
    exact ⟨hout, hraised, hbezel⟩
  case write =>
    intro s x ch u b hlink hready hb hleads hlive hx hone hopen hline hplain hsession
    refine (answers_iff rfl).mpr ?_
    have hend : hostWriteArrives x b false s = acceptWrite (x / 2 ^ 32) (x % 2 ^ 32) b s := by
      rw [hostWriteArrives_one hlink hready hb hleads hlive hx hone hopen hline hplain, hsession]
    rw [hend]
    exact acceptWrite_spec hline b
  case session =>
    intro s x ch u b k hlink hready hlen hleads hlive hx halign hopen hline hplain hsession
    refine (answers_iff rfl).mpr ?_
    have hb : b ≠ [] := fun h => by simp [h] at hlen
    have haligned : x % 2 ^ 32 % 1024 = 0 := by omega
    have hend : hostWriteArrives x b false s =
        acceptWrite (x / 2 ^ 32) (x % 2 ^ 32) (xts false k.hmEnc k.mhEnc (x % 2 ^ 32) b) s := by
      rw [hostWriteArrives_one hlink hready hb hleads hlive hx (by omega) hopen hline hplain, hsession]
      dsimp only
      rw [if_pos ⟨haligned, by omega⟩, chunks_one (by omega) hlen]
      rfl
    rw [hend]
    exact acceptWrite_spec hline _
  case read =>
    intro s x n ch u hlink hready hn hleads hx hone hopen hline hsession
    refine (answers_iff rfl).mpr ?_
    have hok := windowOk_one hopen hn hone hline
    have hfit : readFits s (x / 2 ^ 32) (x % 2 ^ 32) n = true :=
      readFits_of (hsession.imp_right fun ⟨halign, hn'⟩ => ⟨by omega, by omega⟩)
    have hfits : ¬ (s.follows = true ∨ 2 ^ 32 < x % 2 ^ 32 + n ∨ 16 ≤ x / 2 ^ 32 ∨
        windowOk s (x / 2 ^ 32) (x % 2 ^ 32) n false = false ∨ readFits s (x / 2 ^ 32) (x % 2 ^ 32) n = false) := by
      rw [hleads, hok, hfit]
      simp only [Bool.false_eq_true, Bool.true_eq_false, false_or, or_false, not_or, Nat.not_lt, Nat.not_le]
      omega
    have hend : hostReadArrives x n s = s.modBezel fun b =>
        { b with queue := b.queue ++ [(ch, .read (x / 2 ^ 32) (x % 2 ^ 32) n b.posted)], posted := b.posted + 1 } := by
      rw [hostReadArrives_fits hlink hready hfits, linePieces_one hn hone]
      simp only [List.foldl_cons, List.foldl_nil, hline]
    rw [hend]
    exact ⟨rfl, rfl, rfl, rfl, rfl⟩

end Sys2Proof.Machine
end

section
/-! Host slots, patrol, repair and MR4 (R157, R158, R162, R163, R166). -/

namespace Sys2Proof.Machine

/-! ## The access of a slot -/

theorem hostSlotAccess_next {s : State} {ch : Nat} {q : Nat × HostAccess} (hstart : hostStart s ch = true)
    (hnext : nextAccess s ch = some q) : hostSlotAccess ch s = performAccess ch q s := by
  simp only [hostSlotAccess, hstart, hnext, if_true]

/-- The state in which an access is performed: it has left the queue, and the slot start is taken. -/
def slotBegun (ch : Nat) (q : Nat × HostAccess) (s : State) : State := takeSlot ch (dropAccess q s)

theorem slotBegun_taken {ch : Nat} {s : State} (hch : ch < s.bezel.channels.length) (q : Nat × HostAccess) :
    slotTaken (slotBegun ch q s) ch = true := slotTaken_takeSlot hch

theorem slotBegun_stopped (ch : Nat) (q : Nat × HostAccess) (s : State) : stopped (slotBegun ch q s) ch = stopped s ch :=
  stopped_takeSlot ch ch (dropAccess q s)

theorem slotBegun_line (ch : Nat) (q : Nat × HostAccess) (s : State) (n x : Nat) (wr : Bool) :
    (if windowOpen (slotBegun ch q s) n then windowLine (slotBegun ch q s) n x wr else none) =
      if windowOpen s n then windowLine s n x wr else none := by
  have hline : windowLine (slotBegun ch q s) n x wr = windowLine s n x wr := by
    simp only [windowLine, windowSeg]
    rw [translate_congr (s := s) rfl rfl]
    rfl
  rw [hline]
  rfl

/-- A performed write stands 18 beads later. -/
theorem performWrite_running {s : State} {ch : Nat} (hruns : stopped s ch = false) (n x : Nat) (b line : Bytes) (u seq : Nat) :
    performWrite n x b line ch u seq s =
      s.later 18 0xB000 n (.hostWrite n x b [(ch, u, (sealLine s n ch u line).1, (sealLine s n ch u line).2)] seq) := by
  simp only [performWrite, hruns, Bool.false_eq_true, if_false]

theorem loadComplete_none {s : State} {n : CtxNo} (h : (s.ctx n).sec.load = none) : loadComplete n s = s := by
  simp only [loadComplete, h]

/-! ## Reads that see posted writes -/

/-- What the read of a line gives depends on the memory, the keys and the channel alone. -/
theorem readLine_bytes_congr {s t : State} {ch : Nat} (hstop : stopped t ch = stopped s ch) (hlp4x : t.lp4x = s.lp4x)
    (hcheck : t.lp4xCheck = s.lp4xCheck) (hkeys : t.bezel.keys = s.bezel.keys) (c : CtxNo) (u : Nat) :
    (readLine c ch u t).1 = (readLine c ch u s).1 := by
  have hpair : keyPair t c = keyPair s c := by simp only [keyPair, hkeys]
  have hline : checkLine t ch u = checkLine s ch u := by simp only [checkLine, hlp4x, hcheck]
  unfold readLine
  rw [hstop, hpair, hline]
  split <;> rfl

theorem readPosted_bytes (ch : Nat) (q : Nat × HostAccess) (s : State) (n u : Nat) :
    (readPosted n ch u (slotBegun ch q s)).1 = (readPosted n ch u s).1 := by
  have hposted : postedLine (slotBegun ch q s) ch u = postedLine s ch u := rfl
  unfold readPosted
  rw [hposted]
  cases postedLine s ch u with
  | none => exact readLine_bytes_congr (slotBegun_stopped ch q s) rfl rfl rfl ..
  | some l =>
    exact readLine_bytes_congr (t := putLine ch u l.1 l.2 (slotBegun ch q s)) (s := putLine ch u l.1 l.2 s)
      (slotBegun_stopped ch q s) rfl rfl rfl ..

/-- A read that sees posted writes notes a corrected error, and changes nothing else. -/
theorem readPosted_state (n ch u : Nat) (s : State) :
    (readPosted n ch u s).2.2 = s ∨ (readPosted n ch u s).2.2 = s.modChan (fun x => { x with ce := noteBead s.bead x.ce }) ch := by
  unfold readPosted
  split
  · next l hl =>
    rcases readLine_state n ch u (putLine ch u l.1 l.2 s) with h | h
    · exact .inl (by dsimp only; rw [h]; rfl)
    · exact .inr (by dsimp only; rw [h]; rfl)
  · exact readLine_state n ch u s

/-- What a read in a host slot leaves: the queue, the memories and the outputs, and the slot taken. -/
structure SlotKeeps (ch : Nat) (s t : State) : Prop where
  queue : t.bezel.queue = s.bezel.queue
  taken : slotTaken t ch = slotTaken s ch
  lp4x : t.lp4x = s.lp4x
  out : t.out = s.out
  ctxs : t.ctxs = s.ctxs
  bead : t.bead = s.bead

theorem SlotKeeps.refl (ch : Nat) (s : State) : SlotKeeps ch s s := ⟨rfl, rfl, rfl, rfl, rfl, rfl⟩

theorem readPosted_keeps (n ch u : Nat) (s : State) : SlotKeeps ch s (readPosted n ch u s).2.2 := by
  rcases readPosted_state n ch u s with h | h
  · rw [h]; exact .refl ch s
  · rw [h]
    refine ⟨rfl, ?_, rfl, rfl, rfl, rfl⟩
    simp only [slotTaken, State.modChan_chan]
    split <;> rfl

/-- An uncorrectable line is an event 18 beads later. -/
theorem SlotKeeps.withUe {ch : Nat} {s t : State} (h : SlotKeeps ch s t) (p : Bool) (un : UnitNo) (c : CtxNo) (seg off k u : Nat) :
    SlotKeeps ch s (if p then lineUe 18 un c seg off k u t else t) := by
  split
  · exact ⟨h.queue, h.taken, h.lp4x, h.out, h.ctxs, h.bead⟩
  · exact h

/-- Settles O11: the three kinds of access, performed in the slot. -/
theorem hostSlotPerforms : Obligations.HostSlotPerforms := by
  refine ⟨?whole, ?part, ?read⟩
  case whole =>
    intro s ch n x seq nb u b hstart hch hnext hopen hline hlen hload hruns
    refine (answers_iff rfl).mpr ?_
    have hwindow := slotBegun_line ch (ch, .write n x b seq none nb) s n x true
    rw [hopen, if_pos rfl, hline] at hwindow
    have hload' (k : EffKind) : (((slotBegun ch (ch, .write n x b seq none nb) s).later 18 0xB000 n k).ctx n).sec.load = none := hload
    have hend : performAccess ch (ch, .write n x b seq none nb) s =
        (slotBegun ch (ch, .write n x b seq none nb) s).later 18 0xB000 n
          (.hostWrite n x b [(ch, u, (sealLine s n ch u b).1, (sealLine s n ch u b).2)] seq) := by
      rw [performAccess]
      dsimp only
      rw [← slotBegun, hwindow]
      dsimp only
      rw [if_neg (fun h => h rfl), if_pos hlen, performWrite_running ((slotBegun_stopped ..).trans hruns), loadComplete_none (hload' _)]
      rfl
    rw [hostSlotAccess_next hstart hnext, hend]
    exact ⟨rfl, slotBegun_taken hch _, rfl, rfl⟩
  case part =>
    intro s ch n x seq nb u b hstart hch hnext hopen hline hlen
    refine (answers_iff rfl).mpr ?_
    have hwindow := slotBegun_line ch (ch, .write n x b seq none nb) s n x true
    rw [hopen, if_pos rfl, hline] at hwindow
    have hbytes := readPosted_bytes ch (ch, .write n x b seq none nb) s n u
    have hkeeps := readPosted_keeps n ch u (slotBegun ch (ch, .write n x b seq none nb) s)
    rw [hostSlotAccess_next hstart hnext, performAccess]
    dsimp only
    rw [← slotBegun, hwindow]
    dsimp only
    rw [if_neg (fun h => h rfl), if_neg hlen]
    generalize readPosted n ch u (slotBegun ch (ch, .write n x b seq none nb) s) = r at hbytes hkeeps ⊢
    obtain ⟨bs, ue, t⟩ := r
    obtain ⟨hqueue, htaken, hlp4x, hout, hctxs, hbead⟩ :=
      hkeeps.withUe ue 0xB000 n (windowSeg t n x).1 (windowSeg t n x).2 ch u
    refine ⟨?_, htaken.trans (slotBegun_taken hch _), hlp4x⟩
    simp only [State.modBezel, hqueue, hbead, ← hbytes]
    rfl
  case read =>
    intro s ch n x k p u hstart hch hnext hopen hline hsession
    refine (answers_iff rfl).mpr ?_
    have hwindow := slotBegun_line ch (ch, .read n x k p) s n x false
    rw [hopen, if_pos rfl, hline] at hwindow
    have hbytes := readPosted_bytes ch (ch, .read n x k p) s n u
    have hkeeps := readPosted_keeps n ch u (slotBegun ch (ch, .read n x k p) s)
    rw [hostSlotAccess_next hstart hnext, performAccess]
    dsimp only
    rw [← slotBegun, hwindow]
    dsimp only
    rw [if_pos rfl, performRead]
    generalize readPosted n ch u (slotBegun ch (ch, .read n x k p) s) = r at hbytes hkeeps ⊢
    obtain ⟨bs, ue, t⟩ := r
    obtain ⟨hqueue, htaken, hlp4x, hout, hctxs, hbead⟩ :=
      hkeeps.withUe ue 0xB000 n (windowSeg t n x).1 (windowSeg t n x).2 ch u
    dsimp only
    generalize (if ue then lineUe 18 0xB000 n (windowSeg t n x).1 (windowSeg t n x).2 ch u t else t) = v at *
    have hplain : windowSession v n = none := by
      refine Eq.trans ?_ hsession
      simp only [windowSession, State.ctx, hctxs]
      rfl
    rw [hplain]
    refine ⟨?_, hqueue, htaken.trans (slotBegun_taken hch _), hlp4x⟩
    simp only [State.emit, hout, ← hbytes]
    rfl

/-! ## Patrol (R157, R166) -/

/-- The channel that patrols has taken its slot start. -/
def patrolBegun (ch : Nat) (s : State) : State := (takeSlot ch s).modChan (fun x => { x with patrolled := true }) ch

theorem patrolBegun_chan {ch : Nat} {s : State} (hch : ch < s.bezel.channels.length) :
    (patrolBegun ch s).chan ch = { s.chan ch with taken := some s.bead, patrolled := true } := by
  have htake : (takeSlot ch s).chan ch = { s.chan ch with taken := some s.bead } := by
    rw [takeSlot, State.modChan_chan, if_pos ⟨rfl, hch⟩]
  rw [patrolBegun, State.modChan_chan, htake, if_pos ⟨rfl, by simpa [takeSlot] using hch⟩]

theorem patrolBegun_stopped (ch : Nat) (s : State) : stopped (patrolBegun ch s) ch = stopped s ch :=
  (stopped_modChan (f := fun x => { x with patrolled := true }) (fun _ => rfl) ch ch (takeSlot ch s)).trans (stopped_takeSlot ..)

theorem patrolBegun_length (ch : Nat) (s : State) : (patrolBegun ch s).bezel.channels.length = s.bezel.channels.length := by
  simp [patrolBegun, takeSlot]

theorem slotTaken_of_chan {ch : Nat} {s : State} (h : (s.chan ch).taken = some s.bead) : slotTaken s ch = true := decide_eq_true h

/-- A line that patrol has read: the next one is noted, and this one where it is to be corrected. -/
def patrolNote (u bead : Nat) (fix : Bool) (x : Channel) : Channel :=
  { x with patrolAt := if u + 1 < channelLines then u + 1 else 0, ce := if fix then noteBead bead x.ce else x.ce,
           patrolFix := if fix then some u else none }

/-- Patrol's read, of a line that may be bad. -/
def patrolPass (ch u : Nat) (fix bad : Bool) (s : State) : State :=
  if bad then channelUe ch u (s.modChan (patrolNote u s.bead fix) ch) else s.modChan (patrolNote u s.bead fix) ch

theorem patrol_read {s : State} {ch : Nat} (hen : s.bezel.patrolEn = true) (hstart : patrolStart s ch = true)
    (hch : ch < s.bezel.channels.length) (hfix : (s.chan ch).patrolFix = none) :
    ∃ fix bad, patrol ch s = patrolPass ch (s.chan ch).patrolAt fix bad (patrolBegun ch s) := by
  have hchan := patrolBegun_chan hch
  have hfix' : ((patrolBegun ch s).chan ch).patrolFix = none := by rw [hchan]; exact hfix
  have hat : ((patrolBegun ch s).chan ch).patrolAt = (s.chan ch).patrolAt := by rw [hchan]
  rw [patrol, if_pos ⟨hen, hstart⟩, ← patrolBegun]
  simp only [hfix', hat]
  exact ⟨_, _, rfl⟩

theorem patrolPass_spec {s : State} {ch : Nat} (hch : ch < s.bezel.channels.length) (u : Nat) (fix bad : Bool) :
    ((patrolPass ch u fix bad s).chan ch).patrolAt = (if u + 1 < channelLines then u + 1 else 0) ∧
    ((patrolPass ch u fix bad s).chan ch).taken = (s.chan ch).taken ∧ (patrolPass ch u fix bad s).bead = s.bead ∧
    (patrolPass ch u fix bad s).lp4x = s.lp4x := by
  have hchan : (s.modChan (patrolNote u s.bead fix) ch).chan ch = patrolNote u s.bead fix (s.chan ch) := by
    rw [State.modChan_chan, if_pos ⟨rfl, hch⟩]
  unfold patrolPass
  split
  · obtain ⟨e, he⟩ := channelUe_eq ch u (s.modChan (patrolNote u s.bead fix) ch)
    rw [he]
    exact ⟨congrArg Channel.patrolAt hchan, (congrArg Channel.taken hchan :), rfl, rfl⟩
  · exact ⟨congrArg Channel.patrolAt hchan, (congrArg Channel.taken hchan :), rfl, rfl⟩

/-- Patrol writes a line that it has corrected. -/
theorem patrol_fix {s : State} {ch u : Nat} (hen : s.bezel.patrolEn = true) (hstart : patrolStart s ch = true)
    (hch : ch < s.bezel.channels.length) (hfix : (s.chan ch).patrolFix = some u) (hruns : stopped s ch = false) :
    patrol ch s = putLine ch u (checkLine s ch u).1 (lineCheck (checkLine s ch u).1)
      ((patrolBegun ch s).modChan (fun x => { x with patrolFix := none }) ch) := by
  have hfix' : ((patrolBegun ch s).chan ch).patrolFix = some u := by rw [patrolBegun_chan hch]; exact hfix
  have hruns' : stopped ((patrolBegun ch s).modChan (fun x => { x with patrolFix := none }) ch) ch = false :=
    (stopped_modChan (f := fun x => { x with patrolFix := none }) (fun _ => rfl) ..).trans ((patrolBegun_stopped ch s).trans hruns)
  rw [patrol, if_pos ⟨hen, hstart⟩, ← patrolBegun]
  simp only [hfix', hruns', Bool.false_eq_true, if_false]
  rfl

/-! ## Repair (R166) -/

/-- The channel that repairs a line has taken its slot start. -/
def repairBegun (ch : Nat) (r : List Nat) (s : State) : State := (takeSlot ch s).modChan (fun x => { x with repair := r }) ch

theorem repairBegun_chan {ch : Nat} {s : State} (hch : ch < s.bezel.channels.length) (r : List Nat) :
    ((repairBegun ch r s).chan ch).repair = r ∧ ((repairBegun ch r s).chan ch).taken = some s.bead := by
  have htake : (takeSlot ch s).chan ch = { s.chan ch with taken := some s.bead } := by
    rw [takeSlot, State.modChan_chan, if_pos ⟨rfl, hch⟩]
  rw [repairBegun, State.modChan_chan, htake, if_pos ⟨rfl, by simpa [takeSlot] using hch⟩]
  exact ⟨rfl, rfl⟩

theorem repairLine_eq {s : State} {ch u : Nat} {r : List Nat} (hrepair : (s.chan ch).repair = u :: r)
    (hstart : patrolStart s ch = true) (b : Bytes) :
    repairLine ch b s =
      match holderOf s ch u with
      | some (c, _, _) => if s.pair.regs.state = .lockstep then storeLine c ch u b (repairBegun ch r s) else repairBegun ch r s
      | none => repairBegun ch r s := by
  simp only [repairLine, hrepair, hstart, if_true]
  rfl

theorem repairBegun_storeLine (c : CtxNo) (ch u : Nat) (r : List Nat) (b : Bytes) (s : State) :
    (storeLine c ch u b (repairBegun ch r s)).lp4x = (storeLine c ch u b s).lp4x ∧
    (storeLine c ch u b (repairBegun ch r s)).lp4xCheck = (storeLine c ch u b s).lp4xCheck := by
  obtain ⟨hlp4x, hcheck⟩ := storeLine_modChan (f := fun x => { x with repair := r }) (fun _ => rfl) c ch ch u b (takeSlot ch s)
  obtain ⟨hlp4x', hcheck'⟩ := storeLine_modChan (f := fun x => { x with taken := some s.bead }) (fun _ => rfl) c ch ch u b s
  exact ⟨hlp4x.trans hlp4x', hcheck.trans hcheck'⟩

/-! ## MR4 (R158) -/

theorem oppForce_chan (s : State) (ch : Nat) : (oppForce s).chan ch = s.chan ch := by
  unfold oppForce
  split
  · simp [State.chan]
  · rfl

/-- A rank's code is taken, and the hotter one is the channel's. -/
def mr4Taken (code : BitVec 3) (rot : Nat) (c : Channel) : Channel :=
  let c := if c.nextRank = 0 then { c with rankCode0 := code } else { c with rankCode1 := code }
  { c with nextRank := 1 - c.nextRank, mr4Rot := some rot,
           temp := if c.rankCode0.toNat < c.rankCode1.toNat then c.rankCode1 else c.rankCode0 }

theorem mr4Taken_temp (code : BitVec 3) (rot : Nat) (c : Channel) :
    (mr4Taken code rot c).temp.toNat = max (mr4Taken code rot c).rankCode0.toNat (mr4Taken code rot c).rankCode1.toNat := by
  simp only [mr4Taken]
  split
  · dsimp only; split <;> omega
  · dsimp only; split <;> omega

/-- Settles O12: each command by the record of its channel. -/
theorem patrolAndRepair : Obligations.PatrolAndRepair := by
  refine ⟨?reads, ?fixes, ?starves, ?apart, ?lockstep, ?mr4⟩
  case reads =>
    intro s ch hen hstart hch hfix
    refine (answers_iff rfl).mpr ?_
    obtain ⟨fix, bad, hend⟩ := patrol_read hen hstart hch hfix
    obtain ⟨hat, htaken, hbead, hlp4x⟩ := patrolPass_spec (s := patrolBegun ch s) (by rw [patrolBegun_length]; exact hch)
      (s.chan ch).patrolAt fix bad
    rw [hend]
    refine ⟨hat, slotTaken_of_chan ?_, hlp4x⟩
    rw [htaken, patrolBegun_chan hch, hbead]
    rfl
  case fixes =>
    intro s ch u hen hstart hch hfix hruns
    refine (answers_iff rfl).mpr ?_
    have hlen : ch < (patrolBegun ch s).bezel.channels.length := by rw [patrolBegun_length]; exact hch
    have hchan : ((patrolBegun ch s).modChan (fun x => { x with patrolFix := none }) ch).chan ch =
        { s.chan ch with taken := some s.bead, patrolled := true, patrolFix := none } := by
      rw [State.modChan_chan, if_pos ⟨rfl, hlen⟩, patrolBegun_chan hch]
    rw [patrol_fix hen hstart hch hfix hruns]
    exact ⟨congrArg Channel.patrolFix hchan, slotTaken_of_chan (congrArg Channel.taken hchan), rfl⟩
  case starves =>
    intro s ch hen hgrade hch hlong
    refine (answers_iff rfl).mpr ?_
    rw [patrolStarves, if_pos ⟨hen, hgrade, hlong⟩, State.modChan_chan, if_pos ⟨rfl, hch⟩]
  case apart =>
    intro s ch u r b hrepair hch hstart hstate
    refine (answers_iff rfl).mpr ?_
    obtain ⟨hrest, htaken⟩ := repairBegun_chan hch r
    have hend : repairLine ch b s = repairBegun ch r s := by
      rw [repairLine_eq hrepair hstart]
      split
      · exact if_neg hstate
      · rfl
    rw [hend]
    exact ⟨hrest, slotTaken_of_chan htaken, rfl, rfl⟩
  case lockstep =>
    intro s ch u c x r b hrepair hch hstart hstate hholder hruns
    refine (answers_iff rfl).mpr ?_
    obtain ⟨hrest, htaken⟩ := repairBegun_chan hch r
    obtain ⟨hlp4x, hcheck⟩ := repairBegun_storeLine c ch u r b s
    rw [repairLine_eq hrepair hstart, hholder]
    dsimp only
    rw [if_pos hstate]
    obtain ⟨l, k, e, hstore⟩ := storeLine_eq c ch u b (repairBegun ch r s)
    refine ⟨?_, ?_, hlp4x, hcheck⟩
    · rw [hstore]; exact hrest
    · rw [hstore]; exact slotTaken_of_chan htaken
  case mr4 =>
    intro s ch code hgrade hch htime hlate honce
    refine (answers_iff rfl).mpr ?_
    have hgo : ¬ (channelCount s.grade ≤ ch ∨ 16 * s.rotLen < 51 * slotCount s.rotLen + 2 ∨
        s.beadInRot < 51 * (slotCount s.rotLen - 1) / 16 ∨ (s.chan ch).mr4Rot = some s.rotCount) := by
      simp only [honce, or_false]; omega
    have hend : mr4Read ch code s = oppForce (s.modChan (mr4Taken code s.rotCount) ch) := if_neg hgo
    rw [hend, oppForce_chan, State.modChan_chan, if_pos ⟨rfl, hch⟩]
    refine ⟨rfl, mr4Taken_temp .., fun h => ?_, fun h => ?_⟩
    · simp [mr4Taken, h]
    · simp [mr4Taken, h]

end Sys2Proof.Machine
end

section
/-! Ring writes, request entries and the delivery of step records (R206, R208, R212, R235, R318, R390, R438). -/

namespace Sys2Proof.Machine

/-! ## Writes that wait for their latch bead -/

theorem pushInput_rings (src : Nat) (k : InputKind) (s : State) : (pushInput src k s).rings = s.rings := (pushInput_evFrame src k s).rings

theorem pushInput_live (src : Nat) (k : InputKind) (s : State) : (pushInput src k s).live = s.live := (pushInput_evFrame src k s).live

theorem indexWrite_leads {s : State} {c : CtxNo} (hruns : s.running c = true) (hc : c < 16) (hlink : s.ports.linkUp = true)
    (hready : s.startup.ready = true) (hleads : s.follows = false) (hlive : s.cast.replay = false) (off : Nat) (v : Word) :
    indexWrite off c v s = pushInput 9 (.index (ringOffset c + off) v) s := by
  simp [indexWrite, hruns, hc, hlink, hready, hleads, hlive]

theorem indexWrite_follows {s : State} {c : CtxNo} (hruns : s.running c = true) (hc : c < 16) (hlink : s.ports.linkUp = true)
    (hready : s.startup.ready = true) (hfollows : s.follows = true) (off : Nat) (v : Word) :
    indexWrite off c v s = s.modRing (fun r => if off = 0x0C then { r with rqTail := v } else { r with srTail := v }) c := by
  simp [indexWrite, hruns, hc, hlink, hready, hfollows]

/-- Settles O13: a lead's write goes to the inbox, a follower's to its ring. -/
theorem ringWritesLatch : Obligations.RingWritesLatch := by
  refine ⟨?lead, ?follower⟩
  case lead =>
    intro s c v hruns hc hlink hready hleads hlive
    have hindex (off : Nat) := indexWrite_leads hruns hc hlink hready hleads hlive off v
    refine ⟨(answers_iff rfl).mpr ?_, (answers_iff rfl).mpr ?_, (answers_iff rfl).mpr ?_⟩
    · rw [hindex]
      exact ⟨pushInput_latched .., pushInput_rings ..⟩
    · rw [hindex]
      exact ⟨pushInput_latched .., pushInput_rings ..⟩
    · have hleads' : s.leads = true := by simp [State.leads, hleads]
      rw [cancelWrite, if_pos ⟨hruns, hc, hleads', hlink, hready, hlive⟩]
      exact ⟨pushInput_latched .., pushInput_rings .., pushInput_live ..⟩
  case follower =>
    intro s c v hruns hc hlen hlink hready hfollows
    have hindex (off : Nat) := indexWrite_follows hruns hc hlink hready hfollows off v
    refine ⟨(answers_iff rfl).mpr ?_, (answers_iff rfl).mpr ?_⟩
    · rw [hindex]
      refine ⟨?_, rfl⟩
      rw [State.modRing_ring, if_pos ⟨rfl, hlen⟩, if_pos rfl]
    · rw [hindex]
      refine ⟨?_, rfl⟩
      rw [State.modRing_ring, if_pos ⟨rfl, hlen⟩, if_neg (by decide)]

/-! ## A ring's position, once it has gone on -/

/-- Granules that become dirty change the join and the items alone. -/
theorem markDirty_fields (gs : List Nat) (s : State) :
    (markDirty gs s).rings = s.rings ∧ (markDirty gs s).ctxs = s.ctxs ∧ (markDirty gs s).out = s.out ∧
    (markDirty gs s).events = s.events ∧ (markDirty gs s).bead = s.bead := by
  unfold markDirty
  split
  · exact ⟨rfl, rfl, rfl, rfl, rfl⟩
  · split
    · exact ⟨rfl, rfl, rfl, rfl, rfl⟩
    · exact ⟨rfl, rfl, rfl, rfl, rfl⟩

theorem setRing_fields (f : Ring → Ring) (c : CtxNo) (s : State) :
    (setRing f c s).rings = (s.modRing f c).rings ∧ (setRing f c s).ctxs = s.ctxs ∧ (setRing f c s).out = s.out ∧
    (setRing f c s).events = s.events ∧ (setRing f c s).bead = s.bead := markDirty_fields [ctxGranule c] (s.modRing f c)

theorem setRing_ring {c : CtxNo} {s : State} (hc : c < s.rings.length) (f : Ring → Ring) : (setRing f c s).ring c = f (s.ring c) := by
  obtain ⟨hrings, -⟩ := setRing_fields f c s
  rw [State.ring, hrings]
  exact (State.modRing_ring f c c s).trans (if_pos ⟨rfl, hc⟩)

theorem setRing_length (f : Ring → Ring) (c : CtxNo) (s : State) : (setRing f c s).rings.length = s.rings.length := by
  obtain ⟨hrings, -⟩ := setRing_fields f c s
  rw [hrings]
  exact modifyAt_length ..

/-! ## Requests -/

theorem fetchReads_fields (c : CtxNo) (s : State) :
    (fetchReads c s).rings = s.rings ∧ (fetchReads c s).ctxs = s.ctxs ∧ (fetchReads c s).events = s.events ∧
    (fetchReads c s).bead = s.bead := by
  unfold fetchReads
  dsimp only
  split <;> exact ⟨rfl, rfl, rfl, rfl⟩

theorem fetchReads_plain {c : CtxNo} {s : State} (h : (s.ctx c).sec.session = none) :
    fetchReads c s = s.emit (.ringFetch (hostAddr (s.ring c).rqBaseLo (s.ring c).rqBaseHi + 64 * rqPlace (s.ring c)) 64) := by
  simp [fetchReads, h]

theorem fetchRequest_entry {c : CtxNo} {s : State} (hmay : mayFetch s c = true) (d g : Bytes) :
    fetchRequest c (.entry d g) s = takeEntry c d g (fetchReads c s) := by
  simp only [fetchRequest, hmay, if_true]

/-- The ring's head has gone on by one entry. -/
def headOn (r : Ring) : Ring := { r with rqHead := r.rqHead + 1, fails := 0 }

/-- Without a session the entry is kept as it came. -/
theorem takeEntry_plain {c : CtxNo} {s : State} (hc : c < s.rings.length) (hplain : (s.ctx c).sec.session = none) (d g : Bytes) :
    (takeEntry c d g s).ring c = { headOn (s.ring c) with fetched := (s.ring c).fetched ++ [(slice d 0 64, (s.ring c).doorbell)] } ∧
    (takeEntry c d g s).out = s.out := by
  obtain ⟨-, hctxs, hout, -⟩ := setRing_fields headOn c s
  have hplain' : ((setRing headOn c s).ctx c).sec.session = none := by rw [State.ctx, hctxs]; exact hplain
  have hend : takeEntry c d g s = (setRing headOn c s).modRing (fun r =>
      { r with fetched := r.fetched ++ [(slice d 0 64, (s.ring c).doorbell)] }) c := by
    unfold takeEntry
    dsimp only
    split
    · rfl
    · next k hk => exact nomatch hplain'.symm.trans hk
  rw [hend]
  refine ⟨?_, hout⟩
  rw [State.modRing_ring, if_pos ⟨rfl, by rw [setRing_length]; exact hc⟩, setRing_ring hc]
  rfl

/-- In a session an entry with its good tag is kept decrypted. -/
theorem takeEntry_session {c : CtxNo} {s : State} {k : Session} {d g : Bytes} (hc : c < s.rings.length)
    (hsession : (s.ctx c).sec.session = some k) (htag : sessTag k.hmMac 1 2 c k.rqIdx (slice d 0 64) = slice g 0 16) :
    (takeEntry c d g s).ring c = { headOn (s.ring c) with
      fetched := (s.ring c).fetched ++ [(sessCrypt k.hmEnc 1 2 c k.rqIdx (slice d 0 64), (s.ring c).doorbell)] } := by
  obtain ⟨-, hctxs, -⟩ := setRing_fields headOn c s
  have hsession' : ((setRing headOn c s).ctx c).sec.session = some k := by rw [State.ctx, hctxs]; exact hsession
  have hend : takeEntry c d g s = ((setRing headOn c s).modSec (fun y => { y with session := some { k with rqIdx := k.rqIdx + 1 } }) c).modRing
      (fun r => { r with fetched := r.fetched ++ [(sessCrypt k.hmEnc 1 2 c k.rqIdx (slice d 0 64), (s.ring c).doorbell)] }) c := by
    unfold takeEntry
    dsimp only
    split
    · next hk => exact nomatch hsession'.symm.trans hk
    · next k' hk =>
      obtain rfl : k = k' := Option.some.inj (hsession'.symm.trans hk)
      exact if_pos htag
  rw [hend, State.modRing_ring, if_pos ⟨rfl, by rw [State.modSec, State.modCtx]; exact (setRing_length headOn c s).symm ▸ hc⟩]
  exact congrArg (fun r : Ring => { r with fetched := r.fetched ++ [(sessCrypt k.hmEnc 1 2 c k.rqIdx (slice d 0 64), (s.ring c).doorbell)] })
    (setRing_ring hc headOn)

theorem fetchRequest_poisoned {c : CtxNo} {s : State} (hmay : mayFetch s c = true) :
    fetchRequest c .poisoned s =
      if (s.ring c).fails + 1 < 4 then (fetchReads c s).modRing (fun r => { r with fails := (s.ring c).fails + 1 }) c
      else raise evPcieDown [] ((fetchReads c s).modRing (fun r => { r with fails := 0, rqCtl := r.rqCtl &&& 0x7FFFFFFF }) c) := by
  obtain ⟨hrings, -⟩ := fetchReads_fields c s
  have hring : (fetchReads c s).ring c = s.ring c := by rw [State.ring, hrings]; rfl
  simp only [fetchRequest, hmay, if_true, hring]

/-- Settles O14: entries by `takeEntry_plain` and `takeEntry_session`, poisoned completions by `fetchRequest_poisoned`. -/
theorem requestsFetch : Obligations.RequestsFetch := by
  refine ⟨?plain, ?session, ?again, ?fourth, ?latch⟩
  case plain =>
    intro s c d g hmay hc hplain
    refine (answers_iff rfl).mpr ?_
    rw [fetchRequest_entry hmay, fetchReads_plain hplain]
    obtain ⟨hring, hout⟩ := takeEntry_plain
      (s := s.emit (.ringFetch (hostAddr (s.ring c).rqBaseLo (s.ring c).rqBaseHi + 64 * rqPlace (s.ring c)) 64)) hc hplain d g
    rw [hring, hout]
    exact ⟨rfl, rfl, rfl, rfl⟩
  case session =>
    intro s c d g k hmay hc hsession htag
    refine (answers_iff rfl).mpr ?_
    obtain ⟨hrings, hctxs, -⟩ := fetchReads_fields c s
    rw [fetchRequest_entry hmay, takeEntry_session (by rw [hrings]; exact hc) (by rw [State.ctx, hctxs]; exact hsession) htag]
    simp only [State.ring, hrings, headOn, and_self]
  case again =>
    intro s c hmay hc hfails
    refine (answers_iff rfl).mpr ?_
    obtain ⟨hrings, -⟩ := fetchReads_fields c s
    rw [fetchRequest_poisoned hmay, if_pos (by omega), State.modRing_ring, if_pos ⟨rfl, by rw [hrings]; exact hc⟩]
    simp only [State.ring, hrings, and_self]
  case fourth =>
    intro s c hmay hc hfails
    refine (answers_iff rfl).mpr ?_
    obtain ⟨hrings, -, hevents, hbead⟩ := fetchReads_fields c s
    rw [fetchRequest_poisoned hmay, if_neg (by omega)]
    have hring := State.modRing_ring (fun r => { r with fails := 0, rqCtl := r.rqCtl &&& 0x7FFFFFFF }) c c (fetchReads c s)
    rw [if_pos ⟨rfl, by rw [hrings]; exact hc⟩] at hring
    have hraise : (raise evPcieDown [] ((fetchReads c s).modRing (fun r => { r with fails := 0, rqCtl := r.rqCtl &&& 0x7FFFFFFF }) c)).ring c
        = { (fetchReads c s).ring c with fails := 0, rqCtl := ((fetchReads c s).ring c).rqCtl &&& 0x7FFFFFFF } := by
      simp only [State.ring, raise_fields] at hring ⊢
      exact hring
    rw [hraise]
    refine ⟨?_, ?_, raised_raise_of hevents hbead⟩
    · simp [bit]
    · simp only [State.ring, hrings]
  case latch =>
    intro s c e d r hfetched hc hmet hplace
    refine (answers_iff rfl).mpr ?_
    have hend : latchRequest c s = pushInput 9 (.request c e) (s.modRing (fun x => { x with fetched := r }) c) := by
      simp [latchRequest, hfetched, hmet, hplace]
    rw [hend]
    refine ⟨?_, pushInput_latched 9 (.request c e) (s.modRing (fun x => { x with fetched := r }) c)⟩
    rw [State.ring, pushInput_rings]
    exact congrArg Ring.fetched ((State.modRing_ring _ c c s).trans (if_pos ⟨rfl, hc⟩))

/-! ## Delivery -/

/-- The ring once a record has gone to its slot. -/
def recordSent (x : Committed) : Ring → Ring := fun r => { replaceRecord x { x with delivered := true } r with srHead := r.srHead + 1 }

/-- A lead with a partner reports a delivered record. -/
def relayDelivery (c : CtxNo) (step : Nat) (s : State) : State :=
  if relays s then sendItem 3 c (leBytes 8 step ++ leBytes 4 (s.ring c).srHead.toNat) s else s

theorem relayDelivery_fields (c : CtxNo) (step : Nat) (s : State) :
    (relayDelivery c step s).rings = s.rings ∧ (relayDelivery c step s).out = s.out := by
  unfold relayDelivery
  split <;> exact ⟨rfl, rfl⟩

/-- A record that is delivered goes to its slot, the head goes on, and the vector goes out. -/
theorem deliverRecord_signed {c : CtxNo} {s t : State} {x : Committed} {g : Bytes} (hnext : nextRecord (s.ring c) = some x)
    (hsigned : x.signet = some g) (hleads : s.follows = false) (hkept : recordGone s c x = false)
    (ht : t = setRing (recordSent x) c (writeRecord c (finishRecord (s.ring c) x g) s)) :
    deliverRecord c s = relayDelivery c x.step (t.emit (.msix (bits (t.ring c).srCtl.toNat 16 11))) := by
  have hno : ¬ s.follows = true := by simp [hleads]
  have hgo : ¬ recordGone s c x = true := by simp [hkept]
  rw [ht, deliverRecord, hnext]
  dsimp only
  split
  · next h => exact nomatch hsigned.symm.trans h
  · next g' h =>
    obtain rfl : g = g' := Option.some.inj (hsigned.symm.trans h)
    rw [if_neg hno, if_neg hgo]
    rfl

theorem writeRecord_rings (c : CtxNo) (b : Bytes) (s : State) : (writeRecord c b s).rings = s.rings := by
  unfold writeRecord
  dsimp only
  split <;> rfl

/-- A delivered record: the head goes on, and the vector goes out after the record. -/
theorem deliverRecord_spec {c : CtxNo} {s : State} {x : Committed} {g : Bytes} (hnext : nextRecord (s.ring c) = some x)
    (hsigned : x.signet = some g) (hc : c < s.rings.length) (hleads : s.follows = false) (hkept : recordGone s c x = false) :
    ((deliverRecord c s).ring c).srHead = (s.ring c).srHead + 1 ∧
    (deliverRecord c s).out = .msix (bits (s.ring c).srCtl.toNat 16 11) :: (writeRecord c (finishRecord (s.ring c) x g) s).out := by
  have hwrite := writeRecord_rings c (finishRecord (s.ring c) x g) s
  have hring := setRing_ring (s := writeRecord c (finishRecord (s.ring c) x g) s) (by rw [hwrite]; exact hc) (recordSent x)
  have hsame : (writeRecord c (finishRecord (s.ring c) x g) s).ring c = s.ring c := by rw [State.ring, hwrite]; rfl
  rw [hsame] at hring
  obtain ⟨-, -, hout, -⟩ := setRing_fields (recordSent x) c (writeRecord c (finishRecord (s.ring c) x g) s)
  rw [deliverRecord_signed hnext hsigned hleads hkept rfl, hring]
  generalize setRing (recordSent x) c (writeRecord c (finishRecord (s.ring c) x g) s) = t at hring hout ⊢
  obtain ⟨hrings, hlast⟩ := relayDelivery_fields c x.step (t.emit (.msix (bits (recordSent x (s.ring c)).srCtl.toNat 16 11)))
  rw [hlast, State.ring, hrings, ← hout]
  exact ⟨congrArg Ring.srHead hring, rfl⟩

theorem recordGone_none {s : State} {c : CtxNo} {x : Committed} (hlink : s.ports.linkUp = true) (hen : bit (s.ring c).srCtl 31 = true)
    (hlacks : lacksSession s c = false)
    (hfits : (s.ctx c).sec.session.isSome = true → x.record.length + 16 ≤ srSlot (s.ring c).srCtl) : recordGone s c x = false := by
  simp only [recordGone, hlink, hen, hlacks, Bool.not_true, Bool.or_self, Bool.false_or]
  cases h : (s.ctx c).sec.session.isSome with
  | false => rfl
  | true => simp [Nat.not_lt.mpr (hfits h)]

theorem writeRecord_plain {c : CtxNo} {s : State} (h : (s.ctx c).sec.session = none) (b : Bytes) :
    writeRecord c b s = s.emit (.hostWrite (hostAddr (s.ring c).srBaseLo (s.ring c).srBaseHi
      + srSlot (s.ring c).srCtl * ((s.ring c).srHead.toNat % 2 ^ srLog (s.ring c).srCtl)) b) := by
  simp only [writeRecord, h]

theorem writeRecord_session {c : CtxNo} {s : State} {k : Session} (h : (s.ctx c).sec.session = some k) (b : Bytes) :
    (writeRecord c b s).out =
      .hostWrite (hostAddr (s.ring c).srBaseLo (s.ring c).srBaseHi
        + srSlot (s.ring c).srCtl * ((s.ring c).srHead.toNat % 2 ^ srLog (s.ring c).srCtl) + srSlot (s.ring c).srCtl - 16)
          (sessTag k.mhMac 2 3 c k.srIdx (sessCrypt k.mhEnc 2 3 c k.srIdx b))
      :: .hostWrite (hostAddr (s.ring c).srBaseLo (s.ring c).srBaseHi
        + srSlot (s.ring c).srCtl * ((s.ring c).srHead.toNat % 2 ^ srLog (s.ring c).srCtl)) (sessCrypt k.mhEnc 2 3 c k.srIdx b)
      :: s.out := by
  simp only [writeRecord, h]
  rfl

/-- Settles O15: a record that can be written is by `deliverRecord_spec`, one that cannot is counted. -/
theorem recordDelivered : Obligations.RecordDelivered := by
  refine ⟨?plain, ?session, ?down⟩
  case plain =>
    intro s c x g hnext hsigned hc hleads hlink hen hplain hlacks
    refine (answers_iff rfl).mpr ?_
    obtain ⟨hhead, hout⟩ := deliverRecord_spec hnext hsigned hc hleads
      (recordGone_none hlink hen hlacks fun h => by simp [hplain] at h)
    rw [hout, writeRecord_plain hplain]
    exact ⟨hhead, rfl⟩
  case session =>
    intro s c x g ct k a hnext hsigned hc hleads hlink hen hsession hfits hct ha
    refine (answers_iff rfl).mpr ?_
    have hlacks : lacksSession s c = false := by
      unfold lacksSession
      split
      · simp [hsession]
      · rfl
    obtain ⟨hhead, hout⟩ := deliverRecord_spec hnext hsigned hc hleads (recordGone_none hlink hen hlacks fun _ => hfits)
    rw [hout, writeRecord_session hsession, hct, ha]
    exact ⟨hhead, rfl⟩
  case down =>
    intro s c x g hnext hsigned hc hleads hlink
    refine (answers_iff rfl).mpr ?_
    have hgone : recordGone s c x = true := by simp [recordGone, hlink]
    simp only [deliverRecord, hnext, hsigned, hleads, hgone, hlink, Bool.false_and, Bool.false_eq_true, if_false, if_true]
    rw [State.modRing_ring, if_pos ⟨rfl, hc⟩]
    exact ⟨rfl, rfl, rfl⟩

end Sys2Proof.Machine
end

section
/-! Strand commands and verification (R111, R463). -/

namespace Sys2Proof.Machine

theorem pushInput_strands (src : Nat) (k : InputKind) (s : State) : (pushInput src k s).strands = s.strands :=
  (pushInput_evFrame src k s).strands

/-- A command that is taken sets BUSY and waits. -/
theorem strCommand_taken {s : State} {op : Nat} (htaken : strTaken s op = true) (c : CtxNo) (image record : Bytes) :
    (strCommand op c image record s).strands.busy = true ∧
    latched 9 (.strCmd op c image record) s (strCommand op c image record s) := by
  rw [strCommand, if_pos htaken, pushInput_strands]
  exact ⟨rfl, pushInput_latched 9 (.strCmd op c image record) (s.modStr fun b => { b with busy := true })⟩

/-- Settles O16: a new command by `strCommand_taken`, the answer to an earlier one by its own input. -/
theorem strandCommandsLatch : Obligations.StrandCommandsLatch := by
  refine ⟨?admission, ?release, ?fetched⟩
  case admission =>
    intro s hen hidle hnew hlink hready hlive
    have htaken : strTaken s 1 = true := by simp [strTaken, hen, hidle, hlink, hready, hlive]
    have hadmit (x : Option (Bytes × Bytes)) :
        strAdmit x s = strCommand 1 0 (x.getD ([], [])).1 (x.getD ([], [])).2 s := by simp [strAdmit, hnew]
    refine ⟨fun a b => (answers_iff rfl).mpr ?_, (answers_iff rfl).mpr ?_⟩
    · rw [hadmit]
      exact strCommand_taken htaken 0 a b
    · rw [hadmit]
      exact strCommand_taken htaken 0 [] []
  case release =>
    intro s hen hidle hlink hready
    have htaken (op : Nat) (hop : op ≠ 1) : strTaken s op = true := by simp [strTaken, hen, hidle, hlink, hready, hop]
    refine ⟨fun c => (answers_iff rfl).mpr ?_, fun c => (answers_iff rfl).mpr ?_⟩
    · exact strCommand_taken (htaken 2 (by decide)) (c % 16) [] []
    · exact strCommand_taken (htaken 3 (by decide)) (c % 16) [] []
  case fetched =>
    intro s a b hfetching
    refine (answers_iff rfl).mpr ?_
    have hend : strAdmit (some (a, b)) s = pushInput 9 (.strCmd 1 0 a b) (s.modStr fun b => { b with fetching := false }) := by
      simp [strAdmit, hfetching]
    rw [hend, pushInput_strands]
    exact ⟨rfl, pushInput_latched 9 (.strCmd 1 0 a b) (s.modStr fun b => { b with fetching := false })⟩

/-! ## Verification -/

theorem verifyDone_of {s : State} {c : CtxNo} {p : Pending} (hp : s.strands.pendings.find? (fun q => decide (q.ctx = c)) = some p)
    (hnew : p.verified = false) (hfree : heldByScrub s c = false) :
    verifyDone c s = if admitVerdict s p ≠ 0 then rejectPending p (admitVerdict s p) s
      else modPending (fun q => { q with verified := true }) c s := by
  simp [verifyDone, hp, hnew, hfree]

/-- The STRAND block once an admission of its own has been rejected; its context is yet to be freed. -/
def blockRejected (c : CtxNo) (reason : Nat) (s : State) : State :=
  dropBlock c ((dropPending c s).modStr fun b =>
    { b with busy := false, done := decide (reason = 0), reject := decide (reason ≠ 0), context := c % 16, reason := reason })

theorem rejectPending_strBlock {s : State} {p : Pending} (hvia : p.via = .strBlock) (reason : Nat) :
    rejectPending p reason s = (blockRejected p.ctx reason s).modCtx
      (fun x => { x with phase := if x.phase = .pending then (if x.scrub.isSome then .scrubbing else .free) else x.phase }) p.ctx := by
  simp [rejectPending, cmdDone, hvia, blockRejected]

/-- Settles O17: the verdict decides (`verifyDone_of`). -/
theorem verificationDecides : Obligations.VerificationDecides := by
  refine ⟨?passes, ?fails⟩
  case passes =>
    intro s c p hp hnew hfree hverdict
    refine (answers_iff rfl).mpr ?_
    rw [verifyDone_of hp hnew hfree, if_neg (not_not_intro hverdict)]
    exact ⟨rfl, rfl⟩
  case fails =>
    intro s c p hp hnew hfree hverdict hvia hc hphase
    refine (answers_iff rfl).mpr ?_
    obtain rfl : p.ctx = c := by simpa using List.find?_some hp
    rw [verifyDone_of hp hnew hfree, if_pos hverdict, rejectPending_strBlock hvia]
    have hctx (d : CtxNo) : (blockRejected p.ctx (admitVerdict s p) s).ctx d = s.ctx d := rfl
    refine ⟨decide_eq_true hverdict, decide_eq_false hverdict, rfl, rfl, ?_, fun d hd => ?_⟩
    · rw [State.modCtx_ctx, if_pos ⟨rfl, hc⟩, hctx]
      simp only [hphase, if_true]
      exact if_neg (by simpa [heldByScrub] using hfree)
    · rw [State.modCtx_ctx, if_neg (fun h => hd h.1), hctx]

end Sys2Proof.Machine
end

section
/-! Admissions, releases and the scrub (R108, R235, R326, R381, R400, R401). -/

namespace Sys2Proof.Machine

/-! ## What the steps of an admission leave -/

/-- The parts of a context that its admission sets once. -/
def ctxCore (x : Ctx) : CtxPhase × Option Strand × Nat × Nat × Word := (x.phase, x.strand, x.rot, x.admitBead, x.admitPeriod)

/-- Between two states each context keeps what its admission set, and the rings and the keys stay. -/
structure AdmitKeeps (s t : State) : Prop where
  core : ∀ d, ctxCore (t.ctx d) = ctxCore (s.ctx d)
  length : t.ctxs.length = s.ctxs.length
  rings : t.rings = s.rings
  keys : t.bezel.keys = s.bezel.keys

theorem AdmitKeeps.refl (s : State) : AdmitKeeps s s := ⟨fun _ => rfl, rfl, rfl, rfl⟩

theorem AdmitKeeps.trans {s t u : State} (h : AdmitKeeps s t) (k : AdmitKeeps t u) : AdmitKeeps s u :=
  ⟨fun d => (k.core d).trans (h.core d), k.length.trans h.length, k.rings.trans h.rings, k.keys.trans h.keys⟩

theorem AdmitKeeps.of_same {s t : State} (hctxs : t.ctxs = s.ctxs) (hrings : t.rings = s.rings) (hkeys : t.bezel.keys = s.bezel.keys) :
    AdmitKeeps s t := ⟨fun d => by rw [State.ctx, State.ctx, hctxs], by rw [hctxs], hrings, hkeys⟩

theorem AdmitKeeps.ite {s t u : State} {p : Prop} [Decidable p] (h : AdmitKeeps s t) (k : AdmitKeeps s u) :
    AdmitKeeps s (if p then t else u) := by
  split
  · exact h
  · exact k

theorem EvFrame.admitKeeps {s t : State} (h : EvFrame s t) : AdmitKeeps s t :=
  ⟨fun d => (congrArg ctxCore (h.ctx d) :), h.ctxs, h.rings, congrArg Bezel.keys h.bezel⟩

theorem foldl_admitKeeps {α : Type} {f : State → α → State} (h : ∀ t a, AdmitKeeps t (f t a)) (l : List α) (s : State) :
    AdmitKeeps s (l.foldl f s) := by
  induction l generalizing s with
  | nil => exact .refl s
  | cons a r ih => exact (h s a).trans (ih _)

/-- A change of a context that keeps what its admission set. -/
theorem modCtx_admitKeeps {f : Ctx → Ctx} (hf : ∀ x, ctxCore (f x) = ctxCore x) (c : CtxNo) (s : State) :
    AdmitKeeps s (s.modCtx f c) := by
  refine ⟨fun d => ?_, modifyAt_length .., rfl, rfl⟩
  rw [State.modCtx_ctx]
  split
  · exact hf _
  · rfl

theorem storeLine_admitKeeps (c : CtxNo) (ch u : Nat) (b : Bytes) (s : State) : AdmitKeeps s (storeLine c ch u b s) := by
  obtain ⟨l, k, e, h⟩ := storeLine_eq c ch u b s
  rw [h]
  exact .of_same rfl rfl rfl

theorem readLine_admitKeeps (c : CtxNo) (ch u : Nat) (s : State) : AdmitKeeps s (readLine c ch u s).2.2 := by
  rcases readLine_state c ch u s with h | h
  · rw [h]; exact .refl s
  · rw [h]; exact .of_same rfl rfl rfl

theorem segFault_admitKeeps (c : CtxNo) (u : UnitNo) (seg : Nat) (o : Int) (s : State) : AdmitKeeps s (segFault c u seg o s) :=
  (raiseCtx_evFrame ..).admitKeeps

theorem writeSeg_admitKeeps (u : UnitNo) (c : CtxNo) (seg : Nat) (o : Int) (b : Bytes) (s : State) :
    AdmitKeeps s (writeSeg u c seg o b s).2 := by
  unfold writeSeg
  split
  · exact segFault_admitKeeps ..
  · split
    · exact .refl s
    · exact segFault_admitKeeps ..

theorem loadInto_admitKeeps (c : CtxNo) (r : InitLoad) (s : State) : AdmitKeeps s (loadInto c r s) := by
  unfold loadInto
  dsimp only
  split
  · refine foldl_admitKeeps (fun t p => ?_) _ s
    split
    · exact (readLine_admitKeeps ..).trans (storeLine_admitKeeps ..)
    · exact .refl t
  · exact (writeSeg_admitKeeps ..).trans
      (foldl_admitKeeps (f := fun t (x : Nat × Bytes) => storePut x.1 x.2 t) (fun t x => .of_same rfl rfl rfl) _ _)

theorem loadInit_admitKeeps (c : CtxNo) (r : InitLoad) (s : State) : AdmitKeeps s (loadInit c r s) :=
  ((modCtx_admitKeeps (f := openSeg (r.dest / 2 ^ 34)) (fun _ => rfl) c s).trans (loadInto_admitKeeps ..)).trans
    (modCtx_admitKeeps (f := fun x => { x with segs := (s.ctx c).segs }) (fun _ => rfl) ..)

theorem castPut_admitKeeps (type source ctx flags bead sub : Nat) (period : Word) (payload : Bytes) (s : State) :
    AdmitKeeps s (castPut type source ctx flags bead sub period payload s) := by
  unfold castPut
  split
  case isTrue => exact .refl s
  case isFalse =>
    extract_lets gapped r fresh t
    have hgapped : AdmitKeeps s gapped := by
      simp only [gapped]
      split
      · exact .ite (.of_same rfl rfl rfl) (.refl s)
      · exact .refl s
    have ht : AdmitKeeps s t := hgapped.trans (.of_same rfl rfl rfl)
    split
    · exact hgapped.trans (.of_same rfl rfl rfl)
    · exact .ite (ht.trans (raise_evFrame ..).admitKeeps) ht

theorem respond_admitKeeps (conn code status : Nat) (b : Bytes) (s : State) : AdmitKeeps s (respond conn code status b s) := by
  unfold respond when_
  exact .ite (.of_same rfl rfl rfl) (.refl s)

theorem cmdDone_admitKeeps (via : Via) (code : Nat) (c : CtxNo) (reason : Nat) (s : State) :
    AdmitKeeps s (cmdDone via code c reason s) := by
  unfold cmdDone
  split
  · exact .refl s
  · exact .of_same rfl rfl rfl
  · have hfree : AdmitKeeps s (if code = 0x10 then freeStage s else s) := .ite (.of_same rfl rfl rfl) (.refl s)
    have hfresh (t : State) : AdmitKeeps t t.fresh.2 := .of_same rfl rfl rfl
    exact .ite (hfree.trans (respond_admitKeeps ..)) (.ite (hfree.trans (respond_admitKeeps ..))
      ((hfree.trans (hfresh _)).trans (respond_admitKeeps ..)))

/-! ## What an admission leaves -/

/-- The core of an admitted context, the chain of its ring and the keys. -/
theorem admitKeyed_admits {p : Pending} {s : State} (hctx : p.ctx < s.ctxs.length) (hring : p.ctx < s.rings.length) :
    ctxCore ((admitKeyed p s).ctx p.ctx) = (.admitted, some (readStrand p.image), 0, s.bead + 1, s.period + 1) ∧
      ((admitKeyed p s).ring p.ctx).chain = zeros 32 ∧ (admitKeyed p s).bezel.keys = s.bezel.keys := by
  unfold admitKeyed
  extract_lets c t raw r g first per s1 s2 s3 s4 s5 s6 s7 s8 s9 s10
  have h2 : ctxCore (s2.ctx c) = (.admitted, some t, 0, first, per) := by
    simp only [s2]
    rw [State.modCtx_ctx, if_pos ⟨rfl, hctx⟩]
    rfl
  have h3 : AdmitKeeps s2 s3 := foldl_admitKeeps (fun u x => loadInit_admitKeeps c x u) _ _
  have hcore : ctxCore (s4.ctx c) = (.admitted, some t, 0, first, per) := (h3.core c).trans h2
  have hchain : (s4.ring c).chain = zeros 32 := by
    simp only [s4]
    rw [State.modRing_ring, if_pos ⟨rfl, by rw [h3.rings]; exact hring⟩]
  have hkeys : s4.bezel.keys = s.bezel.keys := h3.keys
  clear_value s4
  have h5 : AdmitKeeps s4 s5 := foldl_admitKeeps
    (f := fun u q => if ownsPort r q then u.modClasp (fun x => { x with chain := zeros 32 }) q else u)
    (fun u q => .ite (.of_same rfl rfl rfl) (.refl u)) _ _
  clear_value s5
  have h8 : AdmitKeeps s5 s8 := .of_same rfl rfl rfl
  clear_value s8
  have h9 : AdmitKeeps s8 s9 := by
    simp only [s9]
    split
    · exact .of_same rfl rfl rfl
    · exact .refl s8
  clear_value s9
  have h10 : AdmitKeeps s9 s10 := .ite (castPut_admitKeeps ..) (.refl s9)
  clear_value s10
  have hend : AdmitKeeps s4 (cmdDone p.via 0x10 c 0 s10) :=
    (((h5.trans h8).trans h9).trans h10).trans (cmdDone_admitKeeps ..)
  refine ⟨(hend.core c).trans hcore, ?_, hend.keys.trans hkeys⟩
  rw [State.ring, hend.rings]
  exact hchain

/-- An admission that every check passes is made; its context has a fresh key pair, unless the generator fails (R379). -/
theorem admitNow_admits {p : Pending} {s : State} (hctx : p.ctx < s.ctxs.length) (hring : p.ctx < s.rings.length) :
    if (drawPair s).2.locket.rngFailed then
      (admitNow p s).locket.rngFailed = true ∧ ((admitNow p s).ctx p.ctx).strand = (s.ctx p.ctx).strand
    else ctxCore ((admitNow p s).ctx p.ctx) = (.admitted, some (readStrand p.image), 0, s.bead + 1, s.period + 1)
      ∧ ((admitNow p s).ring p.ctx).chain = zeros 32 ∧ assoc p.ctx (admitNow p s).bezel.keys = some (drawPair s).1 := by
  unfold admitNow
  split
  case isTrue hfail =>
    rw [loadPair_failed hfail]
    dsimp only
    rw [if_pos hfail]
    exact ⟨hfail, (drawPair_stays s p.ctx).strand⟩
  case isFalse hsound =>
    have hsound := Bool.eq_false_iff.mpr hsound
    rw [loadPair_sound hsound]
    obtain ⟨n, hn⟩ := drawPair_sound hsound
    generalize hpair : (drawPair s).1 = k
    rw [hn]
    have hsound' : s.locket.rngFailed = false := by rw [hn] at hsound; exact hsound
    dsimp only
    rw [if_neg (by simp [State.drawn, hsound'])]
    obtain ⟨hcore, hchain, hkeys⟩ := admitKeyed_admits (p := p)
      (s := (s.drawn n).modBezel fun b => { b with keys := assocSet p.ctx k b.keys }) hctx hring
    exact ⟨hcore, hchain, by rw [hkeys]; exact assoc_assocSet_same ..⟩

theorem pendingOf_ctx {s : State} {c : CtxNo} {p : Pending} (hp : s.strands.pendings.find? (fun q => decide (q.ctx = c)) = some p) :
    p.ctx = c := of_decide_eq_true (List.find?_some hp :)

/-- With no release or substitution due there, the boundary that was named for a verified admission makes it. -/
theorem admissionEffect_named {s : State} {c : CtxNo} {p : Pending}
    (hp : s.strands.pendings.find? (fun q => decide (q.ctx = c)) = some p) (hat : atBoundary s = true)
    (hrel : anyReleaseDue s = false) (hswap : anySwapDue s = false) (hb : p.boundary = some (s.period + 1))
    (hver : p.verified = true) : admissionEffect c s = admitOrReject p s := by
  simp [admissionEffect, hp, hat, hrel, hswap, hb, hver]

/-- With no release or substitution due there, an admission that is ready takes its turn. -/
theorem admissionEffect_ready {s : State} {c : CtxNo} {p : Pending}
    (hp : s.strands.pendings.find? (fun q => decide (q.ctx = c)) = some p) (hat : atBoundary s = true)
    (hrel : anyReleaseDue s = false) (hswap : anySwapDue s = false) (hb : p.boundary = none)
    (hready : admitReady (withNamed s c) p = true) (halign : ∀ a, p.replay = some a → (s.period + 1).toNat % 4 = a.1) :
    admissionEffect c s = if relays s then nameBoundary p s else admitOrReject p s := by
  have hopen : ¬ (atBoundary s = false ∨ anyReleaseDue s ∨ (anySwapDue s ∧ admitMade s = false)) := by simp [hat, hrel, hswap]
  unfold admissionEffect
  rw [hp]
  dsimp only
  rw [if_neg hopen, hb]
  dsimp only
  rw [if_neg (by simp [hready])]
  congr 1
  cases hreplay : p.replay with
  | none => rfl
  | some a => exact if_pos (halign a hreplay)

theorem admitOrReject_passed {s : State} {p : Pending} (h : admitVerdict s p = 0) : admitOrReject p s = admitNow p s :=
  if_neg (by simp [h])

/-- The boundary named for an admission stands in its entry. -/
theorem modPending_find {f : Pending → Pending} (hf : ∀ q, (f q).ctx = q.ctx) {c : CtxNo} {p : Pending} {s : State}
    (hp : s.strands.pendings.find? (fun q => decide (q.ctx = c)) = some p) :
    (modPending f c s).strands.pendings.find? (fun q => decide (q.ctx = c)) = some (f p) := by
  have hsame : ((fun q => decide (q.ctx = c)) ∘ fun q => if q.ctx = c then f q else q) = fun q : Pending => decide (q.ctx = c) := by
    funext q
    simp only [Function.comp]
    split <;> simp [hf]
  show (s.strands.pendings.map _).find? _ = _
  rw [List.find?_map, hsame, hp]
  exact congrArg some (if_pos (pendingOf_ctx hp))

/-! ## What a release leaves -/

/-- The parts of a state that the end of a release does not touch any more. -/
structure ReleaseKeeps (s t : State) : Prop where
  ctxs : t.ctxs = s.ctxs
  rings : t.rings = s.rings
  seqs : t.seqs = s.seqs
  engines : t.engines = s.engines
  bezel : t.bezel = s.bezel

theorem ReleaseKeeps.refl (s : State) : ReleaseKeeps s s := ⟨rfl, rfl, rfl, rfl, rfl⟩

theorem ReleaseKeeps.trans {s t u : State} (h : ReleaseKeeps s t) (k : ReleaseKeeps t u) : ReleaseKeeps s u :=
  ⟨k.ctxs.trans h.ctxs, k.rings.trans h.rings, k.seqs.trans h.seqs, k.engines.trans h.engines, k.bezel.trans h.bezel⟩

theorem ReleaseKeeps.ite {s t u : State} {p : Prop} [Decidable p] (h : ReleaseKeeps s t) (k : ReleaseKeeps s u) :
    ReleaseKeeps s (if p then t else u) := by
  split
  · exact h
  · exact k

theorem foldl_releaseKeeps {α : Type} {f : State → α → State} (h : ∀ t a, ReleaseKeeps t (f t a)) (l : List α) (s : State) :
    ReleaseKeeps s (l.foldl f s) := by
  induction l generalizing s with
  | nil => exact .refl s
  | cons a r ih => exact (h s a).trans (ih _)

theorem cmdDone_releaseKeeps (via : Via) (code : Nat) (c : CtxNo) (reason : Nat) (s : State) :
    ReleaseKeeps s (cmdDone via code c reason s) := by
  unfold cmdDone
  have hrespond (conn status : Nat) (t : State) : ReleaseKeeps t (respond conn code status [] t) :=
    .ite ⟨rfl, rfl, rfl, rfl, rfl⟩ (.refl t)
  split
  · exact .refl s
  · exact ⟨rfl, rfl, rfl, rfl, rfl⟩
  · have hfree : ReleaseKeeps s (if code = 0x10 then freeStage s else s) := .ite ⟨rfl, rfl, rfl, rfl, rfl⟩ (.refl s)
    have hfresh (t : State) : ReleaseKeeps t t.fresh.2 := ⟨rfl, rfl, rfl, rfl, rfl⟩
    exact .ite (hfree.trans (hrespond ..)) (.ite (hfree.trans (hrespond ..)) ((hfree.trans (hfresh _)).trans (hrespond ..)))

theorem quiesceCheck_releaseKeeps (s : State) : ReleaseKeeps s (quiesceCheck s) := by
  have h := raise_evFrame evQuiesced [] (s.modStartup fun x => { x with quiesced := true })
  exact .ite ⟨raise_ctxs .., h.rings, h.seqs, h.engines, h.bezel⟩ (.refl s)

theorem clearLive_seqs (c : CtxNo) (s : State) : (clearLive c s).seqs = s.seqs ∧ (clearLive c s).engines = s.engines :=
  ⟨foldl_keeps (g := State.seqs) (f := fun t w => t.setLive w ⟨0, 0, 0⟩) (fun _ _ => rfl) _ _,
    foldl_keeps (g := State.engines) (f := fun t w => t.setLive w ⟨0, 0, 0⟩) (fun _ _ => rfl) _ _⟩

theorem releaseBlock_seqs (c : CtxNo) (s : State) :
    (releaseBlock c s).seqs = s.seqs ∧ (releaseBlock c s).engines = s.engines := by
  unfold releaseBlock
  split
  · split
    · exact ⟨rfl, rfl⟩
    · exact ⟨rfl, rfl⟩
  · exact ⟨rfl, rfl⟩

theorem endWindows_win (c : CtxNo) (s : State) : ∀ q ∈ (endWindows c s).seqs, ∀ w, q.2.win = some w → w.1 ≠ c := by
  intro q hq w hw
  obtain ⟨r, -, rfl⟩ := List.mem_map.mp hq
  split at hw
  · split at hw
    · exact nomatch hw
    · next v hv hne =>
      obtain rfl := Option.some.inj (hv.symm.trans hw)
      exact hne
  · next hnone => exact nomatch hnone.symm.trans hw

theorem endWindows_engines (c : CtxNo) (s : State) : ∀ e ∈ (endWindows c s).engines, e.2.ctx ≠ c := fun _ he =>
  of_decide_eq_true (List.mem_filter.mp he).2

/-- The context that a release leaves to its scrub. -/
def ctxReleased (bead : Nat) (x : Ctx) : Ctx :=
  { x with phase := .scrubbing, forceDue := false, releaseDue := false, castOn := false, withheld := false, damage := [],
           sec := Sec.reset, mailbox := Mailbox.reset,
           scrub := some { began := bead + 1, keyLoaded := false, lines := [], otherDone := false } }

/-- A release up to the end of the context's windows and steps. -/
def releaseEnds (c : CtxNo) (s : State) : State :=
  let forced := (s.ctx c).forceDue || (match s.strands.twinReleases.find? fun r => decide (r.2.1 = c) with | some r => r.2.2 | none => false)
  let t := performAll s
  releaseBlock c (clearLive c (endWindows c (
    if (s.ctx c).castOn then castPut 0x02 0xFF c 0 (t.bead + 1) 0 (t.period + 1) ([BitVec.ofNat 8 (b2n forced)] ++ zeros 3) t else t)))

/-- A release's marks: the closed aperture window, the ring group, the estimate and the context. -/
def releaseClears (c : CtxNo) (s : State) : State :=
  let t := ((s.modBezel fun b => { b with apertures := modifyAt (fun _ => ⟨false, 0, 0⟩) c b.apertures }).modRing
    (fun _ => Ring.reset) c).modPower fun w => { w with estimates := assocDel c w.estimates }
  t.modCtx (ctxReleased t.bead) c

/-- The release is told to whoever commanded it. -/
def releaseTells (c : CtxNo) (s : State) : State :=
  ((s.strands.releases.filter fun r => decide (r.1 = c)).map (·.2)).foldl (fun t v => cmdDone v 0x11 c 0 t) (s.modStr fun b =>
    { b with releases := b.releases.filter fun r => decide (r.1 ≠ c), twinReleases := b.twinReleases.filter fun r => decide (r.2.1 ≠ c) })

/-- A release that the lead did not name ends the lockstep of its context. -/
def releaseJudged (c : CtxNo) (named : Option (Word × CtxNo × Bool)) (s : State) : State :=
  if s.pair.regs.state = .lockstep ∧ named.isNone then diverge c s
  else s.modCmp fun m => { m with diverged := m.diverged.filter fun d => d ≠ c }

theorem releaseNow_eq (c : CtxNo) (s : State) : releaseNow c s =
    quiesceCheck (releaseJudged c (s.strands.twinReleases.find? fun r => decide (r.2.1 = c))
      (releaseTells c (releaseClears c (releaseEnds c s)))) := by
  unfold releaseNow releaseJudged releaseTells releaseClears releaseEnds
  rfl

theorem releaseEnds_spine (c : CtxNo) (s : State) : (releaseEnds c s).spine = s.spine := by
  unfold releaseEnds
  simp only [releaseBlock_spine, clearLive_spine, endWindows_spine]
  split <;> simp

theorem releaseEnds_win (c : CtxNo) (s : State) : ∀ q ∈ (releaseEnds c s).seqs, ∀ w, q.2.win = some w → w.1 ≠ c := by
  rw [releaseEnds, (releaseBlock_seqs ..).1, (clearLive_seqs ..).1]
  exact endWindows_win c _

theorem releaseEnds_engines (c : CtxNo) (s : State) : ∀ e ∈ (releaseEnds c s).engines, e.2.ctx ≠ c := by
  rw [releaseEnds, (releaseBlock_seqs ..).2, (clearLive_seqs ..).2]
  exact endWindows_engines c _

theorem releaseTold_keeps (c : CtxNo) (named : Option (Word × CtxNo × Bool)) (s : State) :
    ReleaseKeeps s (quiesceCheck (releaseJudged c named (releaseTells c s))) := by
  have htells : ReleaseKeeps s (releaseTells c s) :=
    ReleaseKeeps.trans (t := s.modStr fun b => { b with
        releases := b.releases.filter fun r => decide (r.1 ≠ c), twinReleases := b.twinReleases.filter fun r => decide (r.2.1 ≠ c) })
      ⟨rfl, rfl, rfl, rfl, rfl⟩ (foldl_releaseKeeps (f := fun t v => cmdDone v 0x11 c 0 t)
      (fun t v => cmdDone_releaseKeeps v 0x11 c 0 t) _ _)
  have hjudged (t : State) : ReleaseKeeps t (releaseJudged c named t) := .ite ⟨rfl, rfl, rfl, rfl, rfl⟩ ⟨rfl, rfl, rfl, rfl, rfl⟩
  exact (htells.trans (hjudged _)).trans (quiesceCheck_releaseKeeps _)

theorem releaseClears_ctx {c : CtxNo} {s : State} (hctx : c < s.ctxs.length) :
    (releaseClears c s).ctx c = ctxReleased s.bead (s.ctx c) :=
  (State.modCtx_ctx ..).trans (if_pos ⟨rfl, hctx⟩)

theorem releaseClears_ring {c : CtxNo} {s : State} (hring : c < s.rings.length) : (releaseClears c s).ring c = Ring.reset :=
  (State.modRing_ring (fun _ => Ring.reset) c c s).trans (if_pos ⟨rfl, hring⟩)

theorem releaseClears_seqs (c : CtxNo) (s : State) : (releaseClears c s).seqs = s.seqs := rfl

theorem releaseClears_engines (c : CtxNo) (s : State) : (releaseClears c s).engines = s.engines := rfl

theorem releaseClears_aperture (c : CtxNo) (s : State) :
    ((releaseClears c s).bezel.apertures.getD c ⟨false, 0, 0⟩).open_ = false := by
  show ((modifyAt (fun _ => ⟨false, 0, 0⟩) c s.bezel.apertures).getD c _).open_ = false
  rw [modifyAt_getD]
  split
  · rfl
  · next h => rw [List.getD_eq_default _ _ (by simpa using h)]

/-- Settles O18: an admission by `admitNow_admits`, a named boundary by `modPending_find`, a release by `releaseNow_releases`. -/
theorem admissionsAndReleases : Obligations.AdmissionsAndReleases := by
  refine ⟨?admission, ?named, ?release⟩
  case admission =>
    intro s c p hp hat hrel hswap hdue hverdict hc hring
    refine (answers_iff rfl).mpr ?_
    obtain rfl := pendingOf_ctx hp
    have hmade : admissionEffect p.ctx s = admitNow p s := by
      rcases hdue with ⟨hb, hver⟩ | ⟨hb, hready, halone, halign⟩
      · rw [admissionEffect_named hp hat hrel hswap hb hver, admitOrReject_passed hverdict]
      · rw [admissionEffect_ready hp hat hrel hswap hb hready halign, if_neg (by simp [halone]), admitOrReject_passed hverdict]
    rw [hmade]
    have hadmits := admitNow_admits (p := p) hc hring
    split
    case isTrue hfail =>
      rw [if_pos hfail] at hadmits
      exact hadmits
    case isFalse hsound =>
      rw [if_neg hsound] at hadmits
      obtain ⟨hcore, hchain, hkeys⟩ := hadmits
      simp only [ctxCore, Prod.mk.injEq] at hcore
      obtain ⟨hphase, hstrand, hrot, hbead, hperiod⟩ := hcore
      exact ⟨hphase, hstrand, hrot, hbead, hperiod, hchain, hkeys⟩
  case named =>
    intro s c p hp hat hrel hswap hb hready hrelays hby
    refine (answers_iff rfl).mpr ?_
    obtain rfl := pendingOf_ctx hp
    have hends : admissionEffect p.ctx s = nameBoundary p s := by
      unfold admissionEffect
      rw [hp]
      dsimp only
      rw [if_neg (by simp [hat, hrel, hswap]), hb]
      dsimp only
      rw [if_neg (by simp [hready]), if_pos hrelays]
    rw [hends]
    unfold nameBoundary
    extract_lets b g bases
    rw [if_pos hby]
    refine ⟨⟨_, modPending_find (f := fun q => { q with boundary := some b, grants := some (bases, g.2) }) (fun _ => rfl) hp, rfl⟩, ?_, rfl⟩
    exact itemSent_sendItem (by decide) _ _ (modPending (fun q => { q with boundary := some b, grants := some (bases, g.2) }) p.ctx s)
  case release =>
    intro s c hat hdue hshape hc
    refine (answers_iff rfl).mpr ?_
    obtain ⟨hctxs, hrings, -, -⟩ := hshape
    have hends : releaseEffect c s = releaseNow c s := by rw [releaseEffect, hat, hdue, Bool.and_self, when_true]
    rw [hends, releaseNow_eq]
    generalize s.strands.twinReleases.find? (fun r => decide (r.2.1 = c)) = named
    have hspine := releaseEnds_spine c s
    have hwin := releaseEnds_win c s
    have hengines := releaseEnds_engines c s
    generalize releaseEnds c s = u at hspine hwin hengines
    have hbead : u.bead = s.bead := congrArg Spine.bead hspine
    have hlength : u.ctxs.length = s.ctxs.length := congrArg Spine.contexts hspine
    have hlength' : u.rings.length = s.rings.length := congrArg Spine.ringGroups hspine
    have hkept := releaseTold_keeps c named (releaseClears c u)
    have hctx := releaseClears_ctx (c := c) (s := u) (by rw [hlength, hctxs]; exact hc)
    have hring := releaseClears_ring (c := c) (s := u) (by rw [hlength', hrings]; exact hc)
    have hclosed := releaseClears_aperture c u
    generalize quiesceCheck (releaseJudged c named (releaseTells c (releaseClears c u))) = t at hkept ⊢
    rw [State.running, State.ctx, State.ring, hkept.ctxs, hkept.rings, hkept.bezel, hkept.seqs, hkept.engines,
      releaseClears_seqs, releaseClears_engines,
      ← State.ctx, ← State.ring, hctx, hring, hbead]
    exact ⟨rfl, rfl, rfl, rfl, rfl, hclosed, hwin, hengines⟩

/-! ## The scrub -/

theorem memGet_memClear_zero {m : List Host.Cell} {x : Nat} (h : memGet m x = 0) (a n : Nat) : memGet (memClear m a n) x = 0 := by
  by_cases hx : a ≤ x ∧ x < a + n
  · exact memGet_memClear_same hx
  · have hkept : (memClear m a n).find? (fun c => c.1 = x) = m.find? fun c => c.1 = x := by
      rw [memClear, List.find?_filter]
      congr 1
      funext c
      by_cases hc : c.1 = x
      · rw [hc]
        simp only [decide_true, decide_eq_true_eq, and_true]
        omega
      · simp [hc]
    rw [memGet, hkept]
    exact h

/-- What is zero stays so while units are cleared, and a unit that is cleared is zero. -/
theorem foldl_storeClear {α : Type} (key : α → Nat) (n : Nat) (l : List α) (s : State) (x : Nat)
    (h : memGet s.store x = 0 ∨ ∃ a ∈ l, key a ≤ x ∧ x < key a + n) :
    memGet (l.foldl (fun t a => storeClear (key a) n t) s).store x = 0 := by
  induction l generalizing s with
  | nil =>
    rcases h with h | ⟨_, ha, _⟩
    · exact h
    · exact nomatch ha
  | cons a r ih =>
    refine ih _ ?_
    rcases h with h | ⟨b, hb, hx⟩
    · exact .inl (memGet_memClear_zero h _ _)
    · rcases List.mem_cons.mp hb with rfl | hb
      · exact .inl (memGet_memClear_same hx)
      · exact .inr ⟨b, hb, hx⟩

/-- A state that differs from another in what its stores hold alone. -/
def SameButStore (s t : State) : Prop := ∃ m b, t = { s with store := m, bad := b }

theorem SameButStore.refl (s : State) : SameButStore s s := ⟨s.store, s.bad, rfl⟩

theorem SameButStore.trans {s t u : State} (h : SameButStore s t) (k : SameButStore t u) : SameButStore s u := by
  obtain ⟨_, _, rfl⟩ := h
  obtain ⟨m, b, rfl⟩ := k
  exact ⟨m, b, rfl⟩

theorem foldl_sameButStore {α : Type} {f : State → α → State} (h : ∀ t a, SameButStore t (f t a)) (l : List α) (s : State) :
    SameButStore s (l.foldl f s) := by
  induction l generalizing s with
  | nil => exact .refl s
  | cons a r ih => exact (h s a).trans (ih _)

theorem storeClear_sameButStore (k n : Nat) (s : State) : SameButStore s (storeClear k n s) := ⟨_, _, rfl⟩

theorem clearOther_sameButStore (c : CtxNo) (s : State) : SameButStore s (clearOther c s) := by
  unfold clearOther
  extract_lets x n s1 us s2
  have h1 : SameButStore s s1 := foldl_sameButStore (fun t p => storeClear_sameButStore ..) _ _
  have h2 : SameButStore s1 s2 := foldl_sameButStore (fun t u => storeClear_sameButStore ..) _ _
  split
  · refine (h1.trans h2).trans (foldl_sameButStore (fun t p => ?_) _ _)
    split
    · exact storeClear_sameButStore ..
    · exact .refl t
  · exact h1.trans h2

/-- The scratch partitions of the context are zero. -/
theorem clearOther_parts {c : CtxNo} {s : State} {p : Nat × Nat} (hp : p ∈ (s.ctx c).parts) {k : Nat} (hk : k < partSize s c) :
    memGet (clearOther c s).store (storeKey 1 (p.1 * 2 ^ 18 + p.2) + k) = 0 := by
  unfold clearOther
  extract_lets x n s1 us s2
  have h1 : memGet s1.store (storeKey 1 (p.1 * 2 ^ 18 + p.2) + k) = 0 :=
    foldl_storeClear (fun p : Nat × Nat => storeKey 1 (p.1 * 2 ^ 18 + p.2)) n _ _ _
      (.inr ⟨p, hp, Nat.le_add_right .., Nat.add_lt_add_left hk _⟩)
  have h2 : memGet s2.store (storeKey 1 (p.1 * 2 ^ 18 + p.2) + k) = 0 := foldl_storeClear (fun u => unitKey u 0) (2 ^ 24) _ _ _ (.inl h1)
  split
  · next r _ =>
    have hports (l : List Nat) (t : State) (ht : memGet t.store (storeKey 1 (p.1 * 2 ^ 18 + p.2) + k) = 0) :
        memGet (l.foldl (fun t p => if ownsPort r p then storeClear (storeKey 4 (p * 2 ^ 20)) 262144 t else t) t).store
          (storeKey 1 (p.1 * 2 ^ 18 + p.2) + k) = 0 := by
      induction l generalizing t with
      | nil => exact ht
      | cons q r ih =>
        refine ih _ ?_
        dsimp only
        split
        · exact memGet_memClear_zero ht _ _
        · exact ht
    exact hports _ _ h2
  · exact h2

/-- The scrub of a context once the key pair has come. -/
def scrubKeyed (c : CtxNo) (r : Scrub) (lines : List (Nat × Nat)) (s : State) : State :=
  s.modCtx (fun x => { x with scrub := some { r with keyLoaded := true, lines := lines } }) c

/-- With a sound generator the scrub key comes, and step 5 follows where it can. -/
theorem keyDestroy_keyed {s : State} {c : CtxNo} {r : Scrub} (hr : (s.ctx c).scrub = some r) (hnew : r.keyLoaded = false)
    (hbegan : r.began ≤ s.bead) (hidle : lp4xInFlight s c = false) (hsound : s.locket.rngFailed = false) :
    ∃ lines, keyDestroy c s = if (loadPair c s).locket.rngFailed then loadPair c s else scrubOther c (scrubKeyed c r lines (loadPair c s)) := by
  refine ⟨((List.range (channelCount s.grade)).map fun ch => (ch, ctxLineCount s c ch)).filter fun l => decide (l.2 ≠ 0), ?_⟩
  rw [keyDestroy, hr]
  dsimp only
  rw [if_neg (by simp [hnew, hbegan, hidle, hsound])]
  rfl

/-- Step 5 of the scrub (R400): with no effect in flight the scratch partitions are zero; LP4X and the keys stay. -/
theorem scrubOther_keyed {s : State} {c : CtxNo} {r : Scrub} (hc : c < s.ctxs.length) (hr : (s.ctx c).scrub = some r)
    (hkey : r.keyLoaded = true) :
    ((scrubOther c s).ctx c).scrub.map (·.keyLoaded) = some true ∧ (scrubOther c s).bezel = s.bezel ∧ (scrubOther c s).lp4x = s.lp4x
      ∧ (anyInFlight s c = false → r.otherDone = false → ((scrubOther c s).ctx c).scrub.map (·.otherDone) = some true
        ∧ ∀ p ∈ (s.ctx c).parts, ∀ k, k < partSize s c →
          memGet (scrubOther c s).store (storeKey 1 (p.1 * 2 ^ 18 + p.2) + k) = 0) := by
  unfold scrubOther
  rw [hr]
  dsimp only
  split
  case isTrue =>
    have hzero {p} (hp : p ∈ (s.ctx c).parts) {k} (hk : k < partSize s c) := clearOther_parts hp hk
    obtain ⟨m, b, hm⟩ := clearOther_sameButStore c s
    have hscrub : (((clearOther c s).modCtx (fun x => { x with scrub := some { r with otherDone := true } }) c).ctx c).scrub
        = some { r with otherDone := true } := by
      rw [State.modCtx_ctx, if_pos ⟨rfl, by rw [hm]; exact hc⟩]
    rw [hscrub]
    refine ⟨congrArg some hkey, ?_, ?_, fun _ _ => ⟨rfl, fun p hp k hk => hzero hp hk⟩⟩
    · show (clearOther c s).bezel = s.bezel
      rw [hm]
    · show (clearOther c s).lp4x = s.lp4x
      rw [hm]
  case isFalse hnot =>
    rw [hr]
    exact ⟨congrArg some hkey, rfl, rfl, fun hidle hnew => absurd ⟨hkey, hnew, hidle⟩ hnot⟩

theorem gateCheck_fields (s : State) : (gateCheck s).ctxs = s.ctxs ∧ (gateCheck s).bezel = s.bezel ∧ (gateCheck s).events = s.events := by
  unfold gateCheck
  split <;> exact ⟨rfl, rfl, rfl⟩

theorem loupeCheck_fields (s : State) : (loupeCheck s).ctxs = s.ctxs ∧ (loupeCheck s).bezel = s.bezel ∧ (loupeCheck s).events = s.events := by
  unfold loupeCheck
  split <;> exact ⟨rfl, rfl, rfl⟩

theorem assoc_assocDel_same {α : Type} (k : Nat) (l : List (Nat × α)) : assoc k (assocDel k l) = none := by
  induction l with
  | nil => rfl
  | cons a r ih =>
    rw [assocDel, List.filter_cons]
    split
    · next h => exact (if_neg (of_decide_eq_true h)).trans ih
    · exact ih

/-- A line less is to be scrubbed on the channel. -/
def scrubLess (ch : Nat) (x : Ctx) : Ctx :=
  { x with scrub := x.scrub.map fun r =>
      { r with lines := (r.lines.map fun l => if l.1 = ch then (ch, l.2 - 1) else l).filter fun l => decide (l.2 ≠ 0) } }

/-- Settles O19: the key's turn by `scrubOther_keyed`, a line by `storeLine_takeSlot`, the end by the log's frame. -/
theorem scrubRuns : Obligations.ScrubRuns := by
  refine ⟨?key, ?line, ?done⟩
  case key =>
    intro s c r hr hnew hbegan hidle hsound hc
    refine (answers_iff rfl).mpr ?_
    obtain ⟨lines, hlines⟩ := keyDestroy_keyed hr hnew hbegan hidle hsound
    rw [hlines]
    split
    case isTrue hfail =>
      rw [loadPair_failed hfail, if_pos hfail]
      exact ⟨hfail, (drawPair_stays s c).scrub.trans hr⟩
    case isFalse hpair =>
      have hpair := Bool.eq_false_iff.mpr hpair
      obtain ⟨n, hn⟩ := drawPair_sound hpair
      rw [loadPair_sound hpair]
      generalize (drawPair s).1 = k
      rw [hn]
      rw [if_neg (by simp [State.drawn, hsound])]
      have hkeyed : ((scrubKeyed c r lines ((s.drawn n).modBezel fun b => { b with keys := assocSet c k b.keys })).ctx c)
          = { s.ctx c with scrub := some { r with keyLoaded := true, lines := lines } } := by
        rw [scrubKeyed, State.modCtx_ctx, if_pos ⟨rfl, hc⟩]
        rfl
      have hsize : partSize (scrubKeyed c r lines ((s.drawn n).modBezel fun b => { b with keys := assocSet c k b.keys })) c
          = partSize s c := by
        simp only [partSize, hkeyed]
      obtain ⟨hloaded, hbezel, hlp4x, hrest⟩ := scrubOther_keyed (c := c) (r := { r with keyLoaded := true, lines := lines })
        (s := scrubKeyed c r lines ((s.drawn n).modBezel fun b => { b with keys := assocSet c k b.keys }))
        ((modifyAt_length ..).trans_gt hc) (by rw [hkeyed]) rfl
      rw [hkeyed, hsize] at hrest
      rw [hbezel, hlp4x]
      exact ⟨hloaded, assoc_assocSet_same .., rfl, hrest⟩
  case line =>
    intro s ch u c hstart hon hch
    refine (answers_iff rfl).mpr ?_
    have hends : scrubWrite ch s = (storeLine c ch u (zeros 1024) (takeSlot ch s)).modCtx (scrubLess ch) c := by
      rw [scrubWrite, if_pos hstart, hon]
      rfl
    obtain ⟨l, k, e, h⟩ := storeLine_eq c ch u (zeros 1024) (takeSlot ch s)
    obtain ⟨hlp4x, hcheck⟩ := storeLine_modChan (f := fun x => { x with taken := some s.bead }) (fun _ => rfl) c ch ch u (zeros 1024) s
    rw [hends]
    refine ⟨?_, hlp4x, hcheck⟩
    rw [h]
    exact slotTaken_takeSlot hch
  case done =>
    intro s c r hr hkey hother hlines hphase hc
    refine (answers_iff rfl).mpr ?_
    have hends : scrubDone c s = gateCheck (loupeCheck (raise evScrubDone [] ((s.modBezel fun b => { b with keys := assocDel c b.keys }).modCtx
        (fun x => { x with scrub := none, segs := [], parts := [], strand := none, record := none,
                           phase := if x.phase = .scrubbing then .free else x.phase }) c))) := by
      rw [scrubDone, hr]
      dsimp only
      rw [if_pos ⟨hkey, hother, hlines⟩]
    rw [hends]
    generalize hu : (s.modBezel fun b => { b with keys := assocDel c b.keys }).modCtx
        (fun x => { x with scrub := none, segs := [], parts := [], strand := none, record := none,
                           phase := if x.phase = .scrubbing then .free else x.phase }) c = u
    obtain ⟨gctxs, gbezel, gevents⟩ := gateCheck_fields (loupeCheck (raise evScrubDone [] u))
    obtain ⟨lctxs, lbezel, levents⟩ := loupeCheck_fields (raise evScrubDone [] u)
    have hctx : u.ctx c = { s.ctx c with scrub := none, segs := [], parts := [], strand := none, record := none, phase := .free } := by
      rw [← hu, State.modCtx_ctx, if_pos ⟨rfl, hc⟩]
      show ({ s.ctx c with scrub := none, segs := [], parts := [], strand := none, record := none,
                           phase := if (s.ctx c).phase = .scrubbing then .free else (s.ctx c).phase } : Ctx) = _
      rw [if_pos hphase]
    have hraised : raised evScrubDone s (raise evScrubDone [] u) := raised_raise_of (by rw [← hu]; rfl) (by rw [← hu]; rfl)
    have hkeys : assoc c u.bezel.keys = none := by
      rw [← hu]
      exact assoc_assocDel_same ..
    rw [State.ctx, gctxs, lctxs, raise_ctxs, ← State.ctx, hctx, gbezel, lbezel, (raise_evFrame evScrubDone [] u).bezel]
    exact ⟨rfl, rfl, rfl, rfl, hkeys, hraised.later (.of_events (gevents.trans levents))⟩

end Sys2Proof.Machine
end

section
/-! The twin link, its items and the comparison (R321 to R330, R333, R334, R393). -/

namespace Sys2Proof.Machine

/-! ## What the steps of the pair leave -/

/-- Between two states a member keeps its role, its epoch, its take-over and the cell of its partner's loss. -/
structure PairKeeps (s t : State) : Prop where
  role : t.pair.regs.role = s.pair.regs.role
  state : t.pair.regs.state = s.pair.regs.state
  epoch : t.pair.regs.epoch = s.pair.regs.epoch
  takeover : t.pair.takeover = s.pair.takeover
  lost : t.pair.link.lost = s.pair.link.lost
  events : LogFrom s t

theorem PairKeeps.refl (s : State) : PairKeeps s s := ⟨rfl, rfl, rfl, rfl, rfl, .refl s⟩

theorem PairKeeps.trans {s t u : State} (h : PairKeeps s t) (k : PairKeeps t u) : PairKeeps s u :=
  ⟨k.role.trans h.role, k.state.trans h.state, k.epoch.trans h.epoch, k.takeover.trans h.takeover, k.lost.trans h.lost,
    h.events.trans k.events⟩

theorem PairKeeps.ite {s t u : State} {p : Prop} [Decidable p] (h : PairKeeps s t) (k : PairKeeps s u) :
    PairKeeps s (if p then t else u) := by
  split
  · exact h
  · exact k

theorem PairKeeps.of_same {s t : State} (hregs : t.pair.regs = s.pair.regs) (hover : t.pair.takeover = s.pair.takeover)
    (hlost : t.pair.link.lost = s.pair.link.lost) (hevents : t.events = s.events) : PairKeeps s t :=
  ⟨by rw [hregs], by rw [hregs], by rw [hregs], hover, hlost, .of_events hevents⟩

theorem EvFrame.pairKeeps {s t : State} (h : EvFrame s t) (hevents : LogFrom s t) : PairKeeps s t :=
  ⟨by rw [h.regs], by rw [h.regs], by rw [h.regs], h.takeover, by rw [h.link], hevents⟩

theorem raiseAt_pairKeeps (code : Nat) (ctx : Option CtxNo) (unit unit2 : Nat) (hold located : Bool) (arg : Bytes) (s : State) :
    PairKeeps s (raiseAt code ctx unit unit2 hold located arg s) := (raiseAt_evFrame ..).pairKeeps (raiseAt_logFrom ..)

theorem raise_pairKeeps (code : Nat) (arg : Bytes) (s : State) : PairKeeps s (raise code arg s) := raiseAt_pairKeeps ..

theorem foldl_pairKeeps {α : Type} {f : State → α → State} (h : ∀ t a, PairKeeps t (f t a)) (l : List α) (s : State) :
    PairKeeps s (l.foldl f s) := by
  induction l generalizing s with
  | nil => exact .refl s
  | cons a r ih => exact (h s a).trans (ih _)

theorem castPut_pairKeeps (type source ctx flags bead sub : Nat) (period : Word) (payload : Bytes) (s : State) :
    PairKeeps s (castPut type source ctx flags bead sub period payload s) := by
  unfold castPut
  split
  case isTrue => exact .refl s
  case isFalse =>
    extract_lets gapped r fresh t
    have hgapped : PairKeeps s gapped := by
      simp only [gapped]
      split
      · exact .ite (.of_same rfl rfl rfl rfl) (.refl s)
      · exact .refl s
    have ht : PairKeeps s t := hgapped.trans (.of_same rfl rfl rfl rfl)
    split
    · exact hgapped.trans (.of_same rfl rfl rfl rfl)
    · exact .ite (ht.trans (raise_pairKeeps ..)) ht

theorem castRole_pairKeeps (old : Role) (bead : Nat) (s : State) : PairKeeps s (castRole old bead s) := by
  unfold castRole
  refine .ite (.refl s) ?_
  extract_lets x p
  have hx : PairKeeps s x.2 := .of_same rfl rfl rfl rfl
  clear_value x p
  exact hx.trans (foldl_pairKeeps
    (f := fun t c => if (t.ctx c).castOn then castPut 0x20 4 c 0 bead 0 (t.periodAt bead) p t else t)
    (fun t c => .ite (castPut_pairKeeps ..) (.refl t)) _ _)

/-! ## Divergence -/

theorem mem_diverge (c : CtxNo) (s : State) : c ∈ (diverge c s).pair.cmp.diverged := by
  simp only [diverge, State.modCmp]
  split
  · next h => simpa using h
  · simp

theorem diverge_pairKeeps (c : CtxNo) (s : State) : PairKeeps s (diverge c s) := .of_same rfl rfl rfl rfl

theorem divergeAll_pairKeeps (s : State) : PairKeeps s (divergeAll s) :=
  foldl_pairKeeps (f := fun t c => diverge c t) (fun t c => diverge_pairKeeps c t) _ _

theorem mayDiverge_kept (c : CtxNo) (s : State) : (mayDiverge c s).pair.regs = s.pair.regs ∧ (mayDiverge c s).pair.link = s.pair.link := by
  unfold mayDiverge
  split
  · dsimp only
    split <;> exact ⟨rfl, rfl⟩
  · exact ⟨rfl, rfl⟩

/-! ## Heartbeats -/

theorem itemsLost_kept (s : State) : (itemsLost s).pair.regs = s.pair.regs ∧ (itemsLost s).pair.link = s.pair.link := by
  unfold itemsLost
  split
  · exact ⟨foldl_keeps (g := fun t => t.pair.regs) (fun t c => (mayDiverge_kept c t).1) _ _,
      foldl_keeps (g := fun t => t.pair.link) (fun t c => (mayDiverge_kept c t).2) _ _⟩
  · exact ⟨rfl, rfl⟩

theorem heartbeatDue_miss {s : State} (hcounts : countsCells s = true) (hnew : s.pair.link.cellNow = false)
    (hlost : s.pair.link.lost = none) (hwaits : tokenWaits s = false) : heartbeatDue s = missHeartbeat s := by
  simp [heartbeatDue, hlost, hwaits, hcounts, hnew]

/-- The member that a missed heartbeat leaves to be judged: the run goes on by one, the roles stay. -/
def missNoted (s : State) : State :=
  let t := if s.pair.regs.role = .pendant ∧ s.pair.link.missRun = 0 then s.modTwin fun t => { t with evidence := evidencePorts s } else s
  (t.modTwin fun t => { t with missed := t.missed + 1 }).modLink fun l => { l with missRun := l.missRun + 1, goodRun := 0, cellNow := true }

theorem missHeartbeat_eq (s : State) : missHeartbeat s =
    if (missNoted s).pair.link.missRun = 8 ∧ partnered (missNoted s) then partnerSilent (missNoted s) else itemsLost (missNoted s) := rfl

theorem partnered_congr {s t : State} (hrole : t.pair.regs.role = s.pair.regs.role) (hstate : t.pair.regs.state = s.pair.regs.state)
    (hkey : t.pair.link.pairKey = s.pair.link.pairKey) (hpartner : t.pair.link.partnerRole = s.pair.link.partnerRole)
    (hloss : t.pair.takeover.lossBead = s.pair.takeover.lossBead) (hstep : t.pair.join.step = s.pair.join.step) :
    partnered t = partnered s := by
  simp only [partnered, relays, hrole, hstate, hkey, hpartner, hloss, hstep]

theorem missNoted_partnered (s : State) : partnered (missNoted s) = partnered s := by
  unfold missNoted
  split
  · exact partnered_congr rfl rfl rfl rfl rfl rfl
  · exact partnered_congr rfl rfl rfl rfl rfl rfl

theorem missNoted_fields (s : State) :
    (missNoted s).pair.link.missRun = s.pair.link.missRun + 1 ∧ (missNoted s).pair.regs.missed = s.pair.regs.missed + 1
      ∧ (missNoted s).pair.regs.role = s.pair.regs.role ∧ (missNoted s).pair.regs.state = s.pair.regs.state
      ∧ (missNoted s).pair.regs.epoch = s.pair.regs.epoch ∧ (missNoted s).bead = s.bead ∧ (missNoted s).events = s.events
      ∧ (missNoted s).pair.regs.silentEn = s.pair.regs.silentEn
      ∧ (s.pair.link.missRun ≠ 0 → (missNoted s).pair.regs.evidence = s.pair.regs.evidence) := by
  unfold missNoted
  split
  · next h => simp [State.modTwin, State.modLink, h.2]
  · simp [State.modTwin, State.modLink]

/-- The lanes no longer show as trained. -/
def lanesLost (s : State) : State := s.modTwin fun t => { t with lane0 := false, lane1 := false }

/-- A lead whose partner is silent: alone, with a raise of its epoch due. -/
def leadAlone (s : State) : State := (goAlone (lanesLost s)).modOver fun o => { o with raiseDue := 2, beatSince := none }

theorem partnerSilent_eq (s : State) : partnerSilent s =
    match s.pair.regs.role with
    | .lead => raise evTwinLost [] (leadAlone s)
    | .pendant =>
      let t := raise evTwinLost [] (lanesLost s)
      if t.pair.regs.evidence ≠ 0 ∧ t.pair.regs.silentEn then takeOver (t.pair.regs.epoch + 1) true (t.bead - 7) t
      else if t.pair.regs.evidence = 0 ∧ t.mgmt.pairToken.held then takeOver (t.pair.regs.epoch + 1) false (t.bead - 7) t
      else splitWait t
    | _ => raise evTwinLost [] (joinFrom 1 (lanesLost s)) := rfl

theorem goAlone_kept (s : State) : (goAlone s).pair.regs.state = .alone ∧ (goAlone s).pair.regs.role = s.pair.regs.role
    ∧ (goAlone s).events = s.events ∧ (goAlone s).bead = s.bead := by
  unfold goAlone
  have h := divergeAll_pairKeeps (s.modTwin fun t => { t with state := .alone })
  have hevents : (divergeAll (s.modTwin fun t => { t with state := .alone })).events = s.events :=
    foldl_keeps (g := State.events) (f := fun t c => diverge c t) (fun _ _ => rfl) _ _
  have hbead : (divergeAll (s.modTwin fun t => { t with state := .alone })).bead = s.bead :=
    foldl_keeps (g := State.bead) (f := fun t c => diverge c t) (fun _ _ => rfl) _ _
  generalize divergeAll (s.modTwin fun t => { t with state := .alone }) = u at h hevents hbead ⊢
  exact ⟨h.state, h.role, hevents, hbead⟩

theorem leadAlone_fields (s : State) :
    (leadAlone s).pair.regs.state = .alone ∧ (leadAlone s).pair.regs.role = s.pair.regs.role ∧ (leadAlone s).events = s.events
      ∧ (leadAlone s).bead = s.bead ∧ (leadAlone s).pair.takeover.raiseDue = 2 := by
  unfold leadAlone
  obtain ⟨hstate, hrole, hevents, hbead⟩ := goAlone_kept (lanesLost s)
  generalize goAlone (lanesLost s) = u at hstate hrole hevents hbead ⊢
  exact ⟨hstate, hrole, hevents, hbead, rfl⟩

theorem partnerSilent_acting {s : State} (h : s.pair.regs.role = .pendant) (hevidence : s.pair.regs.evidence ≠ 0)
    (hsilent : s.pair.regs.silentEn = true) : partnerSilent s =
      takeOver ((raise evTwinLost [] (lanesLost s)).pair.regs.epoch + 1) true ((raise evTwinLost [] (lanesLost s)).bead - 7)
        (raise evTwinLost [] (lanesLost s)) := by
  have hregs := (raise_evFrame evTwinLost [] (lanesLost s)).regs
  rw [partnerSilent_eq, h]
  exact if_pos ⟨by rw [hregs]; exact hevidence, by rw [hregs]; exact hsilent⟩

/-- Settles O20: a cell is noted and judged by its member's role, a missed one counted (`missHeartbeat_eq`). -/
theorem cellsAndHeartbeats : Obligations.CellsAndHeartbeats := by
  refine ⟨?lead, ?fault, ?broken, ?counted, ?alone, ?acting, ?lost⟩
  case lead =>
    intro s c hpaired hwhole hslot hrole hstate hpartner hstays hhealth
    refine (answers_iff rfl).mpr ?_
    have hnoted : (notePartner c s).pair.regs.role = .lead ∧ (notePartner c s).pair.regs.state = .lockstep := ⟨hrole, hstate⟩
    have hcell : leadCell (leAt c 1 1) (leAt c 3 1) (leAt c 0x14 2) (BitVec.ofNat 32 (leAt c 4 4)) (notePartner c s)
        = (notePartner c s).modOver fun o => { o with beatSince := none } := by
      rw [leadCell, hpartner]
      rw [if_neg (by decide), if_pos (.inl hstate), if_neg (by simp [hstays, hhealth]), if_neg (by simp)]
    have hend : receiveCell c s = (notePartner c s).modOver fun o => { o with beatSince := none } := by
      rw [receiveCell, if_neg (by simp [hpaired, hwhole]), if_neg (not_not_intro hslot)]
      dsimp only
      rw [hnoted.1]
      dsimp only
      rw [hcell]
      exact if_pos hnoted.1
    rw [hend]
    have hepoch : (notePartner c s).pair.regs.epoch = s.pair.regs.epoch := if_neg (by simp [hrole])
    exact ⟨rfl, rfl, rfl, hpartner, rfl, rfl, hrole, hstate, hepoch⟩
  case fault =>
    intro s c hpaired hwhole hslot hrole hstate hpartner hfault hnone
    refine (answers_iff rfl).mpr ?_
    have hnoted : (notePartner c s).pair.regs.role = .pendant ∧ (notePartner c s).pair.regs.state = .lockstep := ⟨hrole, hstate⟩
    have hshared : faultShared (notePartner c s) (leAt c 8 8) = false := by
      show s.pair.cmp.withheld.any _ = false
      rw [hnone]
      rfl
    have hcell : followerCell (leAt c 1 1) (leAt c 0x14 2) (leAt c 8 8) (notePartner c s)
        = (notePartner c s).modLink fun l => { l with lost := some (leAt c 8 8) } := by
      rw [followerCell, if_neg (by simp [hnoted.2]), if_pos hnoted, if_pos (.inl ⟨hfault, hshared⟩)]
    have hend : receiveCell c s = (notePartner c s).modLink fun l => { l with lost := some (leAt c 8 8) } := by
      rw [receiveCell, if_neg (by simp [hpaired, hwhole]), if_neg (not_not_intro hslot)]
      dsimp only
      rw [hnoted.1]
      dsimp only
      rw [hcell]
      exact if_pos hnoted.1
    rw [hend]
    exact ⟨rfl, hrole⟩
  case broken =>
    intro s c hbroken
    exact (answers_iff rfl).mpr (if_pos (.inr hbroken))
  case counted =>
    intro s hcounts hnew hlost hwaits hrun
    refine (answers_iff rfl).mpr ?_
    obtain ⟨hmiss, hmissed, hrole, hstate, hepoch, -⟩ := missNoted_fields s
    rw [heartbeatDue_miss hcounts hnew hlost hwaits, missHeartbeat_eq, if_neg (by omega)]
    obtain ⟨hregs, hlink⟩ := itemsLost_kept (missNoted s)
    rw [hregs, hlink]
    exact ⟨hmiss, hmissed, hrole, hstate, hepoch⟩
  case alone =>
    intro s hcounts hnew hlost hrun hrole hpartnered
    refine (answers_iff rfl).mpr ?_
    have hwaits : tokenWaits s = false := by simp [tokenWaits, hrole]
    obtain ⟨hmiss, -, hrole', -, -, hbead, hevents, -⟩ := missNoted_fields s
    rw [heartbeatDue_miss hcounts hnew hlost hwaits, missHeartbeat_eq, if_pos ⟨by omega, by rw [missNoted_partnered, hpartnered]⟩]
    generalize missNoted s = m at hrole' hbead hevents
    rw [partnerSilent_eq, hrole'.trans hrole]
    dsimp only
    have hkept := raise_pairKeeps evTwinLost [] (leadAlone m)
    obtain ⟨hstate, hrole'', hevents', hbead', hover⟩ := leadAlone_fields m
    rw [hkept.state, hkept.role, hkept.takeover]
    exact ⟨hstate, hrole''.trans (hrole'.trans hrole), hover, raised_raise_of (hevents'.trans hevents) (hbead'.trans hbead)⟩
  case acting =>
    intro s hcounts hrole hstate hnew hlost hrun hevidence hsilent
    refine (answers_iff rfl).mpr ?_
    have hwaits : tokenWaits s = false := by simp [tokenWaits, hstate]
    have hpartnered : partnered s = true := by simp [partnered, hrole, hstate]
    obtain ⟨hmiss, -, hrole', -, hepoch, hbead, hevents, hen, hports⟩ := missNoted_fields s
    rw [heartbeatDue_miss hcounts hnew hlost hwaits, missHeartbeat_eq, if_pos ⟨by omega, by rw [missNoted_partnered, hpartnered]⟩]
    have hports := hports (by omega)
    generalize missNoted s = m at hrole' hepoch hbead hevents hen hports
    rw [partnerSilent_acting (hrole'.trans hrole) (by rwa [hports]) (hen.trans hsilent)]
    have hkept := raise_pairKeeps evTwinLost [] (lanesLost m)
    have hraised : raised evTwinLost s (raise evTwinLost [] (lanesLost m)) := raised_raise_of hevents hbead
    generalize raise evTwinLost [] (lanesLost m) = u at hkept hraised ⊢
    exact ⟨rfl, rfl, congrArg (· + 1) (hkept.epoch.trans hepoch), hraised.later (.of_events rfl)⟩
  case lost =>
    intro s b hlost
    refine (answers_iff rfl).mpr ?_
    have hend : heartbeatDue s = castRole s.pair.regs.role s.bead (takeOver (s.pair.regs.epoch + 1) false b s) := by
      rw [heartbeatDue, hlost]
    rw [hend]
    have hkept := castRole_pairKeeps s.pair.regs.role s.bead (takeOver (s.pair.regs.epoch + 1) false b s)
    rw [hkept.role, hkept.epoch, hkept.takeover, hkept.lost]
    exact ⟨rfl, rfl, rfl, rfl⟩

/-! ## Items of the other member -/

/-- A relayed input is noted as seen. -/
def inputSeen (i : RelayedInput) (s : State) : State := s.modLink fun l => { l with seenInputs := (i :: l.seenInputs).take 64 }

theorem mem_inputSeen (i : RelayedInput) (s : State) : i ∈ (inputSeen i s).pair.link.seenInputs := List.mem_cons_self

/-- A relayed input other than an aperture write, whose latch bead has not passed, goes to the inbox. -/
theorem twinInput_placed {s : State} {i : RelayedInput} {k : InputKind} (hfollows : s.follows = true)
    (hnew : i ∉ s.pair.link.seenInputs) (hearly : s.bead < i.latchBead) (htype : i.castType ≠ 0x42)
    (hkind : castKind i.castType.toNat i.ctx i.payload = some k) : ∃ t, twinInput i s = placeInput i.latchBead i.source i.suborder k t
      ∧ t.inbox = s.inbox ∧ t.bezel = s.bezel ∧ t.pair = (inputSeen i s).pair := by
  unfold twinInput
  rw [if_neg (by simp [hfollows, hnew])]
  dsimp only
  rw [if_neg (by show ¬ i.latchBead ≤ s.bead; omega), if_neg htype, hkind]
  dsimp only
  refine ⟨_, rfl, ?_⟩
  split <;> exact ⟨rfl, rfl, rfl⟩

theorem twinInput_queued {s : State} {i : RelayedInput} (hfollows : s.follows = true) (hnew : i ∉ s.pair.link.seenInputs)
    (hearly : s.bead < i.latchBead) (htype : i.castType = 0x42) : twinInput i s =
      queueWrite (leAt i.payload 0 8 / 2 ^ 32) (leAt i.payload 0 8 % 2 ^ 32) (i.payload.drop 8) i.latchBead (inputSeen i s) := by
  unfold twinInput
  rw [if_neg (by simp [hfollows, hnew])]
  dsimp only
  rw [if_neg (by show ¬ i.latchBead ≤ s.bead; omega), if_pos htype]
  rfl

theorem twinInput_late {s : State} {i : RelayedInput} (hfollows : s.follows = true) (hnew : i ∉ s.pair.link.seenInputs)
    (hlate : i.latchBead ≤ s.bead) : twinInput i s = lostItem i.ctx (inputSeen i s) := by
  unfold twinInput
  rw [if_neg (by simp [hfollows, hnew])]
  exact if_pos hlate

/-- The session that a key record holds. -/
def recordSession (b : Bytes) : Option Session :=
  if b.take 64 = zeros 64 then none
  else some
    { hmEnc := keyOf (slice b 0 16), mhEnc := keyOf (slice b 16 16), hmMac := keyOf (slice b 32 16), mhMac := keyOf (slice b 48 16),
      mbHm := leAt b 80 8, mbMh := leAt b 88 8, rqIdx := leAt b 96 8, srIdx := leAt b 104 8 }

theorem loadKeys_session {s : State} {c : CtxNo} {b : Bytes} (hfollows : s.follows = true) (hc : c < s.ctxs.length)
    (hlength : b.length = 112) (hagain : keysAgain s c b = false) : ((loadKeys c b s).ctx c).sec.session = recordSession b := by
  unfold loadKeys
  rw [if_neg (by simp [hfollows, hlength, hagain])]
  dsimp only [State.modSec]
  rw [State.modCtx_ctx, if_pos ⟨rfl, hc⟩]
  rfl

/-- Settles O21: a relayed input by its latch bead (`twinInput_placed`, `twinInput_queued`, `twinInput_late`), the rest by its state. -/
theorem twinItemsKept : Obligations.TwinItemsKept := by
  refine ⟨?placed, ?queued, ?again, ?late, ?commit, ?noKeys, ?keys, ?ready⟩
  case placed =>
    intro s i k hfollows hnew hearly htype hkind
    refine (answers_iff rfl).mpr ?_
    obtain ⟨t, ht, hinbox, hbezel, hpair⟩ := twinInput_placed hfollows hnew hearly htype hkind
    rw [ht]
    have hplaced : (placeInput i.latchBead i.source i.suborder k t).inbox
        = t.inbox ++ [⟨i.latchBead, i.source, k, t.bezel.posted, some i.suborder⟩] := rfl
    have hpair' : (placeInput i.latchBead i.source i.suborder k t).pair = t.pair := rfl
    rw [hplaced, hpair', hinbox, hbezel, hpair]
    exact ⟨rfl, mem_inputSeen i s⟩
  case queued =>
    intro s i n x ch u hfollows hnew hearly htype hn hx hline
    subst hn hx
    refine (answers_iff rfl).mpr ?_
    have hline' : windowLine (inputSeen i s) (leAt i.payload 0 8 / 2 ^ 32) (leAt i.payload 0 8 % 2 ^ 32) true = some (ch, u) :=
      (windowLine_congr rfl rfl rfl ..).trans hline
    rw [twinInput_queued hfollows hnew hearly htype, queueWrite, hline']
    exact ⟨rfl, rfl⟩
  case again =>
    intro s i hfollows hseen
    exact (answers_iff rfl).mpr (if_pos (.inr (by simpa using hseen)))
  case late =>
    intro s i hfollows hnew hlate hctx
    refine (answers_iff rfl).mpr ?_
    rw [twinInput_late hfollows hnew hlate, lostItem, if_pos hctx]
    exact ⟨mem_diverge .., rfl⟩
  case commit =>
    intro s c n h hfollows hc
    refine (answers_iff rfl).mpr ?_
    rw [twinCommit, if_neg (by simp [hfollows])]
    refine ⟨?_, List.mem_cons_self⟩
    rw [State.modRing_ring, if_pos ⟨rfl, hc⟩]
  case noKeys =>
    intro s c b hfollows hc hlength hagain hzero
    refine (answers_iff rfl).mpr ?_
    rw [loadKeys_session hfollows hc hlength hagain]
    exact if_pos hzero
  case keys =>
    intro s c b hfollows hc hlength hagain hsome
    refine (answers_iff rfl).mpr ?_
    rw [loadKeys_session hfollows hc hlength hagain]
    exact if_neg hsome
  case ready =>
    intro s p hlead
    refine (answers_iff rfl).mpr ?_
    rw [decide_eq_true hlead, when_true]
    exact ⟨rfl, rfl⟩

/-! ## Comparison -/

/-- A mismatch raises its event, and leaves its context diverged (R328). -/
theorem mismatch_judged (c : CtxNo) (kind port : Nat) (index : DWord) (s : State) :
    LogFrom s (mismatch c kind port index s) ∧ raised evTwinDivergence s (mismatch c kind port index s)
      ∧ c ∈ (mismatch c kind port index s).pair.cmp.diverged
      ∧ (mismatch c kind port index s).pair.regs.diverge = s.pair.regs.diverge + 1 := by
  unfold mismatch
  extract_lets s1 s2 s3 s4 s5
  have hraised : raised evTwinDivergence s s2 := raised_raiseAt_of rfl rfl
  have hlog : LogFrom s s2 := (LogFrom.of_events (t := s1) rfl).trans (raiseAt_logFrom ..)
  have hregs : s2.pair.regs = s1.pair.regs := (raiseAt_evFrame ..).regs
  have hcount : s2.pair.regs.diverge = s.pair.regs.diverge + 1 := congrArg TwinRegs.diverge hregs
  clear_value s2
  have h5 : LogFrom s s5 ∧ raised evTwinDivergence s s5 ∧ c ∈ s5.pair.cmp.diverged ∧ s5.pair.regs.diverge = s.pair.regs.diverge + 1 :=
    ⟨hlog.trans (.of_events rfl), hraised.later (.of_events rfl), mem_diverge c s4, hcount⟩
  clear_value s5
  split
  · split
    · obtain ⟨hlog5, hraised5, hdiverged, hcount5⟩ := h5
      have hframe := raise_evFrame evResyncRetry [] (joinFrom 4 s5)
      have hmore : LogFrom s5 (raise evResyncRetry [] (joinFrom 4 s5)) := (LogFrom.of_events (t := joinFrom 4 s5) rfl).trans (raiseAt_logFrom ..)
      refine ⟨hlog5.trans hmore, hraised5.later hmore, ?_, ?_⟩
      · rw [hframe.cmp]
        exact hdiverged
      · rw [hframe.regs]
        exact hcount5
    · exact h5
  · exact h5

theorem raised.of_events {code : Nat} {s t u : State} (h : raised code t u) (hev : t.events = s.events) (hbead : t.bead = s.bead) :
    raised code s u := by
  unfold raised at h ⊢
  rw [hev, hbead] at h
  exact h

/-- The comparison of a Signet of the partner with the member's only one. -/
theorem theirSignet_compared {s : State} {x y : SignetItem} {b : Nat} (hstep : lockstepCtx s x.ctx = true)
    (hrole : s.pair.regs.role = .pendant) (hown : s.pair.cmp.own = [(y, b)]) (hsame : sameSignet x y = true) :
    theirSignet x s = compareSignets y x (s.modCmp fun m => { m with own := [] }) := by
  have hfound : s.pair.cmp.own.find? (fun y => sameSignet x y.1) = some (y, b) := by rw [hown]; exact List.find?_cons_of_pos hsame
  have hrest : s.pair.cmp.own.filter (fun z => !sameSignet x z.1) = [] := by rw [hown]; simp [hsame]
  rw [theirSignet, if_pos ⟨hstep, hrole⟩, hfound]
  show compareSignets y x (s.modCmp fun m => { m with own := s.pair.cmp.own.filter fun z => !sameSignet x z.1 }) = _
  rw [hrest]

theorem retire_fields (die p : Nat) (s : State) : (retire die p s).pair = s.pair := by
  have hcopy (l : Nat) (t : State) : (startCopy die l t).pair = t.pair := by
    unfold startCopy
    split <;> rfl
  unfold retire
  dsimp only
  split
  · rfl
  · split
    · exact hcopy ..
    · split
      · split
        · exact hcopy ..
        · rfl
      · rfl

theorem rejoin_joins (c : CtxNo) (s : State) : (rejoin c s).pair.join.step = 4 ∧ c ∈ (rejoin c s).pair.cmp.diverged :=
  ⟨rfl, mem_diverge c s⟩

/-- The only hunt is over. -/
def huntOver (s : State) : State := s.modCmp fun m => { m with hunts := [] }

/-- The Facets of a local fault are retired, the only hunt being over. -/
def huntRetired (h : Hunt) (s : State) : State :=
  if h.localFault then (faultFacets (huntOver s) h.ctx).foldl (fun t f => retire f.1 f.2 t) (huntOver s) else huntOver s

/-- A mismatch that neither member explains counts. -/
def huntJudged (h : Hunt) (other : Bool) (s : State) : State :=
  if h.localFault || other then s
  else
    let t := s.modCmp fun m => { m with mismatches := noteBead s.bead m.mismatches }
    if 3 ≤ t.pair.cmp.mismatches.length then setHealth (fun x => { x with unexplained := true }) evTwinDivergence t else t

theorem huntRetired_pair (h : Hunt) (s : State) : (huntRetired h s).pair = (huntOver s).pair := by
  unfold huntRetired
  split
  · exact foldl_keeps (g := State.pair) (f := fun t (f : Nat × Nat) => retire f.1 f.2 t) (fun t f => retire_fields f.1 f.2 t) _ _
  · rfl

/-- The hunt of a member without another one, at its end (R330). -/
theorem huntDone_one {s : State} {h : Hunt} {b : Bool} (hhunts : s.pair.cmp.hunts = [h]) (hover : h.rotation + 16 ≤ s.rotCount) :
    huntDone h.ctx b s =
      let t := huntJudged h b (huntRetired h s)
      if t.pair.regs.role = .lead then
        if h.localFault then t.modLink fun l => { l with setFault := true } else rejoin h.ctx t
      else if b then t else rejoin h.ctx t := by
  have hfound : s.pair.cmp.hunts.find? (fun x => decide (x.ctx = h.ctx ∧ x.rotation + 16 ≤ s.rotCount)) = some h := by
    rw [hhunts]
    exact List.find?_cons_of_pos (decide_eq_true ⟨rfl, hover⟩)
  have hrest : s.modCmp (fun m => { m with hunts := m.hunts.erase h }) = huntOver s := by
    show s.modCmp (fun m => { m with hunts := m.hunts.erase h }) = s.modCmp fun m => { m with hunts := [] }
    simp only [State.modCmp, hhunts, List.erase_cons_head]
  rw [huntDone, hfound]
  dsimp only
  rw [hrest]
  rfl

/-- Settles O23: a comparison by `theirSignet_compared` and `mismatch_judged`, an event by the one it answers, a hunt by its end. -/
theorem divergenceJudged : Obligations.DivergenceJudged := by
  refine ⟨?equal, ?other, ?missing, ?shared, ?alone, ?fault, ?rejoins⟩
  case equal =>
    intro s x y b hstep hrole hown hsame hequal
    refine (answers_iff rfl).mpr ?_
    rw [theirSignet_compared hstep hrole hown hsame, compareSignets, if_neg (not_not_intro hequal.symm)]
    split <;> exact ⟨rfl, rfl, rfl⟩
  case other =>
    intro s x y b hstep hrole hown hsame hother
    refine (answers_iff rfl).mpr ?_
    rw [theirSignet_compared hstep hrole hown hsame, compareSignets, if_pos (Ne.symm hother)]
    have hctx : y.ctx = x.ctx := by
      simp only [sameSignet, decide_eq_true_eq] at hsame
      exact hsame.1.symm
    obtain ⟨-, hraised, hdiverged, hcount⟩ := mismatch_judged y.ctx y.kind.toNat y.port.toNat y.index (s.modCmp fun m => { m with own := [] })
    exact ⟨hraised.of_events rfl rfl, hctx ▸ hdiverged, hcount⟩
  case missing =>
    intro s c y b hstep hrole hown hctx hlate
    refine (answers_iff rfl).mpr ?_
    have hfound : s.pair.cmp.own.find? (fun x => decide (x.1.ctx = c ∧ x.2 + s.rotLen ≤ s.bead)) = some (y, b) := by
      rw [hown]
      exact List.find?_cons_of_pos (decide_eq_true ⟨hctx, hlate⟩)
    rw [signetMissing, if_pos ⟨hrole, hstep⟩, hfound]
    obtain ⟨-, hraised, hdiverged, hcount⟩ := mismatch_judged c y.kind.toNat y.port.toNat y.index
      (s.modCmp fun m => { m with own := m.own.erase (y, b) })
    exact ⟨hraised.of_events rfl rfl, hdiverged, hcount⟩
  case shared =>
    intro s c p code b hstep hpast hordered hcode hwithheld
    refine (answers_iff rfl).mpr ?_
    rw [hpast, hordered, Bool.not_false, Bool.and_self, when_true, twinWithheld, if_neg (by simp [hstep]), if_neg hcode, partnerWithheld,
      hwithheld, shareFirst, if_pos ⟨rfl, rfl, rfl⟩]
    exact ⟨rfl, rfl⟩
  case alone =>
    intro s c p code hstep hpast hordered hcode hwithheld
    refine (answers_iff rfl).mpr ?_
    rw [hpast, hordered, Bool.not_false, Bool.and_self, when_true, twinWithheld, if_neg (by simp [hstep]), if_neg hcode, partnerWithheld,
      hwithheld, shareFirst]
    exact mem_diverge c s
  case fault =>
    intro s h b hhunts hover hfault hrole
    refine (answers_iff rfl).mpr ?_
    have hjudged : huntJudged h b (huntRetired h s) = huntRetired h s := if_pos (by simp [hfault])
    have hpair := huntRetired_pair h s
    rw [huntDone_one hhunts hover, hjudged]
    generalize huntRetired h s = u at hpair
    dsimp only
    rw [if_pos (by rw [hpair]; exact hrole), if_pos hfault]
    exact ⟨rfl, congrArg (fun p => p.cmp.hunts) hpair⟩
  case rejoins =>
    intro s h hhunts hover hnone
    refine (answers_iff rfl).mpr ?_
    rw [huntDone_one hhunts hover]
    generalize huntJudged h false (huntRetired h s) = u
    dsimp only
    rw [if_neg (Bool.eq_false_iff.mp hnone), if_neg Bool.false_ne_true, ite_self]
    exact rejoin_joins h.ctx u

end Sys2Proof.Machine
end

section
/-! Reports, self-test rounds, promotions, epochs and the start of a pair (R319, R331, R332, R335, R338, R339, R432). -/

namespace Sys2Proof.Machine

/-! ## Reports and self-test rounds -/

theorem foldl_notices (f : Conn → Output) (l : List Conn) (s : State) :
    (l.foldl (fun t c => t.emit (f c)) s).out = (l.map f).reverse ++ s.out ∧ (l.foldl (fun t c => t.emit (f c)) s).pair = s.pair := by
  induction l generalizing s with
  | nil => exact ⟨rfl, rfl⟩
  | cons c r ih =>
    obtain ⟨hout, hpair⟩ := ih (s.emit (f c))
    refine ⟨hout.trans ?_, hpair⟩
    simp [State.emit]

/-- A substitution that is ordered begins its copy or waits. -/
def spareOrdered (logical : Nat) (d : SpareDie) : Prop := d.copying.isSome ∨ logical ∈ d.waits

theorem modSpare_spare (f : SpareDie → SpareDie) (die d : Nat) (s : State) :
    (s.modSpare f die).spare d = if d = die ∧ die < s.spares.length then f (s.spare d) else s.spare d := modifyAt_getD ..

/-- An order changes the spares of its die alone. -/
theorem startCopy_eq (die logical : Nat) (s : State) : ∃ f, startCopy die logical s = s.modSpare f die
    ∧ spareOrdered logical (f (s.spare die)) := by
  unfold startCopy
  split
  · exact ⟨_, rfl, .inl rfl⟩
  · refine ⟨fun d => if d.waits.contains logical then d else { d with waits := d.waits ++ [logical] }, rfl, .inr ?_⟩
    dsimp only
    split
    · next h => simpa using h
    · simp

theorem startCopy_kept (die logical : Nat) (s : State) :
    (startCopy die logical s).pair = s.pair ∧ (startCopy die logical s).rotCount = s.rotCount := by
  obtain ⟨f, hf, -⟩ := startCopy_eq die logical s
  rw [hf]
  exact ⟨rfl, rfl⟩

theorem startCopy_ordered {die d logical : Nat} {s : State} (hd : d < s.spares.length) (h : d = die ∨ spareOrdered logical (s.spare d)) :
    spareOrdered logical ((startCopy die logical s).spare d) ∧ (startCopy die logical s).spares.length = s.spares.length := by
  obtain ⟨f, hf, hordered⟩ := startCopy_eq die logical s
  rw [hf, modSpare_spare]
  refine ⟨?_, modifyAt_length ..⟩
  split
  · next hdie =>
    rw [hdie.1]
    exact hordered
  · next hother => exact h.resolve_left fun heq => hother ⟨heq, heq ▸ hd⟩

/-- A round of orders, one for each die. -/
def orderRound (dies : List Nat) (s : State) : State := dies.foldl (fun t d => startCopy d (t.pair.cmp.turn % 256) t) s

theorem orderRound_kept (dies : List Nat) (s : State) :
    (orderRound dies s).pair = s.pair ∧ (orderRound dies s).rotCount = s.rotCount :=
  ⟨foldl_keeps (g := State.pair) (f := fun t d => startCopy d (t.pair.cmp.turn % 256) t) (fun _ _ => (startCopy_kept ..).1) _ _,
    foldl_keeps (g := State.rotCount) (f := fun t d => startCopy d (t.pair.cmp.turn % 256) t) (fun _ _ => (startCopy_kept ..).2) _ _⟩

theorem orderRound_ordered {dies : List Nat} {d n : Nat} {s : State} (hn : s.pair.cmp.turn % 256 = n) (hd : d < s.spares.length)
    (h : d ∈ dies ∨ spareOrdered n (s.spare d)) : spareOrdered n ((orderRound dies s).spare d) := by
  induction dies generalizing s with
  | nil => exact h.resolve_left List.not_mem_nil
  | cons die r ih =>
    have hstep : (orderRound (die :: r) s) = orderRound r (startCopy die n s) := by rw [orderRound, List.foldl_cons, hn]; rfl
    rw [hstep]
    by_cases hdie : d = die ∨ spareOrdered n (s.spare d)
    · obtain ⟨hordered, hlength⟩ := startCopy_ordered (die := die) hd hdie
      exact ih (by rw [(startCopy_kept ..).1, hn]) (by rw [hlength]; exact hd) (.inr hordered)
    · have hmem : d ∈ r := by
        rcases h with h | h
        · exact (List.mem_cons.mp h).resolve_left fun heq => hdie (.inl heq)
        · exact absurd (.inr h) hdie
      have hlength : (startCopy die n s).spares.length = s.spares.length := by
        obtain ⟨f, hf, -⟩ := startCopy_eq die n s
        rw [hf]
        exact modifyAt_length ..
      exact ih (by rw [(startCopy_kept ..).1, hn]) (by rw [hlength]; exact hd) (.inl hmem)

/-- Settles O24: the notices by their fold, the orders die by die. -/
theorem twinReports : Obligations.TwinReports := by
  refine ⟨?report, ?send, ?round⟩
  case report =>
    intro s r hrole
    refine (answers_iff rfl).mpr ?_
    rw [twinReport, if_pos hrole]
    obtain ⟨hout, hpair⟩ := foldl_notices (fun c => .notice c.id (slice r 0 128)) s.mgmt.conns
      (s.modLink fun l => { l with lastReport := slice r 0 128 })
    exact ⟨hout, congrArg (fun p => p.link.lastReport) hpair⟩
  case send =>
    intro s hrole hdue
    refine (answers_iff rfl).mpr ?_
    rw [reportSend, if_pos ⟨hrole, hdue⟩]
    exact ⟨rfl, itemSent_sendItem (by decide) _ _ (s.modLink fun l => { l with reportBead := s.bead })⟩
  case round =>
    intro s hrole hdue
    refine (answers_iff rfl).mpr ?_
    obtain ⟨hpair, hcount⟩ := orderRound_kept (List.range (settingDies s.grade)) s
    have hordered (d : Nat) (hd : d < settingDies s.grade) (hlength : d < s.spares.length) :=
      orderRound_ordered (s := s) rfl hlength (.inl (List.mem_range.mpr hd))
    have hround : selftestRound s = (orderRound (List.range (settingDies s.grade)) s).modCmp fun m =>
        { m with selftestRot := (orderRound (List.range (settingDies s.grade)) s).rotCount, turn := m.turn + 1 } :=
      if_pos ⟨hrole, hdue⟩
    rw [hround]
    generalize orderRound (List.range (settingDies s.grade)) s = u at hpair hcount hordered
    exact ⟨hcount, congrArg (fun p => p.cmp.turn + 1) hpair, hordered⟩

/-! ## Promotions -/

theorem referenceChange_pairKeeps (s : State) : PairKeeps s (referenceChange s) := by
  unfold referenceChange slewTo
  dsimp only
  refine .ite ?_ (.refl s)
  split <;> exact .of_same rfl rfl rfl rfl

theorem referenceChange_bead (s : State) : (referenceChange s).bead = s.bead ∧ (referenceChange s).events = s.events := by
  unfold referenceChange slewTo
  dsimp only
  split
  · split <;> exact ⟨rfl, rfl⟩
  · exact ⟨rfl, rfl⟩

/-! ### Records flushed at an exchange -/

theorem PairKeeps.modRing {s t : State} (h : PairKeeps s t) (f : Ring → Ring) (c : CtxNo) : PairKeeps s (t.modRing f c) :=
  h.trans (.of_same rfl rfl rfl rfl)

theorem mismatch_pairKeeps (c : CtxNo) (kind port : Nat) (index : DWord) (s : State) : PairKeeps s (mismatch c kind port index s) := by
  unfold mismatch
  extract_lets s1 s2 s3 s4 s5
  have h1 : PairKeeps s s1 := ⟨rfl, rfl, rfl, rfl, rfl, .of_events rfl⟩
  have h2 : PairKeeps s1 s2 := raiseAt_pairKeeps ..
  clear_value s2
  have h5 : PairKeeps s s5 := (h1.trans h2).trans (.of_same rfl rfl rfl rfl)
  clear_value s5
  have hjoin : PairKeeps s5 (joinFrom 4 s5) := .of_same rfl rfl rfl rfl
  split
  · exact .ite ((h5.trans hjoin).trans (raise_pairKeeps ..)) h5
  · exact h5

theorem compareSignets_pairKeeps (own other : SignetItem) (s : State) : PairKeeps s (compareSignets own other s) := by
  unfold compareSignets
  exact .ite (mismatch_pairKeeps ..) (.ite (.of_same rfl rfl rfl rfl) (.refl s))

theorem ownSignet_pairKeeps (x : SignetItem) (s : State) : PairKeeps s (ownSignet x s) := by
  unfold ownSignet
  refine .ite ?_ (.refl s)
  extract_lets t
  have ht : PairKeeps s t := .of_same rfl rfl rfl rfl
  clear_value t
  have hcmp (f : TwinCompare → TwinCompare) : PairKeeps t (t.modCmp f) := .of_same rfl rfl rfl rfl
  refine .ite ?_ ht
  split
  · exact (ht.trans (hcmp _)).trans (compareSignets_pairKeeps ..)
  · exact ht.trans (hcmp _)

theorem signetDone_pairKeeps (x : SignetItem) (s : State) : PairKeeps s (signetDone x s) := by
  unfold signetDone
  extract_lets p c s1 s2
  have h1 : PairKeeps s s1 := .ite (castPut_pairKeeps ..) (.refl s)
  have h2 : PairKeeps s1 s2 := by
    refine .ite ?_ (.refl s1)
    split
    · exact .ite (.refl s1) (raise_pairKeeps ..)
    · exact .refl s1
  exact (h1.trans h2).trans (ownSignet_pairKeeps ..)

theorem signRecord_pairKeeps (c : CtxNo) (x : Committed) (s : State) : PairKeeps s (signRecord c x s) := by
  unfold signRecord
  split
  · exact .refl s
  · exact ((PairKeeps.refl s).modRing _ c).trans (signetDone_pairKeeps ..)

theorem markDirty_pairKeeps (gs : List Nat) (s : State) : PairKeeps s (markDirty gs s) := by
  unfold markDirty
  split
  · exact .of_same rfl rfl rfl rfl
  · split
    · exact .of_same rfl rfl rfl rfl
    · exact .of_same rfl rfl rfl rfl

theorem setRing_pairKeeps (f : Ring → Ring) (c : CtxNo) (s : State) : PairKeeps s (setRing f c s) :=
  ((PairKeeps.refl s).modRing f c).trans (markDirty_pairKeeps ..)

theorem writeRecord_pairKeeps (c : CtxNo) (b : Bytes) (s : State) : PairKeeps s (writeRecord c b s) := by
  unfold writeRecord
  dsimp only
  split
  · exact .of_same rfl rfl rfl rfl
  · exact .of_same rfl rfl rfl rfl

theorem sendItem_pairKeeps (kind ctx : Nat) (p : Bytes) (s : State) : PairKeeps s (sendItem kind ctx p s) := .of_same rfl rfl rfl rfl

theorem deliverRecord_pairKeeps (c : CtxNo) (s : State) : PairKeeps s (deliverRecord c s) := by
  unfold deliverRecord
  split
  · exact .refl s
  · split
    · exact .refl s
    · refine .ite (.refl s) (.ite ?_ ?_)
      · have hformat : PairKeeps s (srecFormat c s) := raiseAt_pairKeeps evSrecFormat (some c) 0xB000 0xFFFF true false [] s
        exact (PairKeeps.ite hformat (.refl s)).modRing _ c
      · extract_lets s1 s2 s3
        have h1 : PairKeeps s s1 := writeRecord_pairKeeps ..
        have h2 : PairKeeps s1 s2 := setRing_pairKeeps ..
        clear_value s2
        have h3 : PairKeeps s2 s3 := .of_same rfl rfl rfl rfl
        clear_value s3
        exact ((h1.trans h2).trans h3).trans (.ite (sendItem_pairKeeps ..) (.refl s3))

theorem flushRecords_pairKeeps (s : State) : PairKeeps s (flushRecords s) := by
  refine foldl_pairKeeps (fun t c => foldl_pairKeeps (fun u x => ?_) _ _) _ _
  refine PairKeeps.trans ?_ (deliverRecord_pairKeeps ..)
  split
  · exact signRecord_pairKeeps ..
  · exact .refl u

/-- The lead once its promotion is complete, before the clock leaves the twin link. -/
def promoted (s : State) : State :=
  let t := s.modOver fun o => { o with lossBead := none }
  if t.pair.regs.state = .acting then t
  else if t.pair.link.partnerRole = 2 then t.modTwin fun t => { t with state := .alone }
  else goAlone t

theorem goAlone_takeover (s : State) : (goAlone s).pair.takeover = s.pair.takeover := by
  unfold goAlone
  have h := (divergeAll_pairKeeps (s.modTwin fun t => { t with state := .alone })).takeover
  generalize divergeAll (s.modTwin fun t => { t with state := .alone }) = u at h ⊢
  exact h

theorem promoted_fields (s : State) :
    (promoted s).pair.regs.state = (if s.pair.regs.state = .acting then .acting else .alone)
      ∧ (promoted s).pair.regs.role = s.pair.regs.role ∧ (promoted s).pair.takeover.lossBead = none
      ∧ (promoted s).events = s.events ∧ (promoted s).bead = s.bead := by
  have hold : (s.modOver fun o => { o with lossBead := none }).pair.regs.state = s.pair.regs.state := rfl
  unfold promoted
  dsimp only
  rw [hold]
  by_cases hacting : s.pair.regs.state = .acting
  · rw [if_pos hacting, if_pos hacting]
    exact ⟨hacting, rfl, rfl, rfl, rfl⟩
  · rw [if_neg hacting, if_neg hacting]
    split
    · exact ⟨rfl, rfl, rfl, rfl, rfl⟩
    · obtain ⟨hstate, hrole, hevents, hbead⟩ := goAlone_kept (s.modOver fun o => { o with lossBead := none })
      have hover := goAlone_takeover (s.modOver fun o => { o with lossBead := none })
      generalize goAlone (s.modOver fun o => { o with lossBead := none }) = u at hstate hrole hevents hbead hover ⊢
      exact ⟨hstate, hrole, congrArg TwinOver.lossBead hover, hevents, hbead⟩

/-- The exchange that was to come has come. -/
def swapTaken (s : State) : State := s.modOver fun o => { o with swapAt := none }

/-- The pendant once it has taken the lead's role, before its records count as delivered. -/
def swapLeads (s : State) : State := (swapTaken s).modTwin fun t => { t with role := .lead, epoch := t.epoch + 1 }

theorem roleExchange_due {s : State} (hswap : s.pair.takeover.swapAt = some (s.period + 1)) (hat : atBoundary s = true)
    (hstate : s.pair.regs.state = .lockstep) : roleExchange s =
      match (swapTaken s).pair.regs.role with
      | .lead =>
        let s := flushRecords (swapTaken s)
        castRole .lead (s.bead + 1) (s.modTwin fun t => { t with role := .pendant, epoch := t.epoch + 1 })
      | .pendant =>
        castRole .pendant ((swapLeads s).bead + 1) (referenceChange ((List.range 16).foldl (fun t c =>
          t.modRing (fun r => { r with committed := r.committed.map fun x => { x with delivered := true } }) c) (swapLeads s)))
      | _ => swapTaken s := by
  rw [roleExchange, hswap]
  dsimp only
  rw [if_neg (by simp [hat])]
  exact if_neg (not_not_intro hstate)

theorem roleExchange_lead {s : State} (hswap : s.pair.takeover.swapAt = some (s.period + 1)) (hat : atBoundary s = true)
    (hstate : s.pair.regs.state = .lockstep) (hrole : s.pair.regs.role = .lead) : roleExchange s =
      castRole .lead ((flushRecords (swapTaken s)).bead + 1)
        ((flushRecords (swapTaken s)).modTwin fun t => { t with role := .pendant, epoch := t.epoch + 1 }) := by
  rw [roleExchange_due hswap hat hstate, show (swapTaken s).pair.regs.role = .lead from hrole]

theorem roleExchange_pendant {s : State} (hswap : s.pair.takeover.swapAt = some (s.period + 1)) (hat : atBoundary s = true)
    (hstate : s.pair.regs.state = .lockstep) (hrole : s.pair.regs.role = .pendant) :
    ∃ u, roleExchange s = u ∧ PairKeeps (swapLeads s) u := by
  refine ⟨_, rfl, ?_⟩
  rw [roleExchange_due hswap hat hstate, show (swapTaken s).pair.regs.role = .pendant from hrole]
  have hrecords : PairKeeps (swapLeads s) ((List.range 16).foldl (fun t c =>
      t.modRing (fun r => { r with committed := r.committed.map fun x => { x with delivered := true } }) c) (swapLeads s)) :=
    foldl_pairKeeps (fun t c => (PairKeeps.refl t).modRing _ c) _ _
  exact (hrecords.trans (referenceChange_pairKeeps _)).trans (castRole_pairKeeps ..)

/-- Settles O25: the changes of role are plain, and everything around them keeps the pair (`PairKeeps`). -/
theorem promotionsEnd : Obligations.PromotionsEnd := by
  refine ⟨?complete, ?confirm, ?retake, ?pendant, ?lead⟩
  case complete =>
    intro s hrole hloss
    refine (answers_iff rfl).mpr ?_
    have hend : promotionDone s = raise evPairPromoted [] (referenceChange (promoted s)) := if_pos ⟨hrole, hloss⟩
    obtain ⟨hstate, hrole', hover, hevents, hbead⟩ := promoted_fields s
    have hkept := (referenceChange_pairKeeps (promoted s)).trans (raise_pairKeeps evPairPromoted [] (referenceChange (promoted s)))
    obtain ⟨hbead', hevents'⟩ := referenceChange_bead (promoted s)
    rw [hend, hkept.takeover, hkept.state, hkept.role]
    exact ⟨hover, hstate, hrole'.trans hrole, raised_raise_of (hevents'.trans hevents) (hbead'.trans hbead)⟩
  case confirm =>
    intro s hrole hstate hover hbehind
    refine (answers_iff rfl).mpr ?_
    rw [confirmPromotion, if_pos ⟨hrole, hstate, hover, hbehind⟩]
    have hkept := raise_pairKeeps evPairPromoted []
      ((s.modTwin fun t => { t with state := .alone }).modOver fun o => { o with confirmSince := none })
    rw [hkept.state, hkept.role, hkept.takeover]
    exact ⟨rfl, hrole, rfl, raised_raise_of rfl rfl⟩
  case retake =>
    intro s hstate hover
    refine (answers_iff rfl).mpr ?_
    rw [retake, if_pos ⟨hstate, hover⟩]
    exact ⟨rfl, rfl, rfl⟩
  case pendant =>
    intro s hswap hat hstate hrole
    refine (answers_iff rfl).mpr ?_
    obtain ⟨u, hu, hkept⟩ := roleExchange_pendant hswap hat hstate hrole
    rw [hu, hkept.role, hkept.epoch, hkept.takeover]
    exact ⟨rfl, rfl, rfl⟩
  case lead =>
    intro s hswap hat hstate hrole
    refine (answers_iff rfl).mpr ?_
    rw [roleExchange_lead hswap hat hstate hrole]
    have hflushed := flushRecords_pairKeeps (swapTaken s)
    generalize flushRecords (swapTaken s) = u at hflushed ⊢
    have hkept := castRole_pairKeeps .lead (u.bead + 1) (u.modTwin fun t => { t with role := .pendant, epoch := t.epoch + 1 })
    rw [hkept.role, hkept.epoch, hkept.takeover]
    exact ⟨rfl, congrArg (· + 1) hflushed.epoch, congrArg TwinOver.swapAt hflushed.takeover⟩

/-! ## Epochs and the start of a pair -/

/-- A member that begins to join holds its step and its role; what it held is to be released. -/
theorem beginJoin_joins (step : Nat) (s : State) :
    (beginJoin step s).pair.regs.role = .joining ∧ (beginJoin step s).pair.join.step = step
      ∧ (beginJoin step s).pair.takeover.listening = s.pair.takeover.listening := by
  unfold beginJoin
  dsimp only
  obtain ⟨u, hu⟩ : ∃ u : State, u = if step = 1 then dropPair s else s := ⟨_, rfl⟩
  have hlistening : u.pair.takeover.listening = s.pair.takeover.listening := by
    rw [hu]
    split <;> rfl
  rw [← hu]
  obtain ⟨l, hl⟩ := forceAll_eq (u.modTwin fun t => { t with role := .joining, state := .none })
  rw [hl]
  exact ⟨rfl, rfl, hlistening⟩

/-- A module that has been left alone and refuses a partner stays unpaired. -/
theorem refusePair_alone {s : State} (slot : Nat) (hrole : s.pair.regs.role = .unpaired) (hstate : s.pair.regs.state = .none) :
    (refusePair slot s).pair.regs.role = .unpaired ∧ raised evPairWiring s (refusePair slot s)
      ∧ (refusePair slot s).pair.takeover = s.pair.takeover := by
  have hnone : unpairs s.pair.regs = false := by simp [unpairs, hrole, hstate]
  unfold refusePair
  rw [if_neg (by simp [hnone])]
  have hkept (f : TwinRegs → TwinRegs) := raise_pairKeeps evPairWiring [] (s.modTwin f)
  refine ⟨(hkept _).role.trans ?_, raised_raise_of rfl rfl, (hkept _).takeover⟩
  show (if unpairs { s.pair.regs with partnerSlot := slot % 8, lane0 := true, lane1 := true } then
    ({ s.pair.regs with partnerSlot := slot % 8, lane0 := true, lane1 := true, role := .unpaired, state := .none } : TwinRegs)
    else { s.pair.regs with partnerSlot := slot % 8, lane0 := true, lane1 := true }).role = .unpaired
  rw [if_neg (by simpa [unpairs] using hnone)]
  exact hrole

/-- The listening is over. -/
def listenOver (s : State) : State := s.modOver fun o => { o with listening := false }

/-- Settles O26: a change of epoch or role in each case of the definition. -/
theorem epochsAndStart : Obligations.EpochsAndStart := by
  refine ⟨?beat, ?raise, ?unpaired, ?listen⟩
  case beat =>
    intro s r hsince hrole hstate hdue
    refine (answers_iff rfl).mpr ?_
    rw [epochBeat, hsince]
    dsimp only
    rw [if_pos ⟨hrole, hstate, hdue⟩]
    exact ⟨rfl, rfl⟩
  case raise =>
    intro s hat hpaired hrole hdue
    refine (answers_iff rfl).mpr ?_
    rw [epochRaise, if_neg (by simp [hat]), if_neg (by simp [hpaired, hrole]), if_pos ⟨by simp [hdue], hrole⟩, hdue]
    exact ⟨rfl, rfl⟩
  case unpaired =>
    intro s hat hunpaired
    refine (answers_iff rfl).mpr ?_
    rw [epochRaise, if_neg (by simp [hat]), if_pos hunpaired]
    rfl
  case listen =>
    intro s hpaired hready hlistening
    have hheard (h : PairHeard) : listenEnd h s =
        match h with
        | .leadCells => beginJoin 1 (listenOver s)
        | .startingPartner slot =>
          if slot ≠ partnerOf s.startup.slot then
            refusePair slot ((listenOver s).modTwin fun t => { t with role := .unpaired, state := .none, epoch := firstEpoch (listenOver s) })
          else if s.startup.slot % 2 = 0 then newLead (listenOver s)
          else beginJoin 1 (listenOver s)
        | .nothing => newLead (listenOver s) := if_neg (by simp [hpaired, hready, hlistening])
    refine ⟨(answers_iff rfl).mpr ?_, (answers_iff rfl).mpr ?_, (answers_iff rfl).mpr ?_, fun n hn => (answers_iff rfl).mpr ?_⟩
    · rw [hheard]
      exact ⟨rfl, rfl, rfl, rfl⟩
    · rw [hheard]
      exact beginJoin_joins 1 (listenOver s)
    · rw [hheard]
      dsimp only
      rw [if_neg (not_not_intro rfl)]
      split
      · exact ⟨rfl, rfl⟩
      · obtain ⟨hrole, -, hlisten⟩ := beginJoin_joins 1 (listenOver s)
        exact ⟨hrole, hlisten⟩
    · rw [hheard]
      dsimp only
      rw [if_pos hn]
      obtain ⟨hrole, hraised, hover⟩ := refusePair_alone n (s := (listenOver s).modTwin fun t =>
        { t with role := .unpaired, state := .none, epoch := firstEpoch (listenOver s) }) rfl rfl
      exact ⟨hrole, hraised.of_events rfl rfl, congrArg TwinOver.listening hover⟩

end Sys2Proof.Machine
end

section
/-! The management port (R408 to R423, R427, R428, R430). -/

namespace Sys2Proof.Machine

/-! ## Commands of an operator -/

/-- The connection's time is the present one. -/
def touched (id : Nat) (s : State) : State :=
  s.modMgmt fun m => { m with conns := m.conns.map fun x => if x.id = id then { x with last := s.bead } else x }

theorem command_of {id code : Nat} {s : State} {c : Conn} (hc : s.mgmt.conns.find? (fun c => decide (c.id = id)) = some c)
    (hmay : mayCommand (touched id s) c code = true) (f : State → State) : command id code f s = f (touched id s) := by
  rw [command, hc]
  exact if_pos hmay

/-- An operator of a ready module gives every command. -/
theorem command_operates {id : Nat} {s : State} (h : operates s id) (code : Nat) (f : State → State) :
    command id code f s = f (touched id s) := by
  obtain ⟨hready, hlive, c, hc, hop, hboot⟩ := h
  have hready' : (touched id s).startup.ready = true := hready
  have hlive' : (touched id s).mgmt.hm.recovery = false := hlive
  exact command_of hc (by simp [mayCommand, hop, hboot, hready', hlive']) f

/-- A connection is open. -/
def connOpen (id : Nat) (s : State) : Prop := s.mgmt.conns.any (fun c => decide (c.id = id)) = true

theorem any_map_conn {f : Conn → Conn} (hf : ∀ c, (f c).id = c.id) (id : Nat) (l : List Conn) :
    (l.map f).any (fun c => decide (c.id = id)) = l.any fun c => decide (c.id = id) := by
  rw [List.any_map]
  congr 1
  funext c
  simp [hf]

theorem find_conn_touched (id b : Nat) (l : List Conn) :
    (l.map fun x : Conn => if x.id = id then { x with last := b } else x).find? (fun c => decide (c.id = id)) =
      (l.find? fun c => decide (c.id = id)).map fun c => { c with last := b } := by
  induction l with
  | nil => rfl
  | cons x r ih =>
    by_cases hx : x.id = id
    · simp [hx]
    · simpa [hx] using ih

theorem connOpen_of_find {id : Nat} {s : State} {c : Conn} (h : s.mgmt.conns.find? (fun c => decide (c.id = id)) = some c) :
    connOpen id s := List.any_eq_true.mpr ⟨c, List.mem_of_find?_eq_some h, (List.find?_some h :)⟩

theorem connOpen_touched {id : Nat} {s : State} (h : connOpen id s) : connOpen id (touched id s) := by
  refine (any_map_conn (fun c => ?_) id s.mgmt.conns).trans h
  split <;> rfl

theorem operates.open_ {id : Nat} {s : State} (h : operates s id) : connOpen id (touched id s) := by
  obtain ⟨-, -, c, hc, -, -⟩ := h
  exact connOpen_touched (connOpen_of_find hc)

/-- An open connection is answered. -/
theorem respond_open {id : Nat} {s : State} (h : connOpen id s) (code status : Nat) (b : Bytes) :
    respond id code status b s = s.emit (.mgmt id code status b) := if_pos h

theorem openStatus_ne_zero (n : Nat) : openStatus n ≠ 0 := Nat.succ_ne_zero _

/-- A refusal answers with a STATUS other than 0, and changes nothing else. -/
theorem refuse_open {id : Nat} {s : State} (h : connOpen id s) (code : Nat) :
    ∃ n f, n ≠ 0 ∧ refuse id code s = { s with free := f, out := .mgmt id code n [] :: s.out } :=
  ⟨_, _, openStatus_ne_zero s.fresh.1, respond_open (s := s.fresh.2) h ..⟩

/-- Settles O27: each read is answered from the touched connection's state. -/
theorem managementReads : Obligations.ManagementReads := by
  intro s id i h
  have hread (code : Nat) (p : State → Bytes) (hp : p (touched id s) = p s) :
      (command id code (fun s => respond id code 0 (p s) s) s).out = .mgmt id code 0 (p s) :: s.out
      ∧ { command id code (fun s => respond id code 0 (p s) s) s with
          out := s.out, mgmt := { (command id code (fun s => respond id code 0 (p s) s) s).mgmt with conns := s.mgmt.conns } } = s := by
    rw [command_operates h, respond_open h.open_, hp]
    exact ⟨rfl, rfl⟩
  exact ⟨(answers_iff rfl).mpr (hread 0x01 statusPayload rfl), (answers_iff rfl).mpr (hread 0x02 (eventsPayload · i) rfl),
    (answers_iff rfl).mpr (hread 0x03 (reportsPayload · i) rfl), (answers_iff rfl).mpr (hread 0x31 hmPayload rfl)⟩

/-! ## Commands that are latched -/

theorem leadOnly_leads {s : State} (h : s.follows = false) (id code : Nat) (f : State → State) : leadOnly id code f s = f s :=
  if_neg (by simp [h])

theorem leadOnly_follows {s : State} (h : s.follows = true) (id code : Nat) (f : State → State) :
    leadOnly id code f s = respond id code 0x10 [] s := if_pos h

/-- Settles O28: what the port takes goes to the inbox; a follower answers NOT_LEAD. -/
theorem managementLatches : Obligations.ManagementLatches := by
  refine ⟨?leads, ?token, ?follows⟩
  case leads =>
    intro s id h hleads
    have hleads' : (touched id s).follows = false := hleads
    refine ⟨fun a r => (answers_iff rfl).mpr ?_, fun c f => (answers_iff rfl).mpr ?_, fun p => (answers_iff rfl).mpr ?_⟩
    · rw [command_operates h, leadOnly_leads hleads']
      exact ⟨pushInput_latched 10 (.mgmtAdmit id (slice a 0 12) r (imageOf s a)) (touched id s), rfl⟩
    · rw [command_operates h, leadOnly_leads hleads']
      exact pushInput_latched 10 (.mgmtRelease id c f) (touched id s)
    · rw [command_operates h, leadOnly_leads hleads']
      exact pushInput_latched 10 (.mgmtSwap id p) (touched id s)
  case token =>
    intro s id k a l n h
    refine (answers_iff rfl).mpr ?_
    rw [command_operates h]
    exact pushInput_latched 10 (.mgmtToken id k a n l) (touched id s)
  case follows =>
    intro s id h hfollows
    have hfollows' : (touched id s).follows = true := hfollows
    have hrefused (code : Nat) (f : State → State) : command id code (leadOnly id code f) s
        = (touched id s).emit (.mgmt id code 0x10 []) := by
      rw [command_operates h, leadOnly_follows hfollows', respond_open h.open_]
    refine ⟨fun a r => (answers_iff rfl).mpr ?_, fun c f => (answers_iff rfl).mpr ?_, fun p => (answers_iff rfl).mpr ?_⟩
    · rw [hrefused]
      exact ⟨rfl, rfl⟩
    · rw [hrefused]
      exact ⟨rfl, rfl⟩
    · rw [hrefused]
      exact ⟨rfl, rfl⟩

/-! ## Connections -/

/-- A connection takes the notices that waited. -/
theorem connect_accepted {s : State} {q : ConnectReq} {c : Conn} (hup : connects s q = true) (hroom : s.mgmt.conns.length < 4)
    (htls : q.tls13 = true) (hsuite : q.suite = tlsSuite) (hscheme : q.scheme = tlsScheme) (hc : clientRole s q = some c) :
    (connect q s).mgmt = { s.mgmt with conns := s.mgmt.conns ++ [c], nextConn := s.mgmt.nextConn + 1, notices := [] }
      ∧ (connect q s).out = (s.mgmt.notices.map fun n => Output.notice c.id n).reverse ++ s.out := by
  rw [connect, if_neg (by simp [hup, htls, hsuite, hscheme, hroom]), hc]
  dsimp only
  generalize hu : s.modMgmt (fun m => { m with conns := m.conns ++ [c], nextConn := m.nextConn + 1, notices := [] }) = u
  have hmgmt : u.mgmt = { s.mgmt with conns := s.mgmt.conns ++ [c], nextConn := s.mgmt.nextConn + 1, notices := [] } := by rw [← hu]; rfl
  have hout : u.out = s.out := by rw [← hu]; rfl
  rw [← hmgmt, ← hout]
  generalize s.mgmt.notices = l
  clear hu hmgmt hout
  induction l generalizing u with
  | nil => exact ⟨rfl, rfl⟩
  | cons n r ih =>
    obtain ⟨hm, ho⟩ := ih (u.emit (.notice c.id n))
    refine ⟨hm, ho.trans ?_⟩
    simp [State.emit]

/-- Settles O29: an accepted client by its role. -/
theorem connectionsOpen : Obligations.ConnectionsOpen := by
  refine ⟨?accepted, ?refused, ?idle⟩
  case accepted =>
    intro s q o b hup hport hdest hroom htls hsuite hscheme hrole
    refine (answers_iff rfl).mpr ?_
    have hreached : connects s q = true := by simp [connects, hup, hport, hdest, mgmtPort]
    have hclient : clientRole s q = some ⟨s.mgmt.nextConn, o, b, q.selfSignedKey, s.bead⟩ := by
      rcases hrole with ⟨hroot, hchain, rfl, rfl⟩ | ⟨hroot, hchain, hobserver, rfl, rfl⟩ | ⟨hroot, hkey, rfl, rfl⟩
      · simp [clientRole, hroot, hchain]
      · simp [clientRole, hroot, hchain, hobserver]
      · simp [clientRole, hroot, hkey]
    obtain ⟨hmgmt, hout⟩ := connect_accepted hreached hroom htls hsuite hscheme hclient
    rw [hmgmt, hout]
    exact ⟨rfl, rfl, rfl, rfl⟩
  case refused =>
    intro s q h
    refine (answers_iff rfl).mpr (if_pos ?_)
    rcases h with h | h
    · exact .inr (.inl h)
    · have hport : (q.port == mgmtPort) = false := beq_eq_false_iff_ne.mpr h
      exact .inl (by simp [connects, hport])
  case idle =>
    intro s id hidle
    refine (answers_iff rfl).mpr ⟨?_, rfl⟩
    refine List.filter_congr fun c hc => ?_
    by_cases hid : c.id = id
    · simp [hid, secondBeads, hidle c hc hid]
    · simp [hid]

/-! ## Roots, resets and health -/

/-- A judgement of health changes its state alone. -/
theorem judgeHealth_health (code : Nat) (s : State) : ∃ n, (judgeHealth code s).health = { s.health with now := n } := by
  unfold judgeHealth
  extract_lets h sources changed due released
  have hdue : due.health = { s.health with now := h } := (raise_evFrame ..).health
  split
  case isTrue => exact ⟨_, rfl⟩
  case isFalse =>
    refine ⟨h, ?_⟩
    split
    case isTrue => exact (raise_evFrame ..).health.trans hdue
    case isFalse =>
      split
      case isTrue =>
        have hreleased : released.health = due.health := (forceAll_fields _).2.2.2.2.2.2.2.2.2.2.2.2.2.2.2.2.2.2.2.2.2.2.2.2
        split
        · exact hreleased.trans hdue
        · exact hreleased.trans hdue
      case isFalse => exact hdue

theorem rootSet_operates {id : Nat} {s : State} (h : operates s id) (op ob g : Bytes) :
    rootSet id op ob g (touched id s) =
      if op ≠ [] ∧ sm2Verify sm2Id s.mgmt.operatorRoot (op ++ ob) g then
        ((touched id s).modMgmt fun m => { m with operatorRoot := op, observerRoot := ob }).emit (.mgmt id 0x60 0 [])
      else refuse id 0x60 (touched id s) := by
  have hopen := h.open_
  obtain ⟨-, -, c, hc, -, hboot⟩ := h
  have hfound : (touched id s).mgmt.conns.find? (fun c => decide (c.id = id)) = some { c with last := s.bead } := by
    rw [touched, State.modMgmt, find_conn_touched, hc]
    rfl
  rw [rootSet, hfound]
  dsimp only
  rw [if_neg (by simp [hboot])]
  congr 1
  exact respond_open (s := (touched id s).modMgmt fun m => { m with operatorRoot := op, observerRoot := ob }) hopen ..

/-- Settles O30: each command from the touched state; a root by `rootSet_operates`. -/
theorem managementActs : Obligations.ManagementActs := by
  refine ⟨?piece, ?bootstrap, ?root, ?reset, ?health⟩
  case piece =>
    intro s id off b d h hbase hlength hfits
    refine (answers_iff rfl).mpr ?_
    have hbase' : (touched id s).mgmt.imageBase = some b := hbase
    rw [command_operates h, imgPiece, hbase']
    dsimp only
    rw [if_neg (by simp; omega)]
    have hopen : connOpen id ((touched id s).modMgmt fun m => { m with image := m.image ++ [(off, d)], imageBase := some b }) := h.open_
    rw [respond_open hopen]
    exact ⟨rfl, rfl⟩
  case bootstrap =>
    intro s id c op ob g hready hroot hc hboot
    refine (answers_iff rfl).mpr ?_
    have hready' : (touched id s).startup.ready = true := hready
    have hroot' : (touched id s).mgmt.operatorRoot = [] := hroot
    have hfound : (touched id s).mgmt.conns.find? (fun c => decide (c.id = id)) = some { c with last := s.bead } := by
      rw [touched, State.modMgmt, find_conn_touched, hc]
      rfl
    rw [command_of hc (by simp [mayCommand, hboot, hready', hroot']), rootSet, hfound]
    dsimp only
    rw [if_pos hboot, respond_open]
    · exact ⟨rfl, rfl, rfl⟩
    · refine (any_map_conn (fun c => ?_) id _).trans (connOpen_touched (connOpen_of_find hc))
      split <;> rfl
  case root =>
    intro s id op ob g h hop
    refine (answers_iff rfl).mpr ?_
    rw [command_operates h, rootSet_operates h]
    by_cases hverify : sm2Verify sm2Id s.mgmt.operatorRoot (op ++ ob) g = true
    · rw [if_pos hverify, if_pos ⟨hop, hverify⟩]
      exact ⟨rfl, rfl, rfl⟩
    · obtain ⟨n, f, hn, hrefuse⟩ := refuse_open h.open_ 0x60
      rw [if_neg hverify, if_neg (fun h => hverify h.2), hrefuse]
      exact ⟨rfl, rfl, n, hn, rfl⟩
  case reset =>
    intro s id h
    refine (answers_iff rfl).mpr ?_
    have hopen : connOpen id ((touched id s).modMgmt fun m => { m with resetDue := some ((touched id s).bead + secondBeads) }) := h.open_
    rw [command_operates h, respond_open hopen]
    exact ⟨rfl, rfl⟩
  case health =>
    intro s id h
    refine (answers_iff rfl).mpr ?_
    rw [command_operates h]
    have hkept (t : State) : (respond id 0x04 0 [] t).health = t.health := by
      unfold respond when_
      split <;> rfl
    rw [hkept]
    obtain ⟨n, hn⟩ := judgeHealth_health evHealthChange
      { touched id s with health := { (touched id s).health with slotGuard := false, unexplained := false } }
    rw [setHealth, hn]
    exact ⟨rfl, rfl, rfl, rfl⟩

/-! ## Tokens and times -/

theorem acceptDebug_fields (d : Bytes) (s : State) :
    (acceptDebug d s).locket.debugOn = true ∧ (acceptDebug d s).locket.debug = (if s.locket.debugOn then s.locket.debug else sm3 d)
      ∧ raised evDebugEnabled s (acceptDebug d s) := by
  unfold acceptDebug
  extract_lets u
  have hloupe (t : State) : (loupeCheck t).locket.debugOn = t.locket.debugOn ∧ (loupeCheck t).locket.debug = t.locket.debug := by
    unfold loupeCheck
    split <;> exact ⟨rfl, rfl⟩
  have hraised : raised evDebugEnabled s (raise evDebugEnabled [] u) := raised_raise_of rfl rfl
  have hlocket : (forceAll (raise evDebugEnabled [] u)).locket = u.locket := by
    rw [(forceAll_fields _).2.2.2.2.2.2.2.2.2.2.1, (raise_evFrame ..).locket]
  have hevents : (loupeCheck (forceAll (raise evDebugEnabled [] u))).events = (raise evDebugEnabled [] u).events := by
    rw [(loupeCheck_fields _).2.2]
    simp
  rw [(hloupe _).1, (hloupe _).2, hlocket]
  exact ⟨rfl, rfl, hraised.later (.of_events hevents)⟩

/-- Settles O31: a token by `acceptDebug_fields`, a lease by its kind, the timed reports by their definitions. -/
theorem tokensAndTimes : Obligations.TokensAndTimes := by
  refine ⟨?debug, ?pair, ?sea, ?replace, ?log⟩
  case debug =>
    intro s id d h
    refine (answers_iff rfl).mpr ?_
    rw [command_operates h]
    have hok : debugOk (touched id s) d = debugOk s d := rfl
    rw [hok]
    have hkept (t : State) : (respond id 0x21 0 [] t).locket = t.locket ∧ (respond id 0x21 0 [] t).events = t.events := by
      unfold respond when_
      split <;> exact ⟨rfl, rfl⟩
    split
    · obtain ⟨hon, hdebug, hraised⟩ := acceptDebug_fields d (touched id s)
      rw [(hkept _).1]
      exact ⟨hon, hdebug, (hraised.of_events rfl rfl).later (.of_events (hkept _).2)⟩
    · obtain ⟨n, f, hn, hrefuse⟩ := refuse_open h.open_ 0x21
      rw [hrefuse]
      exact ⟨rfl, n, hn, rfl⟩
  case pair =>
    intro s hheld hlease
    exact (answers_iff rfl).mpr (by simp [leaseExpiry, hheld, hlease, setToken, State.modMgmt, State.modTwin])
  case sea =>
    intro s hheld hlease
    exact (answers_iff rfl).mpr (by simp [leaseExpiry, hheld, hlease, setToken, State.modMgmt])
  case replace =>
    intro s b hat hstate hday
    refine (answers_iff rfl).mpr ?_
    have hend : replaceAgain s = raise evReplaceRequest [BitVec.ofNat 8 s.health.now.code] (s.modMgmt fun m => { m with replaceAt := some s.bead }) := by
      rw [replaceAgain, hat]
      exact if_pos ⟨hstate, hday⟩
    rw [hend, (raise_evFrame ..).mgmt]
    exact ⟨raised_raise_of rfl rfl, rfl⟩
  case log =>
    intro s hready hdue
    refine (answers_iff rfl).mpr ?_
    rw [healthWrite, if_pos ⟨hready, hdue⟩]
    exact ⟨rfl, rfl⟩

/-! ## Hallmark images -/

/-- Which pieces stay after the checks depends on the pieces alone. -/
theorem hmSettle_staged {a b : Hallmark} (h : a.staged = b.staged) : (hmSettle a).staged = (hmSettle b).staged := by
  unfold hmSettle
  rw [h]
  dsimp only
  split
  · exact h
  · split <;> rfl

/-- A confirmed image has its staging cleared. -/
theorem hmConfirm_fields {s : State} (h : s.mgmt.hm.confirmed = false) : (hmConfirm s).mgmt.hm.confirmed = true ∧ (hmConfirm s).mgmt.hm.staged = [] := by
  rw [hmConfirm, if_neg (by simp [h])]
  extract_lets head f area full t u
  split
  · rw [(raise_evFrame ..).mgmt]
    exact ⟨rfl, rfl⟩
  · exact ⟨rfl, rfl⟩

theorem hmState_empty {m : Hallmark} (h : m.staged = []) : hmState m = .empty := if_pos (by rw [h]; rfl)

/-- Settles O32: each command from the touched state. -/
theorem hallmarkSteps : Obligations.HallmarkSteps := by
  refine ⟨?piece, ?busy, ?arm, ?disarm, ?confirm, ?auto⟩
  case piece =>
    intro s id i p h hidle hlength harmed hinstalling hi hstaged hcount
    refine (answers_iff rfl).mpr ?_
    have hstays : (hmCountPiece (touched id s)).mgmt.hm.staged = s.mgmt.hm.staged
        ∧ (hmCountPiece (touched id s)).mgmt.hm.armed = s.mgmt.hm.armed
        ∧ (hmCountPiece (touched id s)).mgmt.hm.installing = s.mgmt.hm.installing
        ∧ (hmCountPiece (touched id s)).mgmt.conns = (touched id s).mgmt.conns ∧ (hmCountPiece (touched id s)).out = s.out := by
      unfold hmCountPiece State.modHm State.modMgmt
      dsimp only
      split <;> exact ⟨rfl, rfl, rfl, rfl, rfl⟩
    obtain ⟨hst, har, hin, hconns, hout⟩ := hstays
    have htake : hmTake i p (hmCountPiece (touched id s)) =
        some ((hmCountPiece (touched id s)).modHm fun m => hmSettle { m with staged := assocSet i p m.staged }) := by
      rw [hmTake]
      rw [hst, har, hin, if_neg (by simp [hlength, harmed, hinstalling]), if_neg hi, if_neg (by simp [hstaged, hcount])]
    rw [command_operates h]
    have hidle' : hmBusy (touched id s) = false := hidle
    rw [if_neg (by simp [hidle']), htake]
    dsimp only
    have hopen : connOpen id ((hmCountPiece (touched id s)).modHm fun m => hmSettle { m with staged := assocSet i p m.staged }) := by
      show (hmCountPiece (touched id s)).mgmt.conns.any _ = true
      rw [hconns]
      exact h.open_
    rw [respond_open hopen]
    refine ⟨hmSettle_staged ?_, congrArg (_ :: ·) hout⟩
    exact congrArg (assocSet i p) hst
  case busy =>
    intro s id i p h hbusy
    refine (answers_iff rfl).mpr ?_
    have hbusy' : hmBusy (touched id s) = true := hbusy
    rw [command_operates h]
    rw [if_pos hbusy', respond_open h.open_]
    exact ⟨rfl, rfl⟩
  case arm =>
    intro s id h hready hfloor hlevels
    refine (answers_iff rfl).mpr ?_
    have hready' : hmState (touched id s).mgmt.hm = .ready := hready
    have hfloor' : fusedFloor (touched id s) ≤ hmGeneration (hmHeader (touched id s).mgmt.hm.staged) := hfloor
    have hlevels' : partnered (touched id s) = false ∨ hmLevels (touched id s) = true := hlevels
    rw [command_operates h]
    rw [if_neg (by simp [hready', hfloor']), if_neg (by rcases hlevels' with h | h <;> simp [h])]
    have hopen : connOpen id ((touched id s).modHm fun m => { m with armed := true }) := h.open_
    rw [respond_open hopen]
    exact ⟨rfl, rfl⟩
  case disarm =>
    intro s id h
    refine (answers_iff rfl).mpr ?_
    have hopen : connOpen id ((touched id s).modHm fun m => { m with armed := false }) := h.open_
    rw [command_operates h, respond_open hopen]
    exact ⟨rfl, rfl⟩
  case confirm =>
    intro s id h hnew
    refine (answers_iff rfl).mpr ?_
    obtain ⟨hconfirmed, hstaged⟩ := hmConfirm_fields (s := touched id s) hnew
    rw [command_operates h]
    have hkept (t : State) : (respond id 0x34 0 [] t).mgmt = t.mgmt := by
      unfold respond when_
      split <;> rfl
    rw [hkept]
    exact ⟨hconfirmed, hstaged, hmState_empty hstaged⟩
  case auto =>
    intro s b hsince hover hnew
    refine (answers_iff rfl).mpr ?_
    have hend : hmAutoConfirm s = hmConfirm s := by
      rw [hmAutoConfirm, hsince]
      exact if_pos hover
    rw [hend]
    exact hmConfirm_fields hnew

/-! ## Cast rings -/

theorem slice_length (b : Bytes) (o n : Nat) : (slice b o n).length = n := by
  simp [slice, zeros]

theorem stopped_congr {s t : State} (h : t.bezel = s.bezel) (ch : Nat) : stopped t ch = stopped s ch := by
  have hchan : t.chan ch = s.chan ch := by rw [State.chan, State.chan, h]
  rw [stopped, stopped, hchan]

theorem readLine_congr {s t : State} (hlp4x : t.lp4x = s.lp4x) (hcheck : t.lp4xCheck = s.lp4xCheck) (hbezel : t.bezel = s.bezel)
    (c : CtxNo) (ch u : Nat) : (readLine c ch u t).1 = (readLine c ch u s).1 := by
  have hstopped : stopped t ch = stopped s ch := stopped_congr hbezel ch
  have hline : checkLine t ch u = checkLine s ch u := by simp only [checkLine, hlp4x, hcheck]
  have hkeys : keyPair t c = keyPair s c := by simp only [keyPair, hbezel]
  unfold readLine
  rw [hstopped, hline, hkeys]
  split <;> rfl

theorem storeLine_congr {s t : State} (hlp4x : t.lp4x = s.lp4x) (hbezel : t.bezel = s.bezel)
    (c : CtxNo) (ch u : Nat) (b : Bytes) : (storeLine c ch u b t).lp4x = (storeLine c ch u b s).lp4x := by
  have hstopped : stopped t ch = stopped s ch := stopped_congr hbezel ch
  have hkeys : keyPair t c = keyPair s c := by simp only [keyPair, hbezel]
  unfold storeLine
  rw [hstopped]
  split
  · obtain ⟨e, he⟩ := channelUe_eq ch u s
    obtain ⟨e', he'⟩ := channelUe_eq ch u t
    rw [he, he']
    exact hlp4x
  · simp only [putLine, sealLine, hkeys, hlp4x]

/-- A line stored after a read is the line stored without it. -/
theorem storeLine_readLine (c c' : CtxNo) (ch ch' u u' : Nat) (b : Bytes) (s : State) :
    (storeLine c ch u b (readLine c' ch' u' s).2.2).lp4x = (storeLine c ch u b s).lp4x
      ∧ (storeLine c ch u b (readLine c' ch' u' s).2.2).out = s.out ∧ (storeLine c ch u b (readLine c' ch' u' s).2.2).mgmt = s.mgmt := by
  obtain ⟨l, k, e, hstore⟩ := storeLine_eq c ch u b (readLine c' ch' u' s).2.2
  refine ⟨?_, ?_⟩
  · rcases readLine_state c' ch' u' s with h | h
    · rw [h]
    · rw [h]
      exact (storeLine_modChan (f := fun x => { x with ce := noteBead s.bead x.ce }) (fun _ => rfl) ..).1
  · rw [hstore]
    rcases readLine_state c' ch' u' s with h | h
    · rw [h]; exact ⟨rfl, rfl⟩
    · rw [h]; exact ⟨rfl, rfl⟩

theorem ringBytes_kept (off n : Nat) (s : State) : (ringBytes off n s).2.lp4x = s.lp4x ∧ (ringBytes off n s).2.out = s.out
    ∧ (ringBytes off n s).2.mgmt = s.mgmt := by
  unfold ringBytes
  generalize linePieces (n / 1024 + 2) off n = l
  generalize ([] : Bytes) = b
  induction l generalizing b s with
  | nil => exact ⟨rfl, rfl, rfl⟩
  | cons p r ih =>
    obtain ⟨hlp4x, hout, hmgmt⟩ := ih (readLine 0 (castPlace s p.1).1 (castPlace s p.1).2 s).2.2
      (b ++ slice (readLine 0 (castPlace s p.1).1 (castPlace s p.1).2 s).1 (p.1 % 1024) p.2)
    rw [List.foldl_cons]
    refine ⟨hlp4x.trans ?_, hout.trans ?_, hmgmt.trans ?_⟩
    all_goals
      rcases readLine_state 0 (castPlace s p.1).1 (castPlace s p.1).2 s with h | h
      · rw [h]
      · rw [h]; rfl

/-- A frozen ring answers as many bytes as are read of it. -/
theorem castExport_frozen {s : State} {id off n : Nat}
    (hgo : ¬ (s.cast.frozen = false ∨ castRingBytes s.cast ≤ off ∨ castAble s = false)) (hopen : connOpen id s)
    (hn : n = min 65536 (castRingBytes s.cast - off)) :
    ∃ p, castExport id off s = (ringBytes off n s).2.emit (.mgmt id 0x50 0 p) ∧ p.length = n := by
  obtain ⟨-, -, hmgmt⟩ := ringBytes_kept off n s
  have hopen' : connOpen id (ringBytes off n s).2 := by
    rw [connOpen, hmgmt]
    exact hopen
  rw [castExport, if_neg hgo]
  dsimp only
  rw [← hn]
  exact ⟨_, respond_open hopen' .., slice_length ..⟩

/-- Settles O33: a ring's bytes change nothing, a whole line is one piece. -/
theorem castRingsTravel : Obligations.CastRingsTravel := by
  refine ⟨?frozen, ?running, ?imported⟩
  case frozen =>
    intro s id off h hfrozen hable hoff
    refine (answers_iff rfl).mpr ?_
    rw [command_operates h]
    have hopen := h.open_
    generalize htouched : touched id s = u at hopen ⊢
    have hcast : u.cast = s.cast := by rw [← htouched]; rfl
    have hable' : castAble u = true := by rw [← htouched]; exact hable
    have hlp4x : u.lp4x = s.lp4x := by rw [← htouched]; rfl
    have hout : u.out = s.out := by rw [← htouched]; rfl
    have hgo : ¬ (u.cast.frozen = false ∨ castRingBytes u.cast ≤ off ∨ castAble u = false) := by
      rw [hcast, hfrozen, hable']
      simp [hoff]
    obtain ⟨n, hn⟩ : ∃ n, n = min 65536 (castRingBytes s.cast - off) := ⟨_, rfl⟩
    obtain ⟨hlp4x', hout', -⟩ := ringBytes_kept off n u
    obtain ⟨p, hp, hlength⟩ := castExport_frozen (n := n) hgo hopen (by rw [hcast]; exact hn)
    rw [hp, ← hn]
    exact ⟨p, congrArg (_ :: ·) (hout'.trans hout), hlength, hlp4x'.trans hlp4x⟩
  case running =>
    intro s id off h hrunning
    refine (answers_iff rfl).mpr ?_
    have hrunning' : (touched id s).cast.frozen = false := hrunning
    obtain ⟨n, f, hn, hrefuse⟩ := refuse_open h.open_ 0x50
    rw [command_operates h, castExport, if_pos (.inl hrunning'), hrefuse]
    exact ⟨n, hn, rfl⟩
  case imported =>
    intro s id l d h hreplay hnone hable hlength hfits
    refine (answers_iff rfl).mpr ?_
    have hable' : castAble (touched id s) = true := hable
    have hreplay' : (touched id s).cast.replay = true := hreplay
    have hnone' : (touched id s).admitted = [] := hnone
    have hfits' : ¬ castRingBytes (touched id s).cast < 1024 * l + 1024 := Nat.not_lt.mpr hfits
    rw [command_operates h, castImport, if_neg (by simp [hreplay', hnone']), hlength, if_neg (by simp [hable', hfits']),
      linePieces_one (by decide) (by omega)]
    simp only [List.foldl_cons, List.foldl_nil, Nat.sub_self, Nat.mul_mod_right]
    have hslice : slice d 0 1024 = d := by rw [← hlength, slice_zero]
    rw [hslice]
    have hplace : castPlace (touched id s) (1024 * l) = castPlace s (1024 * l) := rfl
    have hread : (readLine 0 (castPlace s (1024 * l)).1 (castPlace s (1024 * l)).2 (touched id s)).1
      = (readLine 0 (castPlace s (1024 * l)).1 (castPlace s (1024 * l)).2 s).1 := readLine_congr (s := s) (t := touched id s) rfl rfl rfl ..
    rw [hplace, hread]
    obtain ⟨hlp4x, hout, hmgmt⟩ := storeLine_readLine 0 0 (castPlace s (1024 * l)).1 (castPlace s (1024 * l)).1 (castPlace s (1024 * l)).2
      (castPlace s (1024 * l)).2 (overlay (readLine 0 (castPlace s (1024 * l)).1 (castPlace s (1024 * l)).2 s).1 0 d) (touched id s)
    rw [respond_open]
    · exact ⟨congrArg (_ :: ·) hout, hlp4x.trans (storeLine_congr (s := s) (t := touched id s) rfl rfl ..)⟩
    · show List.any (State.mgmt _).conns _ = true
      rw [hmgmt]
      exact h.open_

end Sys2Proof.Machine
end

section
/-! Start-up, discrete inputs, links, resets (R292, R293, R350, R351, R364, R381, R403, R411, R436, R437, R445 to R456). -/

namespace Sys2Proof.Machine

/-! ## Start-up -/

theorem atStep_of {n : Nat} {s : State} (h : atStep n s = true) : s.startup.step = n := by
  simp only [atStep, Bool.and_eq_true, decide_eq_true_eq] at h
  exact h.2

/-- A judgement of health leaves the port and the image as they are. -/
theorem judgeHealth_mgmt (code : Nat) (s : State) :
    (judgeHealth code s).mgmt.up = s.mgmt.up ∧ (judgeHealth code s).mgmt.hm.recovery = s.mgmt.hm.recovery
      ∧ (judgeHealth code s).sealed = s.sealed := by
  unfold judgeHealth
  extract_lets h sources changed due released
  have hchanged := raise_evFrame evHealthChange ([BitVec.ofNat 8 s.health.now.code, BitVec.ofNat 8 h.code] ++ leBytes 2 code)
    { s with health := { s.health with now := h } }
  have hdue : due.mgmt.up = s.mgmt.up ∧ due.mgmt.hm.recovery = s.mgmt.hm.recovery ∧ due.sealed = s.sealed :=
    ⟨(congrArg Mgmt.up hchanged.mgmt :), (congrArg (fun m => m.hm.recovery) hchanged.mgmt :), hchanged.sealed⟩
  split
  case isTrue => exact ⟨rfl, rfl, rfl⟩
  case isFalse =>
    split
    case isTrue =>
      have hframe := raise_evFrame evReplaceRequest [BitVec.ofNat 8 h.code] due
      rw [hframe.mgmt, hframe.sealed]
      exact hdue
    case isFalse =>
      split
      case isTrue =>
        have hreleased : released.mgmt = (due.modHm fun m => { m with readySince := none }).mgmt ∧ released.sealed = due.sealed := by
          obtain ⟨l, hl⟩ := forceAll_eq (due.modHm fun m => { m with readySince := none })
          have hend : released = { due.modHm fun m => { m with readySince := none } with ctxs := l } := hl
          rw [hend]
          exact ⟨rfl, rfl⟩
        obtain ⟨hmgmt, hsealed⟩ := hreleased
        have hend : released.mgmt.up = s.mgmt.up ∧ released.mgmt.hm.recovery = s.mgmt.hm.recovery ∧ released.sealed = s.sealed := by
          rw [hmgmt, hsealed]
          exact hdue
        split
        · exact hend
        · exact hend
      case isFalse => exact hdue

theorem setHealth_mgmt (f : HealthSources → HealthSources) (code : Nat) (s : State) :
    (setHealth f code s).mgmt.up = s.mgmt.up ∧ (setHealth f code s).mgmt.hm.recovery = s.mgmt.hm.recovery
      ∧ (setHealth f code s).sealed = s.sealed := judgeHealth_mgmt code { s with health := f s.health }

theorem setHealth_startup (f : HealthSources → HealthSources) (code : Nat) (s : State) : (setHealth f code s).startup = s.startup :=
  (setHealth_fields f code s).2.2.2.2.2.2.2.2.2.2.2.1

/-- The Locket once the loader has started with a sound generator. -/
def loaderLocket (r : LoadedRegions) (s : State) : State :=
  s.fresh.2.modLocket fun l =>
    { l with rngOk := true, rngFailed := false, rngLife := Config.rngLife s.fresh.1, loader := sm3 r.loader,
             certChain := certificates r.loader }

/-- The port is up then. -/
def loaderUp (r : LoadedRegions) (s : State) : State := (loaderLocket r s).modMgmt fun m => { m with up := true, net := r.net }

/-- A loader that installs nothing. -/
theorem loaderStart_idle {s : State} {r : LoadedRegions} (hstep : atStep 5 s = true) (hinstalling : s.mgmt.hm.installing = false)
    (harmed : s.mgmt.hm.armed = false) : loaderStart true r.loader r.net s =
      if 3 ≤ s.mgmt.hm.failedStarts then
        fatalFailure evHealthChange (setStep 6 ((loaderUp r s).modHm fun m => { m with recovery := true }))
      else setStep 7 ((loaderUp r s).modLocket fun l => { l with firmware := sm3 (runningImage (loaderUp r s)) }) := by
  have hmgmt : (loaderLocket r s).mgmt = s.mgmt := rfl
  have hidle : hmLoader (loaderLocket r s) = loaderLocket r s := by simp [hmLoader, hmgmt, hinstalling, harmed]
  rw [loaderStart, if_neg (by simp [hstep])]
  show (let u := (hmLoader (loaderLocket r s)).modMgmt fun m => { m with up := true, net := r.net }
    if 3 ≤ u.mgmt.hm.failedStarts then fatalFailure evHealthChange (setStep 6 (u.modHm fun m => { m with recovery := true }))
    else setStep 7 (u.modLocket fun l => { l with firmware := sm3 (runningImage u) })) = _
  rw [hidle]
  rfl

/-- Settles O34: each step from its definition; a failure stays a failure by `setHealth_mgmt`. -/
theorem startUpSteps : Obligations.StartUpSteps := by
  refine ⟨?power, ?stable, ?fallback, ?lock, ?loader, ?recovery, ?seat, ?training, ?edge, ?check⟩
  case power =>
    intro s w hoff
    refine (answers_iff rfl).mpr ?_
    rw [powerGood, if_neg (by simp [hoff])]
    exact ⟨rfl, rfl, rfl, rfl⟩
  case stable =>
    intro s ws hstep hmode hjudged
    refine ⟨fun hrun => (answers_iff rfl).mpr ?_, fun hrun hlong => (answers_iff rfl).mpr ?_⟩
    · rw [crystalStable, if_pos ⟨hstep, hmode, hjudged⟩, if_pos hrun]
      exact ⟨rfl, rfl, rfl⟩
    · rw [crystalStable, if_pos ⟨hstep, hmode, hjudged⟩, if_neg hrun, if_pos hlong]
      exact ⟨atStep_of hstep, rfl, rfl⟩
  case fallback =>
    intro s n hstep hopen
    have hgo : ¬ (atStep 2 s = false ∨ (bootMode s.clock.clockWord = false ∧ s.clock.judged = false)) := by
      rcases hopen with h | h <;> simp [hstep, h]
    refine ⟨fun hlow hhigh => (answers_iff rfl).mpr ?_, (answers_iff rfl).mpr ?_⟩
    · rw [crystalFallback, if_neg hgo, if_pos ⟨rfl, by simp [windowCount, hlow, hhigh]⟩]
      exact ⟨rfl, rfl, rfl⟩
    · rw [crystalFallback, if_neg hgo, if_neg (by simp)]
      exact ⟨rfl, atStep_of (s := s) hstep⟩
  case lock =>
    intro s v a b c hstep
    refine (answers_iff rfl).mpr ?_
    rw [rootPllLock, if_pos hstep]
    exact ⟨rfl, rfl, rfl, rfl, rfl, rfl⟩
  case loader =>
    intro s r hstep hinstalling harmed hstarts
    refine (answers_iff rfl).mpr ?_
    rw [loaderStart_idle hstep hinstalling harmed, if_neg (Nat.not_le.mpr hstarts)]
    exact ⟨rfl, rfl, rfl, rfl, rfl, rfl⟩
  case recovery =>
    intro s r hstep hinstalling harmed hstarts
    refine (answers_iff rfl).mpr ?_
    rw [loaderStart_idle hstep hinstalling harmed, if_pos hstarts, fatalFailure]
    obtain ⟨hup, hrecovery, -⟩ := setHealth_mgmt (fun h => { h with fatal := true }) evHealthChange
      (setStep 6 ((loaderUp r s).modHm fun m => { m with recovery := true }))
    rw [setHealth_startup, hup, hrecovery]
    exact ⟨rfl, rfl, rfl⟩
  case seat =>
    intro s hstep hused
    refine (answers_iff rfl).mpr ?_
    rw [seatHold, if_pos ⟨hstep, hused⟩]
    exact ⟨rfl, atStep_of hstep⟩
  case training =>
    intro s l hstep hhold hlength hgrade htries
    refine (answers_iff rfl).mpr ?_
    have hall : (List.range (channelCount s.grade)).all (fun ch => decide (l.getD ch 5 ≤ 4)) = true := by
      simpa using htries
    rw [trained, if_pos ⟨hstep, hhold⟩]
    dsimp only
    rw [if_pos hall]
    refine ⟨rfl, fun ch hch => ?_⟩
    have hcount : channelCount s.grade ≤ 48 := by
      generalize s.grade = g at hgrade
      interval_cases g <;> decide
    have hstate := foldl_modChan_chan (fun c => { c with state := 1 }) List.nodup_range s (l := List.range (channelCount s.grade)) ch
    rw [if_pos ⟨List.mem_range.mpr hch, by omega⟩] at hstate
    exact congrArg Channel.state hstate
  case edge =>
    intro s hstep hstill
    refine (answers_iff rfl).mpr ?_
    rw [alignmentEdge, if_pos ⟨hstep, hstill⟩]
    exact ⟨rfl, rfl, rfl, rfl, rfl⟩
  case check =>
    intro s hstep hcounting hlong
    refine ⟨(answers_iff rfl).mpr ?_, (answers_iff rfl).mpr ?_⟩
    · rw [alignmentCheck, if_pos ⟨hstep, hcounting, hlong⟩]
      rfl
    · rw [alignmentCheck, if_pos ⟨hstep, hcounting, hlong⟩, if_neg Bool.false_ne_true]
      dsimp only
      split
      · next hthird =>
        rw [fatalFailure, setHealth_startup, (raise_evFrame ..).startup]
        exact ⟨rfl, rfl, fun _ => rfl⟩
      · next hearly => exact ⟨rfl, rfl, fun h => absurd (Nat.succ_le_succ h) hearly⟩

/-! ## The module ready -/

theorem writeLocked_locket (off : Nat) (v : Word) (s : State) : (writeLocked off v s).locket = s.locket := by
  unfold writeLocked
  (repeat' split) <;> simp

/-- What a draw of random bits does not touch. -/
structure DrawKeeps (s t : State) : Prop where
  startup : t.startup = s.startup
  power : t.power = s.power
  sealed : t.sealed = s.sealed

theorem DrawKeeps.trans {s t u : State} (h : DrawKeeps s t) (k : DrawKeeps t u) : DrawKeeps s u :=
  ⟨k.startup.trans h.startup, k.power.trans h.power, k.sealed.trans h.sealed⟩

theorem rngFails_keeps (s : State) : DrawKeeps s (rngFails s) := by
  have hframe := raise_evFrame evLocketRng [] (s.modLocket fun l => { l with rngFailed := true })
  have hfields := setHealth_fields (fun h => { h with fatal := true }) evLocketRng
    (raise evLocketRng [] (s.modLocket fun l => { l with rngFailed := true }))
  exact ⟨(setHealth_startup ..).trans hframe.startup, hfields.2.2.2.2.2.2.2.2.1.trans hframe.power,
    (setHealth_mgmt ..).2.2.trans hframe.sealed⟩

theorem drawKey_keeps (s : State) : DrawKeeps s (drawKey s).2 := by
  unfold drawKey
  dsimp only
  split
  · exact DrawKeeps.trans (t := s.drawn (s.locket.draws + 1)) ⟨rfl, rfl, rfl⟩ (rngFails_keeps (s.drawn _))
  · exact ⟨rfl, rfl, rfl⟩

theorem drawOther_keeps (f : Nat) (k : BitVec 128) (s : State) : DrawKeeps s (drawOther f k s).2 := by
  induction f generalizing s with
  | zero =>
    rw [drawOther]
    split
    · exact (drawKey_keeps s).trans (rngFails_keeps _)
    · exact drawKey_keeps s
  | succ f ih =>
    rw [drawOther]
    split
    · exact (drawKey_keeps s).trans (ih _)
    · exact drawKey_keeps s

theorem drawPair_keeps (s : State) : DrawKeeps s (drawPair s).2 :=
  (drawKey_keeps s).trans (drawOther_keeps 63 (drawKey s).1 (drawKey s).2)

/-- What is drawn depends on the Locket alone. -/
theorem drawKey_congr {s t : State} (h : t.locket = s.locket) : (drawKey t).1 = (drawKey s).1 ∧ (drawKey t).2.locket = (drawKey s).2.locket := by
  unfold drawKey
  rw [h]
  refine ⟨rfl, ?_⟩
  dsimp only
  split
  · rw [rngFails_locket, rngFails_locket]
    simp only [State.modLocket, h]
  · simp only [State.modLocket, h]

theorem drawOther_congr (f : Nat) (k : BitVec 128) {s t : State} (h : t.locket = s.locket) :
    (drawOther f k t).1 = (drawOther f k s).1 ∧ (drawOther f k t).2.locket = (drawOther f k s).2.locket := by
  induction f generalizing s t with
  | zero =>
    obtain ⟨hkey, hlocket⟩ := drawKey_congr h
    simp only [drawOther, hkey]
    split
    · exact ⟨rfl, by rw [rngFails_locket, rngFails_locket, hlocket]⟩
    · exact ⟨hkey, hlocket⟩
  | succ f ih =>
    obtain ⟨hkey, hlocket⟩ := drawKey_congr h
    simp only [drawOther, hkey]
    split
    · exact ih hlocket
    · exact ⟨hkey, hlocket⟩

theorem drawPair_congr {s t : State} (h : t.locket = s.locket) :
    (drawPair t).1 = (drawPair s).1 ∧ (drawPair t).2.locket = (drawPair s).2.locket := by
  obtain ⟨hkey, hlocket⟩ := drawKey_congr h
  obtain ⟨hother, hend⟩ := drawOther_congr 63 (drawKey s).1 hlocket
  refine ⟨?_, ?_⟩
  · show ((drawKey t).1, (drawOther 63 (drawKey t).1 (drawKey t).2).1) = _
    rw [hkey, hother]
    rfl
  · show (drawOther 63 (drawKey t).1 (drawKey t).2).2.locket = _
    rw [hkey, hend]
    rfl

/-- The module before its context 0 draws its keys. -/
def settled (ws : Settings) (e : Nat) (s : State) : State :=
  let t := (setStep 12 (ws.foldl (fun t w => writeLocked w.1 w.2 t) s)).modStartup fun t => { t with ready := true }
  let t := if castAble t then t.modCtx (fun x => { x with segs := castSegs t.cast }) 0 else t
  let t := { t with sealed := true }
  let t := t.modPower fun p => { p with eBase := e, target := 1000 * e }
  t.modHm fun m => { m with readySince := if t.health.now = .failed then none else some t.bead, failedStarts := 0 }

theorem settled_fields (ws : Settings) (e : Nat) (s : State) :
    (settled ws e s).startup.ready = true ∧ (settled ws e s).startup.step = 12 ∧ (settled ws e s).sealed = true
      ∧ (settled ws e s).power.eBase = e ∧ (settled ws e s).power.target = 1000 * e ∧ (settled ws e s).locket = s.locket := by
  have hlocket : (ws.foldl (fun t w => writeLocked w.1 w.2 t) s).locket = s.locket :=
    foldl_keeps (g := State.locket) (f := fun t (w : Nat × Word) => writeLocked w.1 w.2 t) (fun t w => writeLocked_locket w.1 w.2 t) _ _
  unfold settled
  generalize ws.foldl (fun t w => writeLocked w.1 w.2 t) s = u at hlocket ⊢
  dsimp only
  split <;> exact ⟨rfl, rfl, rfl, rfl, rfl, hlocket⟩

theorem startupReady_settled {s : State} (h : atStep 11 s = true) (ws : Settings) (e : Nat) :
    startupReady ws e s = if (loadPair 0 (settled ws e s)).paired then (loadPair 0 (settled ws e s)).modOver fun o => { o with listening := true }
      else (loadPair 0 (settled ws e s)).modTwin fun t => { t with epoch := 1, role := .unpaired } := if_pos h

theorem judgeHealth_startup (code : Nat) (s : State) : (judgeHealth code s).startup = s.startup :=
  (judgeHealth_fields code s).2.2.2.2.2.2.2.2.2.2.2.1

theorem judgeHealth_spares (code : Nat) (s : State) : (judgeHealth code s).spares = s.spares := (judgeHealth_fields code s).2.2.2.2.2.2.1

theorem judgeHealth_grade (code : Nat) (s : State) : (judgeHealth code s).grade = s.grade := (judgeHealth_fields code s).1

/-- Settles O35: a Facet by its die's record, the last step by `settled_fields` and the pair that is drawn. -/
theorem moduleReady : Obligations.ModuleReady := by
  refine ⟨?passed, ?failed, ?ready⟩
  case passed =>
    intro s hstep hreleased henough
    refine (answers_iff rfl).mpr ?_
    have henough' : enoughFacets (judgeHealth evSelftestFail s) = true := by
      rw [enoughFacets, judgeHealth_spares, judgeHealth_grade]
      exact henough
    rw [facetTest, if_pos ⟨hstep, hreleased⟩, List.foldl_nil]
    dsimp only
    rw [if_neg (by simp [henough']), judgeHealth_startup]
    rfl
  case failed =>
    intro s p hstep hreleased hdie hlength
    refine (answers_iff rfl).mpr ?_
    have hretired : p % 272 ∈ ((startRetire (p / 272) (p % 272) s).spare (p / 272)).retired := by
      rw [startRetire, modSpare_spare, if_pos ⟨rfl, hlength⟩]
      split
      · next h => simpa using h
      · dsimp only
        split <;> simp
    rw [facetTest, if_pos ⟨hstep, hreleased⟩, List.foldl_cons, List.foldl_nil, if_pos hdie]
    generalize startRetire (p / 272) (p % 272) s = u at hretired
    have hspares := judgeHealth_spares evSelftestFail u
    generalize judgeHealth evSelftestFail u = v at hspares
    rw [State.spare, ← hspares] at hretired
    dsimp only
    split
    · exact hretired
    · exact hretired
  case ready =>
    intro s ws e hstep
    refine (answers_iff rfl).mpr ?_
    obtain ⟨hready, hstep', hsealed, hbase, htarget, hlocket⟩ := settled_fields ws e s
    obtain ⟨hpair, hend⟩ := drawPair_congr hlocket
    have hkeeps := drawPair_keeps (settled ws e s)
    have hloaded : (loadPair 0 (settled ws e s)).startup = (settled ws e s).startup
        ∧ (loadPair 0 (settled ws e s)).power = (settled ws e s).power ∧ (loadPair 0 (settled ws e s)).sealed = (settled ws e s).sealed
        ∧ if (drawPair s).2.locket.rngFailed then (loadPair 0 (settled ws e s)).locket.rngFailed = true
          else (assoc 0 (loadPair 0 (settled ws e s)).bezel.keys).map (·.1) = some (Config.trng s.locket.draws) := by
      rw [← hend]
      split
      · next hfail =>
        rw [loadPair_failed hfail]
        exact ⟨hkeeps.startup, hkeeps.power, hkeeps.sealed, hfail⟩
      · next hsound =>
        rw [loadPair_sound (Bool.eq_false_iff.mpr hsound), hpair]
        refine ⟨hkeeps.startup, hkeeps.power, hkeeps.sealed, ?_⟩
        exact congrArg (Option.map Prod.fst) (assoc_assocSet_same 0 (drawPair s).1 _)
    obtain ⟨hstartup, hpower, hseal, hkeys⟩ := hloaded
    rw [startupReady_settled hstep]
    generalize loadPair 0 (settled ws e s) = u at hstartup hpower hseal hkeys ⊢
    rw [← hstartup] at hready hstep'
    rw [← hpower] at hbase htarget
    rw [← hseal] at hsealed
    split
    · exact ⟨hready, hstep', hsealed, hbase, htarget, hkeys⟩
    · exact ⟨hready, hstep', hsealed, hbase, htarget, hkeys⟩

end Sys2Proof.Machine
end

section
/-! Discrete inputs, links, boundary scan and resets (R294, R381, R403, R411, R436, R437, R445, R446, R456). -/

namespace Sys2Proof.Machine

/-! ## Inputs -/

/-- The changes of an input within the last second, with the present one. -/
def recentChanges (s : State) (p : Pin) : List Nat := s.bead :: p.changes.filter fun b => decide (s.bead < b + secondBeads)

theorem recentChanges_length (s : State) (p : Pin) : (recentChanges s p).length ≤ p.changes.length + 1 :=
  Nat.succ_le_succ (List.length_filter_le ..)

/-- An input that has changed. -/
def pinNoted (n : PinName) (asserted : Bool) (s : State) : State :=
  modPin (fun p => { p with filtered := asserted, changes := recentChanges s (pinOf s.startup n) }) n s

theorem pinOf_modPin (f : Pin → Pin) (n : PinName) (s : State) : pinOf (modPin f n s).startup n = f (pinOf s.startup n) := by
  cases n <;> rfl

theorem pushInput_startup (src : Nat) (k : InputKind) (s : State) : (pushInput src k s).startup = s.startup :=
  (pushInput_evFrame src k s).startup

theorem latched_modPin {n : PinName} {f : Pin → Pin} {k : InputKind} {s t : State} (h : latched 10 k (modPin f n s) t) : latched 10 k s t := h

/-- Once beads run, a change of an input that does not chatter waits as an input. -/
theorem pinChange_latched {s : State} {n : PinName} {b : Bool} (hstep : 5 ≤ s.startup.step) (hrun : s.startup.counting = true)
    (hnew : (pinOf s.startup n).filtered ≠ b) (hcalm : (pinOf s.startup n).chatter = false)
    (hfew : (pinOf s.startup n).changes.length < 16) :
    (pinOf (pinChange n b s).startup n).filtered = b ∧ latched 10 (.pin n b) s (pinChange n b s) := by
  have hlength := recentChanges_length s (pinOf s.startup n)
  have hrun' : (pinNoted n b s).startup.counting = true := by cases n <;> exact hrun
  have hend : pinChange n b s = pushInput 10 (.pin n b) (pinNoted n b s) := by
    rw [pinChange, if_neg (by simp [hnew]; omega)]
    dsimp only
    rw [if_neg (by simp [hcalm])]
    refine (if_neg (by show ¬ 16 < (recentChanges s (pinOf s.startup n)).length; omega)).trans ?_
    exact if_pos hrun'
  rw [hend, pushInput_startup]
  refine ⟨?_, latched_modPin (pushInput_latched 10 (.pin n b) (pinNoted n b s))⟩
  rw [pinNoted, pinOf_modPin]

/-- Settles O36: a change by `pinChange_latched`, the links by their registers. -/
theorem pinsAndLinks : Obligations.PinsAndLinks := by
  refine ⟨?seat, ?cool, ?quiesce, ?chatter, ?calm, ?strap, ?up, ?down, ?scan⟩
  case seat =>
    intro s b hstep hrun hnew hcalm hfew
    exact (answers_iff rfl).mpr (pinChange_latched (n := .traySeat) hstep hrun hnew hcalm hfew)
  case cool =>
    intro s b hstep hrun hnew hcalm hfew
    exact (answers_iff rfl).mpr (pinChange_latched (n := .coolOk) hstep hrun hnew hcalm hfew)
  case quiesce =>
    intro s b hstep hrun hnew hcalm hfew
    exact (answers_iff rfl).mpr (pinChange_latched (n := .quiesce) hstep hrun hnew hcalm hfew)
  case chatter =>
    intro s b x r hstep hnew hcalm hchanges hlength hrecent
    refine (answers_iff rfl).mpr ?_
    have hmany : recentChanges s s.startup.quiesce = s.bead :: x :: r := by
      rw [recentChanges, hchanges]
      exact congrArg (List.cons s.bead) (List.filter_eq_self.mpr fun y hy => decide_eq_true (hrecent y hy))
    have hend : pinChange .quiesce b s = raise evInputChatter [] (modPin (fun p => { p with chatter := true }) .quiesce (pinNoted .quiesce b s)) := by
      rw [pinChange, if_neg (by simp [pinOf, hnew]; omega)]
      dsimp only
      rw [if_neg (by simp [pinOf, hcalm])]
      refine (if_pos (?_ : 16 < (recentChanges s s.startup.quiesce).length)).trans ?_
      · rw [hmany, List.length_cons, List.length_cons, hlength]
        decide
      · exact if_neg (by decide)
    have hframe := raise_evFrame evInputChatter [] (modPin (fun p => { p with chatter := true }) .quiesce (pinNoted .quiesce b s))
    rw [hend, hframe.startup, hframe.inbox]
    exact ⟨rfl, raised_raise_of rfl rfl, rfl⟩
  case calm =>
    intro s n hchatter hlong hrun
    refine (answers_iff rfl).mpr ?_
    have hrun' : (modPin (fun p => { p with chatter := false }) n s).startup.counting = true := by cases n <;> exact hrun
    have hend : chatterEnd n s = pushInput 10 (.pin n (pinOf s.startup n).filtered) (modPin (fun p => { p with chatter := false }) n s) :=
      (if_pos ⟨hchatter, hlong⟩).trans (if_pos hrun')
    rw [hend, pushInput_startup, pinOf_modPin]
    exact ⟨rfl, latched_modPin (pushInput_latched 10 _ (modPin (fun p => { p with chatter := false }) n s))⟩
  case strap =>
    intro s v hnew hstep
    refine (answers_iff rfl).mpr ?_
    have hend : strapChange v s = raise evStrapChanged [] (s.modStartup fun t => { t with straps := v }) :=
      (if_neg hnew).trans (if_pos hstep)
    rw [hend, (raise_evFrame ..).startup]
    exact ⟨rfl, rfl, raised_raise_of rfl rfl⟩
  case up =>
    intro s hstep
    refine (answers_iff rfl).mpr ?_
    rw [linkUp, decide_eq_true hstep, when_true]
    exact ⟨rfl, rfl, rfl⟩
  case down =>
    intro s hup
    refine (answers_iff rfl).mpr ?_
    have hend : linkDown s = raise evPcieDown [] ((s.modPorts fun p => { p with linkUp := false, msixEn := false }).modBezel
        fun b => { b with queue := [] }) := if_pos hup
    have hframe := raise_evFrame evPcieDown [] ((s.modPorts fun p => { p with linkUp := false, msixEn := false }).modBezel
        fun b => { b with queue := [] })
    rw [hend, hframe.ports, hframe.bezel]
    exact ⟨rfl, rfl, raised_raise_of rfl rfl⟩
  case scan =>
    intro s l
    refine (answers_iff rfl).mpr ⟨?_, fun hclosed a ha => ?_⟩
    · show ((List.range (scanChain s).length).map _).length = _
      simp
    · obtain ⟨i, -, rfl⟩ := List.mem_map.mp ha
      unfold scanActs
      split
      · next h =>
        rcases h with h | h | h
        · exact absurd (hclosed.symm.trans h) Bool.false_ne_true
        · exact .inl h
        · exact .inr (.inl h)
      · exact .inr (.inr rfl)

/-! ## Resets -/

/-- What a restart leaves, and what it takes. -/
theorem restart_keeps (s : State) :
    (restart s).bezel.keys = [] ∧ (restart s).store = [] ∧ (restart s).admitted = [] ∧ (restart s).startup.ready = false
      ∧ (restart s).ports.linkUp = false ∧ (restart s).bead = 0 ∧ (restart s).lp4x = s.lp4x
      ∧ (restart s).locket.floors = s.locket.floors ∧ (restart s).grade = s.grade
      ∧ (restart s).mgmt.operatorRoot = s.mgmt.operatorRoot ∧ (restart s).events.log = s.events.log
      ∧ (restart s).pending = s.pending := by
  have hadmitted : (restart s).admitted = State.reset.admitted := rfl
  have hnone : State.reset.admitted = [] := by decide
  exact ⟨rfl, rfl, hadmitted.trans hnone, rfl, rfl, rfl, rfl, rfl, rfl, rfl, rfl, rfl⟩

/-- Settles O37: both restarts by `restart_keeps`; a reset before its second changes nothing. -/
theorem resetsKeep : Obligations.ResetsKeep := by
  refine ⟨?due, ?early, ?power⟩
  case due =>
    intro s b hordered hover
    refine (answers_iff rfl).mpr ?_
    have hdue : resetIsDue s = true := by simp [resetIsDue, hordered, hover]
    rw [moduleReset, if_pos hdue]
    exact restart_keeps s
  case early =>
    intro s b hordered hearly hrun
    refine (answers_iff rfl).mpr ?_
    have hdue : ¬ resetIsDue s = true := by simp [resetIsDue, hordered, hrun, Nat.not_le.mpr hearly]
    exact if_neg hdue
  case power =>
    intro s
    exact (answers_iff rfl).mpr (restart_keeps s)

end Sys2Proof.Machine
end

section
/-! The tile cues (R41, R56, R58, R60, R78 to R83). -/

namespace Sys2Proof.Machine

/-! ## Lists of rows -/

theorem getD_flatten {α : Type} {n : Nat} {l : List (List α)} (hl : ∀ r ∈ l, r.length = n) {x y : Nat} (hx : x < l.length) (hy : y < n)
    (d : α) : l.flatten.getD (n * x + y) d = (l.getD x []).getD y d := by
  induction l generalizing x with
  | nil => exact absurd hx (Nat.not_lt_zero _)
  | cons r l ih =>
    have hr : r.length = n := hl r List.mem_cons_self
    rw [List.flatten_cons]
    cases x with
    | zero =>
      rw [Nat.mul_zero, Nat.zero_add, List.getD_append _ _ _ _ (by omega)]
      rfl
    | succ x =>
      have hpos : r.length ≤ n * (x + 1) + y := by rw [hr, Nat.mul_succ]; omega
      rw [List.getD_append_right _ _ _ _ hpos, hr, show n * (x + 1) + y - n = n * x + y by rw [Nat.mul_succ]; omega]
      exact ih (fun q hq => hl q (List.mem_cons_of_mem _ hq)) (by simpa using hx)

theorem getD_map_range {α : Type} {n x : Nat} (hx : x < n) (f : Nat → α) (d : α) : ((List.range n).map f).getD x d = f x := by
  rw [List.getD_eq_getElem?_getD, List.getElem?_map, List.getElem?_range hx]
  rfl

theorem memRead_length (m : List Host.Cell) (a n : Nat) : (memRead m a n).length = n := by simp [memRead]

/-! ## The array after MAC -/

theorem columns_length (rows : List (List Val)) : (columns rows).length = 32 := by simp [columns]

theorem columns_getD {rows : List (List Val)} {y : Nat} (hy : y < 32) : (columns rows).getD y [] = rows.map fun r => r.getD y (.zero false) := by
  simp [columns, List.getD_eq_getElem?_getD, hy]

/-- A cell of the array after a MAC: its products where the mask names its row. -/
theorem macCells_getD {win : Bool} {w : Int} {mask : Word} {ra : List (List Val)} {rows : List (List Val)} {cells : List Cell}
    (hcells : cells.length = 1024) {x y : Nat} (hx : x < 32) (hy : y < 32) :
    (macCells win w mask ra (columns rows) cells).getD (32 * x + y) Cell.zero =
      if bit mask x then
        (cells.getD (32 * x + y) Cell.zero).addProducts win w (ra.getD x []) (rows.map fun r => r.getD y (.zero false))
      else cells.getD (32 * x + y) Cell.zero := by
  unfold macCells
  have hrow (j : Nat) (hj : j < 32) : ((cells.drop (32 * j)).take 32).length = 32 := by
    rw [List.length_take, List.length_drop, hcells]
    omega
  have hcell : ((cells.drop (32 * x)).take 32).getD y Cell.zero = cells.getD (32 * x + y) Cell.zero := by
    simp [List.getD_eq_getElem?_getD, hy]
  rw [getD_flatten (n := 32)]
  · rw [getD_map_range hx]
    dsimp only
    split
    · rw [← columns_getD hy, ← hcell]
      have hlen : y < ((cells.drop (32 * x)).take 32).length := by rw [hrow x hx]; exact hy
      have hcol : y < (columns rows).length := by rw [columns_length]; exact hy
      simp only [List.getD_eq_getElem?_getD, List.getElem?_zipWith, List.getElem?_eq_getElem hlen, List.getElem?_eq_getElem hcol, Option.getD_some]
    · exact hcell
  · intro r hr
    obtain ⟨j, hj, rfl⟩ := List.mem_map.mp hr
    have hj := List.mem_range.mp hj
    dsimp only
    split
    · rw [List.length_zipWith, columns_length, hrow j hj]
      rfl
    · exact hrow j hj
  · simpa using hx
  · exact hy

/-! ## The records added by LSUM_IN -/

/-- The array after the records of an LSUM_IN. -/
def lsumCells (mask : Word) (bs : Bytes) (cells : List Cell) : List Cell :=
  (List.zipWith (fun r c => (r, c)) (chunks 16 bs) cells).zipIdx.map fun x =>
    if bit mask (x.2 / 32) then x.1.2.addRecord x.1.1 else x.1.2

theorem lsumCells_getD {mask : Word} {bs : Bytes} {cells : List Cell} (hbs : bs.length = 16384) (hcells : cells.length = 1024) {n : Nat}
    (hn : n < 1024) : (lsumCells mask bs cells).getD n Cell.zero =
      if bit mask (n / 32) then (cells.getD n Cell.zero).addRecord ((chunks 16 bs).getD n []) else cells.getD n Cell.zero := by
  have hchunks : n < (chunks 16 bs).length := by
    rw [chunks_length, hbs]
    simpa [cdiv] using hn
  have hcell : n < cells.length := by omega
  simp only [lsumCells, List.getD_eq_getElem?_getD, List.getElem?_map, List.getElem?_zipIdx, List.getElem?_zipWith,
    List.getElem?_eq_getElem hchunks, List.getElem?_eq_getElem hcell, Option.map_some, Option.getD_some, Nat.zero_add]

/-- An LSUM_IN over records that lie in the partition. -/
theorem doLsumIn_some {s : State} {u : UnitNo} {i : Issue} {f : LsumInFields} {ks : Nat} (hbad : s.bad = [])
    (hks : ownKey s i.ctx (unitIdx u) (issueAddr s i f.sBase.toNat f.sStr.toNat) 16384 = some ks) :
    doLsumIn u i f s = { s with cells := (s.cells.set (unitIdx u)
      (lsumCells (i.rowMask f.rmen f.rmreg) (memRead s.store ks 16384) (s.cells.get (unitIdx u)))) } := by
  rw [doLsumIn, readOwn_some hbad hks]
  rfl

/-! ## The cues -/

/-- Settles O38: each cue by its operands' addresses, in the state in which it counts as carried out. -/
theorem idleAndCells : Obligations.IdleAndCells := by
  refine ⟨?idle, ?load, ?clear, ?round, ?lsumOut, ?lsumIn⟩
  case idle =>
    intro s u i h hcue
    refine (answers_iff rfl).mpr ?_
    rw [onIssue_begun u _ s i id h (by rw [hcue])]
    rfl
  case load =>
    intro s u i l h hcue
    refine (answers_iff rfl).mpr ?_
    rw [onIssue_begun u _ s i id h (by rw [hcue])]
    rfl
  case clear =>
    intro s u i h hcue
    refine (answers_iff rfl).mpr ?_
    rw [onIssue_begun u _ s i (doClear u) h (by rw [hcue])]
    refine ⟨?_, fun g hg => ?_, rfl, rfl, rfl, rfl⟩
    · exact (CellArrays.get_set ..).trans (if_pos rfl)
    · exact (CellArrays.get_set ..).trans (if_neg hg)
  case round =>
    intro s u i f fmt kd ks h hcue hfmt hkd hks
    refine (answers_iff rfl).mpr ?_
    rw [onIssue_begun u _ s i (doRound u i f) h (by rw [hcue])]
    have hkd' : ownKey (done u s) i.ctx (unitIdx u) (issueAddr (done u s) i f.dBase.toNat f.dStr.toNat) (32 * elemBytes fmt 32) = some kd := hkd
    have hks' : ownKey (done u s) i.ctx (unitIdx u) (issueAddr (done u s) i f.sBase.toNat f.sStr.toNat) 4 = some ks := hks
    rw [doRound, hfmt]
    dsimp only
    rw [writeOwn_some _ hkd']
    dsimp only
    rw [writeOwn_some _ hks', List.map_map]
    split
    · exact ⟨rfl, rfl, rfl, rfl, rfl⟩
    · exact ⟨rfl, rfl, rfl, rfl, rfl⟩
  case lsumOut =>
    intro s u i f kd h hcue hkd
    refine (answers_iff rfl).mpr ?_
    have hkd' : ownKey (done u s) i.ctx (unitIdx u) (issueAddr (done u s) i f.dBase.toNat f.dStr.toNat) 16384 = some kd := hkd
    rw [onIssue_begun u _ s i (doLsumOut u i f) h (by rw [hcue]), doLsumOut]
    dsimp only
    rw [writeOwn_some _ hkd', List.map_map, Function.comp_def]
    exact ⟨rfl, rfl, rfl, rfl, rfl⟩
  case lsumIn =>
    intro s u i f ks h hcue hbad hcells hks
    refine (answers_iff rfl).mpr ?_
    rw [onIssue_begun u _ s i (doLsumIn u i f) h (by rw [hcue]), doLsumIn_some (s := done u s) hbad hks]
    refine ⟨fun n hn => ?_, fun g hg => (CellArrays.get_set ..).trans (if_neg hg), rfl, rfl, rfl, rfl⟩
    refine (congrArg (·.getD n Cell.zero) ((CellArrays.get_set ..).trans (if_pos rfl))).trans ?_
    have hlength := memRead_length (done u s).store ks 16384
    exact lsumCells_getD hlength hcells hn

/-- A MAC over operands that lie in the partition. -/
theorem doMac_some {s : State} {clr : Bool} {u : UnitNo} {i : Issue} {f : MacFields} {fa fb : Fmt} {k ka kb : Nat}
    (hfa : macFmt f.fmtA.toNat = some fa) (hfb : macFmt f.fmtB.toNat = some fb) (hk : macDepth fa fb = some k) (hbad : s.bad = [])
    (hka : ownKey s i.ctx (unitIdx u) (issueAddr s i f.aBase.toNat f.aStr.toNat) (elemBytes fa (32 * k)) = some ka)
    (hkb : ownKey s i.ctx (unitIdx u) (issueAddr s i f.bBase.toNat f.bStr.toNat) (elemBytes fb (32 * k)) = some kb) :
    doMac clr u i f s = { s with cells := s.cells.set (unitIdx u) (macCells (decide (fa = .bf16)) (if fa = .bf16 then f.w.toInt else 0)
      (i.rowMask f.rmen f.rmreg) (chunks k ((elems fa (memRead s.store ka (elemBytes fa (32 * k)))).map (decodeVal fa)))
      (columns (chunks 32 ((elems fb (memRead s.store kb (elemBytes fb (32 * k)))).map (decodeVal fb))))
      (if clr then clearCells else s.cells.get (unitIdx u))) } := by
  rw [doMac, hfa, hfb]
  dsimp only
  rw [hk]
  dsimp only
  rw [readOwn_some hbad hka]
  dsimp only
  rw [readOwn_some hbad hkb]
  simp only [decide_eq_true_eq]

/-- Settles O39: the cells by `macCells_getD`, over the old ones or over cleared ones. -/
theorem macAccumulates : Obligations.MacAccumulates := by
  refine ⟨?mac, ?clear⟩
  case mac =>
    intro s u i f fa fb k ka kb h hcue hfa hfb hk hbad hcells hka hkb
    refine (answers_iff rfl).mpr ?_
    rw [onIssue_begun u _ s i (doMac false u i f) h (by rw [hcue]), doMac_some (s := done u s) hfa hfb hk hbad hka hkb]
    refine ⟨fun x y hx hy => ?_, fun g hg => (CellArrays.get_set ..).trans (if_neg hg), rfl, rfl, rfl, rfl⟩
    refine (congrArg (·.getD (32 * x + y) Cell.zero) ((CellArrays.get_set ..).trans (if_pos rfl))).trans ?_
    exact macCells_getD hcells hx hy
  case clear =>
    intro s u i f fa fb k ka kb h hcue hfa hfb hk hbad hka hkb
    refine (answers_iff rfl).mpr ?_
    rw [onIssue_begun u _ s i (doMac true u i f) h (by rw [hcue]), doMac_some (s := done u s) hfa hfb hk hbad hka hkb]
    refine ⟨fun x y hx hy => ?_, fun g hg => (CellArrays.get_set ..).trans (if_neg hg), rfl, rfl, rfl, rfl⟩
    refine (congrArg (·.getD (32 * x + y) Cell.zero) ((CellArrays.get_set ..).trans (if_pos rfl))).trans ?_
    have hzero : clearCells.getD (32 * x + y) Cell.zero = Cell.zero := by
      rw [clearCells, List.getD_eq_getElem?_getD, List.getElem?_replicate]
      split <;> rfl
    have hcell := macCells_getD (win := decide (fa = .bf16)) (w := if fa = .bf16 then f.w.toInt else 0) (mask := i.rowMask f.rmen f.rmreg)
      (ra := chunks k ((elems fa (memRead s.store ka (elemBytes fa (32 * k)))).map (decodeVal fa)))
      (rows := chunks 32 ((elems fb (memRead s.store kb (elemBytes fb (32 * k)))).map (decodeVal fb)))
      (cells := clearCells) List.length_replicate hx hy
    rw [hzero] at hcell
    exact hcell

end Sys2Proof.Machine
end

section
/-! The moves and the memory slot cues (R84 to R86, R96, R143, R156, R159, R164). -/

namespace Sys2Proof.Machine

/-! ## The two ends of a move -/

/-- A source outside the control registers is read as bytes. -/
theorem moveSource_bytes {s : State} (hbad : s.bad = []) {d : Nat} {u : UnitNo} {c : CtxNo} {seg o n : Nat} {ls : List (Nat × Nat)}
    (hreg : ∀ x, moveEnd s c seg o false ≠ some (3, x)) (hls : locate s c seg o n false = some ls) :
    moveSource d u c seg o n s = (readPieces s ls, s) := by
  unfold moveSource
  split
  · next off _ hend _ => exact absurd hend (hreg off)
  · exact readSeg_some hbad hls

/-- A destination outside the control registers takes bytes. -/
theorem moveInto_bytes {s : State} {d : Nat} {u : UnitNo} {c : CtxNo} {seg o : Nat} {bs : Bytes} {ld : List (Nat × Nat)}
    (hreg : ∀ x, moveEnd s c seg o true ≠ some (3, x)) (hld : locate s c seg o bs.length true = some ld) :
    moveInto d u c seg o bs s = s.later d u c (.bytes (cutPieces ld bs)) := by
  unfold moveInto
  split
  · next off _ hend _ => exact absurd hend (hreg off)
  · rw [writeSeg_some hld]

/-- A destination in the control registers is written as registers. -/
theorem moveInto_regs {s : State} {d : Nat} {u : UnitNo} {c : CtxNo} {seg o off : Nat} {bs : Bytes} {e : Nat × Nat}
    (hfirst : moveEnd s c seg o true = some (3, off)) (hlast : moveEnd s c seg ((o : Int) + bs.length - 1) true = some e) :
    moveInto d u c seg o bs s = s.later d u c (.regs off bs) := by
  simp only [moveInto, hfirst, hlast]

/-- A move on another die takes four beads. -/
theorem sameDie_regs (u : UnitNo) (off : Nat) (r : List (Option (Nat × Nat))) : sameDie u (some (3, off) :: r) = false := rfl

/-! ## READ and WRITE -/

theorem writeStoreSeg_some {s : State} {u : UnitNo} {c : CtxNo} {seg o : Nat} {bs : Bytes} {l : List (Nat × Nat)}
    (hseg : claspSeg s c seg = false) (hl : locate s c seg o bs.length true = some l) :
    writeStoreSeg u c seg (o : Int) bs s = (cutPieces l bs, s) := by
  rw [writeStoreSeg, hseg]
  exact writeSeg_some hl

theorem readStoreSeg_some {s : State} (hbad : s.bad = []) {d : Nat} {u : UnitNo} {c : CtxNo} {seg o n : Nat} {l : List (Nat × Nat)}
    (hseg : claspSeg s c seg = false) (hl : locate s c seg o n false = some l) :
    readStoreSeg d u c seg (o : Int) n s = (readPieces s l, s) := by
  rw [readStoreSeg, hseg]
  exact readSeg_some hbad hl

/-- A write by a MEM cue adds an event at most. -/
theorem writeStoreSeg_evFrame (u : UnitNo) (c : CtxNo) (seg : Nat) (o : Int) (bs : Bytes) (s : State) :
    EvFrame s (writeStoreSeg u c seg o bs s).2 := by
  have hfault : EvFrame s (segFault c u seg o s) := raiseCtx_evFrame ..
  unfold writeStoreSeg writeSeg
  repeat' split
  · exact hfault
  · exact hfault
  · exact EvFrame.refl s
  · exact hfault

/-- A READ of a line of the unit's own channel that is running. -/
theorem doRead_some {s : State} {u : UnitNo} {i : Issue} {f : MemFields} {ch l : Nat} (hline : cueLine s u i f false = some (ch, l)) :
    doRead u i f s =
      let found := readLine i.ctx ch l s
      let noted := if found.2.1 then
          lineUe 18 u i.ctx (f.laddr.toNat / 2 ^ 34) (issueAddr s i (f.laddr.toNat % 2 ^ 34) f.lStr.toNat).toNat ch l found.2.2
        else found.2.2
      let w := writeStoreSeg u i.ctx (f.saddr.toNat / 2 ^ 34) (issueAddr s i (f.saddr.toNat % 2 ^ 34) f.sStr.toNat) found.1
        (drive u i.ctx f.slot.toNat 14 17 noted)
      w.2.later 18 u i.ctx (.bytes w.1) := by
  rw [doRead, hline]

/-- The uncorrectable error of a line waits for its visibility bead. -/
theorem lineUe_effect (d : Nat) (un : UnitNo) (c : CtxNo) (seg off ch l : Nat) (s : State) :
    ∃ e ∈ (lineUe d un c seg off ch l s).effects, e.due = s.bead + d ∧ e.unit = un ∧ e.ctx = c ∧
      e.kind = .memUe seg off ch (linePlace l).1 (linePlace l).2.1 (linePlace l).2.2 :=
  ⟨_, List.mem_cons_self, rfl, rfl, rfl, rfl⟩

/-- What reading a line of a running channel finds. -/
theorem readLine_found {s : State} {c : CtxNo} {ch l : Nat} (hrun : stopped s ch = false) :
    (readLine c ch l s).1 = xts false (keyPair s c).1 (keyPair s c).2 (lineKey ch l) (checkLine s ch l).1 ∧
      (readLine c ch l s).2.1 = (checkLine s ch l).2.2 := by
  rw [readLine, hrun]
  exact ⟨rfl, rfl⟩

/-- Reading a line leaves all but the channel's error count. -/
theorem readLine_kept (c : CtxNo) (ch l : Nat) (s : State) :
    (readLine c ch l s).2.2.ctxs = s.ctxs ∧ (readLine c ch l s).2.2.grade = s.grade ∧ (readLine c ch l s).2.2.bead = s.bead ∧
      (readLine c ch l s).2.2.effects = s.effects ∧ (readLine c ch l s).2.2.drives = s.drives ∧
      (readLine c ch l s).2.2.store = s.store ∧ (readLine c ch l s).2.2.lp4x = s.lp4x ∧ (readLine c ch l s).2.2.events = s.events := by
  rcases readLine_state c ch l s with h | h
  · rw [h]
    exact ⟨rfl, rfl, rfl, rfl, rfl, rfl, rfl, rfl⟩
  · rw [h]
    simp

theorem claspSeg_congr {s t : State} (h : t.ctxs = s.ctxs) (c : CtxNo) (seg : Nat) : claspSeg t c seg = claspSeg s c seg := by
  unfold claspSeg
  rw [ctx_congr h]

/-- The line of a cue is the one that its address names. -/
theorem segLine_of_cueLine {s : State} {u : UnitNo} {i : Issue} {f : MemFields} {wr : Bool} {p : Nat × Nat}
    (h : cueLine s u i f wr = some p) :
    segLine s i.ctx (f.laddr.toNat / 2 ^ 34) (issueAddr s i (f.laddr.toNat % 2 ^ 34) f.lStr.toNat) wr = some p := by
  unfold cueLine at h
  split at h
  · next hline =>
    split at h
    · exact hline.trans h
    · exact nomatch h
  · exact nomatch h

/-! ## The cues -/

/-- Settles O40: each move by its two ends, each slot cue by its line. -/
theorem moversAndSlots : Obligations.MoversAndSlots := by
  refine ⟨?copy, ?copyRegs, ?fill, ?fillRegs, ?read, ?readBad, ?write⟩
  case copy =>
    intro s u i f so dO d ls ld h hcue hbad hso hdO hsrc hdst hls hld hd
    refine (answers_iff rfl).mpr ?_
    have hso' : issueAddr (done u s) i (f.src.toNat % 2 ^ 34) f.srcStr.toNat = so := hso
    have hdO' : issueAddr (done u s) i (f.dst.toNat % 2 ^ 34) f.dstStr.toNat = dO := hdO
    have hbytes : readPieces (done u s) ls = readPieces s ls := rfl
    rw [onIssue_begun u _ s i (doCopy u i f) h (by rw [hcue]), doCopy]
    dsimp only
    rw [hso', hdO', moveSource_bytes (s := done u s) hbad hsrc hls]
    dsimp only
    rw [hbytes, moveInto_bytes (s := drive u i.ctx f.slot.toNat 0 _ (done u s)) hdst hld, hd]
    exact ⟨rfl, rfl, rfl, rfl, rfl⟩
  case copyRegs =>
    intro s u i f so dO off e ls h hcue hbad hso hdO hsrc hls hdst hlast
    refine (answers_iff rfl).mpr ?_
    have hso' : issueAddr (done u s) i (f.src.toNat % 2 ^ 34) f.srcStr.toNat = so := hso
    have hdO' : issueAddr (done u s) i (f.dst.toNat % 2 ^ 34) f.dstStr.toNat = dO := hdO
    have hdst' : moveEnd (done u s) i.ctx (f.dst.toNat / 2 ^ 34) dO true = some (3, off) := hdst
    have hbytes : readPieces (done u s) ls = readPieces s ls := rfl
    rw [onIssue_begun u _ s i (doCopy u i f) h (by rw [hcue]), doCopy]
    dsimp only
    rw [hso', hdO', moveSource_bytes (s := done u s) hbad hsrc hls, hdst', sameDie_regs]
    dsimp only
    rw [hbytes, moveInto_regs (s := drive u i.ctx f.slot.toNat 0 _ (done u s)) hdst hlast]
    exact ⟨rfl, rfl, rfl, rfl, rfl⟩
  case fill =>
    intro s u i f dO d ld h hcue hdO hdst hld hd
    refine (answers_iff rfl).mpr ?_
    have hdO' : issueAddr (done u s) i (f.dst.toNat % 2 ^ 34) f.dstStr.toNat = dO := hdO
    rw [onIssue_begun u _ s i (doFill u i f) h (by rw [hcue]), doFill]
    rw [hdO', moveInto_bytes (s := drive u i.ctx f.slot.toNat 0 _ (done u s)) hdst hld, hd]
    exact ⟨rfl, rfl, rfl, rfl, rfl⟩
  case fillRegs =>
    intro s u i f dO off e h hcue hdO hdst hlast
    refine (answers_iff rfl).mpr ?_
    have hdO' : issueAddr (done u s) i (f.dst.toNat % 2 ^ 34) f.dstStr.toNat = dO := hdO
    have hdst' : moveEnd (done u s) i.ctx (f.dst.toNat / 2 ^ 34) dO true = some (3, off) := hdst
    rw [onIssue_begun u _ s i (doFill u i f) h (by rw [hcue]), doFill]
    rw [hdO', hdst', sameDie_regs, moveInto_regs (s := drive u i.ctx f.slot.toNat 0 _ (done u s)) hdst hlast]
    exact ⟨rfl, rfl, rfl, rfl, rfl⟩
  case read =>
    intro s u i f so ch l ld h hcue hline hrun hgood hseg hso hld
    refine (answers_iff rfl).mpr ?_
    have hso' : issueAddr (done u s) i (f.saddr.toNat % 2 ^ 34) f.sStr.toNat = so := hso
    have hfound := readLine_found (s := done u s) (c := i.ctx) (l := l) hrun
    have hplain : (readLine i.ctx ch l (done u s)).1 =
        xts false (keyPair s i.ctx).1 (keyPair s i.ctx).2 (lineKey ch l) (checkLine s ch l).1 := hfound.1
    have hgood' : (checkLine (done u s) ch l).2.2 = false := hgood
    rw [onIssue_begun u _ s i (doRead u i f) h (by rw [hcue]), doRead_some (s := done u s) hline, hso']
    dsimp only
    rw [hfound.2, hgood', hplain]
    obtain ⟨hctxs, hgrade, hbead, heffects, hdrives, hstore, hlp, hevents⟩ := readLine_kept i.ctx ch l (done u s)
    generalize (readLine i.ctx ch l (done u s)).2.2 = t at hctxs hgrade hbead heffects hdrives hstore hlp hevents ⊢
    rw [if_neg Bool.false_ne_true, writeStoreSeg_some (s := drive u i.ctx f.slot.toNat 14 17 t) ?seg ((locate_congr hctxs hgrade ..).trans hld)]
    case seg => exact (claspSeg_congr (t := t) hctxs ..).trans hseg
    refine ⟨?_, ?_, hstore, hlp, hevents⟩
    · simp [makes, State.later, drive, hbead, heffects]
    · simp [State.later, drive, hbead, hdrives]
  case readBad =>
    intro s u i f ch l h hcue hline hrun hbad
    refine (answers_iff rfl).mpr ?_
    have hfound := readLine_found (s := done u s) (c := i.ctx) (l := l) hrun
    have hbad' : (checkLine (done u s) ch l).2.2 = true := hbad
    rw [onIssue_begun u _ s i (doRead u i f) h (by rw [hcue]), doRead_some (s := done u s) hline]
    dsimp only
    rw [hfound.2, hbad']
    obtain ⟨-, -, hbead, -⟩ := readLine_kept i.ctx ch l (done u s)
    generalize (readLine i.ctx ch l (done u s)).2.2 = t at hbead ⊢
    obtain ⟨e, he, hdue, hunit, hctx, hkind⟩ := lineUe_effect 18 u i.ctx (f.laddr.toNat / 2 ^ 34)
      (issueAddr (done u s) i (f.laddr.toNat % 2 ^ 34) f.lStr.toNat).toNat ch l t
    refine ⟨e, List.mem_cons_of_mem _ ?_, hdue.trans (congrArg (· + 18) hbead), hunit, hctx, hkind⟩
    rw [(writeStoreSeg_evFrame ..).effects]
    exact he
  case write =>
    intro s u i f so ch l ls h hcue hbad hline hrun hseg hso hls
    refine (answers_iff rfl).mpr ?_
    have hso' : issueAddr (done u s) i (f.saddr.toNat % 2 ^ 34) f.sStr.toNat = so := hso
    have hline' : cueLine (drive u i.ctx f.slot.toNat 0 3 (done u s)) u i f true = some (ch, l) := hline
    have hrun' : stopped (drive u i.ctx f.slot.toNat 0 3 (done u s)) ch = false := hrun
    have haddr : segLine (drive u i.ctx f.slot.toNat 0 3 (done u s)) i.ctx (f.laddr.toNat / 2 ^ 34)
        (issueAddr (done u s) i (f.laddr.toNat % 2 ^ 34) f.lStr.toNat) true = some (ch, l) := segLine_of_cueLine hline
    rw [onIssue_begun u _ s i (doWrite u i f) h (by rw [hcue]), doWrite]
    rw [hso', readStoreSeg_some (s := drive u i.ctx f.slot.toNat 0 3 (done u s)) hbad hseg hls]
    dsimp only
    rw [hline']
    dsimp only
    rw [writeSegLine, haddr]
    dsimp only
    rw [hrun', if_neg Bool.false_ne_true]
    exact ⟨rfl, rfl, rfl, rfl, rfl⟩

end Sys2Proof.Machine
end

section
/-! The vector cues (R61 to R64, R87, R88). -/

namespace Sys2Proof.Machine

/-- The command of a vector operation carries out the begun vector cue of that operation. -/
theorem vecCommand_exec (op : VOp) (u : UnitNo) (s : State) : exec (vecCommand op u) s = .next (onIssue u (vecCue op u) s) := by
  cases op <;> rfl

theorem vecCue_same {op : VOp} {u : UnitNo} {i : Issue} {f : VecFields} (h : i.cue = .vec op f) : vecCue op u i = some (doVec op u i f) := by
  simp [vecCue, h]

/-- An operand that lies in the partition gives its elements. -/
theorem readElems_some {s : State} {u : UnitNo} {i : Issue} {n k : Nat} {off : BitVec 16} {str : BitVec 6} {fm : Fmt} (hbad : s.bad = [])
    (hk : ownKey s i.ctx (unitIdx u) (issueAddr s i (4 * off.toNat) str.toNat) (elemBytes fm n) = some k) :
    readElems u i n off str fm s = (elems fm (memRead s.store k (elemBytes fm n)), s) := by
  rw [readElems, readOwn_some hbad hk]

/-- What a vector cue with these result codes leaves, where its destination lies in the partition. -/
theorem doVec_some {s : State} {op : VOp} {u : UnitNo} {i : Issue} {f : VecFields} {codes : List Nat} {kd : Nat}
    (hcodes : vecCodes op u i f s = (codes, s))
    (hkd : ownKey s i.ctx (unitIdx u) (issueAddr s i (4 * f.dOff.toNat) f.dStr.toNat) (vopBytes op f.n.toNat) = some kd) :
    doVec op u i f s = s.later 2 u i.ctx (.bytes ((laneWrites (vopOut op) (if vopWhole op then 0xFFFFFFFF else i.rowMask f.lmen f.lmreg)
      codes (memRead s.store kd (vopBytes op f.n.toNat))).map fun w => (kd + w.1, w.2))) := by
  rw [doVec, hcodes]
  dsimp only
  rw [writeOwn_some _ hkd, hkd]

/-- The codes of the words of an operand are the words. -/
theorem zipWith_wordOf (g : Nat → Word → Nat) (as bs : List Nat) :
    List.zipWith (fun x y => g x (wordOf y)) as bs = List.zipWith g as (bs.map wordOf) := by
  rw [List.zipWith_map_right]

theorem zipWith_wordOf_zip (g : Nat → Word × Word → Nat) (as bs cs : List Nat) :
    List.zipWith (fun x (yz : Nat × Nat) => g x (wordOf yz.1, wordOf yz.2)) as (bs.zip cs) =
      List.zipWith g as ((bs.map wordOf).zip (cs.map wordOf)) := by
  rw [List.zip_map, List.zipWith_map_right]
  rfl

theorem zip_wordOf_zipIdx (g : (Nat × Word) × Nat → Nat) (as bs : List Nat) :
    ((as.zip bs).zipIdx.map fun x => g ((x.1.1, wordOf x.1.2), x.2)) = (as.zip (bs.map wordOf)).zipIdx.map g := by
  rw [List.zip_map_right, List.zipIdx_map, List.map_map]
  rfl

/-- Settles O41: the result codes by the shape of the operation, over the operands' elements. -/
theorem vectorLanes : Obligations.VectorLanes := by
  intro op s u i f ka kd h hcue hbad hka hkd
  have hstep : ∀ codes, vecCodes op u i f (done u s) = (codes, done u s) → answers (vecCommand op u) s fun t =>
      makes 2 u i (.bytes ((laneWrites (vopOut op) (if vopWhole op then 0xFFFFFFFF else i.rowMask f.lmen f.lmreg) codes
        (memRead s.store kd (vopBytes op f.n.toNat))).map fun w => (kd + w.1, w.2))) s t
        ∧ t.store = s.store ∧ t.ctxs = s.ctxs ∧ t.cells = s.cells ∧ t.events = s.events := by
    intro codes hcodes
    refine (answers_iff (vecCommand_exec op u s)).mpr ?_
    rw [onIssue_begun u _ s i (doVec op u i f) h (vecCue_same hcue), doVec_some hcodes hkd]
    exact ⟨rfl, rfl, rfl, rfl, rfl⟩
  have ha := readElems_some (s := done u s) hbad hka
  have hread {k : Nat} {off : BitVec 16} {str : BitVec 6}
      (hk : ownKey s i.ctx (unitIdx u) (issueAddr s i (4 * off.toNat) str.toNat) (elemBytes .fp32 (32 * (f.n.toNat + 1))) = some k) :
      readElems u i (32 * (f.n.toNat + 1)) off str .fp32 (done u s) =
        (elems .fp32 (memRead s.store k (elemBytes .fp32 (32 * (f.n.toNat + 1)))), done u s) :=
    readElems_some (s := done u s) hbad hk
  dsimp only
  split
  · next g hshape =>
    refine hstep _ ?_
    rw [vecCodes, ha, hshape]
    rfl
  · next g hshape =>
    intro kb hkb
    refine hstep _ ?_
    rw [vecCodes, ha, hshape]
    dsimp only
    rw [hread hkb, ← zipWith_wordOf fun x y => (g (wordOf x) y).toNat]
    rfl
  · next g hshape =>
    intro kb kc hkb hkc
    refine hstep _ ?_
    rw [vecCodes, ha, hshape]
    dsimp only
    rw [hread hkb]
    dsimp only
    rw [hread hkc, ← zipWith_wordOf_zip fun x yz => (g (wordOf x) yz.1 yz.2).toNat]
    rfl
  · next g hshape =>
    intro kb hkb
    refine hstep _ ?_
    rw [vecCodes, ha, hshape]
    dsimp only
    rw [hread hkb, ← zip_wordOf_zipIdx fun x =>
      if bit (i.rowMask f.lmen f.lmreg) (x.2 % 32) then (g (wordOf x.1.1) x.1.2).toNat else x.1.1]
    rfl
  · next hshape =>
    refine hstep _ ?_
    rw [vecCodes, ha, hshape]
    rfl

end Sys2Proof.Machine
end

section
/-! The control cues (R91 to R95) and the engine steps (R89, R171, R172). -/

namespace Sys2Proof.Machine

/-! ## Frames and mask registers -/

/-- A unit without a step has no work of a step in the bead. -/
theorem engineBead_none {s : State} {u : UnitNo} (h : assoc u s.engines = none) : engineBead u s = s := by
  simp only [engineBead, h]

theorem modifyAt_getElem?_same {α : Type} {f : α → α} {i : Nat} {l : List α} (h : i < l.length) : (modifyAt f i l)[i]? = some (f l[i]) := by
  rw [List.getElem?_eq_getElem (by simpa using h)]
  have hget := modifyAt_getD f i i l l[i]
  rw [if_pos ⟨rfl, h⟩, List.getD_eq_getElem _ _ (by simpa using h), List.getD_eq_getElem _ _ h] at hget
  rw [hget]

theorem modifyAt_getElem?_other {α : Type} {f : α → α} {i j : Nat} {l : List α} (h : j ≠ i) : (modifyAt f i l)[j]? = l[j]? := by
  induction l generalizing i j with
  | nil => cases i <;> rfl
  | cons a r ih =>
    cases i with
    | zero =>
      cases j with
      | zero => exact absurd rfl h
      | succ j => rfl
    | succ i =>
      cases j with
      | zero => rfl
      | succ j => exact ih fun hj => h (congrArg (· + 1) hj)

theorem enterFrame_seq (u : UnitNo) (f : SeqFrame) (s : State) :
    (enterFrame u f s).seq u = { s.seq u with frames := f :: (s.seq u).frames, pc := f.first } ∧ ∀ v, v ≠ u → (enterFrame u f s).seq v = s.seq v :=
  ⟨State.setSeq_seq_same .., fun _ hv => State.setSeq_seq_other _ _ _ _ hv⟩

/-- Where the arm that a select bit chooses begins and ends. -/
theorem armFrame_ends (pos : Nat) (a b : BitVec 8) (c q live : Bool) :
    (armFrame pos a b (c != q) live).first = (if c = q then pos + a.toNat + 2 else pos + 1) ∧
      (armFrame pos a b (c != q) live).last = (if c = q then pos + a.toNat + b.toNat + 2 else pos + a.toNat + 1) ∧
      (armFrame pos a b (c != q) live).ret = pos + a.toNat + b.toNat + 3 := by
  by_cases h : c = q
  · simp only [armFrame, h, bne_self_eq_false, Bool.false_eq_true, if_false, if_true]
    omega
  · have hne : (c != q) = true := bne_iff_ne.mpr h
    simp only [armFrame, h, hne, if_false, if_true, true_and]
    omega

/-- A mask register written: it alone, in its unit's sequencer alone. -/
theorem setMask_seq {u : UnitNo} {r : BitVec 3} {v : Word} {b : Option (BitVec 8)} {s : State} (h : (s.seq u).masks.length = 8) :
    ((setMask u r.toNat v b s).seq u).masks[r.toNat]? = some ⟨v, b⟩ ∧
      (∀ q, q ≠ r.toNat → ((setMask u r.toNat v b s).seq u).masks[q]? = (s.seq u).masks[q]?) ∧
      ∀ w, w ≠ u → (setMask u r.toNat v b s).seq w = s.seq w := by
  have hr : r.toNat < (s.seq u).masks.length := by rw [h]; exact r.isLt
  have hsame : (setMask u r.toNat v b s).seq u = { s.seq u with masks := modifyAt (fun _ => ⟨v, b⟩) r.toNat (s.seq u).masks } :=
    State.setSeq_seq_same ..
  refine ⟨?_, fun q hq => ?_, fun w hw => State.setSeq_seq_other _ _ _ _ hw⟩
  · rw [hsame]
    exact modifyAt_getElem?_same hr
  · rw [hsame]
    exact modifyAt_getElem?_other hq

/-- A unit's sequencer but for the begun cue. -/
theorem done_masks (u v : UnitNo) (s : State) : ((done u s).seq v).masks = (s.seq v).masks := by
  rw [done_seq]
  split
  · next h => rw [h]
  · rfl

theorem done_frames (u v : UnitNo) (s : State) : ((done u s).seq v).frames = (s.seq v).frames := by
  rw [done_seq]
  split
  · next h => rw [h]
  · rfl

theorem done_seq_other {u v : UnitNo} {s : State} (h : v ≠ u) : (done u s).seq v = s.seq v := by rw [done_seq, if_neg h]

/-- A mask register written by a cue that counts as carried out. -/
theorem setMask_done {u : UnitNo} {r : BitVec 3} {v : Word} {b : Option (BitVec 8)} {s t : State} (ht : ∀ w, t.seq w = (done u s).seq w)
    (h : (s.seq u).masks.length = 8) : ((setMask u r.toNat v b t).seq u).masks[r.toNat]? = some ⟨v, b⟩ ∧
      (∀ q, q ≠ r.toNat → ((setMask u r.toNat v b t).seq u).masks[q]? = (s.seq u).masks[q]?) ∧
      ∀ w, w ≠ u → (setMask u r.toNat v b t).seq w = s.seq w := by
  have hmasks : (t.seq u).masks = (s.seq u).masks := by rw [ht, done_masks]
  obtain ⟨hset, hkept, hother⟩ := setMask_seq (u := u) (r := r) (v := v) (b := b) (s := t) (by rw [hmasks, h])
  refine ⟨hset, fun q hq => ?_, fun w hw => ?_⟩
  · rw [hkept q hq, hmasks]
  · rw [hother w hw, ht, done_seq_other hw]

theorem storeUe_seq (d : Nat) (u : UnitNo) (c : CtxNo) (seg o : Nat) (l : List (Nat × Nat)) (s : State) (v : UnitNo) :
    (storeUe d u c seg o l s).seq v = s.seq v := by
  unfold storeUe
  split
  · rfl
  · rfl

theorem unitUe_seq (d : Nat) (u : UnitNo) (rs : List (Nat × Nat)) (s : State) (v : UnitNo) : (unitUe d u rs s).seq v = s.seq v := by
  unfold unitUe
  split
  · exact storeUe_seq ..
  · rfl

/-- The word of a Facet's own scratch. -/
theorem homeWord_facet {s : State} {u : UnitNo} {i : Issue} {off : Int} {k : Nat}
    (hkind : unitKind u = some .facet ∨ unitKind u = some .edge) (hk : ownKey s i.ctx (unitIdx u) off 4 = some k) :
    homeWord u i off s = (BitVec.ofNat 32 (leNat (memRead s.store k 4)), storeUe 1 u i.ctx 0 off.toNat [(k, 4)] s) := by
  rcases hkind with h | h
  · simp [homeWord, h, readOwn, hk]
  · simp [homeWord, h, readOwn, hk]

/-- The word of a unit's own store or mask mailbox. -/
theorem homeWord_unit {s : State} {u : UnitNo} {i : Issue} {k : UnitKind} {a : Nat} (hkind : unitKind u = some k) (hfacet : k ≠ .facet)
    (hedge : k ≠ .edge) (ha : a + 4 ≤ (if hasMailbox k then 256 else storeBytes k)) :
    homeWord u i (a : Int) s =
      (BitVec.ofNat 32 (leNat (readUnit s u (a + if hasMailbox k then 0xFFFF00 else 0) 4)),
        unitUe 1 u [(a + (if hasMailbox k then 0xFFFF00 else 0), 4)] s) := by
  unfold homeWord
  rw [hkind]
  dsimp only
  rw [if_neg (by simp [hfacet, hedge])]
  split at ha
  · next hbox =>
    have hoff : ((0xFFFF00 : Int) + (a : Int)).toNat = a + 0xFFFF00 := by omega
    rw [if_pos hbox, if_pos hbox, if_pos hbox, hoff, if_pos ⟨by omega, by omega⟩]
  · next hbox =>
    have hoff : ((0 : Int) + (a : Int)).toNat = a + 0 := by omega
    rw [if_neg hbox, if_neg hbox, if_neg hbox, hoff, if_pos ⟨by omega, by omega⟩]

/-- Settles O42: the frames by `enterFrame_seq`, the mask registers by `setMask_done`. -/
theorem controlCues : Obligations.ControlCues := by
  refine ⟨?loop, ?arms, ?facet, ?unit, ?logic, ?set⟩
  case loop =>
    intro s u i b n h hcue heng
    refine (answers_iff rfl).mpr ?_
    rw [onIssue_begun u _ s i (fun s => engineBead u (doLoop u i b n s)) h (by rw [hcue])]
    have hnone : assoc u (doLoop u i b n (done u s)).engines = none := heng
    obtain ⟨hsame, hother⟩ := enterFrame_seq u (loopFrame i.pos b n true) (done u s)
    rw [engineBead_none hnone, doLoop, hsame]
    refine ⟨?_, rfl, fun v hv => (hother v hv).trans (done_seq_other hv)⟩
    rw [done_frames]
    rfl
  case arms =>
    intro s u i a b p r n h hcue
    refine (answers_iff rfl).mpr ?_
    rw [onIssue_begun u _ s i (doArms u i a b p r n) h (by rw [hcue])]
    obtain ⟨hsame, hother⟩ := enterFrame_seq u (armFrame i.pos a b (bit (i.mask r.toNat) n.toNat != decide (p = 1)) true) (done u s)
    rw [doArms, hsame, done_frames]
    obtain ⟨hfirst, hlast, hret⟩ := armFrame_ends i.pos a b (bit (i.mask r.toNat) n.toNat) (decide (p = 1)) true
    exact ⟨hfirst, ⟨_, rfl, rfl, rfl, hret, hlast⟩, fun v hv => (hother v hv).trans (done_seq_other hv)⟩
  case facet =>
    intro s u i r o x b l k h hcue hkind hmasks hk
    refine (answers_iff rfl).mpr ?_
    rw [onIssue_begun u _ s i (doMload u i r o x b l) h (by rw [hcue])]
    have hk' : ownKey (done u s) i.ctx (unitIdx u) (issueAddr (done u s) i o.toNat x.toNat) 4 = some k := hk
    rw [doMload, homeWord_facet hkind hk']
    exact setMask_done (fun w => storeUe_seq ..) hmasks
  case unit =>
    intro s u i r o x b l k a h hcue hkind hfacet hedge hmasks ha hlimit
    refine (answers_iff rfl).mpr ?_
    rw [onIssue_begun u _ s i (doMload u i r o x b l) h (by rw [hcue])]
    have ha' : issueAddr (done u s) i o.toNat x.toNat = a := ha
    rw [doMload, ha', homeWord_unit hkind hfacet hedge hlimit]
    exact setMask_done (fun w => unitUe_seq ..) hmasks
  case logic =>
    intro s u i d a b f h hcue hmasks
    refine (answers_iff rfl).mpr ?_
    rw [onIssue_begun u _ s i (doMlogic u i d a b f) h (by rw [hcue])]
    exact setMask_done (fun _ => rfl) hmasks
  case set =>
    intro s u i r x h hcue hmasks
    refine (answers_iff rfl).mpr ?_
    rw [onIssue_begun u _ s i (doMset u r x) h (by rw [hcue])]
    exact setMask_done (fun _ => rfl) hmasks

/-! ## Engine steps -/

/-- The command of an engine operation carries out the begun engine cue of that operation. -/
theorem engCommands_exec {u : UnitNo} {x : UnitKind × Nat × Instr} (hx : x ∈ engCommands u) (s : State) :
    exec x.2.2 s = .next (onIssue u (engCue x.1 x.2.1 u) s) := by
  simp only [engCommands, List.mem_cons, List.not_mem_nil, or_false] at hx
  rcases hx with rfl | rfl | rfl | rfl | rfl | rfl | rfl | rfl | rfl | rfl | rfl | rfl <;> rfl

/-- What a bead of a step leaves of the step: what its cue has set. -/
structure StepKeeps (st st' : EngStep) : Prop where
  ctx : st'.ctx = st.ctx
  began : st'.began = st.began
  len : st'.len = st.len
  eop : st'.eop = st.eop
  desc : st'.desc = st.desc
  seg : st'.seg = st.seg
  off : st'.off = st.off
  seen : st'.seen = st.seen
  cut : st'.cut = st.cut

theorem StepKeeps.refl (st : EngStep) : StepKeeps st st := ⟨rfl, rfl, rfl, rfl, rfl, rfl, rfl, rfl, rfl⟩

theorem StepKeeps.trans {a b c : EngStep} (h : StepKeeps a b) (k : StepKeeps b c) : StepKeeps a c :=
  ⟨k.ctx.trans h.ctx, k.began.trans h.began, k.len.trans h.len, k.eop.trans h.eop, k.desc.trans h.desc, k.seg.trans h.seg,
    k.off.trans h.off, k.seen.trans h.seen, k.cut.trans h.cut⟩

theorem readLineReq_keeps (k : UnitKind) (u : UnitNo) (r : LineReq) (st : EngStep) (s : State) : StepKeeps st (readLineReq k u r st s).1 := by
  unfold readLineReq
  split
  · exact .refl st
  · dsimp only
    split
    · exact ⟨rfl, rfl, rfl, rfl, rfl, rfl, rfl, rfl, rfl⟩
    · exact ⟨rfl, rfl, rfl, rfl, rfl, rfl, rfl, rfl, rfl⟩

theorem foldl_readLineReq_keeps (k : UnitKind) (u : UnitNo) (l : List LineReq) (x : EngStep × State) :
    StepKeeps x.1 (l.foldl (fun x r => readLineReq k u r x.1 x.2) x).1 := by
  induction l generalizing x with
  | nil => exact .refl _
  | cons r l ih => exact (readLineReq_keeps k u r x.1 x.2).trans (ih _)

theorem formStep_keeps (k : UnitKind) (u : UnitNo) (st : EngStep) (s : State) : StepKeeps st (formStep k u st s).1 := by
  show StepKeeps st (formResult k u st s).1
  unfold formResult
  repeat' split
  all_goals exact ⟨rfl, rfl, rfl, rfl, rfl, rfl, rfl, rfl, rfl⟩

/-- After a bead of a step that is in progress, the unit has the step, seen in that bead. -/
theorem engineBead_step {s : State} {u : UnitNo} {k : UnitKind} {st : EngStep} (hkind : unitKind u = some k)
    (heng : assoc u s.engines = some st) (hcut : st.cut = false) (hlen : s.bead - st.began < st.len) :
    ∃ st', assoc u (engineBead u s).engines = some st' ∧ StepKeeps { st with seen := s.bead } st' := by
  unfold engineBead
  rw [heng, hkind]
  dsimp only
  rw [if_neg (by simp [hcut, hlen])]
  refine ⟨_, assoc_assocSet_same .., ?_⟩
  have hreads := foldl_readLineReq_keeps k u
    (st.plan.filter fun r => !r.wr && decide (r.bead = ((s.bead - st.began : Nat) : Int) ∨ (s.bead - st.began = 0 ∧ r.bead < 0)))
    ({ st with seen := s.bead }, s)
  split
  · exact hreads.trans (formStep_keeps ..)
  · exact hreads

/-- The length of a step follows from its operation and its descriptor. -/
theorem stepLen_congr {st st' : EngStep} (heop : st'.eop = st.eop) (hdesc : st'.desc = st.desc) (k : UnitKind) :
    stepLen k st' = stepLen k st := by
  cases st
  cases st'
  cases heop
  cases hdesc
  rfl

/-- The step that a cue begins, before it has read a line. -/
theorem startStep_eq {s : State} {u : UnitNo} {i : Issue} {f : EngFields} {k : UnitKind} {o : Nat} (hkind : unitKind u = some k)
    (ho : issueAddr s i f.desc.toNat f.descStr.toNat = o) (hfit : o + descBytes k ≤ storeBytes k) :
    ∃ st t, startStep u i f s = engineBead u (putStep u st t) ∧ t.bead = s.bead ∧ st.ctx = i.ctx ∧ st.began = s.bead
      ∧ st.len = stepLen k st ∧ st.eop = f.eop.toNat ∧ st.desc = readUnit s u o (descBytes k) ∧ st.seg = f.opnd.toNat / 2 ^ 34
      ∧ st.off = issueAddr s i (f.opnd.toNat % 2 ^ 34) f.opndStr.toNat ∧ st.cut = false := by
  unfold startStep
  rw [hkind]
  dsimp only
  refine ⟨_, _, rfl, ?_, rfl, rfl, ?_, rfl, ?_, rfl, rfl, rfl⟩
  · refine congrArg Spine.bead ((startRef_spine ..).trans (unitUe_spine ..))
  · exact stepLen_congr rfl rfl k
  · show (if 0 ≤ issueAddr s i f.desc.toNat f.descStr.toNat ∧ _ then _ else _) = _
    rw [ho, if_pos ⟨by omega, by simpa using hfit⟩]
    rfl

/-- The step that a cue begins, after its first bead. -/
theorem startStep_begins {s : State} {u : UnitNo} {i : Issue} {f : EngFields} {k : UnitKind} {o : Nat} (hkind : unitKind u = some k)
    (ho : issueAddr s i f.desc.toNat f.descStr.toNat = o) (hfit : o + descBytes k ≤ storeBytes k) :
    ∃ st, assoc u (startStep u i f s).engines = some st ∧ st.began = s.bead ∧ st.ctx = i.ctx ∧ st.eop = f.eop.toNat
      ∧ st.desc = readUnit s u o (descBytes k) ∧ st.seg = f.opnd.toNat / 2 ^ 34
      ∧ st.off = issueAddr s i (f.opnd.toNat % 2 ^ 34) f.opndStr.toNat ∧ st.len = stepLen k st ∧ st.seen = s.bead ∧ st.cut = false := by
  obtain ⟨st, t, hstart, hbead, hctx, hbegan, hlen, heop, hdesc, hseg, hoff, hcut⟩ := startStep_eq hkind ho hfit
  have hpos : 0 < st.len := by rw [hlen]; exact Nat.le_max_left ..
  have hfirst : (putStep u st t).bead - st.began < st.len := by
    show t.bead - st.began < st.len
    rw [hbead, hbegan]
    omega
  obtain ⟨st', heng, hkeeps⟩ := engineBead_step hkind (assoc_assocSet_same ..) hcut hfirst
  refine ⟨st', by rw [hstart]; exact heng, hkeeps.began.trans hbegan, hkeeps.ctx.trans hctx, hkeeps.eop.trans heop,
    hkeeps.desc.trans hdesc, hkeeps.seg.trans hseg, hkeeps.off.trans hoff, ?_, hkeeps.seen.trans hbead, hkeeps.cut.trans hcut⟩
  rw [stepLen_congr hkeeps.eop hkeeps.desc, hkeeps.len]
  exact hlen

/-! ## The last bead of a step -/

/-- The last bead of a GROUP, CONV or REFORM step without lines: its results are formed from the step as it stands. -/
theorem engineBead_last {s : State} {u : UnitNo} {k : UnitKind} {st : EngStep} (hkind : unitKind u = some k)
    (hk : k = .charm ∨ k = .cabochon) (hbad : s.bad = []) (heng : assoc u s.engines = some st) (hcut : st.cut = false)
    (hlen : 1 ≤ st.len) (hend : s.bead + 1 = st.began + st.len) (hplan : st.plan = []) :
    ∃ st', st'.eop = st.eop ∧ st'.desc = st.desc ∧
      engineBead u s = stampStep u st.began (putStep u st' (finishStep k u st' s)) := by
  have hgarland : k ≠ .garland := by rcases hk with rfl | rfl <;> simp
  have hform (x : EngStep) : formStep k u x s = ({ x with formed := true }, s) := by
    rcases hk with rfl | rfl
    · simp only [formStep, formResult, unitUe_none hbad]
    · simp only [formStep, formResult, unitUe_none hbad]
  have hlast : s.bead - st.began + 1 = st.len := by omega
  have hrun : ¬ (st.cut = true ∨ st.len ≤ s.bead - st.began) := by simp [hcut]; omega
  simp only [engineBead, heng, hkind, if_neg hrun, hplan, List.filter_nil, List.foldl_nil, hlast, hgarland, false_and, if_false, hform]
  split
  · exact ⟨{ st with seen := s.bead, formed := true, plan := [] }, rfl, rfl, by simp only [if_true, List.filter_nil, List.foldl_nil]⟩
  · exact ⟨{ st with seen := s.bead, plan := [] }, rfl, rfl, by simp only [if_true, List.filter_nil, List.foldl_nil]⟩

/-- An effect that the last bead puts in flight bears the bead in which the step began. -/
theorem stampStep_effect {u : UnitNo} {st' : EngStep} {began : Nat} {k : EffKind} {s t : State}
    (h : ∃ e ∈ t.effects, e.due = s.bead + 1 ∧ e.began = t.bead ∧ e.unit = u ∧ e.kind = k) :
    ∃ e ∈ (stampStep u began (putStep u st' t)).effects, e.due = s.bead + 1 ∧ e.began = began ∧ e.unit = u ∧ e.kind = k := by
  obtain ⟨e, he, hdue, hbegan, hunit, hkind⟩ := h
  refine ⟨{ e with began := began }, List.mem_map.mpr ⟨e, he, ?_⟩, hdue, rfl, hunit, hkind⟩
  exact if_pos ⟨hunit, hbegan⟩

theorem later_effect (u : UnitNo) (c : CtxNo) (k : EffKind) (s : State) :
    ∃ e ∈ (s.later 1 u c k).effects, e.due = s.bead + 1 ∧ e.began = (s.later 1 u c k).bead ∧ e.unit = u ∧ e.kind = k :=
  ⟨_, List.mem_cons_self, rfl, rfl, rfl, rfl⟩

theorem finishStep_group {s : State} {u : UnitNo} {st : EngStep} (h : st.eop = 1) :
    ∃ e ∈ (finishStep .charm u st s).effects, e.due = s.bead + 1 ∧ e.began = (finishStep .charm u st s).bead ∧ e.unit = u
      ∧ e.kind = .bytes (storeWrites .charm u [(st.cOutOff, groupOut (groupIn s u st))]) := by
  have hevent : ∀ t : State, t.bead = s.bead → ∃ e ∈ (t.later 1 u st.ctx
      (.bytes (storeWrites .charm u [(st.cOutOff, groupOut (groupIn s u st))]))).effects, e.due = s.bead + 1 ∧ e.began = t.bead ∧ e.unit = u
      ∧ e.kind = .bytes (storeWrites .charm u [(st.cOutOff, groupOut (groupIn s u st))]) := by
    intro t ht
    rw [← ht]
    exact later_effect ..
  simp only [finishStep, h, if_true, reduceCtorEq, false_and, if_false, true_and]
  split
  · exact hevent _ (raiseCtx_evFrame ..).bead
  · exact hevent _ rfl

theorem finishStep_cabochon (s : State) (u : UnitNo) (st : EngStep) :
    ∃ e ∈ (finishStep .cabochon u st s).effects, e.due = s.bead + 1 ∧ e.began = (finishStep .cabochon u st s).bead ∧ e.unit = u
      ∧ e.kind = .bytes (storeWrites .cabochon u (if st.eop = 1 then convWrites s u st else reformWrites s u st)) :=
  later_effect ..

theorem groupIn_congr {s : State} {u : UnitNo} {st st' : EngStep} (h : st'.desc = st.desc) :
    groupIn (done u s) u st' = groupIn s u st ∧ st'.cOutOff = st.cOutOff := by
  cases st
  cases st'
  cases h
  exact ⟨rfl, rfl⟩

theorem cabWrites_congr {s : State} {u : UnitNo} {st st' : EngStep} (h : st'.desc = st.desc) :
    convWrites (done u s) u st' = convWrites s u st ∧ reformWrites (done u s) u st' = reformWrites s u st := by
  cases st
  cases st'
  cases h
  exact ⟨rfl, rfl⟩

/-- Settles O43: the steps by `startStep_begins`, the last beads by `engineBead_last`. -/
theorem engineSteps : Obligations.EngineSteps := by
  refine ⟨?start, ?hold, ?none⟩
  case start =>
    intro s u i f o x hx h hcue hkind heop ho hfit
    refine (answers_iff (engCommands_exec hx s)).mpr ?_
    rw [onIssue_begun u _ s i (startStep u i f) h (by simp only [engCue, hcue, hkind, heop, and_self, if_true])]
    obtain ⟨st, heng, hbegan, hctx, heop', hrest⟩ := startStep_begins (s := done u s) hkind ho hfit
    exact ⟨st, heng, hbegan, hctx, heop'.trans heop, hrest⟩
  case hold =>
    intro s u i f st h hcue heop hbad heng hcut hlen hend hplan
    refine (answers_iff rfl).mpr ?_
    rw [onIssue_begun u _ s i (engineBead u) h (by simp only [hcue, heop, if_true])]
    refine ⟨fun hkind hop => ?_, fun hkind hop => ?_, fun hkind hop => ?_⟩
    · obtain ⟨st', heop', hdesc, hlast⟩ := engineBead_last (s := done u s) hkind (.inl rfl) hbad heng hcut hlen hend hplan
      have heffect := finishStep_group (s := done u s) (u := u) (heop'.trans hop)
      rw [(groupIn_congr hdesc).1, (groupIn_congr (u := u) (s := s) hdesc).2] at heffect
      rw [hlast]
      exact stampStep_effect (s := s) heffect
    · obtain ⟨st', heop', hdesc, hlast⟩ := engineBead_last (s := done u s) hkind (.inr rfl) hbad heng hcut hlen hend hplan
      have heffect := finishStep_cabochon (done u s) u st'
      rw [if_pos (heop'.trans hop), (cabWrites_congr hdesc).1] at heffect
      rw [hlast]
      exact stampStep_effect (s := s) heffect
    · obtain ⟨st', heop', hdesc, hlast⟩ := engineBead_last (s := done u s) hkind (.inr rfl) hbad heng hcut hlen hend hplan
      have heffect := finishStep_cabochon (done u s) u st'
      rw [if_neg (by rw [heop']; exact hop), (cabWrites_congr hdesc).2] at heffect
      rw [hlast]
      exact stampStep_effect (s := s) heffect
  case none =>
    intro s u i f h hcue heop heng
    refine (answers_iff rfl).mpr ?_
    rw [onIssue_begun u _ s i (engineBead u) h (by simp only [hcue, heop, if_true])]
    exact engineBead_none (s := done u s) heng

end Sys2Proof.Machine
end

section
/-! Bytes: what is read back of a number laid out, and the lengths of ciphered bytes. -/

namespace Sys2Proof.Machine

/-! ## Numbers -/

@[simp] theorem leBytes_length (n v : Nat) : (leBytes n v).length = n := by
  induction n generalizing v with
  | zero => rfl
  | succ n ih => simp [leBytes, ih]

@[simp] theorem zeros_length (n : Nat) : (zeros n).length = n := List.length_replicate

/-- A number laid out in `n` bytes is read back modulo their range. -/
theorem leNat_leBytes (n v : Nat) : leNat (leBytes n v) = v % 256 ^ n := by
  induction n generalizing v with
  | zero => simp [leBytes, leNat, Nat.mod_one]
  | succ n ih =>
    rw [leBytes, leNat, ih, BitVec.toNat_ofNat, show 2 ^ 8 = 256 from rfl, show 256 ^ (n + 1) = 256 * 256 ^ n from Nat.pow_succ', Nat.mod_mul]

theorem leNat_leBytes_of_lt {n v : Nat} (h : v < 256 ^ n) : leNat (leBytes n v) = v := by rw [leNat_leBytes, Nat.mod_eq_of_lt h]

theorem leNat_single (b : BitVec 8) : leNat [b] = b.toNat := by simp [leNat]

/-! ## Slices of bytes put together -/

theorem slice_append_right {a b : Bytes} {o n : Nat} (h : a.length ≤ o) : slice (a ++ b) o n = slice b (o - a.length) n := by
  rw [slice, List.drop_append, List.drop_eq_nil_of_le h, List.nil_append]
  rfl

theorem slice_append_left {a b : Bytes} {o n : Nat} (h : o + n ≤ a.length) : slice (a ++ b) o n = slice a o n := by
  rw [slice, slice, List.drop_append_of_le_length (by omega), List.take_append_of_le_length (by simp; omega)]

theorem slice_append_head {a b : Bytes} {n : Nat} (h : a.length = n) : slice (a ++ b) 0 n = a := by
  rw [slice_append_left (by omega), ← h, slice_zero]

theorem slice_cons_succ (x : BitVec 8) (l : Bytes) (o n : Nat) : slice (x :: l) (o + 1) n = slice l o n := rfl

theorem slice_cons_one (x : BitVec 8) (l : Bytes) : slice (x :: l) 0 1 = [x] := by simp [slice, zeros]

/-! ## The CRC -/

theorem crcBits_lt (n : Nat) {c : Nat} (h : c < 2 ^ 32) : crcBits n c < 2 ^ 32 := by
  induction n generalizing c with
  | zero => exact h
  | succ n ih =>
    refine ih ?_
    unfold crcBit
    split
    · exact Nat.xor_lt_two_pow (by omega) (by decide)
    · omega

theorem crc32_lt (bs : Bytes) : crc32 bs < 2 ^ 32 := by
  have hfold : ∀ (l : Bytes) (c : Nat), c < 2 ^ 32 → l.foldl (fun c b => crcBits 8 (c ^^^ b.toNat)) c < 2 ^ 32 := by
    intro l
    induction l with
    | nil => exact fun c hc => hc
    | cons b l ih =>
      intro c hc
      refine ih _ (crcBits_lt 8 (Nat.xor_lt_two_pow hc ?_))
      have := b.isLt
      omega
  exact Nat.xor_lt_two_pow (hfold bs _ (by decide)) (by decide)

/-! ## Lengths of ciphered bytes -/

theorem xorBytes_length (a b : Bytes) : (xorBytes a b).length = min a.length b.length := by simp [xorBytes]

theorem sm4Run_length (ks : List Word) (a b c d : Word) : (sm4Run ks a b c d).length = 4 := by
  induction ks generalizing a b c d with
  | nil => rfl
  | cons k ks ih => exact ih ..

theorem wordBytes_length (ws : List Word) : (wordBytes ws).length = 4 * ws.length := by
  induction ws with
  | nil => rfl
  | cons w ws ih => simp_all [wordBytes, beBytes]; omega

/-- A block stays as long as it is. -/
theorem sm4Block_length (ks : List Word) {b : Bytes} (hb : b.length = 16) : (sm4Block ks b).length = 16 := by
  unfold sm4Block
  split
  · rw [wordBytes_length, sm4Run_length]
  · exact hb

theorem flatten_length_of_all {l : List Bytes} {n : Nat} (h : ∀ x ∈ l, x.length = n) : l.flatten.length = l.length * n := by
  induction l with
  | nil => simp
  | cons a r ih =>
    rw [List.flatten_cons, List.length_append, h a List.mem_cons_self, ih fun x hx => h x (List.mem_cons_of_mem _ hx),
      List.length_cons, Nat.add_mul, Nat.one_mul, Nat.add_comm]

/-- Counter mode keeps the length. -/
theorem ctrBlocks_length (key : BitVec 128) (pre : Bytes) (n : Nat) (data : Bytes) : (ctrBlocks key pre n data).length = data.length := by
  unfold ctrBlocks
  rw [xorBytes_length, flatten_length_of_all (n := 16), List.length_map, List.length_range, cdiv]
  · omega
  · intro x hx
    obtain ⟨j, -, rfl⟩ := List.mem_map.mp hx
    exact sm4Block_length _ (slice_length ..)

theorem seaCrypt_length (s : State) (c : CtxNo) (hdr payload : Bytes) : (seaCrypt s c hdr payload).length = payload.length := by
  unfold seaCrypt
  split
  · rfl
  · exact ctrBlocks_length ..

theorem readUnit_length (s : State) (u : UnitNo) (off n : Nat) : (readUnit s u off n).length = n := by
  simp [readUnit, memRead_length]

theorem portRead_length {s : State} {u : UnitNo} {off : Int} {n : Nat} {b : Bytes} (h : portRead s u off n = some b) : b.length = n := by
  unfold portRead at h
  split at h
  · cases h
    exact readUnit_length ..
  · exact nomatch h

end Sys2Proof.Machine
end

section
/-! The fabric ports (R116, R117, R120 to R125, R398). -/

namespace Sys2Proof.Machine

/-! ## The header of a packet -/

/-- The parts of a packet, one behind the other. -/
theorem packetOf_eq (s : State) (own dst len dest : Nat) (body : Bytes) :
    ∃ crc, crc < 2 ^ 32 ∧ crc = crc32 (packetHeader s own dst len dest ++ body) ∧
      packetOf (packetHeader s own dst len dest) body =
        leBytes 2 own ++ (leBytes 2 dst ++ ([BitVec.ofNat 8 (b2n s.leads)] ++ ([BitVec.ofNat 8 len] ++ (leBytes 2 s.beadInRot ++
          (leBytes 4 s.period.toNat ++ (leBytes 4 s.pair.regs.epoch.toNat ++ (leBytes 8 dest ++ (zeros 8 ++ (body ++ leBytes 4 crc))))))))) :=
  ⟨_, crc32_lt _, rfl, by simp only [packetOf, packetHeader, List.append_assoc, List.cons_append, List.nil_append]⟩

theorem packetHeader_length (s : State) (own dst len dest : Nat) : (packetHeader s own dst len dest).length = 32 := by
  simp [packetHeader]

/-- What the header of a packet says. -/
structure HeaderReads (s : State) (own dst len dest : Nat) (p : Bytes) : Prop where
  src : pktSrc p = own % 4096
  dst : pktDst p = dst % 4096
  lead : pktLead p = s.leads
  len : pktLen p = 32 * (len + 1)
  bead : pktBead p = s.beadInRot % 65536
  period : pktPeriod p = s.period
  epoch : pktEpoch p = s.pair.regs.epoch
  dest : pktDest p = dest % 2 ^ 64

theorem packetOf_reads {s : State} {own dst len dest : Nat} {body : Bytes} (hlen : len < 256) :
    HeaderReads s own dst len dest (packetOf (packetHeader s own dst len dest) body) := by
  obtain ⟨crc, -, -, heq⟩ := packetOf_eq s own dst len dest body
  rw [heq]
  refine ⟨?_, ?_, ?_, ?_, ?_, ?_, ?_, ?_⟩
  · simp [pktSrc, leAt, slice_append_head, leNat_leBytes]
  · simp [pktDst, leAt, slice_append_head, slice_append_right, leNat_leBytes]
  · simp only [pktLead, leAt, List.singleton_append]
    simp [slice_append_right, slice_cons_one, leNat_single]
    cases s.leads <;> simp [b2n]
  · simp [pktLen, leAt, slice_append_right, slice_cons_succ, slice_cons_one, leNat_single]
    omega
  · simp [pktBead, leAt, slice_append_head, slice_append_right, slice_cons_succ, leNat_leBytes]
  · simp [pktPeriod, leAt, slice_append_head, slice_append_right, slice_cons_succ, leNat_leBytes]
    exact BitVec.eq_of_toNat_eq (by simpa using BitVec.isLt _)
  · simp [pktEpoch, leAt, slice_append_head, slice_append_right, slice_cons_succ, leNat_leBytes]
    exact BitVec.eq_of_toNat_eq (by simpa using BitVec.isLt _)
  · simp [pktDest, leAt, slice_append_head, slice_append_right, slice_cons_succ, leNat_leBytes]

/-- The payload and the CRC of a packet. -/
theorem packetOf_body {s : State} {own dst len dest : Nat} {body : Bytes} (hlen : len < 256) (hbody : body.length = 32 * (len + 1)) :
    pktBody (packetOf (packetHeader s own dst len dest) body) = body ∧
      pktGood (packetOf (packetHeader s own dst len dest) body) = true := by
  have hreads := packetOf_reads (s := s) (own := own) (dst := dst) (dest := dest) (body := body) hlen
  have hhdr := packetHeader_length s own dst len dest
  have hall : (packetHeader s own dst len dest ++ body).length = 32 + 32 * (len + 1) := by rw [List.length_append, hhdr, hbody]
  refine ⟨?_, ?_⟩
  · rw [pktBody, hreads.len, packetOf, List.append_assoc, slice_append_right (by omega), hhdr, Nat.sub_self, slice_append_head hbody]
  · rw [pktGood, hreads.len, decide_eq_true_iff]
    refine ⟨?_, ?_⟩
    · rw [packetOf, List.length_append, hall, leBytes_length]
      omega
    · rw [packetOf, ← hall, List.take_left', leAt, slice_append_right le_rfl, Nat.sub_self]
      rw [← List.append_nil (leBytes 4 _), slice_append_head (leBytes_length ..), leNat_leBytes_of_lt (crc32_lt _)]
      rfl

/-- The payload's cipher takes the header alone. -/
theorem seaCrypt_append {s : State} {c : CtxNo} {hdr rest payload : Bytes} (h : hdr.length = 32) :
    seaCrypt s c (hdr ++ rest) payload = seaCrypt s c hdr payload := by
  unfold seaCrypt
  rw [slice_append_left (by omega), slice_append_left (by omega), slice_append_left (by omega), slice_append_left (by omega)]

/-! ## The send -/

/-- The send of a port that reads its buffer and a destination in range. -/
theorem fabSend_some {s : State} {u : UnitNo} {i : Issue} {f : PortFields} {body : Bytes} {sp off : Nat} (hbad : s.bad = [])
    (hbody : portRead s u (portOff s i f) (portBytes f) = some body)
    (hra : 0 ≤ issueAddr s i (f.raddr.toNat % 2 ^ 34) f.rstr.toNat)
    (hdest : translateRemote s i.ctx (f.raddr.toNat / 2 ^ 34) (issueAddr s i (f.raddr.toNat % 2 ^ 34) f.rstr.toNat).toNat = some (sp, off)) :
    fabSend u i f s =
      if s.held i.ctx ∨ s.pair.regs.role = .joining ∨ takesPart s = false then s
      else
        let hdr := packetHeader s s.ownModule f.rmod.toNat f.len.toNat (f.rmod.toNat * 2 ^ 52 + sp * 2 ^ 48 + off)
        { s with sends := s.sends ++ [(i.ctx, unitIdx u, packetOf hdr (seaCrypt s i.ctx hdr body))] } := by
  rw [fabSend, hbody]
  dsimp only
  rw [portUe, unitUe_none hbad, if_neg (by omega), hdest]

/-- What a receive leaves of the waiting packets, the events and the rest. -/
structure FabKeeps (s t : State) : Prop where
  bead : t.bead = s.bead
  effects : t.effects = s.effects
  sends : t.sends = s.sends
  held : t.fabric.held = s.fabric.held
  wraps : t.fabric.wraps = s.fabric.wraps
  store : t.store = s.store
  lp4x : t.lp4x = s.lp4x
  sec : ∀ c, (t.ctx c).sec = (s.ctx c).sec
  log : LogFrom s t

theorem FabKeeps.refl (s : State) : FabKeeps s s := ⟨rfl, rfl, rfl, rfl, rfl, rfl, rfl, fun _ => rfl, .refl s⟩

theorem FabKeeps.trans {s t u : State} (h : FabKeeps s t) (k : FabKeeps t u) : FabKeeps s u :=
  ⟨k.bead.trans h.bead, k.effects.trans h.effects, k.sends.trans h.sends, k.held.trans h.held, k.wraps.trans h.wraps,
    k.store.trans h.store, k.lp4x.trans h.lp4x, fun c => (k.sec c).trans (h.sec c), h.log.trans k.log⟩

theorem raiseAt_fabKeeps (code : Nat) (ctx : Option CtxNo) (unit unit2 : Nat) (hold located : Bool) (arg : Bytes) (s : State) :
    FabKeeps s (raiseAt code ctx unit unit2 hold located arg s) := by
  have h := raiseAt_evFrame code ctx unit unit2 hold located arg s
  exact ⟨h.bead, h.effects, h.sends, by rw [h.fabric], by rw [h.fabric], h.store, h.lp4x, fun c => by rw [h.ctx c], raiseAt_logFrom ..⟩

theorem fabRaise_fabKeeps (code port src due transit : Nat) (s : State) : FabKeeps s (fabRaise code port src due transit s) := by
  unfold fabRaise raise
  exact raiseAt_fabKeeps ..

/-- A Cast record changes Cast, and may raise CAST_OVERFLOW. -/
theorem castPut_state (type source ctx flags bead sub : Nat) (period : Word) (payload : Bytes) (s : State) :
    ∃ c, castPut type source ctx flags bead sub period payload s = { s with cast := c } ∨
      castPut type source ctx flags bead sub period payload s = raise evCastOverflow [] { s with cast := c } := by
  unfold castPut
  split
  · exact ⟨s.cast, .inl rfl⟩
  · extract_lets gapped r fresh t
    have hgapped : gapped = { s with cast := gapped.cast } := by
      simp only [gapped]
      repeat' split
      · rfl
      · rfl
      · rfl
    have hmod (f : Cast → Cast) : gapped.modCast f = { s with cast := f gapped.cast } :=
      congrArg (fun x : State => { x with cast := f gapped.cast }) hgapped
    split
    · exact ⟨_, .inl (hmod _)⟩
    · split
      · exact ⟨_, .inr (congrArg (raise evCastOverflow []) (hmod _))⟩
      · exact ⟨_, .inl (hmod _)⟩

theorem castPut_fabKeeps (type source ctx flags bead sub : Nat) (period : Word) (payload : Bytes) (s : State) :
    FabKeeps s (castPut type source ctx flags bead sub period payload s) := by
  obtain ⟨c, h⟩ := castPut_state type source ctx flags bead sub period payload s
  have hcast : FabKeeps s { s with cast := c } := ⟨rfl, rfl, rfl, rfl, rfl, rfl, rfl, fun _ => rfl, .of_events rfl⟩
  rcases h with h | h
  · rw [h]
    exact hcast
  · rw [h]
    exact hcast.trans (raiseAt_fabKeeps ..)

theorem castPacket_fabKeeps (u : UnitNo) (c : CtxNo) (p : Bytes) (s : State) : FabKeeps s (castPacket u c p s) := by
  unfold castPacket
  repeat' split
  · exact castPut_fabKeeps ..
  · exact castPut_fabKeeps ..
  · exact .refl s

theorem replayPacket_fabKeeps (u : UnitNo) (c : CtxNo) (p : Bytes) (s : State) : FabKeeps s (replayPacket u c p s) := by
  unfold replayPacket
  repeat' split
  · exact .refl s
  · exact raiseAt_fabKeeps ..
  · exact .refl s

theorem noteSilence_fabKeeps (m : Nat) (f : Silence → Silence) (s : State) : FabKeeps s (noteSilence m f s) :=
  ⟨rfl, rfl, rfl, rfl, rfl, rfl, rfl, fun _ => rfl, .of_events rfl⟩

theorem seaCrypt_congr {s t : State} (h : FabKeeps s t) (c : CtxNo) (hdr payload : Bytes) :
    seaCrypt t c hdr payload = seaCrypt s c hdr payload := by
  unfold seaCrypt
  rw [h.sec, h.wraps]

theorem portWrite_some {s : State} {u : UnitNo} {c : CtxNo} {off : Int} {bs : Bytes} (h : 0 ≤ off ∧ off + bs.length ≤ 262144) :
    portWrite u c off bs s = s.later 1 u c (.bytes [(unitKey u off.toNat, bs)]) := if_pos h

/-- A packet that a receive chooses is one of those that it can take. -/
theorem pktChoose_mem {l : List (Nat × HeldPacket)} {h : Nat × HeldPacket} (hc : pktChoose l = some h) : h ∈ l := by
  induction l with
  | nil => exact nomatch hc
  | cons g r ih =>
    unfold pktChoose at hc
    split at hc
    · cases hc
      exact List.mem_cons_self
    · next b hb =>
      split at hc
      · cases hc
        exact List.mem_cons_of_mem _ (ih hb)
      · cases hc
        exact List.mem_cons_self

/-- The payload of a packet that a receive can take fills the length of the receive. -/
theorem pktBody_length {s : State} {u : UnitNo} {off : Int} {n rx : Nat} {h : Nat × HeldPacket}
    (hc : pktChoose (pktCands s u off n rx) = some h) : (pktBody h.2.bytes).length = n := by
  have hmem := (List.mem_filter.mp (List.mem_filter.mp (pktChoose_mem hc)).1).2
  rw [pktCandidate, Bool.and_eq_true, decide_eq_true_iff] at hmem
  obtain ⟨⟨-, -, -, hlen, -⟩, -⟩ := hmem
  rw [pktBody, slice_length, hlen]

/-- The packets that a receive can take are no longer held. -/
def tookHeld (s : State) (u : UnitNo) (off : Int) (n rx : Nat) : State :=
  s.modFabric fun x => { x with held := s.fabric.held.filter fun g => !pktCandidate s u off n rx g }

/-- A receive that has a packet to take writes it, deciphered. -/
theorem fabRecv_some {s : State} {u : UnitNo} {i : Issue} {off : Int} {n rx : Nat} {h : Nat × HeldPacket}
    (hc : pktChoose (pktCands s u off n rx) = some h) :
    ∃ t, fabRecv u i off n rx s = portWrite u i.ctx off (seaCrypt s i.ctx h.2.bytes (pktBody h.2.bytes)) t ∧
      FabKeeps (tookHeld s u off n rx) t := by
  unfold fabRecv
  extract_lets port cands rest missed s1
  split
  · next hnone => exact nomatch hnone.symm.trans hc
  · next g hg =>
    obtain rfl : g = h := Option.some.inj (hg.symm.trans hc)
    extract_lets p ties s2 s3 s4
    have h2 : FabKeeps s1 s2 := by
      simp only [s2]
      split
      · exact fabRaise_fabKeeps ..
      · exact .refl s1
    have h4 : FabKeeps s1 s4 := (h2.trans (noteSilence_fabKeeps ..)).trans ((castPacket_fabKeeps ..).trans (replayPacket_fabKeeps ..))
    have hcrypt : seaCrypt s4 i.ctx p (pktBody p) = seaCrypt s i.ctx p (pktBody p) := seaCrypt_congr h4 ..
    exact ⟨s4, by rw [hcrypt], h4⟩

/-- A receive that has no packet to take raises FABRIC_MISS. -/
theorem fabRecv_none {s : State} {u : UnitNo} {i : Issue} {off : Int} {n rx : Nat} (hc : pktChoose (pktCands s u off n rx) = none) :
    FabKeeps (raiseCtx evFabricMiss i.ctx u (fabArg (unitIdx u) rx s.beadInRot 0) s) (fabRecv u i off n rx s) := by
  unfold fabRecv
  extract_lets port cands rest missed s1
  split
  · split
    · exact .refl _
    · exact noteSilence_fabKeeps ..
  · next g hg => exact nomatch hg.symm.trans hc

theorem fabRecv_sends (u : UnitNo) (i : Issue) (off : Int) (n rx : Nat) (s : State) : (fabRecv u i off n rx s).sends = s.sends := by
  cases hc : pktChoose (pktCands s u off n rx) with
  | none => exact (fabRecv_none hc).sends.trans (raiseCtx_evFrame ..).sends
  | some h =>
    obtain ⟨t, heq, hkeeps⟩ := fabRecv_some (i := i) hc
    rw [heq, portWrite]
    split
    · exact hkeeps.sends
    · exact hkeeps.sends

/-- A receive whose buffer range lies in the buffer. -/
theorem fabRecv_effects {s : State} {u : UnitNo} {i : Issue} {off : Int} {n rx : Nat} {h : Nat × HeldPacket}
    (hc : pktChoose (pktCands s u off n rx) = some h) (hoff : 0 ≤ off) (hfit : off + n ≤ 262144) :
    makes 1 u i (.bytes [(unitKey u off.toNat, seaCrypt s i.ctx h.2.bytes (pktBody h.2.bytes))]) s (fabRecv u i off n rx s) ∧
      (fabRecv u i off n rx s).fabric.held = (s.fabric.held.filter fun g => !pktCandidate s u off n rx g) ∧
      (fabRecv u i off n rx s).store = s.store ∧ (fabRecv u i off n rx s).lp4x = s.lp4x := by
  obtain ⟨t, heq, hkeeps⟩ := fabRecv_some (i := i) hc
  rw [heq, portWrite_some ⟨hoff, by rw [seaCrypt_length, pktBody_length hc]; exact hfit⟩]
  refine ⟨?_, hkeeps.held, hkeeps.store, hkeeps.lp4x⟩
  have hbead : t.bead = s.bead := hkeeps.bead
  have heffects : t.effects = s.effects := hkeeps.effects
  simp only [makes, State.later, hbead, heffects]

/-! ## The send of FXCH before its receive -/

/-- What a send leaves. -/
structure SendKeeps (s t : State) : Prop where
  bead : t.bead = s.bead
  effects : t.effects = s.effects
  fabric : t.fabric = s.fabric
  store : t.store = s.store
  lp4x : t.lp4x = s.lp4x
  sec : ∀ c, (t.ctx c).sec = (s.ctx c).sec
  log : LogFrom s t

theorem fabSend_keeps {s : State} (hbad : s.bad = []) (u : UnitNo) (i : Issue) (f : PortFields) : SendKeeps s (fabSend u i f s) := by
  have hrefl : SendKeeps s s := ⟨rfl, rfl, rfl, rfl, rfl, fun _ => rfl, .refl s⟩
  unfold fabSend
  extract_lets ra seg t
  have ht : t = s := unitUe_none hbad ..
  clear_value t
  subst ht
  split
  · exact hrefl
  · split
    · have h := raiseCtx_evFrame evSegmentFault i.ctx u (BitVec.ofNat 8 (seg % 64 + 128 * b2n (decide (ra < 0 ∨ (2 ^ 34 : Int) ≤ ra))) :: leBytes 5 (wrap 34 ra)) t
      exact ⟨h.bead, h.effects, h.fabric, h.store, h.lp4x, fun c => by rw [segFault, h.ctx c], raiseAt_logFrom ..⟩
    · split
      · exact hrefl
      · exact ⟨rfl, rfl, rfl, rfl, rfl, fun _ => rfl, .of_events rfl⟩

theorem pktCandidate_congr {s t : State} (hfabric : t.fabric = s.fabric) (hbead : t.bead = s.bead) (u : UnitNo) (off : Int) (n rx : Nat) :
    pktCandidate t u off n rx = pktCandidate s u off n rx := by
  funext h
  have hown : t.ownModule = s.ownModule := by rw [State.ownModule, State.ownModule, hfabric]
  rw [pktCandidate, pktCandidate, hown, hbead]

theorem pktCands_congr {s t : State} (hfabric : t.fabric = s.fabric) (hbead : t.bead = s.bead) (u : UnitNo) (off : Int) (n rx : Nat) :
    pktCands t u off n rx = pktCands s u off n rx := by
  rw [pktCands, pktCands, pktCandidate_congr hfabric hbead, hfabric]

/-! ## The arrival of a packet -/

/-- A packet that arrives at a module that takes part: its transit noted, with FABRIC_MARGIN where it is near the latency. -/
def noted (port transit : Nat) (p : Bytes) (s : State) : State :=
  if nearLatency (noteTransit port transit s) transit then
    fabRaise evFabricMargin port (pktSrc p) (pktDueBead s p) transit (noteTransit port transit s)
  else noteTransit port transit s

theorem packetArrives_noted {s : State} {port transit : Nat} {p : Bytes} (hport : port < 4) (hpart : takesPart s = true) :
    packetArrives port p transit s =
      if s.beadOf (pktPeriod p) (pktBead p) + (fabLatency s : Int) ≤ ((noted port transit p s).bead : Int) then
        fabRaise evFabricUnclaimed port (pktSrc p) (pktDueBead s p) transit (noted port transit p s)
      else if 64 ≤ packetsWaiting (noted port transit p s) port then
        fabRaise evFabricOverrun port (pktSrc p) (pktDueBead s p) transit (noted port transit p s)
      else (noted port transit p s).modFabric fun x =>
        { x with held := x.held ++ [(port, ⟨(s.beadOf (pktPeriod p) (pktBead p) + (fabLatency s : Int)).toNat, p, transit⟩)] } := by
  rw [packetArrives, if_neg (by omega), if_pos hpart]
  rfl

theorem noted_keeps (port transit : Nat) (p : Bytes) (s : State) : FabKeeps s (noted port transit p s) := by
  have hnote : FabKeeps s (noteTransit port transit s) := ⟨rfl, rfl, rfl, rfl, rfl, rfl, rfl, fun _ => rfl, .of_events rfl⟩
  unfold noted
  split
  · exact hnote.trans (fabRaise_fabKeeps ..)
  · exact hnote

theorem noted_waiting (port transit : Nat) (p : Bytes) (s : State) :
    packetsWaiting (noted port transit p s) port = packetsWaiting s port := by
  rw [packetsWaiting, packetsWaiting, (noted_keeps ..).held, (noted_keeps ..).bead]

theorem raised_fabRaise {s t : State} (h : FabKeeps s t) (code port src due transit : Nat) :
    raised code s (fabRaise code port src due transit t) := by
  unfold fabRaise
  exact raised_raise h.log h.bead ..

theorem packetArrives_logFrom {s : State} {port transit : Nat} {p : Bytes} (hport : port < 4) (hpart : takesPart s = true) :
    LogFrom (noted port transit p s) (packetArrives port p transit s) := by
  rw [packetArrives_noted hport hpart]
  split
  · exact (fabRaise_fabKeeps ..).log
  · split
    · exact (fabRaise_fabKeeps ..).log
    · exact .of_events rfl

/-! ## The commands -/

theorem portCue_same {k : UnitKind} {pop : Nat} {u : UnitNo} {g : Issue → PortFields → State → State} {i : Issue} {f : PortFields}
    (hcue : i.cue = .port f) (hkind : unitKind u = some k) (hpop : f.pop.toNat = pop) : portCue k pop u g i = some (g i f) := by
  simp only [portCue, hcue, hkind, hpop, and_self, if_true]

/-- The packet that a send puts among those that leave. -/
theorem fabSend_sends {s : State} {u : UnitNo} {i : Issue} {f : PortFields} {body : Bytes} {sp off : Nat} (hbad : s.bad = [])
    (hbody : portRead s u (portOff s i f) (portBytes f) = some body)
    (hra : 0 ≤ issueAddr s i (f.raddr.toNat % 2 ^ 34) f.rstr.toNat) (hpart : takesPart s = true)
    (hdest : translateRemote s i.ctx (f.raddr.toNat / 2 ^ 34) (issueAddr s i (f.raddr.toNat % 2 ^ 34) f.rstr.toNat).toNat = some (sp, off))
    (hheld : s.held i.ctx = false) (hrole : s.pair.regs.role ≠ .joining) :
    ∃ p, (fabSend u i f s).sends = s.sends ++ [(i.ctx, unitIdx u, p)] ∧ pktSrc p = s.ownModule % 4096 ∧ pktDst p = f.rmod.toNat
      ∧ pktLead p = s.leads ∧ pktLen p = portBytes f ∧ pktBead p = s.beadInRot % 65536 ∧ pktPeriod p = s.period
      ∧ pktEpoch p = s.pair.regs.epoch ∧ pktDest p = (f.rmod.toNat * 2 ^ 52 + sp * 2 ^ 48 + off) % 2 ^ 64
      ∧ pktBody p = seaCrypt s i.ctx p body ∧ pktGood p = true := by
  have hlen : f.len.toNat < 256 := by have := f.len.isLt; omega
  have hrmod : f.rmod.toNat % 4096 = f.rmod.toNat := Nat.mod_eq_of_lt f.rmod.isLt
  rw [fabSend_some hbad hbody hra hdest, if_neg (by simp [hheld, hrole, hpart])]
  extract_lets hdr
  have hhdr : hdr.length = 32 := packetHeader_length ..
  have hcrypt : (seaCrypt s i.ctx hdr body).length = 32 * (f.len.toNat + 1) := by
    rw [seaCrypt_length, portRead_length hbody, portBytes, Nat.mul_comm]
  have hreads := packetOf_reads (s := s) (own := s.ownModule) (dst := f.rmod.toNat)
    (dest := f.rmod.toNat * 2 ^ 52 + sp * 2 ^ 48 + off) (body := seaCrypt s i.ctx hdr body) hlen
  obtain ⟨hbodyRead, hgood⟩ := packetOf_body (s := s) (own := s.ownModule) (dst := f.rmod.toNat)
    (dest := f.rmod.toNat * 2 ^ 52 + sp * 2 ^ 48 + off) hlen hcrypt
  refine ⟨_, rfl, hreads.src, hreads.dst.trans hrmod, hreads.lead, hreads.len.trans (Nat.mul_comm ..), hreads.bead, hreads.period,
    hreads.epoch, hreads.dest, hbodyRead.trans ?_, hgood⟩
  rw [packetOf, List.append_assoc, seaCrypt_append hhdr]

/-- Settles O44: the packet by its header's fields, over the send of either cue. -/
theorem packetsSent : Obligations.PacketsSent := by
  refine ⟨?sent, ?withheld⟩
  case sent =>
    intro s u i f body sp off x hx h hcue hkind hpop hbody hra hbad hpart hdest hheld hrole
    have hsent := fabSend_sends (s := done u s) hbad hbody hra hpart hdest hheld hrole
    simp only [List.mem_cons, List.not_mem_nil, or_false] at hx
    rcases hx with rfl | rfl
    · refine (answers_iff rfl).mpr ?_
      rw [onIssue_begun u _ s i (fabSend u i f) h (portCue_same hcue hkind hpop)]
      exact hsent
    · refine (answers_iff rfl).mpr ?_
      rw [onIssue_begun u _ s i (doFxch u i f) h (portCue_same hcue hkind hpop), doFxch, fabRecv_sends]
      exact hsent
  case withheld =>
    intro s u i f body x h hcue hkind hpop hbody hra hbad hdest hnot
    refine (answers_iff rfl).mpr ?_
    rw [onIssue_begun u _ s i (fabSend u i f) h (portCue_same hcue hkind hpop),
      fabSend_some (s := done u s) (sp := x.1) (off := x.2) hbad hbody hra hdest]
    exact if_pos hnot

/-- A receive with nothing to take. -/
theorem fabRecv_miss {s t : State} {u : UnitNo} {i : Issue} {off : Int} {n rx : Nat} (h : SendKeeps s t)
    (hnone : ∀ g ∈ s.fabric.held, pktCandidate s u off n rx g = false) :
    raised evFabricMiss s (fabRecv u i off n rx t) ∧ (fabRecv u i off n rx t).fabric.held = s.fabric.held ∧
      (fabRecv u i off n rx t).effects = s.effects ∧ (fabRecv u i off n rx t).store = s.store ∧ (fabRecv u i off n rx t).lp4x = s.lp4x := by
  have hcands : pktCands t u off n rx = [] := by
    have hnothing : s.fabric.held.filter (pktCandidate s u off n rx) = [] := List.filter_eq_nil_iff.mpr fun g hg => by simp [hnone g hg]
    rw [pktCands_congr h.fabric h.bead, pktCands, hnothing]
    rfl
  have hkeeps : FabKeeps _ (fabRecv u i off n rx t) := fabRecv_none (by rw [hcands]; rfl)
  have hevent := raiseCtx_evFrame evFabricMiss i.ctx u (fabArg (unitIdx u) rx t.beadInRot 0) t
  refine ⟨?_, ?_, ?_, ?_, ?_⟩
  · exact raised.later (raised_raiseAt h.log h.bead ..) hkeeps.log
  · rw [hkeeps.held, hevent.fabric, h.fabric]
  · rw [hkeeps.effects, hevent.effects, h.effects]
  · rw [hkeeps.store, hevent.store, h.store]
  · rw [hkeeps.lp4x, hevent.lp4x, h.lp4x]

/-- Settles O45: the receives by what they can take, the arrivals by `packetArrives_noted`. -/
theorem packetsReceived : Obligations.PacketsReceived := by
  refine ⟨?recv, ?exchange, ?miss, ?held, ?late, ?overrun, ?margin⟩
  case recv =>
    intro s u i f g h hcue hkind hpop hchoose hoff hfit
    refine (answers_iff rfl).mpr ?_
    rw [onIssue_begun u _ s i (doFrecv u i f) h (portCue_same hcue hkind hpop)]
    exact fabRecv_effects (s := done u s) hchoose hoff hfit
  case exchange =>
    intro s u i f o g h hcue hkind hpop ho hbad hchoose hoff hfit
    refine (answers_iff rfl).mpr ?_
    have hkeeps := fabSend_keeps (s := done u s) hbad u i f
    have ho' : portOff (done u s) i f + 0x20000 = o := ho.symm
    rw [onIssue_begun u _ s i (doFxch u i f) h (portCue_same hcue hkind hpop), doFxch, ho']
    have hcands : pktCands (fabSend u i f (done u s)) u o (portBytes f) (f.param.toNat % 4096) =
        pktCands s u o (portBytes f) (f.param.toNat % 4096) := pktCands_congr hkeeps.fabric hkeeps.bead ..
    have hcrypt : seaCrypt (fabSend u i f (done u s)) i.ctx g.2.bytes (pktBody g.2.bytes) =
        seaCrypt s i.ctx g.2.bytes (pktBody g.2.bytes) := by
      rw [seaCrypt, seaCrypt, hkeeps.sec, hkeeps.fabric]
      rfl
    obtain ⟨hmakes, hheld, hstore, hlp4x⟩ := fabRecv_effects (i := i) (hcands ▸ hchoose) hoff hfit
    rw [hcrypt, makes, hkeeps.bead, hkeeps.effects] at hmakes
    rw [hkeeps.fabric, pktCandidate_congr hkeeps.fabric hkeeps.bead] at hheld
    exact ⟨hmakes, hheld, hstore.trans hkeeps.store, hlp4x.trans hkeeps.lp4x⟩
  case miss =>
    intro s u i f o x hx h hcue hkind hpop ho hbad hnone
    simp only [List.mem_cons, List.not_mem_nil, or_false] at hx
    rcases hx with rfl | rfl
    · refine (answers_iff rfl).mpr ?_
      rw [onIssue_begun u _ s i (doFrecv u i f) h (portCue_same hcue hkind hpop)]
      have ho' : o = portOff (done u s) i f := by rw [ho]; exact Int.add_zero _
      rw [doFrecv, ← ho']
      exact fabRecv_miss (s := s) ⟨rfl, rfl, rfl, rfl, rfl, fun _ => rfl, .of_events rfl⟩ hnone
    · refine (answers_iff rfl).mpr ?_
      rw [onIssue_begun u _ s i (doFxch u i f) h (portCue_same hcue hkind hpop)]
      have ho' : o = portOff (done u s) i f + 0x20000 := ho
      have hkeeps := fabSend_keeps (s := done u s) hbad u i f
      rw [doFxch, ← ho']
      exact fabRecv_miss (s := s) ⟨hkeeps.bead, hkeeps.effects, hkeeps.fabric, hkeeps.store, hkeeps.lp4x, hkeeps.sec, hkeeps.log⟩ hnone
  case held =>
    intro s port tr due p hport hpart hdue hbefore hroom
    refine (answers_iff rfl).mpr ?_
    have hkeeps := noted_keeps port tr p s
    rw [packetArrives_noted hport hpart, if_neg (by rw [hkeeps.bead]; omega), if_neg (by rw [noted_waiting]; omega), hdue]
    exact ⟨congrArg (· ++ _) hkeeps.held, hkeeps.effects, hkeeps.store, hkeeps.lp4x⟩
  case late =>
    intro s port tr p hport hpart hlate
    refine (answers_iff rfl).mpr ?_
    have hkeeps := noted_keeps port tr p s
    rw [packetArrives_noted hport hpart, if_pos (by rw [hkeeps.bead]; exact hlate)]
    have hall := hkeeps.trans (fabRaise_fabKeeps evFabricUnclaimed port (pktSrc p) (pktDueBead s p) tr _)
    exact ⟨raised_fabRaise hkeeps .., hall.held, hall.effects, hall.store, hall.lp4x⟩
  case overrun =>
    intro s port tr p hport hpart hearly hfull
    refine (answers_iff rfl).mpr ?_
    have hkeeps := noted_keeps port tr p s
    rw [packetArrives_noted hport hpart, if_neg (by rw [hkeeps.bead]; omega), if_pos (by rw [noted_waiting]; exact hfull)]
    have hall := hkeeps.trans (fabRaise_fabKeeps evFabricOverrun port (pktSrc p) (pktDueBead s p) tr _)
    exact ⟨raised_fabRaise hkeeps .., hall.held, hall.effects, hall.store, hall.lp4x⟩
  case margin =>
    intro s port tr p hport hpart hlow hhigh
    refine (answers_iff rfl).mpr ?_
    refine raised.later ?_ (packetArrives_logFrom hport hpart)
    have hnear : nearLatency (noteTransit port tr s) tr = true := decide_eq_true (show fabLatency s ≤ tr + 4 ∧ tr ≤ fabLatency s + 4 from ⟨hlow, hhigh⟩)
    rw [noted, if_pos hnear]
    exact raised_raise_of rfl rfl

end Sys2Proof.Machine
end

section
/-! The host port (R203, R204, R209 to R213, R309, Table 7-1). -/

namespace Sys2Proof.Machine

/-! ## A record committed in one cue -/

theorem markDirty_pair (gs : List Nat) (s : State) : ∃ p, markDirty gs s = { s with pair := p } ∧ p.regs = s.pair.regs := by
  unfold markDirty
  split
  · exact ⟨s.pair, rfl, rfl⟩
  · split
    · exact ⟨_, rfl, rfl⟩
    · exact ⟨_, rfl, rfl⟩

/-- A chain event changes the context's chain and the inputs assigned to it, and marks its granule. -/
structure ChainKeeps (c : CtxNo) (s t : State) : Prop where
  bead : t.bead = s.bead
  ctxs : t.ctxs = s.ctxs
  rows : t.rows = s.rows
  live : t.live = s.live
  store : t.store = s.store
  effects : t.effects = s.effects
  ports : t.ports = s.ports
  regs : t.pair.regs = s.pair.regs
  rings : t.rings.length = s.rings.length
  ring : t.ring c = { s.ring c with chain := (t.ring c).chain, assigned := (t.ring c).assigned }

theorem chainEvent_keeps {c : CtxNo} {s : State} (hc : c < s.rings.length) (commit : Bool) : ChainKeeps c s (chainEvent commit c s) := by
  have hring := setRing_ring hc fun r =>
    { r with chain := sm3 (r.chain ++ ((r.assigned.filter fun a => commit || !a.1).map (·.2)).flatten),
             assigned := r.assigned.filter fun a => !(commit || !a.1) }
  have hlength := setRing_length (fun r : Ring =>
    { r with chain := sm3 (r.chain ++ ((r.assigned.filter fun a => commit || !a.1).map (·.2)).flatten),
             assigned := r.assigned.filter fun a => !(commit || !a.1) }) c s
  rw [chainEvent]
  obtain ⟨p, hp, hregs⟩ := markDirty_pair [ctxGranule c] (s.modRing (fun r =>
    { r with chain := sm3 (r.chain ++ ((r.assigned.filter fun a => commit || !a.1).map (·.2)).flatten),
             assigned := r.assigned.filter fun a => !(commit || !a.1) }) c)
  rw [setRing, chainDirty, hp] at hring hlength ⊢
  exact ⟨rfl, rfl, rfl, rfl, rfl, rfl, rfl, hregs, hlength, by rw [hring]⟩

theorem recordLost_congr {c : CtxNo} {s t : State} (h : ChainKeeps c s t) : recordLost t c = recordLost s c := by
  have hring := h.ring
  generalize (t.ring c).chain = x at hring
  generalize (t.ring c).assigned = y at hring
  simp only [recordLost, State.held, State.leads, State.follows, lacksSession, srFull, srWaiting, ctx_congr h.ctxs, h.regs, h.ports, hring]

theorem entryCancelled_congr {s t : State} (hrows : t.rows = s.rows) (hlive : t.live = s.live) (c : CtxNo) (e : Bytes) :
    entryCancelled t c e = entryCancelled s c e := by
  simp only [entryCancelled, State.liveWord, hrows, hlive]

theorem cancelRows_none {c : CtxNo} {rec : Bytes} {s : State} (h : ∀ x ∈ recordRows rec, entryCancelled s c x.2 = false) :
    cancelRows c rec s = (rec, s) := by
  have hnothing : (recordRows rec).filter (fun x => entryCancelled s c x.2) = [] := List.filter_eq_nil_iff.mpr fun x hx => by simp [h x hx]
  rw [cancelRows, hnothing]
  rfl

/-- What a record leaves in its context's ring group. -/
structure Commits (s t : State) (c : CtxNo) (b : Bytes) (lost : Bool) (old : List Committed) (e : Committed) : Prop where
  committed : (t.ring c).committed = old ++ [e]
  kept : ∀ y ∈ old, y ∈ (s.ring c).committed
  bead : e.bead = s.bead
  step : e.step = leAt b 8 8
  record : e.record = overlay b 0x10 (leBytes 8 s.bead)
  signet : e.signet = none
  delivered : e.delivered = false
  marked : e.lost = lost
  gap : e.gap = if lost then 0 else (s.ring c).gap
  ringGap : (t.ring c).gap = if lost then (s.ring c).gap + 1 else 0
  srGap : (t.ring c).srGap = if lost then (s.ring c).srGap + 1 else (s.ring c).srGap
  store : t.store = s.store
  effects : t.effects = s.effects

/-- The loss of a record, or its delivery to come, in the ring group's counts. -/
theorem countRecord_ring {c : CtxNo} {s : State} (hc : c < s.rings.length) (lost : Bool) :
    (if lost then loseRecord c s else s.modRing (fun r => { r with gap := 0 }) c).ring c =
      { s.ring c with gap := if lost then (s.ring c).gap + 1 else 0,
                      srGap := if lost then (s.ring c).srGap + 1 else (s.ring c).srGap } := by
  cases lost with
  | true => exact (State.modRing_ring ..).trans (if_pos ⟨rfl, hc⟩)
  | false => exact (State.modRing_ring ..).trans (if_pos ⟨rfl, hc⟩)

theorem countRecord_fields (c : CtxNo) (s : State) (lost : Bool) :
    (if lost then loseRecord c s else s.modRing (fun r => { r with gap := 0 }) c).bead = s.bead ∧
      (if lost then loseRecord c s else s.modRing (fun r => { r with gap := 0 }) c).rings.length = s.rings.length ∧
      (if lost then loseRecord c s else s.modRing (fun r => { r with gap := 0 }) c).store = s.store ∧
      (if lost then loseRecord c s else s.modRing (fun r => { r with gap := 0 }) c).effects = s.effects := by
  cases lost with
  | true => exact ⟨rfl, modifyAt_length .., rfl, rfl⟩
  | false => exact ⟨rfl, modifyAt_length .., rfl, rfl⟩

/-- A whole record without a cancelled row is committed. -/
theorem commitRecord_commits {s : State} {c : CtxNo} {b : Bytes} {lost : Bool} (hc : c < s.rings.length) (hlen : leAt b 0x24 4 = b.length)
    (hfit : b.length + (if (s.ctx c).sec.session.isSome then 16 else 0) ≤ srSlot (s.ring c).srCtl)
    (hrows : ∀ x ∈ recordRows b, entryCancelled s c x.2 = false) (hlost : recordLost s c = lost) :
    ∃ old e, Commits s (commitRecord c b s) c b lost old e := by
  have hkeeps := chainEvent_keeps hc true
  have hrejected : decide (b.length ≠ leAt b 0x24 4 ∨ srSlot (s.ring c).srCtl - (if (s.ctx c).sec.session.isSome then 16 else 0) < b.length) = false :=
    decide_eq_false (by rw [hlen]; omega)
  have hcancel := cancelRows_none (c := c) (s := chainEvent true c s) (rec := b) fun x hx =>
    (entryCancelled_congr hkeeps.rows hkeeps.live ..).trans (hrows x hx)
  have hlost' := (recordLost_congr hkeeps).trans hlost
  rw [commitRecord]
  rw [hrejected, if_neg Bool.false_ne_true, if_neg Bool.false_ne_true, hcancel, hlost', Bool.false_or]
  generalize chainEvent true c s = t at hkeeps
  have hct : c < t.rings.length := by rw [hkeeps.rings]; exact hc
  have hcount := countRecord_ring hct lost
  obtain ⟨hbead, hlength, hstore, heffects⟩ := countRecord_fields c t lost
  have hgap : (t.ring c).gap = (s.ring c).gap := by rw [hkeeps.ring]
  have hsrGap : (t.ring c).srGap = (s.ring c).srGap := by rw [hkeeps.ring]
  have hcommitted : (t.ring c).committed = (s.ring c).committed := by rw [hkeeps.ring]
  generalize (if lost then loseRecord c t else t.modRing (fun r => { r with gap := 0 }) c) = v at hcount hbead hlength hstore heffects
  have hcv : c < v.rings.length := by rw [hlength]; exact hct
  have hring (f : Ring → Ring) : (v.modRing f c).ring c = f (v.ring c) := (State.modRing_ring f c c v).trans (if_pos ⟨rfl, hcv⟩)
  refine ⟨_, _, congrArg Ring.committed (hring _), fun y hy => ?_, hkeeps.bead, rfl, ?_, rfl, rfl, rfl, ?_, ?_, ?_,
    hstore.trans hkeeps.store, heffects.trans hkeeps.effects⟩
  · have hmem := (List.mem_filter.mp hy).1
    rw [hcount] at hmem
    exact hcommitted ▸ hmem
  · exact congrArg (fun n => overlay b 0x10 (leBytes 8 n)) hkeeps.bead
  · exact congrArg (fun g : Word => if lost then 0 else g) hgap
  · rw [hring, hcount, hgap]
  · rw [hring, hcount, hsrGap]

/-! ## The cues -/

/-- A record's first piece, where none is gathered. -/
theorem doSrecPut_first {s : State} {u : UnitNo} {i : Issue} {f : PortFields} {b : Bytes} (hfirst : f.param.getLsbD 0 = true)
    (hbad : s.bad = []) (hb : portRead s u (portOff s i f) (portBytes f) = some b) (hgather : (s.ring i.ctx).gather = none) :
    doSrecPut u i f s =
      if f.param.getLsbD 1 then commitRecord i.ctx b (s.modRing (fun r => { r with gather := none }) i.ctx)
      else s.modRing (fun r => { r with gather := some b }) i.ctx := by
  have hue : portUe u (portOff s i f) (portBytes f) s = s := unitUe_none hbad ..
  rw [doSrecPut]
  dsimp only
  rw [hb]
  dsimp only
  rw [hue, hfirst, hgather]
  cases f.param.getLsbD 1 with
  | true => rfl
  | false => rfl

/-- A bead's ring write within the port's buffer. -/
theorem portWrite_makes {s t : State} {u : UnitNo} {i : Issue} {off : Int} {bs : Bytes} (hbead : t.bead = s.bead)
    (heffects : t.effects = s.effects) (h : 0 ≤ off ∧ off + bs.length ≤ 262144) :
    makes 1 u i (.bytes [(unitKey u off.toNat, bs)]) s (portWrite u i.ctx off bs t) := by
  rw [portWrite_some h, makes, ← hbead, ← heffects]
  rfl

theorem portWrite_fields (u : UnitNo) (c : CtxNo) (off : Int) (bs : Bytes) (s : State) :
    (portWrite u c off bs s).rings = s.rings ∧ (portWrite u c off bs s).store = s.store ∧ (portWrite u c off bs s).ctxs = s.ctxs ∧
      (portWrite u c off bs s).events = s.events ∧ (portWrite u c off bs s).live = s.live := by
  unfold portWrite
  split
  · exact ⟨rfl, rfl, rfl, rfl, rfl⟩
  · exact ⟨rfl, rfl, rfl, rfl, rfl⟩

/-- The bytes of RQ_TAKE fit its length. -/
theorem rqTake_length (a b : Nat) (q : List Bytes) :
    (leBytes 4 a ++ leBytes 4 b ++ zeros 24 ++ (q.map fun e => slice e 0 64).flatten).length = 32 + q.length * 64 := by
  have hflat := flatten_length_of_all (l := q.map fun e => slice e 0 64) (n := 64) fun x hx => by
    obtain ⟨e, -, rfl⟩ := List.mem_map.mp hx
    exact slice_length ..
  simp only [List.length_append, leBytes_length, zeros_length, hflat, List.length_map]

/-- Settles O46: the ring group by `modRing_ring`, the committed record by `commitRecord_commits`. -/
theorem hostPortActs : Obligations.HostPortActs := by
  refine ⟨?take, ?liveSet, ?liveClr, ?stateGet, ?commit, ?gather⟩
  case take =>
    intro s u i f n h hcue hkind hpop hc hoff hfit hn
    refine (answers_iff rfl).mpr ?_
    rw [onIssue_begun u _ s i (doRqTake u i f) h (portCue_same hcue hkind hpop)]
    have hcount : min (((done u s).ring i.ctx).queue).length ((portBytes f - 32) / 64) = n := hn.symm
    rw [doRqTake]
    rw [hcount]
    have hbytes : 32 ≤ portBytes f := by rw [portBytes]; omega
    have hlen := rqTake_length n ((s.ring i.ctx).queue.length - n) ((s.ring i.ctx).queue.take n)
    rw [List.length_take] at hlen
    obtain ⟨hrings, hstore, hctxs, hevents, -⟩ := portWrite_fields u i.ctx (portOff (done u s) i f)
      (leBytes 4 n ++ leBytes 4 (((done u s).ring i.ctx).queue.length - n) ++ zeros 24 ++
        ((((done u s).ring i.ctx).queue.take n).map fun e => slice e 0 64).flatten)
      ((done u s).modRing (fun r => { r with queue := r.queue.drop n }) i.ctx)
    refine ⟨?_, portWrite_makes (s := s) rfl rfl ⟨hoff, ?_⟩, hstore, hctxs, hevents⟩
    · rw [State.ring, hrings]
      exact congrArg Ring.queue ((State.modRing_ring _ i.ctx i.ctx (done u s)).trans (if_pos ⟨rfl, hc⟩))
    · rw [hlen]
      refine le_trans ?_ hfit
      omega
  case liveSet =>
    intro s u i f b h hcue hkind hpop hbad hb
    refine (answers_iff rfl).mpr ?_
    have hb' : portRead (done u s) u (portOff (done u s) i f) 256 = some b := hb
    have hue : portUe u (portOff (done u s) i f) 256 (done u s) = done u s := unitUe_none (s := done u s) hbad ..
    rw [onIssue_begun u _ s i (doLiveSet u i f) h (portCue_same hcue hkind hpop), doLiveSet, hb']
    dsimp only
    rw [hue]
    exact ⟨rfl, rfl, rfl, rfl⟩
  case liveClr =>
    intro s u i f b h hcue hkind hpop hbad hb
    refine (answers_iff rfl).mpr ?_
    have hb' : portRead (done u s) u (portOff (done u s) i f) 4 = some b := hb
    have hue : portUe u (portOff (done u s) i f) 4 (done u s) = done u s := unitUe_none (s := done u s) hbad ..
    rw [onIssue_begun u _ s i (doLiveClr u i f) h (portCue_same hcue hkind hpop), doLiveClr, hb']
    dsimp only
    rw [hue]
    exact ⟨rfl, rfl, rfl, rfl⟩
  case stateGet =>
    intro s u i f l h hcue hkind hpop hl hoff hfit
    refine (answers_iff rfl).mpr ?_
    rw [onIssue_begun u _ s i (doStateGet u i f) h (portCue_same hcue hkind hpop)]
    have hl' : (done u s).liveWord (liveNo f) = l := hl
    rw [doStateGet]
    rw [hl']
    obtain ⟨-, hstore, -, -, hlive⟩ := portWrite_fields u i.ctx (portOff (done u s) i f)
      (leBytes 4 l.live.toNat ++ leBytes 4 l.cxl.toNat ++ leBytes 4 l.rep.toNat ++ zeros 20) (done u s)
    refine ⟨portWrite_makes (s := s) rfl rfl ⟨hoff, ?_⟩, hlive, hstore⟩
    simp only [List.length_append, leBytes_length, zeros_length]
    exact hfit
  case commit =>
    intro s u i f b lost h hcue hkind hpop hfirst hlast hbad hb hc hgather hlen hfit hrows hlost
    refine (answers_iff rfl).mpr ?_
    rw [onIssue_begun u _ s i (doSrecPut u i f) h (portCue_same hcue hkind hpop),
      doSrecPut_first (s := done u s) hfirst hbad hb hgather, if_pos hlast]
    have hring : ((done u s).modRing (fun r => { r with gather := none }) i.ctx).ring i.ctx = s.ring i.ctx := by
      refine ((State.modRing_ring _ i.ctx i.ctx (done u s)).trans (if_pos ⟨rfl, hc⟩)).trans ?_
      show ({ s.ring i.ctx with gather := none } : Ring) = s.ring i.ctx
      rw [← hgather]
    have hkeeps : ChainKeeps i.ctx s ((done u s).modRing (fun r => { r with gather := none }) i.ctx) :=
      ⟨rfl, rfl, rfl, rfl, rfl, rfl, rfl, rfl, modifyAt_length .., by rw [hring]⟩
    generalize (done u s).modRing (fun r => { r with gather := none }) i.ctx = t at hring hkeeps
    obtain ⟨old, e, hcommits⟩ := commitRecord_commits (s := t) (c := i.ctx) (b := b) (lost := lost) (by rw [hkeeps.rings]; exact hc) hlen
      (by rw [hring, ctx_congr hkeeps.ctxs]; exact hfit)
      (fun x hx => (entryCancelled_congr hkeeps.rows hkeeps.live ..).trans (hrows x hx)) ((recordLost_congr hkeeps).trans hlost)
    obtain ⟨hcommitted, hkept, hbead, hstep, hrecord, hsignet, hdelivered, hmarked, hgap, hringGap, hsrGap, hstore, heffects⟩ := hcommits
    rw [hring] at hkept hgap hringGap hsrGap
    rw [hkeeps.bead] at hbead hrecord
    exact ⟨old, e, hcommitted, hkept, hbead, hstep, hrecord, hsignet, hdelivered, hmarked, hgap, hringGap, hsrGap,
      hstore.trans hkeeps.store, heffects.trans hkeeps.effects⟩
  case gather =>
    intro s u i f b h hcue hkind hpop hfirst hlast hbad hb hc hgather
    refine (answers_iff rfl).mpr ?_
    rw [onIssue_begun u _ s i (doSrecPut u i f) h (portCue_same hcue hkind hpop),
      doSrecPut_first (s := done u s) hfirst hbad hb hgather, if_neg (by rw [hlast]; exact Bool.false_ne_true)]
    have hring := (State.modRing_ring (fun r => { r with gather := some b }) i.ctx i.ctx (done u s)).trans (if_pos ⟨rfl, hc⟩)
    exact ⟨congrArg Ring.gather hring, (congrArg Ring.committed hring :), rfl⟩

end Sys2Proof.Machine
end

section
/-! The Clasp ports (R252 to R280, R308). -/

namespace Sys2Proof.Machine

/-! ## One port -/

theorem modClasp_same {s : State} {p : Nat} (hp : p < s.clasps.length) (f : Clasp → Clasp) : (s.modClasp f p).clasp p = f (s.clasp p) :=
  (State.modClasp_clasp f p p s).trans (if_pos ⟨rfl, hp⟩)

theorem modClasp_other {s : State} {p q : Nat} (hq : q ≠ p) (f : Clasp → Clasp) : (s.modClasp f p).clasp q = s.clasp q :=
  (State.modClasp_clasp f p q s).trans (if_neg fun h => hq h.1)

/-- What events, Cast records and marks of the pair leave of the ports, the memories and the effects. -/
structure PortKeeps (s t : State) : Prop where
  clasps : t.clasps = s.clasps
  bead : t.bead = s.bead
  effects : t.effects = s.effects
  store : t.store = s.store
  lp4x : t.lp4x = s.lp4x
  eh : t.pair.regs.eh = s.pair.regs.eh
  log : LogFrom s t

theorem PortKeeps.refl (s : State) : PortKeeps s s := ⟨rfl, rfl, rfl, rfl, rfl, rfl, .refl s⟩

theorem PortKeeps.trans {s t u : State} (h : PortKeeps s t) (k : PortKeeps t u) : PortKeeps s u :=
  ⟨k.clasps.trans h.clasps, k.bead.trans h.bead, k.effects.trans h.effects, k.store.trans h.store, k.lp4x.trans h.lp4x,
    k.eh.trans h.eh, h.log.trans k.log⟩

theorem PortKeeps.clasp {s t : State} (h : PortKeeps s t) (p : Nat) : t.clasp p = s.clasp p := by rw [State.clasp, State.clasp, h.clasps]

theorem raiseAt_portKeeps (code : Nat) (ctx : Option CtxNo) (unit unit2 : Nat) (hold located : Bool) (arg : Bytes) (s : State) :
    PortKeeps s (raiseAt code ctx unit unit2 hold located arg s) := by
  have h := raiseAt_evFrame code ctx unit unit2 hold located arg s
  exact ⟨h.clasps, h.bead, h.effects, h.store, h.lp4x, by rw [h.regs], raiseAt_logFrom ..⟩

theorem raise_portKeeps (code : Nat) (arg : Bytes) (s : State) : PortKeeps s (raise code arg s) := raiseAt_portKeeps ..

theorem claspRaise_portKeeps (code p : Nat) (s : State) : PortKeeps s (claspRaise code p s) := raise_portKeeps ..

theorem castPut_portKeeps (type source ctx flags bead sub : Nat) (period : Word) (payload : Bytes) (s : State) :
    PortKeeps s (castPut type source ctx flags bead sub period payload s) := by
  obtain ⟨c, h⟩ := castPut_state type source ctx flags bead sub period payload s
  have hcast : PortKeeps s { s with cast := c } := ⟨rfl, rfl, rfl, rfl, rfl, rfl, .of_events rfl⟩
  rcases h with h | h
  · rw [h]
    exact hcast
  · rw [h]
    exact hcast.trans (raise_portKeeps ..)

theorem castInput_portKeeps (type source : Nat) (c : CtxNo) (sub : Nat) (payload : Bytes) (s : State) :
    PortKeeps s (castInput type source c sub payload s) := by
  unfold castInput
  split
  · exact castPut_portKeeps ..
  · exact .refl s

theorem chainDirty_portKeeps (c : CtxNo) (s : State) : PortKeeps s (chainDirty c s) := by
  obtain ⟨x, h, hregs⟩ := markDirty_pair [ctxGranule c] s
  rw [chainDirty, h]
  exact ⟨rfl, rfl, rfl, rfl, rfl, congrArg TwinRegs.eh hregs, .of_events rfl⟩

theorem mayDiverge_portKeeps (c : CtxNo) (s : State) : PortKeeps s (mayDiverge c s) := by
  unfold mayDiverge
  split
  · dsimp only
    split
    · exact ⟨rfl, rfl, rfl, rfl, rfl, rfl, .of_events rfl⟩
    · exact ⟨rfl, rfl, rfl, rfl, rfl, rfl, .of_events rfl⟩
  · exact .refl s

theorem diverge_portKeeps (c : CtxNo) (s : State) : PortKeeps s (diverge c s) := ⟨rfl, rfl, rfl, rfl, rfl, rfl, .of_events rfl⟩

theorem foldl_diverge_portKeeps (l : List CtxNo) (s : State) : PortKeeps s (l.foldl (fun t c => diverge c t) s) := by
  induction l generalizing s with
  | nil => exact .refl s
  | cons c l ih => exact PortKeeps.trans (diverge_portKeeps c s) (ih _)

theorem modOver_portKeeps (f : TwinOver → TwinOver) (s : State) : PortKeeps s (s.modOver f) :=
  ⟨rfl, rfl, rfl, rfl, rfl, rfl, .of_events rfl⟩

theorem modTwin_portKeeps {f : TwinRegs → TwinRegs} {s : State} (h : (f s.pair.regs).eh = s.pair.regs.eh) : PortKeeps s (s.modTwin f) :=
  ⟨rfl, rfl, rfl, rfl, rfl, h, .of_events rfl⟩

/-! ## A frame that arrives -/

/-- EH takes the epoch that a port reports; the rest is the pair's. -/
theorem epochReported_keeps (e : Word) (s : State) :
    PortKeeps (s.modTwin fun t => { t with eh := some (epochMax t.eh e) }) (epochReported e s) := by
  unfold epochReported
  extract_lets rises s1 s2 later
  have h2 : PortKeeps s1 s2 := by
    simp only [s2]
    split
    · exact modOver_portKeeps _ s1
    · exact .refl s1
  clear_value s2
  split
  · split
    · refine PortKeeps.trans ?_ (raise_portKeeps ..)
      refine PortKeeps.trans ?_ (foldl_diverge_portKeeps ..)
      refine h2.trans (PortKeeps.trans ?_ (modOver_portKeeps ..))
      exact modTwin_portKeeps rfl
    · split
      · exact h2
      · refine PortKeeps.trans ?_ (raise_portKeeps ..)
        refine h2.trans (PortKeeps.trans ?_ (modOver_portKeeps ..))
        exact modTwin_portKeeps rfl
  · exact h2

/-- The port after a good frame. -/
def tookFrame (f : ClaspArrival) (c : Clasp) : Clasp :=
  { c with good := c.good + 1, arr := arrWord f.arrTenths, lastSeq := some (frameSeq f.body), frame := some (f.body, f.arrTenths),
           lastArr := some f.arrTenths, sinceGood := 0, epochSeen := some (BitVec.ofNat 32 (leAt f.body 8 4)),
           gap := match c.lastSeq with | some l => if (frameSeq f.body - l).toNat = 1 then c.gap else c.gap + 1 | none => c.gap }

/-- What a good frame leaves: the port with it, its event where it came near the window's end, its epoch where the port is UP. -/
theorem frameGood_keeps {p : Nat} {f : ClaspArrival} {s : State} (hp : p < s.clasps.length) :
    (frameGood p f s).clasp p = tookFrame f (s.clasp p) ∧
      (frameGood p f s).pair.regs.eh = (if (s.clasp p).state = .up then
        some (epochMax s.pair.regs.eh (BitVec.ofNat 32 (leAt f.body 8 4))) else s.pair.regs.eh) ∧
      (3320 < f.arrTenths.natAbs → raised evClaspMargin s (frameGood p f s)) ∧ (frameGood p f s).store = s.store ∧
      (frameGood p f s).lp4x = s.lp4x := by
  unfold frameGood
  extract_lets q s1 s2
  have hport : s1.clasp p = tookFrame f (s.clasp p) := modClasp_same hp _
  have h2 : PortKeeps s1 s2 ∧ (3320 < f.arrTenths.natAbs → raised evClaspMargin s s2) := by
    simp only [s2]
    split
    · exact ⟨claspRaise_portKeeps .., fun _ => raised_raise_of rfl rfl⟩
    · next hnear => exact ⟨.refl s1, fun h => absurd h hnear⟩
  obtain ⟨hkeeps, hmargin⟩ := h2
  have hport2 : s2.clasp p = tookFrame f (s.clasp p) := (hkeeps.clasp p).trans hport
  have hstate : (s2.clasp p).state = (s.clasp p).state := (congrArg Clasp.state hport2 :)
  have heh : s2.pair.regs.eh = s.pair.regs.eh := hkeeps.eh
  have hstore : s2.store = s.store := hkeeps.store
  have hlp4x : s2.lp4x = s.lp4x := hkeeps.lp4x
  clear_value s1 s2
  rw [hstate]
  by_cases hup : (s.clasp p).state = .up
  · rw [if_pos hup, if_pos hup]
    have hepoch := epochReported_keeps (BitVec.ofNat 32 (leAt f.body 8 4)) s2
    refine ⟨(hepoch.clasp p).trans hport2, hepoch.eh.trans ?_, fun h => (hmargin h).later ?_, hepoch.store.trans hstore, hepoch.lp4x.trans hlp4x⟩
    · exact congrArg (fun x => some (epochMax x _)) heh
    · exact LogFrom.trans (.of_events rfl) hepoch.log
  · rw [if_neg hup, if_neg hup]
    exact ⟨hport2, heh, hmargin, hstore, hlp4x⟩

/-- What a bad frame leaves. -/
structure BadFrame (s t : State) (p : Nat) : Prop where
  frame : (t.clasp p).frame = (s.clasp p).frame
  good : (t.clasp p).good = (s.clasp p).good
  bad : (t.clasp p).bad = (s.clasp p).bad + 1
  lastSeq : (t.clasp p).lastSeq = (s.clasp p).lastSeq
  eh : t.pair.regs.eh = s.pair.regs.eh

/-- The block grids follow a frame; nothing else of the port does. -/
theorem claspGrid_fields (s : State) (arr : Int) (c : Clasp) :
    (claspGrid s arr c).frame = c.frame ∧ (claspGrid s arr c).good = c.good ∧ (claspGrid s arr c).bad = c.bad ∧
      (claspGrid s arr c).lastSeq = c.lastSeq ∧ (claspGrid s arr c).state = c.state ∧ (claspGrid s arr c).mode = c.mode ∧
      (claspGrid s arr c).aligned = c.aligned ∧
      (claspGrid s arr c).slip = if c.mode = 2 ∧ c.state ≠ .up then 0 else slipOf c.grid (receivePhase s c arr) := by
  unfold claspGrid
  split
  · exact ⟨rfl, rfl, rfl, rfl, rfl, rfl, rfl, rfl⟩
  · exact ⟨rfl, rfl, rfl, rfl, rfl, rfl, rfl, rfl⟩

theorem frameBad_after {s : State} {p : Nat} {arr : Int} (hp : p < s.clasps.length) :
    BadFrame s (frameBad p (s.modClasp (claspGrid s arr) p)) p := by
  have hgrid : (s.modClasp (claspGrid s arr) p).clasp p = claspGrid s arr (s.clasp p) := modClasp_same hp _
  have hbad : (frameBad p (s.modClasp (claspGrid s arr) p)).clasp p = { claspGrid s arr (s.clasp p) with bad := (claspGrid s arr (s.clasp p)).bad + 1 } := by
    rw [frameBad, modClasp_same (by simpa using hp), hgrid]
  obtain ⟨hframe, hgood, hbad', hseq, -⟩ := claspGrid_fields s arr (s.clasp p)
  exact ⟨by rw [hbad]; exact hframe, by rw [hbad]; exact hgood, by rw [hbad]; exact congrArg (· + 1) hbad', by rw [hbad]; exact hseq, rfl⟩

theorem claspReceive_open {s : State} {p : Nat} {f : ClaspArrival} (hp : p < 4) (hen : claspEnabled s p = true)
    (hlock : (s.clasp p).blockLock = true) (hreplay : s.cast.replay = false) :
    claspReceive p f s =
      if frameWhole f = false ∨ frameKind f.body = false then frameBad p (s.modClasp (claspGrid s f.arrTenths) p)
      else if framePort f.body p = false then claspRaise evClaspWiring p (frameBad p (s.modClasp (claspGrid s f.arrTenths) p))
      else if frameFits (s.modClasp (claspGrid s f.arrTenths) p) ((s.modClasp (claspGrid s f.arrTenths) p).clasp p) f then
        frameGood p f (s.modClasp (claspGrid s f.arrTenths) p)
      else frameBad p (s.modClasp (claspGrid s f.arrTenths) p) := by
  rw [claspReceive, if_neg (by simp [hen, hlock, hreplay]; omega)]

/-- The last checks of Table 9-11, from the port as it was. -/
theorem frameFits_grid {s : State} {p : Nat} {f : ClaspArrival} (hp : p < s.clasps.length) :
    frameFits (s.modClasp (claspGrid s f.arrTenths) p) ((s.modClasp (claspGrid s f.arrTenths) p).clasp p) f =
      (frameNewer (s.clasp p) f.body && framePeriod s (s.clasp p) f.body && frameInTime f.arrTenths
        && decide ((if (s.clasp p).mode = 2 ∧ (s.clasp p).state ≠ .up then 0
          else slipOf (s.clasp p).grid (receivePhase s (s.clasp p) f.arrTenths)) = 0) && (s.clasp p).frame.isNone) := by
  obtain ⟨hframe, -, -, hseq, -, hmode, haligned, hslip⟩ := claspGrid_fields s f.arrTenths (s.clasp p)
  rw [modClasp_same hp]
  simp only [frameFits, frameNewer, framePeriod, hframe, hseq, hmode, haligned, hslip]
  rfl

/-- Settles O47: the good frame by `frameGood_keeps`, the bad one by the check that it fails. -/
theorem claspReceives : Obligations.ClaspReceives := by
  refine ⟨?good, ?bad, ?gain, ?loss⟩
  case good =>
    intro s p a hp hlen hen hlock hreplay hwhole hkind hport hnewer hperiod htime hslip hframe
    refine (answers_iff rfl).mpr ?_
    have hp' : p < s.clasps.length := by omega
    have hslip' : (if (s.clasp p).mode = 2 ∧ (s.clasp p).state ≠ .up then 0
        else slipOf (s.clasp p).grid (receivePhase s (s.clasp p) a.arrTenths)) = 0 := by
      rcases hslip with h | h
      · exact if_pos h
      · rw [h, ite_self]
    have hfits : frameFits (s.modClasp (claspGrid s a.arrTenths) p) ((s.modClasp (claspGrid s a.arrTenths) p).clasp p) a = true := by
      rw [frameFits_grid hp', hnewer, hperiod, htime, hslip', hframe]
      rfl
    rw [claspReceive_open hp hen hlock hreplay, if_neg (by simp [hwhole, hkind]), if_neg (by simp [hport]), if_pos hfits]
    obtain ⟨hgridFrame, hgood, hbad, hseq, hstate, -, -, hgridSlip⟩ := claspGrid_fields s a.arrTenths (s.clasp p)
    obtain ⟨hport', heh, hmargin, hstore, hlp4x⟩ := frameGood_keeps (p := p) (f := a) (s := s.modClasp (claspGrid s a.arrTenths) p) (by simpa using hp')
    rw [modClasp_same hp'] at hport' heh
    rw [hstate] at heh
    rw [hport']
    refine ⟨rfl, congrArg (· + 1) hgood, hbad, rfl, rfl, hgridSlip.trans hslip', rfl, heh, hmargin, hstore, hlp4x⟩
  case bad =>
    intro s p a hp hlen hen hlock hreplay hfails
    refine (answers_iff rfl).mpr ?_
    have hp' : p < s.clasps.length := by omega
    obtain ⟨hframe, hgood, hbad, hseq, heh⟩ := frameBad_after (p := p) (arr := a.arrTenths) hp'
    rw [claspReceive_open hp hen hlock hreplay]
    by_cases hshape : frameWhole a = false ∨ frameKind a.body = false
    · rw [if_pos hshape]
      refine ⟨hframe, hgood, hbad, hseq, heh, fun hwhole hkind _ => ?_⟩
      simp [hwhole, hkind] at hshape
    · rw [if_neg hshape]
      by_cases hport : framePort a.body p = false
      · rw [if_pos hport]
        have hkeeps := claspRaise_portKeeps evClaspWiring p (frameBad p (s.modClasp (claspGrid s a.arrTenths) p))
        rw [hkeeps.clasp, hkeeps.eh]
        exact ⟨hframe, hgood, hbad, hseq, heh, fun _ _ _ => raised_raise_of rfl rfl⟩
      · have hfits : frameFits (s.modClasp (claspGrid s a.arrTenths) p) ((s.modClasp (claspGrid s a.arrTenths) p).clasp p) a = false := by
          rw [frameFits_grid hp']
          simp only [not_or, Bool.not_eq_false] at hshape hport
          obtain ⟨hwhole, hkind⟩ := hshape
          rcases hfails with h | h | h | h | h | h | ⟨hmode, h⟩ | h
          · simp [hwhole] at h
          · simp [hkind] at h
          · simp [hport] at h
          · simp [h]
          · simp [h]
          · simp [h]
          · simp [if_neg hmode, h]
          · simp [Option.isNone_eq_false_iff.mpr h]
        rw [if_neg hport, hfits, if_neg Bool.false_ne_true]
        exact ⟨hframe, hgood, hbad, hseq, heh, fun _ _ h => absurd h hport⟩
  case gain =>
    intro s p h hp hlen hen hcount hvalid
    refine (answers_iff rfl).mpr ?_
    have hall : (h.take 64).all headerValid = true := List.all_eq_true.mpr fun x hx => decide_eq_true (hvalid x hx)
    rw [lockGain, if_pos ⟨hp, hen, hcount, hall⟩, modClasp_same (by omega)]
    exact ⟨rfl, fun q hq => modClasp_other hq _, rfl⟩
  case loss =>
    intro s p h hp hlen hcount
    refine (answers_iff rfl).mpr ?_
    have hbad : (h.take 64).filter (fun x => !headerValid x) = (h.take 64).filter fun x => decide (x ≠ 1 ∧ x ≠ 2) :=
      List.filter_congr fun x _ => by simp [headerValid]
    rw [lockLoss, hbad, if_pos ⟨hp, hcount⟩, modClasp_same (by omega)]
    exact ⟨rfl, fun q hq => modClasp_other hq _, rfl⟩

end Sys2Proof.Machine
end

section
/-! The Clasp latch and the cues of a port (R264, R272, R273, R275, R279, R280, R354). -/

namespace Sys2Proof.Machine

/-! ## The period is counted -/

/-- The period of a port is good. -/
def goodPeriod (c : Clasp) : Bool := c.frame.isSome && c.blockLock && !(decide (c.mode = 2 ∧ 2 ≤ c.offWindows) && !c.lockSrc)

/-- A port with its period counted. -/
def counted (s : State) (c : Clasp) : Clasp :=
  { c with periods := c.periods + 1, goodRun := if goodPeriod c then min 64 (c.goodRun + 1) else 0,
           badRun := if goodPeriod c then 0 else min 4 (c.badRun + 1), transitions := recentTransitions s c }

/-- The ninth change in 60 s. -/
def flaps (s : State) (c : Clasp) : Bool :=
  decide (8 ≤ (c.transitions.filter fun t => decide (c.periods + 1 < t + 60000 * s.rate)).length)

/-- The state to which the latch takes a port, by its runs. -/
def latchState (c : Clasp) (g b : Nat) (flap : Bool) : ClaspState :=
  match c.state with
  | .disabled => .training
  | .training => if 64 ≤ g ∧ c.alignFailed = false then if flap then .held else .up else .training
  | .up => if 4 ≤ b then if flap then .held else .training else .up
  | .held => if c.releaseDue then .training else .held

theorem recentTransitions_counted {s t : State} (hrate : t.rate = s.rate) (c : Clasp) :
    recentTransitions t (counted s c) = c.transitions.filter fun x => decide (c.periods + 1 < x + 60000 * s.rate) := by
  simp only [recentTransitions, counted, List.filter_filter, hrate]
  refine List.filter_congr fun x _ => ?_
  rw [← Bool.decide_and]
  exact decide_eq_decide.mpr ⟨fun h => h.1, fun h => ⟨h, by omega⟩⟩

/-- What the latch's count leaves of everything but its port. -/
structure LatchKeeps (s t : State) : Prop where
  bead : t.bead = s.bead
  effects : t.effects = s.effects
  store : t.store = s.store
  replay : t.cast.replay = s.cast.replay
  ports : t.clasps.length = s.clasps.length
  log : LogFrom s t

theorem LatchKeeps.trans {s t u : State} (h : LatchKeeps s t) (k : LatchKeeps t u) : LatchKeeps s u :=
  ⟨k.bead.trans h.bead, k.effects.trans h.effects, k.store.trans h.store, k.replay.trans h.replay, k.ports.trans h.ports, h.log.trans k.log⟩

theorem LatchKeeps.refl (s : State) : LatchKeeps s s := ⟨rfl, rfl, rfl, rfl, rfl, .refl s⟩

theorem modClasp_latchKeeps (f : Clasp → Clasp) (p : Nat) (s : State) : LatchKeeps s (s.modClasp f p) :=
  ⟨rfl, rfl, rfl, rfl, modifyAt_length .., .of_events rfl⟩

theorem raiseAt_latchKeeps (code : Nat) (ctx : Option CtxNo) (unit unit2 : Nat) (hold located : Bool) (arg : Bytes) (s : State) :
    LatchKeeps s (raiseAt code ctx unit unit2 hold located arg s) := by
  have h := raiseAt_evFrame code ctx unit unit2 hold located arg s
  exact ⟨h.bead, h.effects, h.store, by rw [h.cast], by rw [h.clasps], raiseAt_logFrom ..⟩

theorem claspRaise_latchKeeps (code p : Nat) (s : State) : LatchKeeps s (claspRaise code p s) := by
  unfold claspRaise raise
  exact raiseAt_latchKeeps ..

/-- An event of a port and its owner: it is logged, and the ports stay. -/
theorem claspRaiseOwner_keeps (code p : Nat) (s : State) :
    (claspRaiseOwner code p s).clasps = s.clasps ∧ LatchKeeps s (claspRaiseOwner code p s) ∧ raised code s (claspRaiseOwner code p s) := by
  unfold claspRaiseOwner
  dsimp only
  split
  · exact ⟨(raise_evFrame ..).clasps, raiseAt_latchKeeps .., raised_raise_of rfl rfl⟩
  · exact ⟨(raiseAt_evFrame ..).clasps, raiseAt_latchKeeps .., raised_raiseAt_of rfl rfl⟩

/-- What a change of state leaves of the port. -/
structure PortCounts (c d : Clasp) : Prop where
  frame : d.frame = c.frame
  blockLock : d.blockLock = c.blockLock
  periods : d.periods = c.periods
  badRun : d.badRun = c.badRun
  goodRun : d.goodRun = c.goodRun

theorem claspChange_result {s : State} {p : Nat} (hp : p < s.clasps.length) (next : ClaspState) :
    PortCounts (s.clasp p) ((claspChange p next s).clasp p) ∧
      ((claspChange p next s).clasp p).state = (if 8 ≤ (recentTransitions s (s.clasp p)).length then .held else next) ∧
      LatchKeeps s (claspChange p next s) ∧
      (8 ≤ (recentTransitions s (s.clasp p)).length → raised evClaspFlap s (claspChange p next s)) ∧
      (¬ 8 ≤ (recentTransitions s (s.clasp p)).length → raised (if next = .up then evClaspUp else evClaspDown) s (claspChange p next s)) := by
  unfold claspChange
  extract_lets c recent s1
  split
  · next hflap =>
    generalize hf : (fun c : Clasp => { c with state := .held, transitions := recent }) = f
    have hclasps := (claspRaise_portKeeps evClaspFlap p (s.modClasp f p)).clasp p
    rw [modClasp_same hp] at hclasps
    rw [hclasps, ← hf]
    exact ⟨⟨rfl, rfl, rfl, rfl, rfl⟩, rfl, (modClasp_latchKeeps ..).trans (claspRaise_latchKeeps ..), fun _ => raised_raise_of rfl rfl,
      fun h => absurd hflap h⟩
  · next hcalm =>
    obtain ⟨hclasps, hkeeps, hraised⟩ := claspRaiseOwner_keeps (if next = .up then evClaspUp else evClaspDown) p s1
    have hport : (claspRaiseOwner (if next = .up then evClaspUp else evClaspDown) p s1).clasp p = s1.clasp p := by
      rw [State.clasp, hclasps]
      rfl
    have hs1 : s1.clasp p = { c with state := next, transitions := c.periods :: recent,
                                     lastSeq := if next = .training then none else c.lastSeq } := modClasp_same hp _
    rw [hport, hs1]
    exact ⟨⟨rfl, rfl, rfl, rfl, rfl⟩, rfl, (modClasp_latchKeeps ..).trans hkeeps, fun h => absurd h hcalm, fun _ => hraised⟩

/-- What counting a period leaves. -/
structure LatchResult (s t : State) (p g b : Nat) (flap : Bool) : Prop where
  frame : (t.clasp p).frame = (s.clasp p).frame
  blockLock : (t.clasp p).blockLock = (s.clasp p).blockLock
  periods : (t.clasp p).periods = (s.clasp p).periods + 1
  badRun : (t.clasp p).badRun = b
  goodRun : (s.clasp p).state ≠ .held → (t.clasp p).goodRun = g
  state : (t.clasp p).state = latchState (s.clasp p) g b flap
  up : (s.clasp p).state = .training → latchState (s.clasp p) g b flap = .up → raised evClaspUp s t
  down : (s.clasp p).state = .up → latchState (s.clasp p) g b flap = .training → raised evClaspDown s t
  flapped : (s.clasp p).state ≠ .held → latchState (s.clasp p) g b flap = .held → raised evClaspFlap s t
  keeps : LatchKeeps s t

/-- A count whose change of state, if any, leaves the runs. -/
theorem LatchResult.of_counts {s t : State} {p g b : Nat} {flap : Bool} (h : PortCounts (counted s (s.clasp p)) (t.clasp p))
    (hg : (counted s (s.clasp p)).goodRun = g) (hb : (counted s (s.clasp p)).badRun = b)
    (hstate : (t.clasp p).state = latchState (s.clasp p) g b flap)
    (hup : (s.clasp p).state = .training → latchState (s.clasp p) g b flap = .up → raised evClaspUp s t)
    (hdown : (s.clasp p).state = .up → latchState (s.clasp p) g b flap = .training → raised evClaspDown s t)
    (hflapped : (s.clasp p).state ≠ .held → latchState (s.clasp p) g b flap = .held → raised evClaspFlap s t)
    (hkeeps : LatchKeeps s t) : LatchResult s t p g b flap :=
  ⟨h.frame, h.blockLock, h.periods, h.badRun.trans hb, fun _ => h.goodRun.trans hg, hstate, hup, hdown, hflapped, hkeeps⟩

theorem PortCounts.refl (c : Clasp) : PortCounts c c := ⟨rfl, rfl, rfl, rfl, rfl⟩

/-- An event since a state is one since the state before it, whose log and bead the first goes on from. -/
theorem raised.since {code : Nat} {s t u : State} (h : raised code t u) (k : LatchKeeps s t) : raised code s u := by
  obtain ⟨new, hnew, r, hr, hcode, hbead⟩ := h
  obtain ⟨more, hmore⟩ := k.log
  exact ⟨new ++ more, by rw [hnew, hmore, List.append_assoc], r, List.mem_append_left _ hr, hcode, hbead.trans k.bead⟩

/-- A change of state of a port whose period has been counted. -/
theorem LatchResult.of_change {s s1 : State} {p g b : Nat} {flap : Bool} {next : ClaspState} (hp : p < s1.clasps.length)
    (hport : s1.clasp p = counted s (s.clasp p)) (hkeeps : LatchKeeps s s1)
    (hrecent : decide (8 ≤ (recentTransitions s1 (s1.clasp p)).length) = flap) (hg : (counted s (s.clasp p)).goodRun = g)
    (hb : (counted s (s.clasp p)).badRun = b) (hlatch : latchState (s.clasp p) g b flap = if flap then .held else next)
    (hnext : (s.clasp p).state = .training ∧ next = .up ∨ (s.clasp p).state = .up ∧ next = .training) :
    LatchResult s (claspChange p next s1) p g b flap := by
  obtain ⟨hcounts, hstate, hchange, hflapped, hraised⟩ := claspChange_result hp next
  rw [hport] at hcounts
  cases flap with
  | true =>
    have hmany := of_decide_eq_true hrecent
    rw [if_pos hmany] at hstate
    rw [if_pos rfl] at hlatch
    refine .of_counts hcounts hg hb (hstate.trans hlatch.symm) (fun _ h => ?_) (fun _ h => ?_) (fun _ _ => (hflapped hmany).since hkeeps)
      (hkeeps.trans hchange)
    · exact nomatch hlatch.symm.trans h
    · exact nomatch hlatch.symm.trans h
  | false =>
    have hfew := of_decide_eq_false hrecent
    rw [if_neg hfew] at hstate
    rw [if_neg Bool.false_ne_true] at hlatch
    have hevent := (hraised hfew).since hkeeps
    refine .of_counts hcounts hg hb (hstate.trans hlatch.symm) (fun _ h => ?_) (fun _ h => ?_) (fun _ h => ?_) (hkeeps.trans hchange)
    · obtain rfl : next = .up := hlatch.symm.trans h
      rw [if_pos rfl] at hevent
      exact hevent
    · obtain rfl : next = .training := hlatch.symm.trans h
      rw [if_neg (by decide)] at hevent
      exact hevent
    · have hheld : next = .held := hlatch.symm.trans h
      rcases hnext with ⟨-, hn⟩ | ⟨-, hn⟩
      · exact nomatch hn.symm.trans hheld
      · exact nomatch hn.symm.trans hheld

/-- What the latch's count leaves. -/
theorem claspCount_result {s : State} {p g b : Nat} {flap : Bool} (hp : p < s.clasps.length) (hen : claspEnabled s p = true)
    (hg : g = if goodPeriod (s.clasp p) then min 64 ((s.clasp p).goodRun + 1) else 0)
    (hb : b = if goodPeriod (s.clasp p) then 0 else min 4 ((s.clasp p).badRun + 1)) (hflap : flap = flaps s (s.clasp p)) :
    LatchResult s (claspCount p s) p g b flap := by
  unfold claspCount
  extract_lets c fallen good s1 c1
  have hport : s1.clasp p = counted s (s.clasp p) := modClasp_same hp _
  have hc1 : c1 = counted s (s.clasp p) := hport
  have hkeeps : LatchKeeps s s1 := modClasp_latchKeeps ..
  have hp1 : p < s1.clasps.length := by rw [hkeeps.ports]; exact hp
  have hen1 : claspEnabled s1 p = true := by
    rw [claspEnabled, hport]
    exact hen
  have hrecent : decide (8 ≤ (recentTransitions s1 (s1.clasp p)).length) = flap := by
    rw [hport, recentTransitions_counted (s := s) (t := s1) rfl, hflap]
    rfl
  rw [hc1]
  clear_value s1
  have hgoodRun : (counted s (s.clasp p)).goodRun = g := hg.symm
  have hbadRun : (counted s (s.clasp p)).badRun = b := hb.symm
  have hstays : PortCounts (counted s (s.clasp p)) (s1.clasp p) := by rw [hport]; exact .refl _
  cases hstate : (s.clasp p).state with
  | disabled =>
    have hcs : (counted s (s.clasp p)).state = .disabled := hstate
    have hlatch : latchState (s.clasp p) g b flap = .training := by rw [latchState, hstate]
    rw [hcs]
    dsimp only
    rw [if_pos hen1]
    have hfresh (f : Clasp → Clasp) : (s1.fresh.2.modClasp f p).clasp p = f (s1.clasp p) := modClasp_same (s := s1.fresh.2) hp1 f
    refine LatchResult.of_counts ?_ hgoodRun hbadRun ?_ (by simp [hstate]) (by simp [hstate]) (by simp [hlatch]) ?_
    · rw [hfresh, hport]
      exact ⟨rfl, rfl, rfl, rfl, rfl⟩
    · rw [hfresh, hlatch]
    · have hdrawn : LatchKeeps s1 s1.fresh.2 := ⟨rfl, rfl, rfl, rfl, rfl, .of_events rfl⟩
      exact (hkeeps.trans hdrawn).trans (modClasp_latchKeeps ..)
  | training =>
    have hcs : (counted s (s.clasp p)).state = .training := hstate
    have hlatch : latchState (s.clasp p) g b flap =
        if 64 ≤ g ∧ (s.clasp p).alignFailed = false then if flap then .held else .up else .training := by rw [latchState, hstate]
    rw [hcs, hgoodRun]
    dsimp only
    by_cases hrun : 64 ≤ g ∧ (s.clasp p).alignFailed = false
    · rw [if_pos hrun] at hlatch
      rw [if_pos (show 64 ≤ g ∧ (counted s (s.clasp p)).alignFailed = false from hrun)]
      exact .of_change hp1 hport hkeeps hrecent hgoodRun hbadRun hlatch (.inl ⟨hstate, rfl⟩)
    · rw [if_neg hrun] at hlatch
      rw [if_neg (show ¬ (64 ≤ g ∧ (counted s (s.clasp p)).alignFailed = false) from hrun)]
      refine .of_counts hstays hgoodRun hbadRun ?_ (by simp [hlatch]) (by simp [hstate]) (by simp [hlatch]) hkeeps
      rw [hport, hlatch]
      exact hcs
  | up =>
    have hcs : (counted s (s.clasp p)).state = .up := hstate
    have hlatch : latchState (s.clasp p) g b flap = if 4 ≤ b then if flap then .held else .training else .up := by rw [latchState, hstate]
    rw [hcs, hbadRun]
    dsimp only
    by_cases hrun : 4 ≤ b
    · rw [if_pos hrun] at hlatch
      rw [if_pos hrun]
      exact .of_change hp1 hport hkeeps hrecent hgoodRun hbadRun hlatch (.inr ⟨hstate, rfl⟩)
    · rw [if_neg hrun] at hlatch
      rw [if_neg hrun]
      refine .of_counts hstays hgoodRun hbadRun ?_ (by simp [hstate]) (by simp [hlatch]) (by simp [hlatch]) hkeeps
      rw [hport, hlatch]
      exact hcs
  | held =>
    have hcs : (counted s (s.clasp p)).state = .held := hstate
    have hlatch : latchState (s.clasp p) g b flap = if (s.clasp p).releaseDue then .training else .held := by rw [latchState, hstate]
    rw [hcs]
    dsimp only
    by_cases hrelease : (s.clasp p).releaseDue = true
    · rw [if_pos hrelease] at hlatch
      have hreleased (f : Clasp → Clasp) : (s1.modClasp f p).clasp p = f (s1.clasp p) := modClasp_same hp1 f
      rw [show (counted s (s.clasp p)).releaseDue = true from hrelease, if_pos rfl]
      refine ⟨?_, ?_, ?_, ?_, fun h => absurd hstate h, ?_, by simp [hstate], by simp [hstate], by simp [hstate],
        hkeeps.trans (modClasp_latchKeeps ..)⟩
      · rw [hreleased, hport]
        rfl
      · rw [hreleased, hport]
        rfl
      · rw [hreleased, hport]
        rfl
      · rw [hreleased, hport]
        exact hbadRun
      · rw [hreleased, hlatch]
    · rw [if_neg hrelease] at hlatch
      rw [if_neg (show ¬ (counted s (s.clasp p)).releaseDue = true from hrelease)]
      refine .of_counts hstays hgoodRun hbadRun ?_ (by simp [hstate]) (by simp [hstate]) (by simp [hstate]) hkeeps
      rw [hport, hlatch]
      exact hcs

/-! ## The latch -/

/-- The frame that the latch of a module that is not in replay mode takes from a port. -/
def latchBody (c : Clasp) : Option Bytes := if c.state = .up ∧ c.blockLock = true then c.frame.map (·.1) else none

/-- A port after its latch, with the owning context's number. -/
def latchedPort (o : CtxNo) (body : Option Bytes) (c : Clasp) : Clasp :=
  { c with latched := true, entry := crecvEntry body, entryGood := body.isSome, sinceGood := if c.frame.isSome then 0 else c.sinceGood + 1,
           chain := if o = 0 then c.chain else sm3 (c.chain ++ crecvEntry body) }

theorem claspLatch_due {s : State} {p : Nat} (hp : p < 4) (hen : claspEnabled s p = true) (hlatched : (s.clasp p).latched = false)
    (hdue : s.beadInRot = (s.clasp p).due + 1) (hreplay : (claspCount p s).cast.replay = false) :
    ∃ o, PortKeeps ((claspCount p s).modClasp (latchedPort o (latchBody ((claspCount p s).clasp p))) p) (claspLatch p s) := by
  rw [claspLatch, if_neg (by simp [hen, hlatched, hdue]; omega)]
  extract_lets s1 c o replayed body e s2
  have hbody : body = latchBody ((claspCount p s).clasp p) := if_neg (by rw [show replayed = false from hreplay]; exact Bool.false_ne_true)
  refine ⟨o, ?_⟩
  have hs2 : (claspCount p s).modClasp (latchedPort o body) p = s2 := rfl
  rw [← hbody, hs2]
  clear_value s2 body
  split
  · exact .refl s2
  · split
    · exact (chainDirty_portKeeps o s2).trans (castInput_portKeeps ..)
    · exact (chainDirty_portKeeps o s2).trans (mayDiverge_portKeeps ..)

/-- Nothing is latched twice. -/
theorem claspLatch_done {s : State} {p : Nat} (h : (s.clasp p).latched = true) : claspLatch p s = s := by
  rw [claspLatch, if_pos (.inr (.inr (.inl h)))]

/-- Settles O48: the count by `claspCount_result`, the entry by `claspLatch_due`. -/
theorem claspLatches : Obligations.ClaspLatches := by
  refine ⟨?latch, ?crecv, ?csend⟩
  case latch =>
    intro s p good g b flap st hp hlen hen hlatched hdue hreplay hgood hg hb hflap hst
    refine (answers_iff rfl).mpr ?_
    have hp' : p < s.clasps.length := by omega
    have hcount := claspCount_result (g := g) (b := b) (flap := flap) hp' hen (by rw [hg, hgood]; rfl) (by rw [hb, hgood]; rfl) hflap
    have hst' : latchState (s.clasp p) g b flap = st := by rw [hst]; rfl
    obtain ⟨hframe, hblock, hperiods, hbadRun, hgoodRun, hstate, hup, hdown, hflapped, hkeeps⟩ := hcount
    rw [hst'] at hstate hup hdown hflapped
    obtain ⟨o, hport⟩ := claspLatch_due hp hen hlatched hdue (hkeeps.replay.trans hreplay)
    have hclasp : (claspLatch p s).clasp p = latchedPort o (latchBody ((claspCount p s).clasp p)) ((claspCount p s).clasp p) :=
      (hport.clasp p).trans (modClasp_same (by rw [hkeeps.ports]; exact hp') _)
    have hbody : latchBody ((claspCount p s).clasp p) = if st = .up ∧ (s.clasp p).blockLock = true then (s.clasp p).frame.map (·.1) else none := by
      rw [latchBody, hstate, hblock, hframe]
    rw [hclasp, hbody]
    refine ⟨rfl, hperiods, hbadRun, hgoodRun, hstate, rfl, ?_, fun h k => (hup h k).later hport.log, fun h k => (hdown h k).later hport.log,
      fun h k => (hflapped h k).later hport.log, hport.store.trans hkeeps.store, hport.effects.trans hkeeps.effects⟩
    show (if st = .up ∧ (s.clasp p).blockLock = true then (s.clasp p).frame.map (·.1) else none).isSome = _
    by_cases hentry : st = .up ∧ (s.clasp p).blockLock = true
    · rw [if_pos hentry, hentry.1, hentry.2]
      simp
    · rw [if_neg hentry]
      by_cases h : st = .up
      · simp [h] at hentry
        simp [hentry]
      · simp [h]
  case crecv =>
    intro s u i f h hcue hkind hpop hp hlatched hoff hfit
    refine (answers_iff rfl).mpr ?_
    rw [onIssue_begun u _ s i (doCrecv u i f) h (portCue_same hcue hkind hpop), doCrecv, claspLatch_done (s := done u s) hlatched]
    have hrange : 0 ≤ portOff (done u s) i f ∧ portOff (done u s) i f + 2080 ≤ 262144 := ⟨hoff, hfit⟩
    rw [if_pos hrange]
    have hport := modClasp_same (s := done u s) hp fun c => { c with crecvDone := c.crecvDone || c.entryGood }
    exact ⟨rfl, (congrArg Clasp.crecvDone hport :), rfl, rfl⟩
  case csend =>
    intro s u i f n h hcue hkind hpop hbad hp hn hoff hfit
    refine (answers_iff rfl).mpr ?_
    rw [claspCue, onIssue_begun u _ s i (doCsend u i f) h (portCue_same hcue hkind hpop), doCsend, ← hn]
    have hrange : 0 ≤ portOff (done u s) i f ∧ portOff (done u s) i f + 16 * n ≤ 262144 := ⟨hoff, hfit⟩
    rw [if_pos hrange, storeUe_none (s := done u s) hbad]
    have hport := modClasp_same (s := done u s) hp fun c =>
      { c with csend := some (memRead (done u s).store (claspKey u (portOff (done u s) i f).toNat) (16 * n)) }
    exact ⟨(congrArg Clasp.csend hport :), rfl, rfl, rfl⟩

end Sys2Proof.Machine
end

section
/-! The Clasp decision, the frames sent, alignment and release (R252 to R259, R266, R268, R275, R280, R303). -/

namespace Sys2Proof.Machine

/-! ## The bytes of a frame -/

/-- A frame's header, its CRC and its whole blocks. -/
theorem frameBody_reads {hdr : Bytes} (h : hdr.length = 32) (recs sig : Bytes) :
    (∀ o n, o + n ≤ 32 → slice (frameBody hdr recs sig) o n = slice hdr o n) ∧ (frameBody hdr recs sig).length % 8 = 0 ∧
      leAt (frameBody hdr recs sig) ((frameBody hdr recs sig).length - 4) 4 =
        crc32 ((frameBody hdr recs sig).take ((frameBody hdr recs sig).length - 4)) := by
  unfold frameBody
  extract_lets n b
  have hn : 36 ≤ n := by simp only [n, cdiv, h]; omega
  have hb : b.length = n - 4 := slice_length ..
  have hprefix : ∃ r, b = hdr ++ r := by
    refine ⟨(recs ++ sig).take (n - 4 - 32) ++ zeros (n - 4 - ((hdr ++ recs ++ sig).take (n - 4)).length), ?_⟩
    simp only [b, slice, List.drop_zero, List.append_assoc]
    rw [List.take_append, List.take_of_length_le (by omega), h]
    simp only [List.append_assoc]
  have hlen : (b ++ leBytes 4 (crc32 b)).length = n := by
    rw [List.length_append, hb, leBytes_length]
    omega
  obtain ⟨r, hr⟩ := hprefix
  refine ⟨fun o k hok => ?_, ?_, ?_⟩
  · rw [hr, List.append_assoc, slice_append_left (by omega)]
  · rw [hlen]
    exact Nat.mul_mod_right ..
  · rw [hlen, ← hb, List.take_left', leAt, slice_append_right le_rfl, Nat.sub_self, ← List.append_nil (leBytes 4 _),
      slice_append_head (leBytes_length ..), leNat_leBytes_of_lt (crc32_lt _)]
    rfl

/-- What a module frame says. -/
structure FrameReads (s : State) (p type : Nat) (period : Word) (b : Bytes) : Prop where
  type : leAt b 0 1 = type
  seq : leAt b 2 2 = (s.clasp p).txSeq.toNat
  period : leAt b 4 2 = period.toNat % 65536
  epoch : leAt b 8 4 = s.pair.regs.epoch.toNat
  crc : leAt b (b.length - 4) 4 = crc32 (b.take (b.length - 4))
  blocks : b.length % 8 = 0

theorem moduleFrame_reads {s : State} {p type : Nat} (htype : type < 256) (period : Word) (ready agree : Bool) (recs sig : Bytes) :
    FrameReads s p type period (moduleFrame s p period type ready agree recs sig) := by
  unfold moduleFrame
  extract_lets c flags arr hdr
  have hlen : hdr.length = 32 := by simp [hdr]
  obtain ⟨hhdr, hblocks, hcrc⟩ := frameBody_reads hlen recs sig
  refine ⟨?_, ?_, ?_, ?_, hcrc, hblocks⟩
  · rw [leAt, hhdr 0 1 (by omega)]
    simp [hdr, slice_cons_one, leNat_single, htype]
  · rw [leAt, hhdr 2 2 (by omega)]
    simp [hdr, slice_cons_succ, slice_append_head, leNat_leBytes]
    exact Nat.mod_eq_of_lt (BitVec.isLt (s.clasp p).txSeq)
  · rw [leAt, hhdr 4 2 (by omega)]
    simp [hdr, slice_cons_succ, slice_append_right, slice_append_head, leNat_leBytes]
  · rw [leAt, hhdr 8 4 (by omega)]
    simp [hdr, slice_cons_succ, slice_append_right, slice_append_head, leNat_leBytes]
    exact BitVec.isLt _

/-- The type of a decision's frame. -/
def decisionType : ClaspDecision → Nat
  | .train => 5
  | .beacon _ => 4
  | .result => 2
  | .hold => 3

theorem decidedFrame_reads (s : State) (p : Nat) (d : ClaspDecision) :
    FrameReads s p (decisionType d) (s.clasp p).decidedPeriod (decidedFrame s p d) := by
  cases d with
  | train => exact moduleFrame_reads (by decide) ..
  | beacon r => exact moduleFrame_reads (type := 4) (by decide) ..
  | result => exact moduleFrame_reads (by decide) ..
  | hold => exact moduleFrame_reads (by decide) ..

/-- A frame that leaves. -/
structure FrameLeft (s t : State) (p : Nat) (period : Word) (b : Bytes) (start : Int) : Prop where
  out : ∃ h, t.out = .claspFrame p period b start (lineBlocks h (frameBlocks b)) :: s.out
  port : t.clasp p = { s.clasp p with txSeq := (s.clasp p).txSeq + 1 }
  others : ∀ q, q ≠ p → t.clasp q = s.clasp q
  ports : t.clasps.length = s.clasps.length
  store : t.store = s.store
  events : t.events = s.events

theorem claspEmit_left {s : State} {p : Nat} (hp : p < s.clasps.length) (period : Word) (b : Bytes) (start : Int) :
    FrameLeft s (claspEmit p period b start s) p period b start := by
  unfold claspEmit
  extract_lets x
  refine ⟨⟨_, rfl⟩, ?_, fun q hq => ?_, modifyAt_length .., rfl, rfl⟩
  · exact modClasp_same (s := x.2.emit _) hp _
  · exact modClasp_other (s := x.2.emit _) hq _

/-! ## Alignment -/

theorem measureSteady_iff (m : AlignMeasure) : measureSteady m = true ↔ ∀ a ∈ m.es, ∀ b ∈ m.es, a - b ≤ 66 := by
  simp [measureSteady]

theorem onlyFirmware_of {s : State} (h : s.admitted = []) : onlyFirmware s = true := by rw [onlyFirmware, h]; rfl

/-- Settles O49: the decision from the settled bead, the frames by their headers, alignment by its measures. -/
theorem claspSends : Obligations.ClaspSends := by
  refine ⟨?decide, ?send, ?leaving, ?idle, ?align, ?aligned, ?unsteady, ?release⟩
  case decide =>
    intro s r p w hdue hsettle hdue' hissue hlen hsignet hw
    refine (answers_iff rfl).mpr ?_
    have hp : p < r.clasps.length := by
      rw [decisionDue, Bool.and_eq_true, Bool.and_eq_true, decide_eq_true_iff] at hdue'
      obtain ⟨⟨⟨hp, -⟩, -⟩, -⟩ := hdue'
      omega
    have hcue : claspCue (unitNo .clasp p) r = r := onIssue_none _ _ r hissue
    have hdone : claspSignetDone p r = r := by rw [claspSignetDone, hsignet]
    have hchoice : claspChoice r p =
        if (r.clasp p).state ≠ .up then .train
        else match r.pair.regs.role with | .pendant => .beacon w | .joining => .beacon false | _ => if w then .result else .hold := by
      rw [hw]
      rfl
    rw [decideNow, if_pos hdue, hsettle, claspDecide, hdue', if_neg (by decide)]
    dsimp only
    rw [hcue, hdone, hchoice]
    by_cases ho : r.owner (unitNo .clasp p) = 0
    · rw [if_pos ho, modClasp_same hp]
      exact ⟨rfl, rfl, rfl, rfl, rfl, rfl, rfl⟩
    · rw [if_neg ho, modClasp_same (by simpa using hp), modClasp_same hp]
      exact ⟨rfl, rfl, rfl, rfl, rfl, rfl, rfl⟩
  case send =>
    intro s p d hp hlen hstate hreplay hleaving hdecision hsent hlate
    refine (answers_iff rfl).mpr ?_
    have hp' : p < s.clasps.length := by omega
    have hreads := decidedFrame_reads s p d
    rw [claspSend, if_neg (by simp [hstate]; omega), hreplay, hleaving, if_neg Bool.false_ne_true, if_neg Bool.false_ne_true, hdecision]
    dsimp only
    rw [if_neg (by simp [hsent]; omega)]
    have hleft := claspEmit_left hp' (s.clasp p).decidedPeriod (decidedFrame s p d) (frameStart s (s.clasp p))
    generalize claspEmit p (s.clasp p).decidedPeriod (decidedFrame s p d) (frameStart s (s.clasp p)) s = t at hleft
    obtain ⟨⟨h, hout⟩, hport, hothers, hports, hstore, hevents⟩ := hleft
    have hsame := modClasp_same (s := t) (by rw [hports]; exact hp') fun c => { c with sent := true }
    rw [hsame, hport]
    exact ⟨_, _, h, hout, hreads.type, hreads.seq, hreads.period, hreads.epoch, hreads.crc, hreads.blocks, rfl, rfl,
      fun q hq => (modClasp_other hq _).trans (hothers q hq), hstore, hevents⟩
  case leaving =>
    intro s p hp hlen hstate hreplay hleaving
    refine (answers_iff rfl).mpr ?_
    have hp' : p < s.clasps.length := by omega
    rw [claspSend, if_neg (by simp [hstate]; omega), hreplay, hleaving, if_neg Bool.false_ne_true, if_pos rfl, sendLeaving]
    have hreads := moduleFrame_reads (s := s) (p := p) (type := 6) (by decide) s.period false false [] []
    have hleft := claspEmit_left (s := s.fresh.2) hp' s.period (moduleFrame s p s.period 6 false false [] []) ((Config.freeNat s.fresh.1 : Nat) : Int)
    obtain ⟨⟨h, hout⟩, hport, -⟩ := hleft
    exact ⟨_, _, h, hout, hreads.type, hreads.period, (congrArg Clasp.txSeq hport :)⟩
  case idle =>
    intro s p hp hstate hreplay
    refine (answers_iff rfl).mpr ?_
    rw [claspSend, if_neg (by simp [hstate]; omega), hreplay, if_pos rfl]
    rfl
  case align =>
    intro s p hp hlen hmode hen href hlock hblock haligned hfailed honly
    refine (answers_iff rfl).mpr ?_
    rw [claspAlign, if_pos ⟨hp, hmode, hen, href, hlock, hblock, haligned, hfailed, onlyFirmware_of honly⟩, modClasp_same (by omega)]
    exact ⟨rfl, rfl, rfl, rfl⟩
  case aligned =>
    intro s p m hp hlen haligning honly hcount hsteady hslew
    refine (answers_iff rfl).mpr ?_
    have hbound : s.period.toNat / 65536 * 65536 + m.periodLo.toNat < 2 ^ 32 := by
      have := s.period.isLt
      have := m.periodLo.isLt
      omega
    rw [claspAligned, if_neg (by simp [haligning, onlyFirmware_of honly, hcount]; omega), (measureSteady_iff m).mpr hsteady,
      if_neg (by decide), if_pos hslew]
    have hsame := modClasp_same (s := { s with
      period := BitVec.ofNat 32 (s.period.toNat / 65536 * 65536 + m.periodLo.toNat), rotLen := s.rotLen + alignBeads s m })
      (p := p) (by rw [hlen]; exact hp) fun c => { c with aligning := false, aligned := true }
    rw [hsame]
    refine ⟨?_, rfl, rfl, rfl, rfl, rfl, rfl⟩
    exact (BitVec.toNat_ofNat ..).trans (Nat.mod_eq_of_lt hbound)
  case unsteady =>
    intro s p m a b hp hlen haligning honly hcount ha hb hfar
    refine (answers_iff rfl).mpr ?_
    have hunsteady : measureSteady m = false := by
      rw [← Bool.not_eq_true, measureSteady_iff]
      intro hall
      have := hall a ha b hb
      omega
    rw [claspAligned, if_neg (by simp [haligning, onlyFirmware_of honly, hcount]; omega), if_pos hunsteady]
    have hkeeps := claspRaise_portKeeps evClaspAlign p (s.modClasp (fun c => { c with aligning := false, alignFailed := true }) p)
    have hframe := raise_evFrame evClaspAlign (claspArg ((s.modClasp (fun c => { c with aligning := false, alignFailed := true }) p).clasp p) p)
      (s.modClasp (fun c => { c with aligning := false, alignFailed := true }) p)
    rw [hkeeps.clasp, modClasp_same (by omega)]
    exact ⟨raised_raise_of rfl rfl, hframe.period, hframe.rotLen, rfl, rfl⟩
  case release =>
    intro s p hp hlen hheld
    refine (answers_iff rfl).mpr ?_
    rw [claspRelease, if_pos ⟨hp, hheld⟩, modClasp_same (by omega)]
    exact ⟨rfl, hheld, fun q hq => modClasp_other hq _, rfl⟩

end Sys2Proof.Machine
end

section
/-! The six mailbox commands: certificates, key exchange, reports, packages, the end of a session (O50). -/

namespace Sys2Proof.Machine

/-! ## What a command's end leaves of its context -/

theorem State.modSec_sec {c : CtxNo} {s : State} (hc : c < s.ctxs.length) (f : Sec → Sec) :
    ((s.modSec f c).ctx c).sec = f (s.ctx c).sec := by
  rw [State.modSec, State.modCtx_ctx, if_pos ⟨rfl, hc⟩]

theorem State.modBox_mailbox {c : CtxNo} {s : State} (hc : c < s.ctxs.length) (f : Mailbox → Mailbox) :
    ((s.modBox f c).ctx c).mailbox = f (s.ctx c).mailbox := by
  rw [State.modBox, State.modCtx_ctx, if_pos ⟨rfl, hc⟩]

theorem State.modBox_sec (c : CtxNo) (s : State) (f : Mailbox → Mailbox) : ((s.modBox f c).ctx c).sec = (s.ctx c).sec := by
  rw [State.modBox, State.modCtx_ctx]
  split <;> rfl

theorem State.modSec_length (c : CtxNo) (s : State) (f : Sec → Sec) : (s.modSec f c).ctxs.length = s.ctxs.length :=
  congrArg Spine.contexts (State.modSec_spine f c s)

theorem boxDone_mailbox {c : CtxNo} {s : State} (hc : c < s.ctxs.length) (resp tag : Bytes) :
    ((boxDone c resp tag s).ctx c).mailbox =
      { (s.ctx c).mailbox with busy := false, done := true, err := false, code := 0, rlen := resp.length,
                               data := overlay (s.ctx c).mailbox.data 0 resp, tag := slice tag 0 16 } :=
  State.modBox_mailbox hc _

theorem boxDone_done {c : CtxNo} {s : State} (hc : c < s.ctxs.length) (resp tag : Bytes) :
    ((boxDone c resp tag s).ctx c).mailbox.done = true := by rw [boxDone_mailbox hc]

theorem boxDone_sec (c : CtxNo) (resp tag : Bytes) (s : State) : ((boxDone c resp tag s).ctx c).sec = (s.ctx c).sec :=
  State.modBox_sec ..

theorem boxErr_mailbox {c : CtxNo} {s : State} (hc : c < s.ctxs.length) (code : Nat) :
    ((boxErr c code s).ctx c).mailbox =
      { (s.ctx c).mailbox with busy := false, done := false, err := true, code := BitVec.ofNat 8 code, rlen := 0 } :=
  State.modBox_mailbox hc _

/-- A command that ends with an error says its code. -/
theorem boxErr_says {c : CtxNo} {s : State} (hc : c < s.ctxs.length) (code : Nat) :
    ((boxErr c code s).ctx c).mailbox.err = true ∧ ((boxErr c code s).ctx c).mailbox.code = BitVec.ofNat 8 code := by
  rw [boxErr_mailbox hc]
  exact ⟨rfl, rfl⟩

theorem boxErr_sec (c : CtxNo) (code : Nat) (s : State) : ((boxErr c code s).ctx c).sec = (s.ctx c).sec :=
  State.modBox_sec ..

/-- Keys that go to the partner change no context and no event. -/
theorem sendKeys_ctx (c d : CtxNo) (s : State) : (sendKeys c s).ctx d = s.ctx d := by
  unfold sendKeys
  split <;> rfl

theorem sendKeys_events (c : CtxNo) (s : State) : (sendKeys c s).events = s.events := by
  unfold sendKeys
  split <;> rfl

/-! ## Numbers drawn -/

theorem drawNumber_stays (s : State) : CtxStays s (drawNumber s).2 := (drawKey_stays s).trans (drawKey_stays _)

theorem drawNumber_length (s : State) : (drawNumber s).2.ctxs.length = s.ctxs.length :=
  congrArg Spine.contexts (drawNumber_spine s)

/-- A report draws the number of its signature. -/
theorem attest_state (c : CtxNo) (nonce point : Bytes) (s : State) : (attest c nonce point s).2 = (drawNumber s).2 := rfl

/-! ## Which commands are served -/

/-- An idle mailbox serves a command that its gate lets through. -/
theorem mailbox_serves {s : State} {c : CtxNo} {code : Nat} (hl : s.ports.linkUp = true) (hr : s.startup.ready = true)
    (hc : c < 16) (hb : (s.ctx c).mailbox.busy = false) (hgate : boxGate s c code = 0)
    (hrng : s.locket.rngFailed = true → code ≠ 2 ∧ code ≠ 3) : mailbox c code s = boxWork c code s := by
  unfold mailbox
  rw [if_neg (by simp [hl, hr, hb, hc]), if_neg (by simp [hgate]), if_neg]
  rintro ⟨hfailed, hcode⟩
  obtain ⟨h2, h3⟩ := hrng hfailed
  exact hcode.elim h2 h3

theorem mailbox_busy {s : State} {c : CtxNo} (hb : (s.ctx c).mailbox.busy = true) (code : Nat) : mailbox c code s = s := by
  unfold mailbox
  exact if_pos (.inr (.inr (.inr hb)))

theorem boxGate_cert {s : State} {c : CtxNo} (hlen : (s.ctx c).mailbox.len ≤ 4032) : boxGate s c 1 = 0 := by
  simp [boxGate, hlen]

/-- A running context's command, whose session is there where it needs one. -/
theorem boxGate_running {s : State} {c : CtxNo} {code : Nat} (hlen : (s.ctx c).mailbox.len ≤ 4032)
    (hcode : 2 ≤ code ∧ code ≤ 6) (hrun : s.running c = true) (hsess : code = 4 ∨ code = 6 → lacksSession s c = false) :
    boxGate s c code = 0 := by
  unfold boxGate
  rw [if_neg (by omega), if_neg (by omega), if_neg (by simp [hrun]), if_neg]
  rintro ⟨hlacks, h46⟩
  rw [hsess h46] at hlacks
  exact Bool.false_ne_true hlacks

/-- With the random numbers failed a key exchange ends with an error. -/
theorem mailbox_refuses {s : State} {c : CtxNo} {code : Nat} (hl : s.ports.linkUp = true) (hr : s.startup.ready = true)
    (hc : c < 16) (hn : c < s.ctxs.length) (hb : (s.ctx c).mailbox.busy = false) (hrng : s.locket.rngFailed = true)
    (hcode : code = 2 ∨ code = 3) :
    ((mailbox c code s).ctx c).mailbox.err = true ∧ ((mailbox c code s).ctx c).mailbox.done = false
      ∧ ((mailbox c code s).ctx c).mailbox.busy = false ∧ ((mailbox c code s).ctx c).sec = (s.ctx c).sec := by
  have hends : ∃ t n, mailbox c code s = boxErr c n t ∧ t.ctxs = s.ctxs := by
    unfold mailbox
    rw [if_neg (by simp [hl, hr, hb, hc])]
    dsimp only
    split
    · exact ⟨s, _, rfl, rfl⟩
    · rw [if_pos ⟨hrng, hcode⟩]
      exact ⟨s.fresh.2, _, rfl, rfl⟩
  obtain ⟨t, n, ht, hctxs⟩ := hends
  rw [ht, boxErr_mailbox (by rw [hctxs]; exact hn), boxErr_sec]
  exact ⟨rfl, rfl, rfl, by rw [State.ctx, State.ctx, hctxs]⟩

/-! ## Certificates -/

theorem getCert_answers {s : State} {c : CtxNo} (hc : c < s.ctxs.length) (hlen : (s.ctx c).mailbox.len = 4) :
    ((getCert c s).ctx c).mailbox.done = true ∧ ((getCert c s).ctx c).mailbox.err = false
      ∧ ((getCert c s).ctx c).mailbox.busy = false
      ∧ ((getCert c s).ctx c).mailbox.data = overlay (s.ctx c).mailbox.data 0
          (leBytes 4 s.locket.certChain.length ++ (s.locket.certChain.drop (leNat (boxRequest s c))).take 4028)
      ∧ ((getCert c s).ctx c).sec = (s.ctx c).sec := by
  unfold getCert
  rw [if_neg (not_not.mpr hlen), boxDone_mailbox hc, boxDone_sec]
  exact ⟨rfl, rfl, rfl, rfl, rfl⟩

/-! ## The key exchange -/

/-- The owner of a context, whose key alone may begin an exchange. -/
def boxOwner (s : State) (c : CtxNo) : Bytes := match (s.ctx c).record with | some r => r.owner | none => zeros 32

/-- The exchange that has been answered, before the answer is signed. -/
def kxBegun (c : CtxNo) (k sA : Bytes) (s : State) : State := (endSession c s).modSec (fun x => { x with exchange := some ⟨k, sA⟩ }) c

theorem kxBegin_stranger {s : State} {c : CtxNo} (hlen : (s.ctx c).mailbox.len = 160)
    (h : sm3 (slice (boxRequest s c) 32 64) ≠ boxOwner s c) : kxBegin c s = boxErr c mbOwner s := by
  unfold kxBegin
  rw [if_neg (not_not.mpr hlen)]
  exact if_pos h

theorem kxBegin_owner {s : State} {c : CtxNo} (hlen : (s.ctx c).mailbox.len = 160)
    (h : sm3 (slice (boxRequest s c) 32 64) = boxOwner s c) (hdraw : (drawNumber s).2.locket.rngFailed = false) :
    kxBegin c s = match sm2Respond (boxOwner s c) moduleId (slice (boxRequest s c) 32 64) (slice (boxRequest s c) 96 64) dikE
        (drawNumber s).1 with
      | none => boxErr c mbOwner (drawNumber s).2
      | some a =>
        let r := attest c (slice (boxRequest s c) 0 32) (sm2Pub (drawNumber s).1) (kxBegun c a.k a.sA (drawNumber s).2)
        boxDone c (r.1 ++ a.sB) (zeros 16) r.2 := by
  unfold kxBegin
  rw [if_neg (not_not.mpr hlen)]
  exact (if_neg (not_not.mpr h)).trans (if_neg (by simp [hdraw]))

/-- What the response to an exchange leaves of the context's security state. -/
theorem kxBegun_sec {c : CtxNo} {s : State} (hc : c < s.ctxs.length) (k sA : Bytes) :
    ((kxBegun c k sA s).ctx c).sec = { (s.ctx c).sec with session := none, exchange := some ⟨k, sA⟩ } := by
  have hend : c < (endSession c s).ctxs.length := by rw [endSession, State.modSec_length]; exact hc
  rw [kxBegun, State.modSec_sec hend, endSession, State.modSec_sec hc]

theorem kxBegun_length (c : CtxNo) (k sA : Bytes) (s : State) : (kxBegun c k sA s).ctxs.length = s.ctxs.length := by
  rw [kxBegun, State.modSec_length, endSession, State.modSec_length]

theorem kxFinish_without {s : State} {c : CtxNo} (hlen : (s.ctx c).mailbox.len = 32) (h : (s.ctx c).sec.exchange = none) :
    kxFinish c s = boxErr c mbNoSession s := by
  unfold kxFinish
  rw [if_neg (not_not.mpr hlen), h]

/-- The session that a confirmed exchange gives. -/
def kxUp (c : CtxNo) (k : Bytes) (s : State) : State :=
  raiseAt evSessionUp (some c) 0xFFFF 0xFFFF false false []
    ((s.modRing (fun r => { r with authStop := false }) c).modSec
      (fun x => { x with exchange := none, session := some (sessionOf k) }) c)

/-- The exchange that failed is destroyed. -/
def kxDown (c : CtxNo) (s : State) : State := raise evKxFail [2] (s.modSec (fun x => { x with exchange := none }) c)

theorem kxFinish_confirms {s : State} {c : CtxNo} {e : Exchange} (hlen : (s.ctx c).mailbox.len = 32)
    (h : (s.ctx c).sec.exchange = some e) (hq : boxRequest s c = e.sA) :
    kxFinish c s = sendKeys c (boxDone c [] (zeros 16) (kxUp c e.k s)) := by
  unfold kxFinish
  rw [if_neg (not_not.mpr hlen), h]
  exact if_pos hq

theorem kxFinish_destroys {s : State} {c : CtxNo} {e : Exchange} (hlen : (s.ctx c).mailbox.len = 32)
    (h : (s.ctx c).sec.exchange = some e) (hq : boxRequest s c ≠ e.sA) : kxFinish c s = boxErr c mbOwner (kxDown c s) := by
  unfold kxFinish
  rw [if_neg (not_not.mpr hlen), h]
  exact if_neg hq

/-- An event leaves the security states. -/
theorem raiseAt_sec (code : Nat) (ctx : Option CtxNo) (unit unit2 : Nat) (hold located : Bool) (arg : Bytes) (s : State) :
    ∀ c, ((raiseAt code ctx unit unit2 hold located arg s).ctx c).sec = (s.ctx c).sec := fun c => by
  rw [(raiseAt_evFrame code ctx unit unit2 hold located arg s).ctx c]

theorem raiseAt_length (code : Nat) (ctx : Option CtxNo) (unit unit2 : Nat) (hold located : Bool) (arg : Bytes) (s : State) :
    (raiseAt code ctx unit unit2 hold located arg s).ctxs.length = s.ctxs.length :=
  (raiseAt_evFrame code ctx unit unit2 hold located arg s).ctxs

theorem kxUp_length (c : CtxNo) (k : Bytes) (s : State) : (kxUp c k s).ctxs.length = s.ctxs.length := by
  rw [kxUp, raiseAt_length, State.modSec_length]
  rfl

theorem kxDown_length (c : CtxNo) (s : State) : (kxDown c s).ctxs.length = s.ctxs.length := by
  rw [kxDown, raise, raiseAt_length, State.modSec_length]

theorem kxUp_sec {c : CtxNo} {s : State} (hc : c < s.ctxs.length) (k : Bytes) :
    ((kxUp c k s).ctx c).sec = { (s.ctx c).sec with exchange := none, session := some (sessionOf k) } := by
  rw [kxUp, raiseAt_sec]
  exact State.modSec_sec (s := s.modRing _ c) hc _

theorem kxDown_sec {c : CtxNo} {s : State} (hc : c < s.ctxs.length) :
    ((kxDown c s).ctx c).sec = { (s.ctx c).sec with exchange := none } := by
  rw [kxDown, raise, raiseAt_sec]
  exact State.modSec_sec hc _

theorem kxUp_raised (c : CtxNo) (k : Bytes) (s : State) : raised evSessionUp s (kxUp c k s) :=
  raised_raiseAt_of rfl rfl

theorem kxDown_raised (c : CtxNo) (s : State) : raised evKxFail s (kxDown c s) := raised_raise_of rfl rfl

/-! ## Protected commands -/

theorem boxProtected_plain {s : State} {c : CtxNo} {n : Nat} (hlen : (s.ctx c).mailbox.len = n)
    (h : (s.ctx c).sec.session = none) (f : Bytes → State → Bytes × State) :
    boxProtected c n f s = boxDone c (f (boxRequest s c) s).1 (zeros 16) (f (boxRequest s c) s).2 := by
  unfold boxProtected
  dsimp only
  rw [if_neg (not_not.mpr hlen), h]

theorem boxProtected_forged {s : State} {c : CtxNo} {n : Nat} {k : Session} (hlen : (s.ctx c).mailbox.len = n)
    (h : (s.ctx c).sec.session = some k) (htag : sessTag k.hmMac 1 1 c k.mbHm (boxRequest s c) ≠ (s.ctx c).mailbox.tag)
    (f : Bytes → State → Bytes × State) : boxProtected c n f s = boxErr c mbOwner s := by
  unfold boxProtected
  dsimp only
  rw [if_neg (not_not.mpr hlen), h]
  exact if_pos htag

/-- The counts of a session after a protected command. -/
def Session.counted (k y : Session) : Session := { y with mbHm := k.mbHm + 1, mbMh := k.mbMh + 1 }

/-- A protected command in a session ends well, with the session that its work leaves counted on. -/
theorem boxProtected_sealed {s : State} {c : CtxNo} {n : Nat} {k : Session} {x : Option Session}
    (hlen : (s.ctx c).mailbox.len = n) (h : (s.ctx c).sec.session = some k)
    (htag : sessTag k.hmMac 1 1 c k.mbHm (boxRequest s c) = (s.ctx c).mailbox.tag) {f : Bytes → State → Bytes × State}
    (hf : ∀ q, c < (f q s).2.ctxs.length ∧ ((f q s).2.ctx c).sec.session = x) :
    ((boxProtected c n f s).ctx c).mailbox.done = true ∧ ((boxProtected c n f s).ctx c).sec.session = x.map k.counted := by
  have hs : ∃ q resp tag, boxProtected c n f s = sendKeys c (boxDone c resp tag
      ((f q s).2.modSec (fun x => { x with session := x.session.map k.counted }) c)) := by
    unfold boxProtected
    dsimp only
    rw [if_neg (not_not.mpr hlen), h]
    exact ⟨_, _, _, if_neg (not_not.mpr htag)⟩
  obtain ⟨q, resp, tag, hs⟩ := hs
  obtain ⟨hlength, hsession⟩ := hf q
  rw [hs, sendKeys_ctx]
  refine ⟨boxDone_done (by rw [State.modSec_length]; exact hlength) _ _, ?_⟩
  rw [boxDone_sec, State.modSec_sec hlength]
  exact congrArg (Option.map k.counted) hsession

/-! ## Packages -/

theorem mailPackage_fails {s : State} {c : CtxNo} (h : pkgCheck s c (boxRequest s c) ≠ 0) :
    mailPackage c s = pkgFails c (pkgCheck s c (boxRequest s c)) s := if_pos h

/-- The entry of this module in a package's table. -/
def pkgEntry (q : Bytes) : Bytes := ((pkgMembers q).find? fun m => slice m 0 32 = moduleId).getD []

/-- The set that a package names. -/
def pkgIds (q : Bytes) : List Bytes := (pkgMembers q).map fun m => slice m 0 32

/-- The load that a package of weights or charms begins. -/
def pkgLoad (q : Bytes) (k : BitVec 128 × BitVec 128) (x : Sec) : Sec :=
  { x with members := x.members ++ [pkgIds q],
           load := some ⟨leAt q 6 1, leAt q (256 + 160 * leAt q 7 1) 8, leAt q 8 8, 0, k.1, k.2, slice q 0x10 32, []⟩ }

/-- The sea key that a package brings. -/
def pkgSea (q : Bytes) (k : BitVec 128 × BitVec 128) (x : Sec) : Sec :=
  { x with seaKey := some k.1, members := x.members ++ [pkgIds q] }

/-- A package that passes its checks and whose content key this module unwraps. -/
theorem mailPackage_opens {s : State} {c : CtxNo} {q : Bytes} {k : BitVec 128 × BitVec 128} (hq : q = boxRequest s c)
    (h : pkgCheck s c q = 0) (hk : pkgKey q (pkgEntry q) = some k) :
    mailPackage c s =
      if leAt q 6 1 = 3 then
        if sm3 (keyBytes k.1) ≠ slice q 0x10 32 then pkgFails c mbDigest s
        else sendKeys c (boxDone c [] (zeros 16) (s.modSec (pkgSea q k) c))
      else boxDone c [] (zeros 16) (s.modSec (pkgLoad q k) c) := by
  subst hq
  unfold pkgEntry at hk
  unfold mailPackage
  dsimp only
  rw [if_neg (not_not.mpr h), hk]
  rfl

theorem pkgFails_says {c : CtxNo} {s : State} (hc : c < s.ctxs.length) (code : Nat) :
    ((pkgFails c code s).ctx c).mailbox.err = true ∧ ((pkgFails c code s).ctx c).mailbox.code = BitVec.ofNat 8 code
      ∧ raised evPackageFail s (pkgFails c code s) ∧ ((pkgFails c code s).ctx c).sec = (s.ctx c).sec := by
  obtain ⟨herr, hcode⟩ := boxErr_says (code := code) (show c < (raiseAt evPackageFail (some c) 0xFFFF 0xFFFF false false
    [BitVec.ofNat 8 code] s).ctxs.length by rw [raiseAt_length]; exact hc)
  refine ⟨herr, hcode, (raised_raiseAt_of rfl rfl).later (.of_events rfl), ?_⟩
  rw [pkgFails, boxErr_sec, raiseAt_sec]

/-- An empty mailbox holds the empty request. -/
theorem boxRequest_empty {s : State} {c : CtxNo} (h : (s.ctx c).mailbox.len = 0) : boxRequest s c = [] := by
  simp [boxRequest, h, slice, zeros]

/-! ## What the commands answer -/

/-- A refused response leaves the security state, after the draw. -/
theorem boxErr_drawn {s : State} {c : CtxNo} (hc : c < s.ctxs.length) :
    ((boxErr c mbOwner (drawNumber s).2).ctx c).mailbox.err = true
      ∧ ((boxErr c mbOwner (drawNumber s).2).ctx c).mailbox.code = 2
      ∧ ((boxErr c mbOwner (drawNumber s).2).ctx c).sec = (s.ctx c).sec := by
  obtain ⟨herr, hcode⟩ := boxErr_says (s := (drawNumber s).2) (c := c) (by rw [drawNumber_length]; exact hc) mbOwner
  exact ⟨herr, hcode, (boxErr_sec ..).trans (drawNumber_stays s c).sec⟩

/-- The signed response leaves the exchange that has begun. -/
theorem kxBegun_answers {s : State} {c : CtxNo} (hc : c < s.ctxs.length) (k sA nonce point sB tag : Bytes) :
    let r := attest c nonce point (kxBegun c k sA s)
    ((boxDone c (r.1 ++ sB) tag r.2).ctx c).mailbox.done = true
      ∧ ((boxDone c (r.1 ++ sB) tag r.2).ctx c).sec = { (s.ctx c).sec with session := none, exchange := some ⟨k, sA⟩ } := by
  intro r
  have hr : r.2 = (drawNumber (kxBegun c k sA s)).2 := attest_state ..
  rw [hr]
  refine ⟨boxDone_done (by rw [drawNumber_length, kxBegun_length]; exact hc) _ _, ?_⟩
  rw [boxDone_sec, (drawNumber_stays _ c).sec, kxBegun_sec hc]

theorem kxBegin_answers {s : State} {c : CtxNo} {o : Bytes} (hc : c < s.ctxs.length) (hlen : (s.ctx c).mailbox.len = 160)
    (hdraw : (drawNumber s).2.locket.rngFailed = false) (ho : o = boxOwner s c) :
    if sm3 (slice (boxRequest s c) 32 64) ≠ o then
      ((kxBegin c s).ctx c).mailbox.err = true ∧ ((kxBegin c s).ctx c).mailbox.code = 2
        ∧ ((kxBegin c s).ctx c).sec = (s.ctx c).sec
    else match sm2Respond o moduleId (slice (boxRequest s c) 32 64) (slice (boxRequest s c) 96 64) dikE (drawNumber s).1 with
      | none => ((kxBegin c s).ctx c).mailbox.err = true ∧ ((kxBegin c s).ctx c).mailbox.code = 2
          ∧ ((kxBegin c s).ctx c).sec = (s.ctx c).sec
      | some a => ((kxBegin c s).ctx c).mailbox.done = true ∧ ((kxBegin c s).ctx c).sec.session = none
          ∧ ((kxBegin c s).ctx c).sec.exchange = some ⟨a.k, a.sA⟩ := by
  subst ho
  split
  next hstranger =>
    rw [kxBegin_stranger hlen hstranger]
    obtain ⟨herr, hcode⟩ := boxErr_says hc mbOwner
    exact ⟨herr, hcode, boxErr_sec ..⟩
  next howner =>
    rw [kxBegin_owner hlen (not_not.mp howner) hdraw]
    generalize sm2Respond _ _ _ _ _ _ = answer
    cases answer with
    | none => exact boxErr_drawn hc
    | some a =>
      have hdrawn : c < (drawNumber s).2.ctxs.length := by rw [drawNumber_length]; exact hc
      obtain ⟨hdone, hsec⟩ := kxBegun_answers hdrawn a.k a.sA (slice (boxRequest s c) 0 32) (sm2Pub (drawNumber s).1) a.sB (zeros 16)
      exact ⟨hdone, congrArg Sec.session hsec, congrArg Sec.exchange hsec⟩

theorem kxFinish_answers {s : State} {c : CtxNo} (hc : c < s.ctxs.length) (hlen : (s.ctx c).mailbox.len = 32) :
    match (s.ctx c).sec.exchange with
    | none => ((kxFinish c s).ctx c).mailbox.err = true ∧ ((kxFinish c s).ctx c).mailbox.code = 6
    | some e =>
      ((kxFinish c s).ctx c).sec.exchange = none ∧
        (if boxRequest s c = e.sA then
          ((kxFinish c s).ctx c).mailbox.done = true ∧ ((kxFinish c s).ctx c).sec.session = some (sessionOf e.k)
            ∧ raised evSessionUp s (kxFinish c s)
        else
          ((kxFinish c s).ctx c).mailbox.err = true ∧ ((kxFinish c s).ctx c).mailbox.code = 2
            ∧ ((kxFinish c s).ctx c).sec.session = (s.ctx c).sec.session ∧ raised evKxFail s (kxFinish c s)) := by
  split
  next h =>
    rw [kxFinish_without hlen h]
    exact boxErr_says hc mbNoSession
  next e h =>
    split
    next hq =>
      rw [kxFinish_confirms hlen h hq, sendKeys_ctx, boxDone_sec, kxUp_sec hc]
      exact ⟨rfl, boxDone_done (by rw [kxUp_length]; exact hc) _ _, rfl,
        (kxUp_raised c e.k s).later (.of_events (sendKeys_events ..))⟩
    next hq =>
      rw [kxFinish_destroys hlen h hq, boxErr_sec, kxDown_sec hc]
      obtain ⟨herr, hcode⟩ := boxErr_says (s := kxDown c s) (by rw [kxDown_length]; exact hc) mbOwner
      exact ⟨rfl, herr, hcode, rfl, (kxDown_raised c s).later (.of_events rfl)⟩

theorem mailReport_answers {s : State} {c : CtxNo} (hc : c < s.ctxs.length) (hlen : (s.ctx c).mailbox.len = 32) :
    match (s.ctx c).sec.session with
    | none => ((mailReport c s).ctx c).mailbox.done = true
        ∧ ((mailReport c s).ctx c).mailbox.data = overlay (s.ctx c).mailbox.data 0 (attest c (boxRequest s c) (zeros 64) s).1
    | some k =>
      if sessTag k.hmMac 1 1 c k.mbHm (boxRequest s c) ≠ (s.ctx c).mailbox.tag then
        ((mailReport c s).ctx c).mailbox.err = true ∧ ((mailReport c s).ctx c).mailbox.code = 2
          ∧ ((mailReport c s).ctx c).sec.session = some k
      else
        ((mailReport c s).ctx c).mailbox.done = true ∧ ((mailReport c s).ctx c).sec.session = some (k.counted k) := by
  unfold mailReport
  have hdrawn : c < (drawNumber s).2.ctxs.length := by rw [drawNumber_length]; exact hc
  split
  next h =>
    rw [boxProtected_plain hlen h, attest_state, boxDone_mailbox hdrawn, (drawNumber_stays s c).mailbox]
    exact ⟨rfl, rfl⟩
  next k h =>
    split
    next htag =>
      rw [boxProtected_forged hlen h htag, boxErr_sec]
      obtain ⟨herr, hcode⟩ := boxErr_says hc mbOwner
      exact ⟨herr, hcode, h⟩
    next htag =>
      exact boxProtected_sealed hlen h (not_not.mp htag) (x := some k) fun q => by
        rw [attest_state, (drawNumber_stays s c).sec]
        exact ⟨hdrawn, h⟩

theorem mailEnd_answers {s : State} {c : CtxNo} (hc : c < s.ctxs.length) (hlen : (s.ctx c).mailbox.len = 0) :
    match (s.ctx c).sec.session with
    | none => ((mailEnd c s).ctx c).mailbox.err = true ∧ ((mailEnd c s).ctx c).mailbox.code = 6
    | some k =>
      if sessTag k.hmMac 1 1 c k.mbHm [] ≠ (s.ctx c).mailbox.tag then
        ((mailEnd c s).ctx c).mailbox.err = true ∧ ((mailEnd c s).ctx c).mailbox.code = 2
          ∧ ((mailEnd c s).ctx c).sec.session = some k
      else ((mailEnd c s).ctx c).mailbox.done = true ∧ ((mailEnd c s).ctx c).sec.session = none := by
  unfold mailEnd
  split
  next h =>
    rw [h, Option.isNone_none, if_pos rfl]
    exact boxErr_says hc mbNoSession
  next k h =>
    rw [h, Option.isNone_some, if_neg Bool.false_ne_true, ← boxRequest_empty hlen]
    split
    next htag =>
      rw [boxProtected_forged hlen h htag, boxErr_sec]
      obtain ⟨herr, hcode⟩ := boxErr_says hc mbOwner
      exact ⟨herr, hcode, h⟩
    next htag =>
      refine boxProtected_sealed hlen h (not_not.mp htag) (x := none) fun q => ⟨?_, ?_⟩
      · rw [endSession, State.modSec_length]
        exact hc
      · rw [endSession, State.modSec_sec hc]

theorem mailPackage_answers {s : State} {c : CtxNo} {q : Bytes} (hc : c < s.ctxs.length) (hq : q = boxRequest s c) :
    (pkgCheck s c q ≠ 0 →
      ((mailPackage c s).ctx c).mailbox.err = true ∧ ((mailPackage c s).ctx c).mailbox.code = BitVec.ofNat 8 (pkgCheck s c q)
        ∧ raised evPackageFail s (mailPackage c s) ∧ ((mailPackage c s).ctx c).sec = (s.ctx c).sec)
    ∧ (∀ k, pkgCheck s c q = 0 → pkgKey q (pkgEntry q) = some k →
      (leAt q 6 1 ≠ 3 → ((mailPackage c s).ctx c).mailbox.done = true ∧ ((mailPackage c s).ctx c).sec.load =
          some ⟨leAt q 6 1, leAt q (256 + 160 * leAt q 7 1) 8, leAt q 8 8, 0, k.1, k.2, slice q 0x10 32, []⟩)
      ∧ (leAt q 6 1 = 3 → sm3 (keyBytes k.1) = slice q 0x10 32 →
        ((mailPackage c s).ctx c).mailbox.done = true ∧ ((mailPackage c s).ctx c).sec.seaKey = some k.1)) := by
  refine ⟨fun hbad => ?_, fun k hgood hk => ⟨fun hkind => ?_, fun hkind hsea => ?_⟩⟩
  · subst hq
    rw [mailPackage_fails hbad]
    exact pkgFails_says hc _
  · rw [mailPackage_opens hq hgood hk, if_neg hkind, boxDone_sec, State.modSec_sec hc]
    exact ⟨boxDone_done (by rw [State.modSec_length]; exact hc) _ _, rfl⟩
  · rw [mailPackage_opens hq hgood hk, if_pos hkind, if_neg (not_not.mpr hsea), sendKeys_ctx, boxDone_sec, State.modSec_sec hc]
    exact ⟨boxDone_done (by rw [State.modSec_length]; exact hc) _ _, rfl⟩

/-- Settles O50: an idle mailbox serves the command (`mailbox_serves`), and each command has its outcomes as equations, from which
the mailbox and the security state are read. -/
theorem mailboxCommands : Obligations.MailboxCommands := by
  unfold Obligations.MailboxCommands
  refine ⟨fun s c off hl hr hc hn hb hlen hoff => (answers_iff rfl).mpr ?_,
    fun s c o hl hr hc hn hb hlen hrun hrng hdraw ho => (answers_iff rfl).mpr ?_,
    fun s c hl hr hc hn hb hrng x hx => ?_,
    fun s c hl hr hc hn hb hlen hrun hrng => (answers_iff rfl).mpr ?_,
    fun s c hl hr hc hn hb hlen hrun hsess => (answers_iff rfl).mpr ?_,
    fun s c q hl hr hc hn hb hlen hrun hq => (answers_iff rfl).mpr ?_,
    fun s c hl hr hc hn hb hlen hrun hsess => (answers_iff rfl).mpr ?_,
    fun s c hb i hi => ?_⟩
  · subst hoff
    rw [mailbox_serves hl hr hc hb (boxGate_cert (by omega)) (by simp)]
    exact getCert_answers (hn.symm ▸ hc) hlen
  · rw [mailbox_serves hl hr hc hb (boxGate_running (by omega) (by omega) hrun (by simp)) (by simp [hrng])]
    exact kxBegin_answers (hn.symm ▸ hc) hlen hdraw (ho.trans rfl)
  · simp only [List.mem_cons, List.not_mem_nil, or_false] at hx
    rcases hx with rfl | rfl
    · exact (answers_iff rfl).mpr (mailbox_refuses hl hr hc (hn.symm ▸ hc) hb hrng (.inl rfl))
    · exact (answers_iff rfl).mpr (mailbox_refuses hl hr hc (hn.symm ▸ hc) hb hrng (.inr rfl))
  · rw [mailbox_serves hl hr hc hb (boxGate_running (by omega) (by omega) hrun (by simp)) (by simp [hrng])]
    exact kxFinish_answers (hn.symm ▸ hc) hlen
  · rw [mailbox_serves hl hr hc hb (boxGate_running (by omega) (by omega) hrun fun _ => hsess) (by simp)]
    exact mailReport_answers (hn.symm ▸ hc) hlen
  · rw [mailbox_serves hl hr hc hb (boxGate_running hlen (by omega) hrun (by simp)) (by simp)]
    exact mailPackage_answers (hn.symm ▸ hc) hq
  · rw [mailbox_serves hl hr hc hb (boxGate_running (by omega) (by omega) hrun fun _ => hsess) (by simp)]
    exact mailEnd_answers (hn.symm ▸ hc) hlen
  · simp only [List.mem_cons, List.not_mem_nil, or_false] at hi
    rcases hi with rfl | rfl | rfl | rfl | rfl | rfl <;> exact congrArg Host.Outcome.next (mailbox_busy hb _)

end Sys2Proof.Machine
end

section
/-! Register writes that read back, pending bits, event messages and the Loupe register (O51). -/

namespace Sys2Proof.Machine

/-! ## Fields of a written value -/

theorem b2n_bit (v : Word) (i : Nat) : b2n (bit v i) = fieldOf v i 1 := by
  have h : bits v.toNat i 1 = (v.toNat.testBit i).toNat := by
    rw [bits, pow_one, Nat.toNat_testBit]
  rw [fieldOf, h]
  cases hb : v.toNat.testBit i <;> simp [b2n, bit, BitVec.getLsbD, hb]

theorem keep_word (v : Word) : keep v [(0, 32)] = v := by
  refine BitVec.eq_of_toNat_eq ?_
  simpa [keep, pack, field, fieldOf, bits] using v.isLt

theorem pack_cons (f : Nat × Nat × Nat) (fs : List (Nat × Nat × Nat)) :
    pack (f :: fs) = BitVec.ofNat 32 (field f.1 f.2.1 f.2.2) + pack fs := by
  simp [pack, BitVec.ofNat_add]

/-! ## RW fields -/

/-- The registers of whose open fields the obligation speaks. -/
def openRegs : List (Nat × List (Nat × Nat)) :=
  [(0x200000, [(16, 10), (8, 5), (0, 7)]), (0x300010, [(6, 26)]), (0x300014, [(0, 32)]), (0x300018, [(0, 32)]),
    (0x300020, [(6, 26)]), (0x300024, [(0, 32)]), (0xC00008, [(0, 32)]), (0xD00000, [(10, 22)]), (0xD00004, [(0, 8)]),
    (0xD00008, [(0, 20)]), (0x1000000, [(31, 1), (16, 11)])]

/-- Nothing of the registers of `openRegs` is locked at the seal. -/
theorem writeReg_open {off : Nat} {fs : List (Nat × Nat)} (h : (off, fs) ∈ openRegs) (v : Word) (s : State) :
    writeReg off v s = writeOpen off v s := by
  have hl : writeLocked off v s = s := by
    simp only [openRegs, List.mem_cons, Prod.mk.injEq, List.not_mem_nil, or_false] at h
    rcases h with ⟨rfl, -⟩ | ⟨rfl, -⟩ | ⟨rfl, -⟩ | ⟨rfl, -⟩ | ⟨rfl, -⟩ | ⟨rfl, -⟩ | ⟨rfl, -⟩ | ⟨rfl, -⟩ | ⟨rfl, -⟩
      | ⟨rfl, -⟩ | ⟨rfl, -⟩ <;> rfl
  rw [writeReg, hl, ite_self]

theorem writeOpen_eventCtl (v : Word) (s : State) :
    writeOpen 0x1000000 v s = s.modEvents fun e => { e with ctl := keep v [(31, 1), (16, 11)] } := rfl

theorem readReg_eventCtl (s : State) : readReg s 0x1000000 = s.events.ctl := rfl

/-- Such a register reads back what its fields keep of the value. -/
theorem writeOpen_reads {off : Nat} {fs : List (Nat × Nat)} (h : (off, fs) ∈ openRegs) (v : Word) (s : State) :
    readReg (writeOpen off v s) off = keep v fs ∧ (writeOpen off v s).ctxs = s.ctxs ∧ (writeOpen off v s).store = s.store
      ∧ (writeOpen off v s).lp4x = s.lp4x ∧ (writeOpen off v s).events.log = s.events.log := by
  simp only [openRegs, List.mem_cons, Prod.mk.injEq, List.not_mem_nil, or_false] at h
  rcases h with ⟨rfl, rfl⟩ | ⟨rfl, rfl⟩ | ⟨rfl, rfl⟩ | ⟨rfl, rfl⟩ | ⟨rfl, rfl⟩ | ⟨rfl, rfl⟩ | ⟨rfl, rfl⟩ | ⟨rfl, rfl⟩
    | ⟨rfl, rfl⟩ | ⟨rfl, rfl⟩ | ⟨rfl, rfl⟩
  case inr.inr.inl => exact ⟨(keep_word v).symm, rfl, rfl, rfl, rfl⟩
  case inr.inr.inr.inl => exact ⟨(keep_word v).symm, rfl, rfl, rfl, rfl⟩
  case inr.inr.inr.inr.inr.inl => exact ⟨(keep_word v).symm, rfl, rfl, rfl, rfl⟩
  case inr.inr.inr.inr.inr.inr.inl => exact ⟨(keep_word v).symm, rfl, rfl, rfl, rfl⟩
  case inr.inr.inr.inr.inr.inr.inr.inr.inr.inr =>
    rw [writeOpen_eventCtl]
    exact ⟨readReg_eventCtl _, by simp, by simp, by simp, by simp⟩
  all_goals exact ⟨rfl, rfl, rfl, rfl, rfl⟩

/-! ## RWL fields -/

/-- The registers of whose locked fields the obligation speaks. -/
def lockedRegs : List (Nat × List (Nat × Nat)) :=
  [(0x100000, [(31, 1), (24, 4), (20, 3), (8, 2), (0, 2)]), (0x300000, [(31, 1)]), (0x500000, [(7, 1), (0, 4)]),
    (0x900000, [(0, 8)]), (0xA00000, [(31, 1), (20, 4), (16, 4), (0, 1)]),
    (0xC00000, [(31, 1), (24, 3), (18, 3), (12, 6), (0, 6)])]

/-- These registers have no other field. -/
theorem writeReg_locked {off : Nat} {fs : List (Nat × Nat)} (h : (off, fs) ∈ lockedRegs) (v : Word) (s : State) :
    writeReg off v s = if s.sealed then s else writeLocked off v s := by
  simp only [lockedRegs, List.mem_cons, Prod.mk.injEq, List.not_mem_nil, or_false] at h
  rcases h with ⟨rfl, -⟩ | ⟨rfl, -⟩ | ⟨rfl, -⟩ | ⟨rfl, -⟩ | ⟨rfl, -⟩ | ⟨rfl, -⟩ <;> rfl

theorem writeLocked_reads {off : Nat} {fs : List (Nat × Nat)} (h : (off, fs) ∈ lockedRegs) (v : Word) (s : State) :
    readReg (writeLocked off v s) off = keep v fs ∧ (writeLocked off v s).ctxs = s.ctxs
      ∧ (writeLocked off v s).store = s.store ∧ (writeLocked off v s).events = s.events := by
  simp only [lockedRegs, List.mem_cons, Prod.mk.injEq, List.not_mem_nil, or_false] at h
  rcases h with ⟨rfl, rfl⟩ | ⟨rfl, rfl⟩ | ⟨rfl, rfl⟩ | ⟨rfl, rfl⟩ | ⟨rfl, rfl⟩ | ⟨rfl, rfl⟩
  · refine ⟨?_, rfl, rfl, rfl⟩
    show pack [(31, 1, b2n (bit v 31)), _, _, _, _] = _
    rw [b2n_bit]; rfl
  · refine ⟨?_, rfl, rfl, rfl⟩
    show pack [(31, 1, b2n (bit v 31))] = _
    rw [b2n_bit]; rfl
  · refine ⟨?_, rfl, rfl, rfl⟩
    show pack [(7, 1, b2n (bit v 7)), _] = _
    rw [b2n_bit]; rfl
  · exact ⟨rfl, rfl, rfl, rfl⟩
  · refine ⟨?_, rfl, rfl, rfl⟩
    show pack [(31, 1, b2n (bit v 31)), _, _, (0, 1, b2n (bit v 0))] = _
    rw [b2n_bit, b2n_bit]; rfl
  · refine ⟨?_, rfl, rfl, rfl⟩
    show pack [(31, 1, b2n (bit v 31)), _, _, _, _] = _
    rw [b2n_bit]; rfl

/-! ## The widths of a host write -/

theorem hostWrite_word {s : State} {off : Nat} (hl : s.ports.linkUp = true) (hr : s.startup.ready = true)
    (ha : off % 4 = 0) (v : DWord) : hostWrite off 4 v s = writeReg off (v.setWidth 32) s := by
  simp [hostWrite, aligned, hl, hr, ha]

theorem hostWrite_ignored {off w : Nat} (h : (w ≠ 4 ∧ w ≠ 8) ∨ off % 4 ≠ 0) (v : DWord) (s : State) :
    hostWrite off w v s = s := by
  unfold hostWrite
  rcases h with ⟨h4, h8⟩ | h
  · simp [h4, h8]
  · rw [if_pos (.inr (by simp [aligned, h]))]

theorem openRegs_aligned : ∀ x ∈ openRegs, x.1 % 4 = 0 := by decide
theorem lockedRegs_aligned : ∀ x ∈ lockedRegs, x.1 % 4 = 0 := by decide

/-! ## Pending bits and messages -/

/-- The pending bits of records of the present bead. -/
theorem pendClear_bits {s : State} {g : Nat} (hg : g < 10) (v : Word) {k : Nat} (hk : k < 32) :
    bit ((assoc g (pendClear g v s).events.pend).getD 0) k =
      (bit ((assoc g s.events.pend).getD 0) k &&
        (!bit v k || (s.startup.counting && bit ((assoc g s.events.pendNow).getD 0) k))) := by
  unfold pendClear
  rw [if_pos hg]
  show bit ((assoc g (assocSet g _ s.events.pend)).getD 0) k = _
  rw [assoc_assocSet_same]
  have hn : ~~~(v &&& ~~~(0 : Word)) = ~~~v :=
    congrArg (~~~·) (BitVec.and_allOnes (x := v))
  cases s.startup.counting
  · rw [if_neg Bool.false_ne_true, hn]
    simp [bit, hk]
  · simp [bit, hk]

theorem pendClear_others {s : State} {g h : Nat} (hg : g < 10) (v : Word) (hh : h ≠ g) :
    assoc h (pendClear g v s).events.pend = assoc h s.events.pend := by
  unfold pendClear
  rw [if_pos hg]
  exact assoc_assocSet_other _ _ _ _ hh

theorem pendClear_keeps (g : Nat) (v : Word) (s : State) :
    (pendClear g v s).events.log = s.events.log ∧ (pendClear g v s).ctxs = s.ctxs := by
  unfold pendClear
  dsimp only
  split <;> exact ⟨rfl, rfl⟩

theorem eventMsi_sends {s : State} (hl : s.ports.linkUp = true) (hm : s.ports.msixEn = true)
    (hc : bit s.events.ctl 31 = true) (hn : s.events.unmaskedNew = true)
    (hb : ∀ b, s.events.lastMsi = some b → b + 256 ≤ s.bead) :
    eventMsi s = (s.emit (.msix (fieldOf s.events.ctl 16 11))).modEvents
      fun e => { e with lastMsi := some s.bead, unmaskedNew := false } := by
  unfold eventMsi
  refine if_pos ?_
  cases h : s.events.lastMsi with
  | none => simp [hl, hm, hc, hn]
  | some b => simp [hl, hm, hc, hn, hb b h]

theorem eventMsi_spaced {s : State} {b : Nat} (h : s.events.lastMsi = some b) (hb : s.bead < b + 256) : eventMsi s = s := by
  unfold eventMsi
  refine if_neg ?_
  simp [h, hb]

/-! ## The Loupe -/

theorem readReg_loupe (s : State) : readReg s 0xF00000 =
    pack [(31, 1, b2n s.ports.loupeEn), (30, 1, b2n (s.ports.loupeEn && s.locket.loupeReady)), (16, 3, s.ports.loupeDiv),
      (0, 12, s.ports.loupeGroup)] := rfl

/-- The enable bit, the two fields, and the ready bit where the port is ready. -/
theorem loupe_pack (v : Word) (ready : Bool) :
    pack [(31, 1, b2n (bit v 31)), (30, 1, b2n (bit v 31 && ready)), (16, 3, fieldOf v 16 3), (0, 12, fieldOf v 0 12)] =
      keep v [(31, 1), (16, 3), (0, 12)] + (if bit v 31 && ready then 0x40000000 else 0) := by
  have h : ∀ b : Bool, BitVec.ofNat 32 (field 30 1 (b2n b)) = if b then 0x40000000 else 0 := by decide
  show _ = pack [(31, 1, fieldOf v 31 1), (16, 3, fieldOf v 16 3), (0, 12, fieldOf v 0 12)] + _
  rw [pack_cons, pack_cons (30, 1, _), h, b2n_bit, pack_cons (31, 1, _)]
  ac_rfl

theorem writeLoupe_enabled {s : State} (hd : s.locket.debugOn = true) (v : Word) :
    writeLoupe v s = (s.modPorts fun p =>
      { p with loupeEn := bit v 31, loupeDiv := fieldOf v 16 3, loupeGroup := fieldOf v 0 12 }).emit
        (.loupe (fieldOf v 0 12) (bit v 31 && s.locket.loupeReady)) := if_pos hd

theorem when_writeLoupe_locked {s : State} (hd : s.locket.debugOn = false) (p : Bool) (v : Word) :
    when_ p (writeLoupe v) s = s := by
  have h : writeLoupe v s = s := if_neg (by simp [hd])
  rw [when_, h, ite_self]

/-- Settles O51: a host write of an aligned word is `writeReg`, which reads back field by field; the pending bits, the messages
and the Loupe register have their own lemmas. -/
theorem registersAct : Obligations.RegistersAct := by
  unfold Obligations.RegistersAct
  refine ⟨fun s v off fs hl hr h => (answers_iff rfl).mpr ?_, fun s v off fs hl hr h => (answers_iff rfl).mpr ?_,
    fun s v off w h => (answers_iff rfl).mpr (hostWrite_ignored h v s), fun s g v hl hg => (answers_iff rfl).mpr ?_,
    fun s hl hm hc hn hb => (answers_iff rfl).mpr ?_,
    fun s b h hb => (answers_iff rfl).mpr (eventMsi_spaced h hb), fun s v hl hr hd => (answers_iff rfl).mpr ?_,
    fun s v hd => (answers_iff rfl).mpr (when_writeLoupe_locked hd _ v)⟩
  · rw [hostWrite_word hl hr (openRegs_aligned _ h), writeReg_open h]
    exact writeOpen_reads h _ s
  · rw [hostWrite_word hl hr (lockedRegs_aligned _ h), writeReg_locked h]
    exact ⟨fun hs => if_pos hs, fun hs => by rw [hs]; exact writeLocked_reads h _ s⟩
  · rw [hl, when_true]
    obtain ⟨hlog, hctx⟩ := pendClear_keeps g v s
    exact ⟨fun k hk => pendClear_bits hg v hk, fun h hh => pendClear_others hg v hh, hlog, hctx⟩
  · rw [eventMsi_sends hl hm hc hn hb]
    exact ⟨rfl, rfl, rfl, rfl, rfl⟩
  · rw [hl, hr, Bool.and_self, when_true, writeLoupe_enabled hd]
    exact ⟨(readReg_loupe _).trans (loupe_pack v _), rfl, rfl⟩

end Sys2Proof.Machine
end

section
/-! Bead and rotation boundaries and the counters of time (O53). -/

namespace Sys2Proof.Machine

/-! ## The rate of the rotation that begins -/

theorem copyStep_rate (s : State) : (copyStep s).rate = s.rate := by
  unfold copyStep State.fresh
  exact (apply_ite State.rate _ _ _).trans (ite_self _)

theorem endSteps_rate (s : State) : (endSteps s).rate = s.rate := rfl

/-- Neither the engine steps that end nor the copies of spares change the rate. -/
theorem State.rateNext_eq (s : State) : s.rateNext = (endBead (rotationBoundary s)).rate := by
  unfold State.rateNext
  rw [copyStep_rate, endSteps_rate]

/-! ## BEAD_BOUNDARY -/

/-- The counters of time of a state whose spine is known. -/
theorem State.spine_time {t : State} {x : Spine} (h : t.spine = x) :
    t.bead = x.bead ∧ t.beadInRot = x.beadInRot ∧ t.period = x.period ∧ t.rotLen = x.rotLen ∧ t.rotCount = x.rotCount := by
  subst h
  exact ⟨rfl, rfl, rfl, rfl, rfl⟩

theorem Spine.next_bead (x : Spine) (rate : Nat) : (x.next rate).bead = x.bead + 1 := by
  unfold Spine.next
  split <;> rfl

theorem Spine.next_within {x : Spine} (h : x.beadInRot + 1 < x.rotLen) (rate : Nat) :
    (x.next rate).beadInRot = x.beadInRot + 1 ∧ (x.next rate).period = x.period ∧ (x.next rate).rotLen = x.rotLen
      ∧ (x.next rate).rotCount = x.rotCount := by
  rw [Spine.next, if_pos h]
  exact ⟨rfl, rfl, rfl, rfl⟩

theorem Spine.next_turns {x : Spine} (h : x.rotLen ≤ x.beadInRot + 1) (rate : Nat) :
    (x.next rate).beadInRot = 0 ∧ (x.next rate).period = x.period + 1 ∧ (x.next rate).rotCount = x.rotCount + 1
      ∧ (x.next rate).rotLen = lrot rate (x.period + 1).toNat := by
  rw [Spine.next, if_neg (Nat.not_lt.mpr h)]
  exact ⟨rfl, rfl, rfl, rfl⟩

/-! ## ROTATION_BOUNDARY -/

theorem rotationBoundary_once (s : State) (hc : s.startup.counting = true) (hb : s.beadInRot + 1 = s.rotLen)
    (hd : s.rotDone = false) : rotationBoundary s = boundaryWork s := by
  unfold rotationBoundary atBoundary
  simp [hc, hb, hd]

theorem rotationBoundary_idle (s : State)
    (h : s.startup.counting = false ∨ s.beadInRot + 1 ≠ s.rotLen ∨ s.rotDone = true) : rotationBoundary s = s := by
  unfold rotationBoundary atBoundary
  rcases h with h | h | h <;> simp [h]

/-- Settles O53: `boundary_spine` says what the end of a bead does to every counter, and `rotationBoundary_spine` that the
boundary's work moves none. -/
theorem boundariesMoveTime : Obligations.BoundariesMoveTime := by
  unfold Obligations.BoundariesMoveTime
  refine ⟨fun s hc => (answers_iff rfl).mpr ?_, fun s hc hb hd => (answers_iff rfl).mpr ?_,
    fun s h => (answers_iff rfl).mpr (rotationBoundary_idle s h), fun s hc => (answers_iff rfl).mpr (by rw [hc, when_false])⟩
  · obtain ⟨hn, hr, hp, hl, hk⟩ := State.spine_time (boundary_spine s)
    rw [hc, when_true, hn, hr, hp, hl, hk, ← State.rateNext_eq]
    exact ⟨Spine.next_bead _ _, fun h => Spine.next_within h _, fun h => Spine.next_turns h _⟩
  · obtain ⟨hn, hr, hp, hl, -⟩ := State.spine_time (rotationBoundary_spine s)
    refine ⟨?_, hn, hr, hp, hl⟩
    rw [rotationBoundary_once s hc hb hd]
    rfl

end Sys2Proof.Machine
end

section
/-! The registers after reset (tables of chapters 9, 11, 12, 15 and 16). -/

namespace Sys2Proof.Machine

/-- Settles O54: the reset state is closed, and each register is read from it. -/
theorem resetValues : Obligations.ResetValues := by
  refine ⟨?_, ?_, rfl⟩
  · decide +kernel
  · decide +kernel

end Sys2Proof.Machine
end
